-- ==== Sys2Proof/Word.lean ====
section
/-!
DEFINITION. The word types of the block.
-/
namespace Sys2Proof

/-- A 64-byte line; byte k sits in bits [8k+7:8k]. -/
abbrev Line := BitVec 512

/-- A stored line: 64 data bytes and 8 check symbols (10 R258). -/
abbrev Codeword := BitVec 576

/-- A CTP slot of 16 bytes (03 R55). -/
abbrev Slot := BitVec 128

/-- A CTP flit of 256 bytes (03 R55). -/
abbrev Flit := BitVec 2048

end Sys2Proof
end

