-- ==== Sys2Proof/Syntax.lean ====
section
/-!
DEFINITION. The commands of the block, one constructor per row of the opcode table, with the records their operands use.
-/
namespace Sys2Proof

/-- Who sends a dictionary access or a management message (12 R324). -/
inductive Sender where
  /-- Owner of function `fn`, through port `port`. -/
  | inband (port fn : Nat)
  /-- A sideband endpoint. -/
  | sideband (eid : Nat)
  /-- An umpire core, identity 0x30 or 0x31. -/
  | umpire (id : Nat)
  deriving DecidableEq, Repr

/-- A scalar dictionary write to an entry with a row of its own: sender, its tag, and VALUE (03 R77). -/
structure Access where
  src : Sender
  mtag : Nat
  value : Nat
  deriving DecidableEq, Repr

/-- A DICT_RD or DICT_WR message (Table LNK-11); `data` is the bytes of its data slots. -/
structure DictMsg where
  src : Sender
  mtag : Nat
  index : Nat
  sub : Nat
  offset : Nat
  nslots : Nat
  value : Nat
  data : List Nat
  deriving DecidableEq, Repr

/-- The header fields every CTP request carries (Table LNK-4); `line` is ADDR, pool address bits [51:6]. -/
structure ReqHdr where
  port : Nat
  fn : Nat
  label : Nat
  agent : Nat
  tag : Nat
  line : Nat
  deriving DecidableEq, Repr

/-- OPSPEC and operand slot of an ATOM (Table LNK-6). -/
structure AtomSpec where
  aop : Nat
  size8 : Bool
  offset : Nat
  operand : BitVec 64
  compare : BitVec 64
  deriving DecidableEq, Repr

/-- A snoop response header (Table LNK-10) with its port. -/
structure SnoopRsp where
  port : Nat
  agent : Nat
  snoopId : Nat
  deriving DecidableEq, Repr

/-- What the crossing parity check of the transfer found (01 R17). -/
inductive Parity where
  | good
  | badHeader
  | badData
  deriving DecidableEq, Repr

/-- What the check code of a home or filter memory word found (06 R166). -/
inductive Ecc where
  | ok
  | corrected
  | uncorrectable
  deriving DecidableEq, Repr

/-- The fuse macro's words as loaded in step 1 (02 R46, 16 R420, R425). -/
structure FuseImage where
  /-- The variant word holds the block's variant. -/
  variantOk : Bool
  testLocked : Bool
  pen : Nat
  provisionalId : Nat
  dcr : Nat
  /-- Repair words that do not read zero: address and word. -/
  repair : List (Nat × Nat)
  deriving DecidableEq, Repr

/-- What the MRAM read of step 3A found (12 R330, R354). -/
structure MramCheck where
  /-- Keys of written entries whose copies all fail their CRC. -/
  invalid : List Nat
  /-- Keys of written entries whose newer copy alone fails. -/
  older : List Nat
  /-- Corrected and uncorrectable 64-byte words. -/
  corrected : Nat
  uncorrectable : Nat
  /-- The region record, bin table and training results have a valid copy. -/
  regionsOk : Bool
  /-- Of the region record the older copy alone is valid. -/
  regionsOlder : Bool
  binsOk : Bool
  trainingOk : Bool
  deriving DecidableEq, Repr

/-- An image slot as verification reads it: the checks' verdict and the header fields (13 R361, R363). -/
structure SlotInfo where
  ok : Bool
  version : Nat
  svn : Nat
  cap : Nat
  minor : Nat
  deriving DecidableEq, Repr

/-- Firmware verification and identity check of step 4 (16 R414, 12 R355). -/
structure FirmwareCheck where
  slotA : SlotInfo
  slotB : SlotInfo
  identityOk : Bool
  deriving DecidableEq, Repr

/-- What UPG_VERIFY's cryptographic checks found (13 R363). -/
structure ImageCheck where
  digestOk : Bool
  signatureOk : Bool
  deriving DecidableEq, Repr

/-- A value per (pseudo-channel, lane or SID) found by training. -/
structure LaneValue where
  pc : Nat
  lane : Nat
  sid : Nat
  value : Nat
  deriving DecidableEq, Repr

/-- The outcome of initial training (08 R211, R212, R219 to R222; 16 R416). -/
structure TrainReport where
  /-- Revision (MR0) and MR1 of each slice that differ from the expected ones: (slice, MR0, MR1). -/
  badDies : List (Nat × Nat × Nat)
  /-- Training ran in full. -/
  full : Bool
  /-- Temperature (1/16 C) of every slice read, for fast training and as first readings. -/
  temps : List (Nat × Int)
  /-- Physical data lanes that failed: (pseudo-channel, lane). -/
  laneFails : List (Nat × Nat)
  /-- Command lanes that failed: (channel, row bus, lane). -/
  cmdFails : List (Nat × Bool × Nat)
  /-- Pseudo-channels with a WCK pair that failed, channels whose CK failed (08 R228). -/
  wckFails : List Nat
  ckFails : List Nat
  rdDelay : List LaneValue
  wrDelay : List LaneValue
  rdVref : List LaneValue
  wrVref : List LaneValue
  /-- Refresh counts read on a resume: (slice, SR_COUNT). -/
  counts : List (Nat × Nat)
  micros : Nat
  deriving DecidableEq, Repr

/-- A failing line of the march: its place and its first failing symbol (16 R417, R419). -/
structure MarchFail where
  channel : Nat
  pc : Nat
  sid : Nat
  bank : Nat
  row : Nat
  col : Nat
  half : Nat
  symbol : Nat
  deriving DecidableEq, Repr

/-- What the wake checks read: (slice, SR_COUNT, elapsed ns) and the error mask of each sapling line read, keyed by the
bank index it stands for (11 R307, R308). -/
structure WakeReport where
  counts : List (Nat × Nat)
  sapling : List (Nat × BitVec 576)
  deriving DecidableEq, Repr

/-- The adapter's report when pl_protocol_vld rises (02 R30). -/
structure FdiConfig where
  protocol : Nat
  flitfmt : Nat
  streaming : Bool
  raw : Bool
  gts : Nat
  lanes : Nat
  deriving DecidableEq, Repr

/-- One pseudo-channel's figures over a model window of 16,000 nCK (05 R128): data-bus nCK with bursts, nCK with a request
queued and no burst, the refresh loss in 1/65,536, and the nCK outside any hold, self-refresh and failure. -/
structure PcWindow where
  pc : Nat
  d : Nat
  w : Nat
  r : Nat
  a : Nat
  deriving DecidableEq, Repr

/-- Error-sampler bits of a physical lane over a burst: bits counted, and disagreements at the reference above and below the
present one (08 R215). -/
structure EyeCount where
  lane : Nat
  bits : Nat
  above : Nat
  below : Nat
  deriving DecidableEq, Repr

/-- What the PHY saw with a read burst (08 R213, R215): an early (false) or late (true) sample of each physical lane's
preamble, for a burst that comes with one, and the error samplers' counts. -/
structure BurstReport where
  phase : List (Nat × Bool)
  eyes : List EyeCount
  deriving DecidableEq, Repr

/-- The entries that fail on a physical lane in a retrain's comparison (08 R218): those written at −δ and +δ, and those written with
the die's write Vref raised and lowered. -/
structure LaneProbe where
  lane : Nat
  minus : Bool
  plus : Bool
  high : Bool
  low : Bool
  deriving DecidableEq, Repr

/-- A retrain's comparison (08 R218, R222): the lanes on which an entry fails, and the verdicts of the spare verifications in the
order of the marked lanes. -/
structure RetrainReport where
  lanes : List LaneProbe
  verified : List Bool
  deriving DecidableEq, Repr

/-- Slices (SID) whose received copy of a command word differs from the word sent, with the bits that differ: [19:0] of the word,
[39:20] of an ACT's second word (08 R204). -/
abbrev Flips : Type := List (Nat × Nat)

/-- A piece of state with its own store to MRAM (12 R330, R426). -/
inductive PersistItem where
  /-- A persistent dictionary entry by its key. -/
  | entry (key : Nat)
  /-- The class log with its next index, as one unit. -/
  | classLog
  /-- A pinned leaf's descriptor (05 R107). -/
  | pinnedLeaf (leaf : Nat)
  deriving DecidableEq, Repr

/-- How an inbound I3C transfer ended (12 R339): good, good with a stored word corrected (R343), or bad. -/
inductive FrameFault where
  | none
  | corrected
  | pec
  | partialByte
  | memory
  deriving DecidableEq, Repr

/-- How the stored words of a frame that leaves were read (12 R343): whole, whole with a word corrected, or cut at an uncorrectable
word, that many words of the frame having left. -/
inductive FrameRead where
  | whole
  | corrected
  | cut (words : Nat)
  deriving DecidableEq, Repr

/-- How the repair of a failing row went (16 R419): it passed the march after its hard repair, or the march after SOFT_REPAIR or the
one after HARD_REPAIR failed. -/
inductive RepairOutcome where
  | passed
  | trialFailed
  | marchFailed
  deriving DecidableEq, Repr

/-- The commands the block takes, one constructor per row of the opcode table, in the table's order. -/
inductive Instr where
  /-- POR_ASSERT (R36): ply_por_n falls and resets the whole block, including the always-on island, with time quality set to unknown. -/
  | porAssert
  /-- BLOCK_RESET_ASSERT (R38): ply_rst_n falls and resets every island except the always-on island; a reset during start-up restarts start-up, and a reset in S2, S1 or after E4 keeps ply_cdi_rst_n high. -/
  | blockResetAssert
  /-- RESET_RELEASE (R37): The later of ply_rst_n rising and both ply_pwr_ack bits rising starts start-up step 1 and the start-time count. -/
  | resetRelease
  /-- FUSE_LOAD_DONE (R37): PLL lock, island release and fuse load complete, and ply_rst_cmpl rises. -/
  | fuseLoadDone (f : FuseImage)
  /-- RST_CMPL_ACK_RISE (R37): The surroundings acknowledge reset complete; ply_cdi_rst_n rises on paths 0 to 2, and steps 3A and 3B start. -/
  | rstCmplAckRise
  /-- RST_CMPL_ACK_FALL (R37): The surroundings drop the reset-complete acknowledgement after a later reset, which lets ply_rst_cmpl rise again. -/
  | rstCmplAckFall
  /-- MRAM_LOAD_DONE (R412): Step 3A ends: MRAM partitions 2 to 6 are checked, the region table becomes active and the repair tables enter the engines. -/
  | mramLoadDone (m : MramCheck)
  /-- MBIST_DONE (R415): The memory self-test of the block's SRAM ends with repairs or failures, which may stop start-up. -/
  | mbistDone (failed repaired : Nat) (channels ports : List Nat)
  /-- FIRMWARE_VERIFY_DONE (R414): Firmware verification and the identity check end; the umpires start from a valid image or stay halted. -/
  | firmwareVerifyDone (v : FirmwareCheck)
  /-- TRAINING_DONE (R211): Training ends (full, fast or resume from self-refresh); the bin table is loaded and catch-up passes start. -/
  | trainingDone (r : TrainReport)
  /-- MARCH_DONE (R417): The March C- array test over all banks ends and failing rows are listed. -/
  | marchDone (fails : List MarchFail) (micros : Nat)
  /-- HARD_REPAIR_DONE (R419): tHPR after HARD_REPAIR elapses; the row is marched again and fuse programming follows. -/
  | hardRepairDone (outcome : RepairOutcome)
  /-- FUSE_PROGRAM_DONE (R46): Programming of a repair fuse word ends with the valid bit last; the read-back decides fused or spent, and the graft is released. -/
  | fuseProgramDone (readBack : Nat)
  /-- FILL_DONE (R421): The fill of every host-addressable line ends, and the block becomes ready for service. -/
  | fillDone (sapling : List (Nat × BitVec 576))
  /-- PWR_ACK (R39): A supply acknowledgement changes, which lets the sequencer request VDDP, leave reset or continue an S2 exit. -/
  | pwrAck (supply : Nat) (level : Bool)
  /-- PWR_ACK_TIMEOUT (R39): A supply acknowledgement exceeds BLK_PWR_ACK_LIMIT; the event is counted and raised, and the block keeps waiting. -/
  | pwrAckTimeout (supply : Nat)
  /-- REFCLK_LOSS (R35): No ply_refclk_100 edge is seen for 10 periods of 25 MHz; the block records the loss, stops the beat and holds every other island in reset. -/
  | refclkLoss
  /-- REFCLK_RETURN (R35): The reference has run again for 100 µs, and the block starts warm with cause reference-clock loss. -/
  | refclkReturn
  /-- HOLDOVER_CLOCK_SWITCH (R313): No 25 MHz edge comes within one crystal period, and holdover and the always-on timing move to ply_xtal_32k. -/
  | holdoverClockSwitch
  /-- PLL_LOCK_LOSS (R377): A block PLL loses lock and EV.00.04 is raised. -/
  | pllLockLoss (pll : Nat)
  /-- AVS_MARGIN_LOW (R41): The ring-oscillator margin falls below the lower threshold, and the block requests a VDDL code up to 10 higher. -/
  | avsMarginLow (step : Nat)
  /-- AVS_MARGIN_HIGH_HOLD (R41): The margin has stayed above the upper threshold for 1 ms, and the block requests a VDDL code up to 10 lower. -/
  | avsMarginHighHold (step : Nat)
  /-- AVS_ACK (R41): The regulator raises ply_avs_ack, and the block drops ply_avs_req. -/
  | avsAck (late : Bool)
  /-- AVS_ACK_DROP (R41): The regulator drops ply_avs_ack and completes the four-phase handshake. -/
  | avsAckDrop
  /-- AVS_ACK_TIMEOUT (R42): An adaptive-supply request goes unacknowledged for 20 µs; the block counts it, clears BLK_AVS_ENABLE and steps back to code 200. -/
  | avsAckTimeout
  /-- DIE_CATTRIP_RISE (R252): A ply_die_cattrip bit rises; the alarm falls, EV.07.06 is raised and a thermal trip begins, or a wake is latched in S2. -/
  | dieCattripRise (die edges : Nat)
  /-- EXT_WAKE (R45): ply_ext_wake rises, latching a wake in S2 or abandoning an entry before E4. -/
  | extWake (edges : Nat)
  /-- TSYNC_EDGE (R311): A ply_tsync_beat edge is captured; with a valid named value the time base is disciplined, stepped or slewed, otherwise the edge counts as missed. -/
  | tsyncEdge (eighths edges c25 cx : Nat)
  /-- TIME_ERROR_LIMIT (R312): SLP_TIME_ERROR in holdover exceeds SLP_ERR_LIMIT, and the quality becomes unknown. -/
  | timeErrorLimit
  /-- DYNAMIC_ADDRESS_ASSIGN (R49): ENTDAA assigns the I3C dynamic address to the block. -/
  | dynamicAddressAssign (addr : Nat)
  /-- PL_PROTOCOL_VLD (R30): The adapter reports the negotiated protocol; the block accepts the port or asserts lp_linkerror and raises a port-configuration event. -/
  | plProtocolVld (port : Nat) (cfg : FdiConfig)
  /-- FDI_ACTIVE (R83): A port reaches Active from Reset, and the block sends NEG_OFFER within 1 µs. -/
  | fdiActive (port : Nat)
  /-- RETRAIN_ENTRY (R31): The adapter moves the port to Retrain; the block completes the stall, stops lp_valid, keeps all state and starts the retrain timer. -/
  | retrainEntry (port : Nat)
  /-- RETRAIN_EXIT (R63): The port returns from Retrain to Active; the block sends an idle flit and replays from the peer's ACK_SEQ. -/
  | retrainExit (port : Nat)
  /-- RETRAIN_LIMIT_EXPIRY (R32): A port stays in Retrain longer than BLK_FDI_RETRAIN_LIMIT and is taken to LinkReset. -/
  | retrainLimitExpiry (port : Nat)
  /-- LINK_RESET_DONE (R31): The adapter completes LinkReset to Reset, and the port waits for the conditions of Reset to Active. -/
  | linkResetDone (port : Nat)
  /-- ADAPTER_LINKERROR (R31): pl_trainerror, or a transition that Table BND-3 does not list, takes the port to LinkError and down. -/
  | adapterLinkerror (port : Nat)
  /-- L1_REACHED (R299): A port reaches L1 during an S2 entry and its link island powers off or keeps its ingress buffer in retention. -/
  | l1Reached (port : Nat)
  /-- PL_STALLREQ (R32): The adapter requests a stall; the block completes the flit in progress and asserts lp_stallack within 2 cycles. -/
  | plStallreq (port : Nat)
  /-- PL_CLK_REQ (R32): The adapter requests clock gating, and the block asserts lp_clk_ack within 4 cycles. -/
  | plClkReq (port : Nat)
  /-- PL_RX_ACTIVE_REQ (R32): The adapter requests receiver activation; the block answers within 8 cycles, or latches a wake in S2. -/
  | plRxActiveReq (port : Nat)
  /-- PL_ERROR (R33): A pl_error edge is counted and raises EV.01.06. -/
  | plError (port : Nat)
  /-- PL_NFERROR (R33): A pl_nferror edge is counted and raises EV.01.07. -/
  | plNferror (port : Nat)
  /-- PL_CERROR (R33): A pl_cerror edge is counted only. -/
  | plCerror (port : Nat)
  /-- PL_PHYINRECENTER (R33): A pl_phyinrecenter edge is counted only. -/
  | plPhyinrecenter (port : Nat)
  /-- LNK_PORT_ENABLE (R31): A write of port enable bits disables a port, or re-enables it toward Active. -/
  | lnkPortEnable (a : Access)
  /-- FLIT_RECEIVE (R60): A received flit is CRC-checked and sequence-checked; it is accepted, or discarded with a NAK, and its acknowledgement and credits are adopted. -/
  | flitReceive (port : Nat) (flit : BitVec 2048)
  /-- NAK_RECEIVE (R61): A NAK makes the block resend every buffered flit after its ACK_SEQ, or assert LinkError at the replay limit. -/
  | nakReceive (port ackSeq : Nat)
  /-- NAK_REPEAT (R60): 256 lclk cycles pass while the receiver still waits for the expected SEQ, and the NAK is repeated. -/
  | nakRepeat (port : Nat)
  /-- IDLE_FLIT_SEND (R58): An acknowledgement or credit total has changed with no normal flit ready, and an idle flit is sent within 16 cycles. -/
  | idleFlitSend (port : Nat)
  /-- NEG_OFFER (R83): The host's NEG_OFFER arrives; the block selects the highest common revision and sends NEG_SELECT, or fails the link. -/
  | negOffer (port revs : Nat) (credits : List Nat)
  /-- NEG_TIMEOUT (R83): No host offer arrives within LNK_NEG_TIMEOUT, and the block asserts lp_linkerror. -/
  | negTimeout (port : Nat)
  /-- AGENT_JOIN (R81): An agent announces itself; the block checks ID, binding, cell and revision limit, registers it and answers AGENT_JOIN_RSP. -/
  | agentJoin (port agent fn cell : Nat) (caching : Bool)
  /-- AGENT_LEAVE (R82): An agent asks to leave; it is refused as busy or not joined, or a filter walk starts. -/
  | agentLeave (port agent : Nat)
  /-- AGENT_LEAVE_WALK_DONE (R165): The leave walk has passed every set since the leave arrived, and AGENT_LEAVE_RSP is sent. -/
  | agentLeaveWalkDone (agent : Nat) (ecc : Ecc) (line : Nat)
  /-- RD (R148): A read request passes the link checks, label lookup and policer, and joins its leaf queue or is refused. -/
  | rd (h : ReqHdr)
  /-- RD_SHARED (R148): A shared read of a caching agent is checked and queued at its leaf. -/
  | rdShared (h : ReqHdr)
  /-- RD_OWN (R148): An ownership read of a caching agent is checked and queued at its leaf. -/
  | rdOwn (h : ReqHdr)
  /-- UPGRADE (R148): An upgrade request is checked and queued at its leaf. -/
  | upgrade (h : ReqHdr)
  /-- WR_FULL (R148): A full-line write is checked and queued; its data waits in the ingress buffer. -/
  | wrFull (h : ReqHdr) (data : Line)
  /-- WR_PART (R69): A partial write with a byte mask is checked and queued; an all-ones mask runs as WR_FULL and an all-zero mask completes at once. -/
  | wrPart (h : ReqHdr) (mask : BitVec 64) (data : Line)
  /-- WB_DIRTY (R155): A dirty writeback is checked and queued, or paired with a snoop already waiting. -/
  | wbDirty (h : ReqHdr) (data : Line)
  /-- WR_HINT (R158): A write hint naming a target agent is checked and queued. -/
  | wrHint (h : ReqHdr) (target : Nat) (data : Line)
  /-- ATOM (R70): An atomic request is checked; a reserved AOP or misaligned offset draws UNSUPPORTED, otherwise it is queued. -/
  | atom (h : ReqHdr) (x : AtomSpec)
  /-- UNSUPPORTED_OPCODE (R71): A request of a reserved opcode draws ERR with code UNSUPPORTED. -/
  | unsupportedOpcode (h : ReqHdr) (opcode : Nat)
  /-- CMP_ACK (R76): A CMP_ACK of up to seven tags closes their transactions and may start possession windows; void tags are discarded. -/
  | cmpAck (port count : Nat) (tags : List Nat)
  /-- RSP_NOT_PRESENT (R143): A snoop answer of not present counts as answered and prunes the agent from a precise entry. -/
  | rspNotPresent (r : SnoopRsp)
  /-- RSP_INV_CLEAN (R149): A snoop answer of invalidated clean is applied to the waiting transaction. -/
  | rspInvClean (r : SnoopRsp)
  /-- RSP_SHARED (R149): A snoop answer of shared keeps the holder as a shared holder. -/
  | rspShared (r : SnoopRsp)
  /-- RSP_DIRTY (R150): A snoop answer with dirty data supplies the line and writes it to memory through a home-write slot. -/
  | rspDirty (r : SnoopRsp) (data : Line)
  /-- RSP_WB_IN_FLIGHT (R154): A snoop answer of writeback in flight pairs the snoop with the agent's WB_DIRTY. -/
  | rspWbInFlight (r : SnoopRsp)
  /-- HINT_ACCEPT (R158): The hint target accepts the line and becomes the exclusive holder, and the line is released. -/
  | hintAccept (r : SnoopRsp)
  /-- HINT_DECLINE (R158): The hint target declines, and the filter entry is removed. -/
  | hintDecline (r : SnoopRsp)
  /-- DICT_RD (R326): A dictionary read, in-band or sideband, passes the access checks and returns the entry's value or a BLOB part. -/
  | dictRd (d : DictMsg)
  /-- DICT_WR (R326): A dictionary write to an entry that has no row of its own is checked and applied, or refused with a status. -/
  | dictWr (d : DictMsg)
  /-- BLOB_STAGING_TIMEOUT (R328): A BLOB staging receives no part for 1 ms and is discarded. -/
  | blobStagingTimeout (master : Nat)
  /-- PWR_CMD_A0 (R291): A power command for A0, whole block or groups, starts or joins an exit, or abandons an entry. -/
  | pwrCmdA0 (src : Sender) (mtag groups : Nat)
  /-- PWR_CMD_S1 (R292): A power command for S1 of the whole block is checked and starts an entry at E0, or is refused. -/
  | pwrCmdS1 (src : Sender) (mtag groups : Nat)
  /-- PWR_CMD_S2 (R292): A power command for S2 is checked and starts an entry, or continues from S1 at descent step 2. -/
  | pwrCmdS2 (src : Sender) (mtag groups : Nat)
  /-- PWR_CMD_GROUP_S1 (R302): A power command puts the named channel groups into S1 with the steps confined to the groups. -/
  | pwrCmdGroupS1 (src : Sender) (mtag groups : Nat)
  /-- TIME_NEXT (R80): A time message names the pool time of the next tsync edge; copies that disagree leave the edge without a value. -/
  | timeNext (port value : Nat)
  /-- SB_TIME_VALUE (R334): A sideband vendor message of KIND 0x03 delivers the time of the next edge, treated as TIME_NEXT. -/
  | sbTimeValue (eid value : Nat)
  /-- EVENT_MESSAGE_SEND (R383): At the end of a pacing microsecond a group sends its event message on routed ports and as sideband telemetry with an alert. -/
  | eventMessageSend (group : Nat)
  /-- RESPONSE_SEND (R73): A ready DATA, CMP or ERR response leaves its port once RSP and RSPD credit allow, freeing its tag and slot. -/
  | responseSend (port : Nat) (par : Parity)
  /-- DISPATCH (R115): A trunk pick selects an eligible leaf by level and round robin and sends the request to the home, charging buckets and reserving tag and room. -/
  | dispatch (trunk : Nat) (par : Parity)
  /-- REGULATION_UPDATE (R125): At each TRE_REG_PERIOD the outstanding limits of CIR-0 leaves shrink multiplicatively or grow additively. -/
  | regulationUpdate
  /-- LEAF_RECLAIM (R106): An idle, full-bucket, unpinned leaf is reclaimed after TRE_LEAF_IDLE_TIMEOUT. -/
  | leafReclaim (leaf : Nat)
  /-- MODEL_WINDOW_END (R129): At each 10 µs window end the modelled rate, floor, tier scales and shortfall are recomputed. -/
  | modelWindowEnd (w : List PcWindow)
  /-- RMW_CHARGE (R111): A read-modify-write report reaches the tree, which charges one more unit to the buckets that the dispatch charged, dropping what falls below floors. -/
  | rmwCharge
  /-- GATE_ENTRY_START (R122): A gate list entry begins by pool time, opening and closing branches and suspending refill of closed branches. -/
  | gateEntryStart (trunk : Nat)
  /-- GATE_GUARD_START (R122): The guard interval before an entry that closes a branch begins, and the branch closes. -/
  | gateGuardStart (trunk : Nat)
  /-- TRE_GATE_SWITCH (R121): A write checks the shadow gate list and schedules a switch, or raises EV.03.06. -/
  | treGateSwitch (a : Access) (trunk : Nat)
  /-- GATE_SWITCH_APPLY (R121): Pool time reaches the switch time, and the checked list becomes active. -/
  | gateSwitchApply (trunk : Nat)
  /-- TRE_GATE_SWITCH_CANCEL (R121): A write cancels a pending gate switch. -/
  | treGateSwitchCancel (a : Access) (trunk : Nat)
  /-- TRE_LEAF_CREATE (R107): A write creates or pins a leaf under quota and admission tests. -/
  | treLeafCreate (a : Access)
  /-- TRE_LEAF_BUCKET_RESET (R112): A write fills a leaf's C, E and P buckets to depth. -/
  | treLeafBucketReset (a : Access)
  /-- TRE_BRANCH_BUCKET_RESET (R112): A write fills a branch's N and X buckets to depth. -/
  | treBranchBucketReset (a : Access)
  /-- TRE_TRUNK_BUCKET_RESET (R112): A write fills a trunk's T bucket to depth. -/
  | treTrunkBucketReset (a : Access) (trunk : Nat)
  /-- TRE_LEAF_CLEAR (R138): A write clears a leaf's maxima, units and refusal counts. -/
  | treLeafClear (a : Access)
  /-- TRE_LEAF_CIR (R132): A write of a leaf's committed rate is tested for admission when it raises the commitment, and takes effect at once. -/
  | treLeafCir (a : Access)
  /-- TRE_LEAF_OL_MAX (R132): A write of a leaf's outstanding ceiling is tested under R131 when it lowers a committed leaf's limit. -/
  | treLeafOlMax (a : Access)
  /-- TRE_LEAF_BRANCH (R132): A write moves a leaf to another branch, tested as a new commitment. -/
  | treLeafBranch (a : Access)
  /-- TRE_BRANCH_CTRL (R133): A write sets or clears a branch's VALID, tier or trunk, with admission and leaf checks. -/
  | treBranchCtrl (a : Access)
  /-- TRE_BRANCH_MIN (R132): A write of a branch minimum is tested for admission when it raises the commitment. -/
  | treBranchMin (a : Access)
  /-- TRE_BRANCH_MAX (R132): A write lowering a branch maximum is tested for admission. -/
  | treBranchMax (a : Access)
  /-- TRE_TRUNK_MAX (R132): A write lowering a trunk maximum is tested for admission. -/
  | treTrunkMax (a : Access) (trunk : Nat)
  /-- HOME_ACCEPT (R146): The home takes a request from the tree crossing in acceptance order, decodes it and opens a transaction or misroutes it. -/
  | homeAccept (par : Parity)
  /-- TRANSACTION_ACTIVATE (R148): A transaction becomes active on its unblocked line and follows its Table HOM-2 flow: snoops, memory access and filter update. -/
  | transactionActivate (txn : Nat) (ecc : Ecc)
  /-- POSSESSION_WINDOW_END (R152): A possession window ends, and waiting snoops of that line proceed. -/
  | possessionWindowEnd (line agent : Nat)
  /-- SNOOP_TIMEOUT (R161): A snoop or hint answer is not received within HOM_SNOOP_TIMEOUT, and the snooped agent's cell falls. -/
  | snoopTimeout (txn agent : Nat)
  /-- WB_PAIRING_TIMEOUT (R154): One half of a writeback-snoop pair fails to arrive in time, and the agent's cell falls with cause 1. -/
  | wbPairingTimeout (txn agent : Nat)
  /-- ACK_TIMEOUT (R161): A CMP_ACK wait expires; the line is released and, in a coherent function, the requester's cell falls. -/
  | ackTimeout (txn : Nat)
  /-- RESPONSE_TIMEOUT (R161): A channel engine does not answer in time; the requester receives BUS_ERROR and a read line is poisoned. -/
  | responseTimeout (lost : Bool) (n : Nat)
  /-- CELL_FALL_COMPLETE (R163): The fall walk ends and every poison write is accepted, and the cell becomes DOWN. -/
  | cellFallComplete (cell : Nat) (ecc : Ecc) (line : Nat)
  /-- HOM_CELL_TAKE_DOWN (R162): The manager's cell command 1 takes a cell down. -/
  | homCellTakeDown (a : Access) (cell : Nat)
  /-- HOM_CELL_RESTART (R162): The manager's cell command 2 restarts a DOWN cell, or is refused in UP or FALLING. -/
  | homCellRestart (a : Access) (cell : Nat)
  /-- HOM_FUN_COHERENT (R140): A write changes functions' coherence, refused while a caching agent of the function is joined. -/
  | homFunCoherent (a : Access)
  /-- HOM_FILTER_PROBE_ADDR (R427): A write starts a probe of a line's filter entry and zeroes the result. -/
  | homFilterProbeAddr (a : Access) (ecc : Ecc)
  /-- HOM_FILTER_PROBE_DONE (R427): The probe result appears with DONE set. -/
  | homFilterProbeDone
  /-- HOM_CELL_EPOCH_ARM (R371): Epoch command 1 checks and arms a revision switch for a cell. -/
  | homCellEpochArm (a : Access) (cell : Nat)
  /-- HOM_CELL_EPOCH_CANCEL (R371): Epoch command 2 cancels an armed switch. -/
  | homCellEpochCancel (a : Access) (cell : Nat)
  /-- EPOCH_SWITCH (R372): The time base reaches the armed switch time, and the cell's revision changes on that beat. -/
  | epochSwitch (cell : Nat)
  /-- MAP_COMMIT (R89): A commit checks the shadow region table and starts the coherence walk, or schedules a timed commit. -/
  | mapCommit (a : Access)
  /-- COMMIT_WALK_START (R97): Pool time reaches 100 µs before a timed commit, and the back-invalidation walk starts. -/
  | commitWalkStart (ecc : Ecc)
  /-- COMMIT_WALK_DONE (R98): The commit walk has read every filter set and its snoops are answered. -/
  | commitWalkDone
  /-- COMMIT_APPLY (R97): On the commit beat the shadow table becomes active in tree and home, on time or late. -/
  | commitApply
  /-- MAP_COMMIT_CANCEL (R97): A write cancels a scheduled or walking commit. -/
  | mapCommitCancel (a : Access)
  /-- MAP_TABLE_STORE_DONE (R90): The MRAM store of a committed region table ends. -/
  | mapTableStoreDone
  /-- MAP_XLATE_ADDR (R429): A write starts decoding a pool address for a function. -/
  | mapXlateAddr (a : Access)
  /-- MAP_XLATE_SLOT (R429): A write starts naming the location of a slot offset. -/
  | mapXlateSlot (a : Access)
  /-- MAP_XLATE_DONE (R427): The translation result appears with DONE set. -/
  | mapXlateDone
  /-- ENGINE_READ_ENQUEUE (R171): A read reaches its channel engine, passes the repair tables and joins the read queue, or is served from a held line. -/
  | engineReadEnqueue (txn : Nat) (par : Parity)
  /-- ENGINE_WRITE_PLACE (R170): A write reaches its channel engine and is placed by Table ENG-2; the home then completes it. -/
  | engineWritePlace (txn : Nat) (par : Parity)
  /-- MERGE_TIMEOUT (R172): A merge line not complete after ENG_MERGE_TIMEOUT moves into the write queue as read-modify-write and reports the extra access. -/
  | mergeTimeout (pc id : Nat)
  /-- REQUEST_AGED (R180): A request in the engine reaches ENG_AGE_CAP and becomes aged. -/
  | requestAged (pc id : Nat)
  /-- ACT (R194): The engine issues an activation; the SAG opens and the rowhammer tracker counts it. -/
  | act (pc sid bank row nck : Nat) (flips : Flips)
  /-- PRE (R175): The engine precharges a SAG. -/
  | pre (pc sid bank sag nck : Nat) (flips : Flips)
  /-- COLUMN_RD (R174): The engine issues a column read, fixing the page outcome and freeing the read-queue entry. -/
  | columnRd (pc id nck : Nat) (b : BurstReport) (flips : Flips)
  /-- WR (R170): The engine issues a column write for a queued line, home-write slot or internal slot. -/
  | wr (pc id nck : Nat) (flips : Flips)
  /-- REFPB (R181): The engine issues a per-bank refresh of one SAG's group, counted late if past its deadline. -/
  | refpb (pc sid bank sag group nck : Nat) (flips : Flips)
  /-- REFT (R196): The engine issues a targeted refresh of the activation latch's neighbours. -/
  | reft (pc sid bank sag nck : Nat) (flips : Flips)
  /-- REFAB (R237): The engine issues an all-bank refresh of a (PC, SID) in refresh mode 2. -/
  | refab (pc sid nck : Nat) (flips : Flips)
  /-- PREA (R208): The sequencer precharges every bank of a (PC, SID). -/
  | prea (pc sid nck : Nat) (flips : Flips)
  /-- MRW (R209): The sequencer writes a mode register of one slice. -/
  | mrw (channel sid ma data nck : Nat) (flips : Flips)
  /-- MRR (R207): The sequencer reads a mode register of one slice. -/
  | mrr (channel sid ma nck : Nat) (flips : Flips)
  /-- MRR_RESULT (R224): An MRR value returns: a status poll proves a SID or starts recovery, and temperature or counts are taken. -/
  | mrrResult (channel sid ma own : Nat) (err : BitVec 576)
  /-- SRE (R226): The block issues self-refresh entry on a channel. -/
  | sre (channel nck : Nat) (flips : Flips)
  /-- SRE_CONFIRMED (R226): Each SID's count confirms the SRE, and CK and WCK may stop after tCKSRE. -/
  | sreConfirmed (channel : Nat)
  /-- SRX (R226): The block issues self-refresh exit and confirms the counts after tXS. -/
  | srx (channel nck : Nat) (flips : Flips)
  /-- WR_FIFO (R218): The sequencer writes a training FIFO entry. -/
  | wrFifo (pc sid entry nck : Nat) (data : BitVec 608) (flips : Flips)
  /-- RD_FIFO (R218): The sequencer reads a training FIFO entry. -/
  | rdFifo (pc sid entry nck : Nat) (flips : Flips)
  /-- RD_CAL (R211): The sequencer reads a calibration pattern. -/
  | rdCal (pc sid pattern nck : Nat) (flips : Flips)
  /-- WCK_SYNC (R211): The sequencer aligns a slice's WCK dividers to CK. -/
  | wckSync (pc sid nck : Nat) (flips : Flips)
  /-- SOFT_REPAIR (R419): The block remaps a row to a redundant row until the die's reset. -/
  | softRepair (channel sid nck : Nat) (flips : Flips)
  /-- HARD_REPAIR (R419): The block permanently remaps a row in the die. -/
  | hardRepair (channel sid nck : Nat) (flips : Flips)
  /-- WRITE_BURST_END (R169): A write burst leaves the lanes, freeing its entry or slot, returning credit and marking recurrence words rewritten. -/
  | writeBurstEnd (pc id : Nat)
  /-- READ_DECODE (R261): The codec decodes a line and sorts it into clean, filled, corrected, poisoned or uncorrectable, reporting it where R264 requires. -/
  | readDecode (pc id : Nat) (err : BitVec 576) (par : Parity)
  /-- QUAL_TEST_START (R186): The qualifier selects a bank for a raising test or re-test at a tighter class. -/
  | qualTestStart (pc sid bank : Nat) (rows : List Nat)
  /-- QUAL_TEST_DONE (R192): A qualification test ends; the bank is raised, kept or returned to class 0. -/
  | qualTestDone (pc sid bank : Nat)
  /-- QUAL_BAND_SETTLE (R185): The hottest die stays in a band for ENG_QUAL_SETTLE, and the band becomes qualified. -/
  | qualBandSettle
  /-- ENG_QUAL_ENABLE (R188): A write of 0 returns every bank to class 0 and stops the qualifier. -/
  | engQualEnable (a : Access)
  /-- ENG_BANK_CLASS_CAP (R192): A write of a bank cap lowers the class if needed. -/
  | engBankClassCap (a : Access) (channel bank : Nat)
  /-- PREAMBLE_GAP_REQUEST (R214): A (PC, SID) without a preamble for CDI_TRACK_GAP asks its engine for a one-nCK gap. -/
  | preambleGapRequest (pc sid : Nat)
  /-- PERIODIC_RETRAIN (R218): A pseudo-channel's retrain falls due, is held and runs the FIFO and Vref probes. -/
  | periodicRetrain (pc : Nat)
  /-- RETRAIN_COMPLETE (R218): A retrain's comparison ends; delays and Vref move, lanes fail or spare, and the hold ends. -/
  | retrainComplete (pc : Nat) (r : RetrainReport)
  /-- STATUS_POLL (R224): A SID unproven for CDI_STATUS_POLL, or with 3,584 unproven entries, is polled by MRR of MR3. -/
  | statusPoll (channel sid nck : Nat) (flips : Flips)
  /-- COMMAND_ERROR_RECOVERY (R225): Undriven lanes or a poll with error bits hold the channel, find ignored commands, poison ignored writes and reissue the rest. -/
  | commandErrorRecovery (channel : Nat)
  /-- COMMAND_BUS_RETRAIN (R227): CDI_CMD_ERR_LIMIT recoveries within 1 s retrain the channel's command buses after cover refreshes. -/
  | commandBusRetrain (channel : Nat) (rowFail colFail : List Nat)
  /-- CDI_MR_READ (R230): A manager write starts reading one mode register, or is refused. -/
  | cdiMrRead (a : Access)
  /-- CDI_MR_READ_DONE (R427): The mode-register value appears with DONE set. -/
  | cdiMrReadDone (own : Nat)
  /-- REFRESH_STEP_START (R234): A slice's refresh step begins at the current scale, with window and pass boundaries. -/
  | refreshStepStart (slice : Nat)
  /-- REFRESH_RELEASE (R235): At N - L/4 a due refresh is passed to the engine as a normal request. -/
  | refreshRelease (pc sid bank sag : Nat)
  /-- REFRESH_URGENT (R235): At N + L/8 a refresh becomes urgent and blocks activations in its SAGs. -/
  | refreshUrgent (pc sid bank sag : Nat)
  /-- SLICE_TEMP_POLL (R241): The thermal manager reads a slice's temperature by MRR each RFH_TEMP_POLL. -/
  | sliceTempPoll (slice : Nat)
  /-- SLICE_TEMP_READING (R243): A temperature reading sets scale rises, throttle falls, band changes, invalidity and trip. -/
  | sliceTempReading (slice : Nat) (value : Int) (valid : Bool)
  /-- BLOCK_SENSOR_READ (R241): The block's 12 sensors are read every 10 µs and act as slice readings do. -/
  | blockSensorRead (values : List (Int × Bool))
  /-- SCALE_FALL (R243): Readings stay below threshold for RFH_SCALE_HOLD, and a slice's scale falls one step. -/
  | scaleFall (slice : Nat)
  /-- ALLOWANCE_RISE (R251): θ_c stays below its row for RFH_THROTTLE_HOLD, and the channel allowance rises one row. -/
  | allowanceRise (channel : Nat)
  /-- THERMAL_TRIP_END (R253): Every sensor stays below RFH_TRIP_CLEAR for RFH_TRIP_HOLD; channels exit self-refresh and dispatch resumes. -/
  | thermalTripEnd
  /-- BIN_TABLE_SAVE (R233): Every RFH_BIN_SAVE_PERIOD, and at E3 of an S2 entry, the bin table is saved to MRAM. -/
  | binTableSave
  /-- RFH_BIN_RESET (R247): A write sets every group to bin 0. -/
  | rfhBinReset (a : Access)
  /-- RFH_BIN_MAX (R247): A write of the loosest bin tightens at once every group above it. -/
  | rfhBinMax (a : Access)
  /-- RFH_PROF_ENABLE (R248): A write of 0 abandons profiler test passes in progress. -/
  | rfhProfEnable (a : Access)
  /-- PROFILER_WALK_START (R245): A retention walk of a pseudo-channel starts once RFH_PROF_WALK_MIN allows. -/
  | profilerWalkStart (pc : Nat)
  /-- GROUP_PARK (R246): With spare rows and entries free, a group is copied into retention-test rows, grafted and written raw. -/
  | groupPark (pc group : Nat)
  /-- RETENTION_HOLD_END (R246): A parked group's unrefreshed hold reaches three windows of its bin, and its rows are read raw. -/
  | retentionHoldEnd (pc group : Nat) (differs : Bool)
  /-- RETENTION_TEST_RESULT (R247): A test pass result loosens, keeps or lowers the bin, reports weak groups and unparks the group. -/
  | retentionTestResult (pc group : Nat)
  /-- SCRUB_ROW_START (R272): The scrubber starts reading the next row of its walk. -/
  | scrubRowStart (pc : Nat)
  /-- SUSPECT_SCRUB_ROW (R273): A row of a suspect bank is scrubbed, one every 2 µs, ahead of the walk. -/
  | suspectScrubRow (pc : Nat)
  /-- INT_RETIRE_ROW (R283): A write starts a row-graft repair job, or is refused with a cause. -/
  | intRetireRow (a : Access)
  /-- INT_RETIRE_BANK (R283): A write starts a bank replacement job, or is refused with a cause. -/
  | intRetireBank (a : Access)
  /-- REPAIR_PREPARED (R284): A repair job has freed its resources and enters mirroring and copying. -/
  | repairPrepared (pc : Nat)
  /-- REPAIR_SWITCH (R284): The last copy line is written, and the new graft or replacement becomes valid. -/
  | repairSwitch (pc : Nat)
  /-- REPAIR_DONE (R286): Requests to the source drain, and the job ends Done with records and counts updated. -/
  | repairDone (pc : Nat)
  /-- TEST_WRITE_ENCODED (R270): Checker command 1 writes test data with computed check symbols. -/
  | testWriteEncoded (a : Access)
  /-- TEST_WRITE_RAW (R270): Checker command 2 writes data and check symbols as given. -/
  | testWriteRaw (a : Access)
  /-- TEST_READ_RAW (R270): Checker command 3 reads data, check symbols and syndromes without correction. -/
  | testReadRaw (a : Access)
  /-- TEST_READ_DECODED (R270): Checker command 4 reads decoded data and its outcome. -/
  | testReadDecoded (a : Access)
  /-- INT_TEST_DONE (R427): A checker command completes and its result appears with DONE set. -/
  | intTestDone (err : BitVec 576)
  /-- ENTRY_E1 (R295): Dispatch is held and dispatched work is accepted; classes drop, background work stops and sapling writes and captures start. -/
  | entryE1
  /-- ENTRY_E2 (R295): Every engine has an empty read queue and has ended its flush. -/
  | entryE2
  /-- ENTRY_E3 (R306): Sapling bursts and captures are complete, and for S2 the bin save has started. -/
  | entryE3 (temps : List (Nat × Int))
  /-- ENTRY_E4 (R299): SRE has issued on every in-service channel; the point of no return passes and the post-E4 steps run. -/
  | entryE4
  /-- ENTRY_TIMEOUT (R296): E4 does not pass within SLP_ENTRY_LIMIT of E0, and the entry is abandoned. -/
  | entryTimeout
  /-- ENTRY_UNDO (R297): An abandoned entry reaches its next abort point, undoes every point passed and answers RESULT 2. -/
  | entryUndo
  /-- BEAT_STOP (R313): The beat stops in S2 and holdover starts from t_e. -/
  | beatStop
  /-- S2_WAKE (R304): A wake latched in S2 drives ply_wake_n low, requests VDDP and restores the AVS code. -/
  | s2Wake
  /-- BEAT_RESTART (R315): PLLs lock and the beat restarts; the time base is loaded and latched events take effect. -/
  | beatRestart
  /-- S1_EXIT (R303): A wake or A0 command restarts clocks, reads SR_COUNT and issues SRX for the S1 scope. -/
  | s1Exit (groups : Nat)
  /-- EXIT_DISPATCH_RESUME (R304): The exit completes; the replay queue goes to the tree, dispatch resumes and the wake checks run. -/
  | exitDispatchResume (k : WakeReport)
  /-- WAKE_AT (R296): Pool time reaches SLP_WAKE_AT, waking the block or abandoning an entry. -/
  | wakeAt
  /-- ISLAND_IDLE_GATE (R290): An island with 64 idle cycles gates its clock in A1. -/
  | islandIdleGate (island : Nat)
  /-- MGT_DICT_LOCK (R323): A write locks every RWL entry until block reset. -/
  | mgtDictLock (a : Access)
  /-- MGT_PERSIST_ERASE (R331): A write invalidates every stored parameter value from the next reset. -/
  | mgtPersistErase (a : Access)
  /-- PERSIST_STORE (R330): A changed persistent value is written to the older MRAM copy at most once per MGT_PERSIST_PERIOD. -/
  | persistStore (item : PersistItem) (worn : Bool)
  /-- MGT_DESCRIBE (R329): A write requests the descriptor of an entry. -/
  | mgtDescribe (a : Access)
  /-- MGT_DESCRIPTOR_DONE (R427): The descriptor appears with DONE set. -/
  | mgtDescriptorDone (master : Nat)
  /-- INBOUND_FRAME (R339): An I3C private transfer ends; the frame is committed or rewound, and a complete MCTP message is processed. -/
  | inboundFrame (bytes : List Nat) (fault : FrameFault)
  /-- SET_ENDPOINT_ID (R333): The block takes an EID, and the first since reset may name the manager. -/
  | setEndpointId (source eid : Nat)
  /-- GET_ENDPOINT_ID (R333): The block reports its EID as a simple endpoint. -/
  | getEndpointId (source : Nat)
  /-- GET_MCTP_VERSION_SUPPORT (R333): The block reports its supported MCTP versions. -/
  | getMctpVersionSupport (source msgType : Nat)
  /-- GET_MESSAGE_TYPE_SUPPORT (R333): The block reports message types 0x05 and 0x7F. -/
  | getMessageTypeSupport (source : Nat)
  /-- GET_VENDOR_DEFINED_MESSAGE_SUPPORT (R333): The block reports its IANA vendor-defined command set. -/
  | getVendorDefinedMessageSupport (source selector : Nat)
  /-- UNSUPPORTED_MCTP_COMMAND (R333): Any other MCTP control command draws completion code 0x05. -/
  | unsupportedMctpCommand (source code : Nat)
  /-- GET_VERSION (R357): An SPDM GET_VERSION resets the connection and names the requester. -/
  | getVersion (source : Nat)
  /-- GET_CAPABILITIES (R356): SPDM returns the block's capabilities. -/
  | getCapabilities (source : Nat)
  /-- NEGOTIATE_ALGORITHMS (R356): SPDM selects P-384 and SHA-384, or answers ERROR. -/
  | negotiateAlgorithms (source : Nat) (offersAll : Bool)
  /-- GET_DIGESTS (R356): SPDM returns the slot 0 chain digest. -/
  | getDigests (source : Nat)
  /-- GET_CERTIFICATE (R356): SPDM returns part of the slot 0 certificate chain. -/
  | getCertificate (source slot offset length : Nat)
  /-- CHALLENGE (R356): An SPDM challenge starts a signing for CHALLENGE_AUTH. -/
  | challenge (source slot summary nonce : Nat)
  /-- GET_MEASUREMENTS (R358): SPDM returns one or all measurement blocks, signed on request. -/
  | getMeasurements (source index : Nat) (signed : Bool) (nonce : Nat)
  /-- SPDM_SIGNING_DONE (R356): A signing completes and the signed SPDM response is sent. -/
  | spdmSigningDone
  /-- UNSUPPORTED_SPDM_REQUEST (R356): Any other SPDM request code draws ERROR UnsupportedRequest. -/
  | unsupportedSpdmRequest (source code : Nat)
  /-- OUTBOUND_FRAME_READ (R342): The I3C controller reads an outbound frame from the FIFO. -/
  | outboundFrameRead (r : FrameRead)
  /-- IBI_REPEAT (R335): A pending-read interrupt not followed by a read within 1 ms is repeated. -/
  | ibiRepeat
  /-- SB_FLUSH_TELEMETRY (R342): Flush action 1 ends a telemetry read and skips queued telemetry frames. -/
  | sbFlushTelemetry (a : Access)
  /-- SB_FLUSH_CONTROL (R342): Flush action 2 discards control frames queued behind the current one. -/
  | sbFlushControl (a : Access)
  /-- SB_FLUSH_BOTH (R342): Flush action 3 applies both flushes. -/
  | sbFlushBoth (a : Access)
  /-- MGT_MBX_POST (R345): A permitted sender posts a mailbox word; mode rules decide replacement or refusal, and the timer starts. -/
  | mgtMbxPost (src : Sender) (mtag channel value : Nat)
  /-- MGT_MBX_TAKE (R345): The receiver reads and takes a mailbox word, clearing FULL. -/
  | mgtMbxTake (src : Sender) (mtag channel : Nat)
  /-- MGT_MBX_LOCK_ACQUIRE (R346): A read of the lock register by a permitted sender acquires a free lock or reports the holder. -/
  | mgtMbxLockAcquire (src : Sender) (mtag channel : Nat)
  /-- MGT_MBX_LOCK_RELEASE (R346): A write of 0 by the holder releases a mailbox lock. -/
  | mgtMbxLockRelease (src : Sender) (mtag channel value : Nat)
  /-- MGT_MBX_BIND (R344): A write sets a channel's sender and receiver, refused when invalid, full or locked. -/
  | mgtMbxBind (a : Access) (channel : Nat)
  /-- MGT_MBX_TABLE_LOCK (R344): A write locks the mailbox binding table until block reset. -/
  | mgtMbxTableLock (a : Access)
  /-- MGT_MASTER_SLEEP (R348): A master declares itself asleep or awake, and held words to it may time out. -/
  | mgtMasterSleep (a : Access) (master : Nat)
  /-- MBX_TIMEOUT (R349): A mailbox word is held past MGT_MBX_TIMEOUT; TIMEOUT is set and crossed waits are detected. -/
  | mbxTimeout (channel : Nat)
  /-- UMPIRE_LOCKSTEP_MISMATCH (R352): The umpire cores' outputs differ and an umpire restart begins, or escalates to block reset. -/
  | umpireLockstepMismatch
  /-- UMPIRE_WATCHDOG_EXPIRY (R352): The watchdog is not served in MGT_WDOG_PERIOD and the umpires restart or escalate. -/
  | umpireWatchdogExpiry
  /-- MGT_UMPIRE_RESTART (R352): A manager write restarts the umpires. -/
  | mgtUmpireRestart (a : Access)
  /-- UMPIRE_RESTART_DONE (R352): An umpire restart completes and the firmware runs, entering trial after an activation. -/
  | umpireRestartDone
  /-- UPG_LOAD_BEGIN (R362): A write invalidates the inactive image slot for loading. -/
  | upgLoadBegin (a : Access)
  /-- UPG_LOAD_DATA (R362): A write stores a 4 KiB image block and advances the offset. -/
  | upgLoadData (a : Access) (block : BitVec 32768)
  /-- UPG_VERIFY (R363): A write starts verification of the inactive image. -/
  | upgVerify (a : Access)
  /-- UPG_VERIFY_DONE (R363): Verification ends, and the slot becomes verified or invalid with a status code. -/
  | upgVerifyDone (v : ImageCheck)
  /-- UPG_ACTIVATE (R364): A write activates the verified inactive image through an umpire restart. -/
  | upgActivate (a : Access)
  /-- UPG_COMMIT (R367): A write ends the trial of the active image. -/
  | upgCommit (a : Access)
  /-- UPG_ROLLBACK (R366): A write returns to the previous image. -/
  | upgRollback (a : Access)
  /-- TRIAL_PERIOD_EXPIRY (R366): UPG_TRIAL_PERIOD passes without commit, and the image is rolled back. -/
  | trialPeriodExpiry
  /-- UPG_SVN_FLOOR (R367): A write raises the SVN floor and may invalidate the inactive image. -/
  | upgSvnFloor (a : Access)
  /-- FLT_GRP_STATUS (R384): A write clears status bits and may return the group to the normal state. -/
  | fltGrpStatus (a : Access) (group : Nat)
  /-- FLT_GRP_ENABLE (R380): A write of enables gives already-set status bits their effects from that beat. -/
  | fltGrpEnable (a : Access) (group : Nat)
  /-- FLT_GRP_FORCE (R382): A write raises sources on the next beat with every effect except the area's reaction. -/
  | fltGrpForce (a : Access) (group : Nat)
  /-- FLT_GRP_LATCH_CLEAR (R381): A write clears the first-source latch, its time and its detail. -/
  | fltGrpLatchClear (a : Access) (group : Nat)
  /-- FLT_GRP_QUIET (R384): A write of the quiet period restarts or stops the group's quiet timer. -/
  | fltGrpQuiet (a : Access) (group : Nat)
  /-- QUIET_TIMER_EXPIRY (R384): A group in fault state has its quiet timer end, clears its fault bits and raises EV.11.04. -/
  | quietTimerExpiry (group : Nat)
  /-- INPUT_STUCK (R386): A conditioned input stays high for FLT_STUCK_LIMIT and is masked. -/
  | inputStuck (input : Nat)
  /-- INPUT_RELEASE_CHECK (R386): Every 100 ms a masked input is sampled and released when low. -/
  | inputReleaseCheck (input : Nat) (level : Bool)
  /-- FLT_BLOCK_RESET (R388): A commanded block reset holds dispatch, resets links, flushes and stores, and enters self-refresh. -/
  | fltBlockReset (a : Access)
  /-- COMMANDED_RESET_EFFECT (R388): After flush and SRE confirmation, the commanded or escalated reset takes effect with ply_cdi_rst_n high. -/
  | commandedResetEffect
  /-- FLT_LINK_RESET (R389): A manager write, or a port going down, runs the port's link reset and fills the ledger. -/
  | fltLinkReset (a : Access)
  /-- FUN_RESET (R390): A write starts a function reset: requests are refused or drained, cells fall and the ledger records. -/
  | funReset (a : Access) (fn : Nat)
  /-- FUN_RESET_DRAIN_LIMIT_EXPIRY (R390): In drain mode, queued requests left after the drain limit are answered FUNCTION_RESET. -/
  | funResetDrainLimitExpiry (fn : Nat)
  /-- FUN_RESET_COMPLETE (R391): No request of the function remains and its falls are complete; agents are removed and EV.14.f is raised. -/
  | funResetComplete (fn : Nat)
  /-- FUN_LEDGER_CLEAR (R394): A write empties the function's in-flight ledger. -/
  | funLedgerClear (a : Access) (fn : Nat)
  /-- COUNTER_OVERFLOW (R397): A 48-bit counter wraps, sets its overflow bit, chains and raises EV.12.00. -/
  | counterOverflow (unit counter : Nat)
  /-- OBS_FREEZE (R400): Global command 1 freezes every counter on its capture beat. -/
  | obsFreeze (a : Access)
  /-- OBS_UNFREEZE (R400): Global command 2 resumes counting after its capture beat. -/
  | obsUnfreeze (a : Access)
  /-- OBS_SNAPSHOT (R400): Global command 3 copies every counter into OBS_SNAP on its capture beat. -/
  | obsSnapshot (a : Access)
  /-- OBS_CLEAR (R400): Global command 4 zeroes every counter on its capture beat. -/
  | obsClear (a : Access)
  /-- OBS_CAPTURE_BEAT (R400): The time base reaches OBS_GLOBAL_TIME, and the pending global command takes effect. -/
  | obsCaptureBeat
  /-- OBS_UNIT_CLEAR (R401): A write zeroes one unit's counters and status. -/
  | obsUnitClear (a : Access) (unit : Nat)
  /-- OBS_RING_CLEAR (R404): A write empties the latency-sampling ring. -/
  | obsRingClear (a : Access)
  /-- OBS_TRACE_ENABLE (R408): A write starts or stops the trace port and its clock. -/
  | obsTraceEnable (a : Access)
  /-- TRACE_DUMP (R407): Every OBS_TRACE_DUMP_PERIOD the selected units are captured and queued as MARK and COUNTERS records. -/
  | traceDump
  /-- TRACE_SYNC_TIMER (R407): One second of pool time since the last SYNC queues a SYNC record. -/
  | traceSyncTimer
  /-- BLK_XING_PARITY_CLEAR (R26): A write clears the crossing parity error count. -/
  | blkXingParityClear (a : Access)
  /-- LNK_COUNTERS_CLEAR (R86): A write clears the link counts. -/
  | lnkCountersClear (a : Access)
  /-- HOM_COUNTERS_CLEAR (R167): A write clears the home counts and maxima. -/
  | homCountersClear (a : Access)
  /-- ENG_COUNTERS_CLEAR (R199): A write clears the channel engine counts. -/
  | engCountersClear (a : Access)
  /-- CDI_COUNTERS_CLEAR (R230): A write clears the interface retrain counts. -/
  | cdiCountersClear (a : Access)
  /-- RFH_COUNTERS_CLEAR (R257): A write clears the refresh and heat counts. -/
  | rfhCountersClear (a : Access)
  /-- INT_COUNTERS_CLEAR (R288): A write clears the integrity counts. -/
  | intCountersClear (a : Access)
  /-- SLP_COUNTERS_CLEAR (R319): A write clears the replay queue statistics. -/
  | slpCountersClear (a : Access)
  /-- MGT_COUNTERS_CLEAR (R360): A write clears management refusal and sideband counts. -/
  | mgtCountersClear (a : Access)
  /-- FLT_COUNTERS_CLEAR (R395): A write clears the fault and input counts. -/
  | fltCountersClear (a : Access)
  /-- OBS_STATS_CLEAR (R410): A write clears ring and trace statistics. -/
  | obsStatsClear (a : Access)
  /-- POR_RELEASE (R36): ply_por_n deasserts through its synchronisers, and two 25 MHz periods later the sequencer raises ply_pwr_req[0] to request VDDL. -/
  | porRelease
  /-- DIE_CATTRIP_FALL (R44): A ply_die_cattrip bit falls, and ply_therm_alarm_n returns high at once when every bit is low and the block is out of trip. -/
  | dieCattripFall (die : Nat)
  /-- PL_INBAND_PRES (R31): The adapter raises pl_inband_pres, and an enabled port of a block ready for service requests FDI Active. -/
  | plInbandPres (port : Nat)
  /-- PORT_L1_EXIT (R304): pl_state_sts reports a port leaving L1 to Active; latched headers replay, or in S2 the change is latched as a wake. -/
  | portL1Exit (port : Nat)
  /-- PL_STALLREQ_RELEASE (R32): The adapter drops pl_stallreq, and the block drops lp_stallack. -/
  | plStallreqRelease (port : Nat)
  /-- BIN_TABLE_SAVE_DONE (R299): The bin-table save started at E3 of an S2 entry ends, and the block requests L1 on every up port. -/
  | binTableSaveDone
  /-- TRACE_WORD_SEND (R408): A trace FIFO word leaves on the port each 500 MHz cycle, and a DROP and SYNC are queued once 4 words are free. -/
  | traceWordSend
  /-- REFCLK_25_RETURN (R36): ply_refclk_25 starts again; the fuse interface and a start-up waiting in its first step proceed, and conditioned sampling returns to the reference. -/
  | refclk25Return
  /-- HOLDOVER_CLOCK_LOSS (R312): The clock counting holdover is lost with no other clock present, and the time quality becomes unknown. -/
  | holdoverClockLoss
  deriving DecidableEq, Repr

end Sys2Proof
end

