-- ==== Sys2Proof/Config.lean ====
section
/-!
DEFINITION. What the spec leaves open, as constants with no body: no proof can see a value of theirs.
-/
namespace Sys2Proof

/-- Content of a core-die line that nothing has written since its die's reset (16 R421), by number of the reading. -/
opaque Config.freeLine : Nat → Codeword

/-- SHA-384 as the identity engine computes it (12 R356, R358): 48 bytes as a number, first byte highest. -/
opaque Config.sha384 : List Nat → BitVec 384

/-- The identity engine's signature over a byte string (12 R356). -/
opaque Config.signature : List Nat → BitVec 768

/-- A nonce of the conditioned random source (12 R357), by number of the draw. -/
opaque Config.nonce : Nat → BitVec 256

/-- The public key derived from the fused secret (12 R355): 97 bytes, first byte highest. -/
opaque Config.publicKey : BitVec 776

/-- The certificate chain of slot 0 (12 R354, partition 7), as bytes. -/
opaque Config.certChain : List Nat

/-- The stored bytes of the umpire image in a slot that the model did not see loaded (13 R361). -/
opaque Config.imageBytes : Nat → List Nat

/-- Repairs a core die's supplier gave a bank (08 Table CDI-5, MR27), by slice and pseudo-channel × 32 + bank: hard ones in [7:4], soft
ones in [3:0]. -/
opaque Config.repairs : Nat → Nat → Nat

/-- A value a register, FIFO entry or result takes where the spec leaves it open, by number of the reading. -/
opaque Config.freeValue : Nat → BitVec 608

end Sys2Proof
end

