-- ==== Sys2Proof/Machine/Table.lean ====
section
/-!
DEFINITION. Sparse tables keyed by number, kept in rising key order, and the shapes of dictionary entries.
-/
namespace Sys2Proof.Machine

/-- A sparse table: keys strictly rising, a key not listed holds the table's stated initial value. -/
abbrev Tbl (α : Type) := List (Nat × α)

/-- The value listed under `k`. -/
def tget? {α : Type} : Tbl α → Nat → Option α
  | [], _ => none
  | (j, v) :: t, k => if k = j then some v else tget? t k

/-- The value under `k`, `d` where none is listed. -/
def tget {α : Type} (t : Tbl α) (k : Nat) (d : α) : α := (tget? t k).getD d

/-- `k` now lists `v`. -/
def tset {α : Type} : Tbl α → Nat → α → Tbl α
  | [], k, v => [(k, v)]
  | (j, w) :: t, k, v =>
    if k = j then (k, v) :: t else if k < j then (k, v) :: (j, w) :: t else (j, w) :: tset t k v

/-- `k` is no longer listed. -/
def tdel {α : Type} : Tbl α → Nat → Tbl α
  | [], _ => []
  | (j, w) :: t, k => if k = j then tdel t k else (j, w) :: tdel t k

/-- `k` now holds `v`, listed only where it differs from the initial value `d`. -/
def tput {α : Type} [DecidableEq α] (t : Tbl α) (k : Nat) (v d : α) : Tbl α :=
  if v = d then tdel t k else tset t k v

/-- The canonical form: keys strictly rising. -/
def tsorted {α : Type} : Tbl α → Bool
  | [] => true
  | [_] => true
  | (j, _) :: (k, w) :: t => j < k && tsorted ((k, w) :: t)

/-- A list in rising order of `k`; equal ones keep their order. -/
def insertBy {α : Type} (k : α → Nat) (x : α) : List α → List α
  | [] => [x]
  | y :: t => if k x ≤ k y then x :: y :: t else y :: insertBy k x t
def sortBy {α : Type} (k : α → Nat) (l : List α) : List α := l.foldr (insertBy k) []

/-- The numbers from `a` on, `n` of them. -/
def nums (a : Nat) : Nat → List Nat
  | 0 => []
  | n + 1 => a :: nums (a + 1) n

/-- Bit `i` of `n`. -/
def bitOf (n i : Nat) : Bool := n.testBit i

/-- `n` with bit `i` set to `b`. -/
def putBit (n i : Nat) (b : Bool) : Nat :=
  if b then n ||| (1 <<< i) else if n.testBit i then n - (1 <<< i) else n

/-- Bits `[lo+len-1:lo]` of `n`. -/
def field (n lo len : Nat) : Nat := (n >>> lo) % 2 ^ len

/-- `n` with bits `[lo+len-1:lo]` holding `v`. -/
def putField (n lo len v : Nat) : Nat := n - ((field n lo len) <<< lo) + ((v % 2 ^ len) <<< lo)

/-- The numbers below `n` whose bit is set in `m`. -/
def bitsSet (m n : Nat) : List Nat := (nums 0 n).filter m.testBit

/-- A 32-bit (or `w`-bit) two's complement pattern as an integer, and back. -/
def toSigned (w n : Nat) : Int := if n < 2 ^ (w - 1) then (n : Int) else (n : Int) - (2 ^ w : Nat)
def ofSigned (w : Nat) (i : Int) : Nat := (i % ((2 ^ w : Nat) : Int)).toNat

/-- `i` held between `lo` and `hi`. -/
def clampInt (i lo hi : Int) : Int := if i < lo then lo else if hi < i then hi else i

/-- The little-endian bytes of `n`, `k` of them (12 R428). -/
def bytesLE (n : Nat) : Nat → List Nat
  | 0 => []
  | k + 1 => n % 256 :: bytesLE (n / 256) k

/-- The number little-endian bytes spell. -/
def ofBytesLE : List Nat → Nat
  | [] => 0
  | b :: t => b % 256 + 256 * ofBytesLE t

/-- The big-endian bytes of `n`, `k` of them. -/
def bytesBE (n k : Nat) : List Nat := (bytesLE n k).reverse

/-- One step of a dictionary key: where an entry's value is held, its Default, its Default on PLY-16 and the distance
between the keys of neighbouring instances. -/
structure Reg where
  key : Nat
  dflt : Nat
  dflt16 : Nat
  stride : Nat
  deriving DecidableEq, Repr

/-- The values an entry's Unit / range column allows (00 R15, 12 R326 check 7). -/
inductive Range where
  /-- Any value of the type. -/
  | any
  /-- From `lo` to `hi`. -/
  | span (lo hi : Nat)
  /-- 0, or from `lo` to `hi`. -/
  | zeroOr (lo hi : Nat)
  /-- Bits outside `m` are zero ("others zero"); setting one is refused. -/
  | mask (m : Nat)
  /-- Bits outside `m` are reserved bits under 00 R12: they stay zero. -/
  | bits (m : Nat)
  deriving DecidableEq, Repr

/-- A dictionary entry as its table prints it: first index, number of indices (and on PLY-16), first subindex, number of
subindices (and on PLY-16), type code, access code, rights as Table MGT-5 packs them, Default (and on PLY-16),
persistence, range, BLOB length. -/
structure Entry where
  index : Nat
  indices : Nat
  indices16 : Nat
  sub : Nat
  subs : Nat
  subs16 : Nat
  ty : Nat
  acc : Nat
  rights : Nat
  dflt : Nat
  dflt16 : Nat
  persistent : Bool
  range : Range
  length : Nat
  deriving DecidableEq, Repr

end Sys2Proof.Machine
end

