-- ==== Sys2Proof/Machine/Dict.lean ====
section
/-!
DEFINITION. The parameter dictionary as the tables of the spec print it (00 R5 to 16 R424): every entry's place, type,
access kind, role rights, default and range (12 R320 to R322), and the name of each entry's key in State.regs.
-/
namespace Sys2Proof.Machine


/-- 00 R5. -/
def R.BLK_VARIANT : Reg := ⟨0x000100, 0, 0, 1⟩
/-- 00 R5. -/
def R.BLK_CHANNELS : Reg := ⟨0x000101, 0, 0, 1⟩
/-- 00 R5. -/
def R.BLK_HOST_PORTS : Reg := ⟨0x000102, 0, 0, 1⟩
/-- 00 R5. -/
def R.BLK_CDI_REVISION : Reg := ⟨0x000103, 2, 2, 1⟩
/-- 00 R5. -/
def R.BLK_CTP_REVISIONS : Reg := ⟨0x000104, 12, 12, 1⟩
/-- 01 R26. -/
def R.BLK_RAW_CAPACITY : Reg := ⟨0x000200, 137438953472, 68719476736, 1⟩
/-- 01 R26. -/
def R.BLK_USABLE_CAPACITY : Reg := ⟨0x000201, 133143986176, 66571993088, 1⟩
/-- 01 R26. -/
def R.BLK_BANKS_IN_SERVICE : Reg := ⟨0x000202, 8192, 4096, 1⟩
/-- 01 R26. -/
def R.BLK_SPARE_BANKS : Reg := ⟨0x000203, 256, 128, 1⟩
/-- 01 R26. -/
def R.BLK_PEAK_DRAM_BW : Reg := ⟨0x000204, 3276800, 1638400, 1⟩
/-- 01 R26. -/
def R.BLK_ISLANDS : Reg := ⟨0x000205, 54, 30, 1⟩
/-- 01 R26. -/
def R.BLK_XING_PARITY_ERRORS : Reg := ⟨0x000300, 0, 0, 1⟩
/-- 01 R26. -/
def R.BLK_XING_PARITY_CLEAR : Reg := ⟨0x000301, 0, 0, 1⟩
/-- 02 R54. -/
def R.BLK_RESET_CAUSE : Reg := ⟨0x001000, 0, 0, 1⟩
/-- 02 R54. -/
def R.BLK_COLD_STARTS : Reg := ⟨0x001001, 0, 0, 1⟩
/-- 02 R54. -/
def R.BLK_CLK_STATUS : Reg := ⟨0x001100, 0, 0, 1⟩
/-- 02 R54. -/
def R.BLK_REFCLK_LOSSES : Reg := ⟨0x001101, 0, 0, 1⟩
/-- 02 R54. -/
def R.BLK_AVS_ENABLE : Reg := ⟨0x001200, 1, 1, 1⟩
/-- 02 R54. -/
def R.BLK_AVS_CODE : Reg := ⟨0x001201, 200, 200, 1⟩
/-- 02 R54. -/
def R.BLK_AVS_TIMEOUTS : Reg := ⟨0x001202, 0, 0, 1⟩
/-- 02 R54. -/
def R.BLK_PWR_ACK_TIMEOUTS : Reg := ⟨0x001300, 0, 0, 1⟩
/-- 02 R54. -/
def R.BLK_PWR_ACK_LIMIT : Reg := ⟨0x001301, 1000, 1000, 1⟩
/-- 02 R54. -/
def R.BLK_FDI_RETRAIN_LIMIT : Reg := ⟨0x001400, 2000, 2000, 1⟩
/-- 02 R54. -/
def R.BLK_TSYNC_EDGES : Reg := ⟨0x001500, 0, 0, 1⟩
/-- 02 R54. -/
def R.BLK_TSYNC_MISSED : Reg := ⟨0x001501, 0, 0, 1⟩
/-- 02 R54. -/
def R.BLK_TEST_LOCKED : Reg := ⟨0x001600, 0, 0, 1⟩
/-- 03 R86. -/
def R.LNK_PORT_ENABLE : Reg := ⟨0x100000, 255, 15, 1⟩
/-- 03 R86. -/
def R.LNK_PORT_FUNCTIONS : Reg := ⟨0x100100, 0, 0, 1⟩
/-- 03 R86. -/
def R.LNK_PORT_STATE : Reg := ⟨0x100200, 0, 0, 1⟩
/-- 03 R86. -/
def R.LNK_PORT_REVISION : Reg := ⟨0x100300, 0, 0, 1⟩
/-- 03 R86. -/
def R.LNK_REV_ALLOWED : Reg := ⟨0x100400, 12, 12, 1⟩
/-- 03 R86. -/
def R.LNK_NEG_TIMEOUT : Reg := ⟨0x100500, 100, 100, 1⟩
/-- 03 R86. -/
def R.LNK_PWR_CMD_PORTS : Reg := ⟨0x100600, 0, 0, 1⟩
/-- 03 R86. -/
def R.LNK_REPLAY_LIMIT : Reg := ⟨0x100700, 8, 8, 1⟩
/-- 03 R86. -/
def R.LNK_CRC_ERRORS : Reg := ⟨0x101000, 0, 0, 1⟩
/-- 03 R86. -/
def R.LNK_REPLAYS : Reg := ⟨0x101100, 0, 0, 1⟩
/-- 03 R86. -/
def R.LNK_LINK_ERRORS : Reg := ⟨0x101200, 0, 0, 1⟩
/-- 03 R86. -/
def R.LNK_RETRAINS : Reg := ⟨0x101300, 0, 0, 1⟩
/-- 03 R86. -/
def R.LNK_FDI_PL_ERROR : Reg := ⟨0x101400, 0, 0, 1⟩
/-- 03 R86. -/
def R.LNK_FDI_PL_CERROR : Reg := ⟨0x101500, 0, 0, 1⟩
/-- 03 R86. -/
def R.LNK_FDI_PL_NFERROR : Reg := ⟨0x101600, 0, 0, 1⟩
/-- 03 R86. -/
def R.LNK_FDI_RECENTER : Reg := ⟨0x101700, 0, 0, 1⟩
/-- 03 R86. -/
def R.LNK_LINK_REFUSALS : Reg := ⟨0x101800, 0, 0, 1⟩
/-- 03 R86. -/
def R.LNK_DISCARDS : Reg := ⟨0x101900, 0, 0, 1⟩
/-- 03 R86. -/
def R.LNK_TIME_CONFLICTS : Reg := ⟨0x102000, 0, 0, 1⟩
/-- 03 R86. -/
def R.LNK_AGENTS_JOINED : Reg := ⟨0x103000, 0, 0, 1⟩
/-- 03 R86. -/
def R.LNK_COUNTERS_CLEAR : Reg := ⟨0x103100, 0, 0, 1⟩
/-- 03 R86. -/
def R.LNK_AGENT : Reg := ⟨0x110000, 0, 0, 1⟩
/-- 04 R100. -/
def R.MAP_STACK_SLOT : Reg := ⟨0x200000, 0, 0, 1⟩
/-- 04 R100. -/
def R.MAP_COMMIT : Reg := ⟨0x200100, 0, 0, 1⟩
/-- 04 R100. -/
def R.MAP_COMMIT_STATUS : Reg := ⟨0x200101, 0, 0, 1⟩
/-- 04 R100. -/
def R.MAP_COMMIT_REGION : Reg := ⟨0x200102, 0, 0, 1⟩
/-- 04 R100. -/
def R.MAP_GENERATION : Reg := ⟨0x200103, 0, 0, 1⟩
/-- 04 R100. -/
def R.MAP_COMMIT_TIME : Reg := ⟨0x200104, 0, 0, 1⟩
/-- 04 R100. -/
def R.MAP_COMMIT_CANCEL : Reg := ⟨0x200105, 0, 0, 1⟩
/-- 04 R100. -/
def R.MAP_REGIONS_VALID : Reg := ⟨0x200200, 0, 0, 1⟩
/-- 04 R100. -/
def R.MAP_XLATE_ADDR : Reg := ⟨0x200300, 0, 0, 1⟩
/-- 04 R100. -/
def R.MAP_XLATE_FUNCTION : Reg := ⟨0x200301, 0, 0, 1⟩
/-- 04 R100. -/
def R.MAP_XLATE_RESULT : Reg := ⟨0x200302, 0, 0, 1⟩
/-- 04 R100. -/
def R.MAP_XLATE_SLOT : Reg := ⟨0x200303, 0, 0, 1⟩
/-- 04 R100. -/
def R.MAP_MISROUTES : Reg := ⟨0x201000, 0, 0, 1⟩
/-- 04 R100. -/
def R.MAP_RGN_POOL_BASE : Reg := ⟨0x240000, 0, 0, 256⟩
/-- 04 R100. -/
def R.MAP_RGN_ROW_BASE : Reg := ⟨0x240001, 0, 0, 256⟩
/-- 04 R100. -/
def R.MAP_RGN_ROWS : Reg := ⟨0x240002, 0, 0, 256⟩
/-- 04 R100. -/
def R.MAP_RGN_CTRL : Reg := ⟨0x240003, 0, 0, 256⟩
/-- 04 R100. -/
def R.MAP_ACT_POOL_BASE : Reg := ⟨0x280000, 0, 0, 256⟩
/-- 04 R100. -/
def R.MAP_ACT_ROW_BASE : Reg := ⟨0x280001, 0, 0, 256⟩
/-- 04 R100. -/
def R.MAP_ACT_ROWS : Reg := ⟨0x280002, 0, 0, 256⟩
/-- 04 R100. -/
def R.MAP_ACT_CTRL : Reg := ⟨0x280003, 0, 0, 256⟩
/-- 04 R100. -/
def R.MAP_BANK_REPLACE : Reg := ⟨0x2C0000, 0, 0, 1⟩
/-- 04 R100. -/
def R.MAP_GRAFTS_USED : Reg := ⟨0x2C0100, 0, 0, 1⟩
/-- 05 R138. -/
def R.TRE_LEAF_SELECT : Reg := ⟨0x300000, 0, 0, 1⟩
/-- 05 R138. -/
def R.TRE_BRANCH_SELECT : Reg := ⟨0x300100, 0, 0, 1⟩
/-- 05 R138. -/
def R.TRE_GATE_SELECT : Reg := ⟨0x300200, 0, 0, 1⟩
/-- 05 R138. -/
def R.TRE_GATE_DURATION : Reg := ⟨0x300300, 100, 100, 1⟩
/-- 05 R138. -/
def R.TRE_GATE_MASK : Reg := ⟨0x300301, 0, 0, 1⟩
/-- 05 R138. -/
def R.TRE_RULE : Reg := ⟨0x310000, 0, 0, 256⟩
/-- 05 R138. -/
def R.TRE_LEAF_CTRL : Reg := ⟨0x320000, 0, 0, 1⟩
/-- 05 R138. -/
def R.TRE_LEAF_CIR : Reg := ⟨0x320001, 0, 0, 1⟩
/-- 05 R138. -/
def R.TRE_LEAF_CBS : Reg := ⟨0x320002, 0, 0, 1⟩
/-- 05 R138. -/
def R.TRE_LEAF_EIR : Reg := ⟨0x320003, 0, 0, 1⟩
/-- 05 R138. -/
def R.TRE_LEAF_EBS : Reg := ⟨0x320004, 0, 0, 1⟩
/-- 05 R138. -/
def R.TRE_LEAF_PIR : Reg := ⟨0x320005, 0, 0, 1⟩
/-- 05 R138. -/
def R.TRE_LEAF_PBS : Reg := ⟨0x320006, 0, 0, 1⟩
/-- 05 R138. -/
def R.TRE_LEAF_TIER : Reg := ⟨0x320007, 0, 0, 1⟩
/-- 05 R138. -/
def R.TRE_LEAF_OL_MAX : Reg := ⟨0x320008, 0, 0, 1⟩
/-- 05 R138. -/
def R.TRE_LEAF_OL_MIN : Reg := ⟨0x320009, 0, 0, 1⟩
/-- 05 R138. -/
def R.TRE_LEAF_OL : Reg := ⟨0x32000A, 0, 0, 1⟩
/-- 05 R138. -/
def R.TRE_LEAF_C : Reg := ⟨0x32000B, 0, 0, 1⟩
/-- 05 R138. -/
def R.TRE_LEAF_E : Reg := ⟨0x32000C, 0, 0, 1⟩
/-- 05 R138. -/
def R.TRE_LEAF_P : Reg := ⟨0x32000D, 0, 0, 1⟩
/-- 05 R138. -/
def R.TRE_LEAF_OUTSTANDING : Reg := ⟨0x32000E, 0, 0, 1⟩
/-- 05 R138. -/
def R.TRE_LEAF_DEPTH : Reg := ⟨0x32000F, 0, 0, 1⟩
/-- 05 R138. -/
def R.TRE_LEAF_DEPTH_MAX : Reg := ⟨0x320010, 0, 0, 1⟩
/-- 05 R138. -/
def R.TRE_LEAF_HEAD_DELAY : Reg := ⟨0x320011, 0, 0, 1⟩
/-- 05 R138. -/
def R.TRE_LEAF_DELAY_MAX : Reg := ⟨0x320012, 0, 0, 1⟩
/-- 05 R138. -/
def R.TRE_LEAF_UNITS : Reg := ⟨0x320013, 0, 0, 1⟩
/-- 05 R138. -/
def R.TRE_LEAF_RATE_REFUSALS : Reg := ⟨0x320014, 0, 0, 1⟩
/-- 05 R138. -/
def R.TRE_LEAF_BUCKET_RESET : Reg := ⟨0x320015, 0, 0, 1⟩
/-- 05 R138. -/
def R.TRE_LEAF_BRANCH : Reg := ⟨0x320016, 0, 0, 1⟩
/-- 05 R138. -/
def R.TRE_LEAF_WINDOW_UNITS : Reg := ⟨0x320017, 0, 0, 1⟩
/-- 05 R138. -/
def R.TRE_LEAF_CLEAR : Reg := ⟨0x320018, 0, 0, 1⟩
/-- 05 R138. -/
def R.TRE_BRANCH_CTRL : Reg := ⟨0x330000, 0, 0, 1⟩
/-- 05 R138. -/
def R.TRE_BRANCH_MIN : Reg := ⟨0x330001, 0, 0, 1⟩
/-- 05 R138. -/
def R.TRE_BRANCH_MIN_DEPTH : Reg := ⟨0x330002, 64, 64, 1⟩
/-- 05 R138. -/
def R.TRE_BRANCH_MAX : Reg := ⟨0x330003, 524288, 524288, 1⟩
/-- 05 R138. -/
def R.TRE_BRANCH_MAX_DEPTH : Reg := ⟨0x330004, 256, 256, 1⟩
/-- 05 R138. -/
def R.TRE_BRANCH_N : Reg := ⟨0x330005, 0, 0, 1⟩
/-- 05 R138. -/
def R.TRE_BRANCH_X : Reg := ⟨0x330006, 0, 0, 1⟩
/-- 05 R138. -/
def R.TRE_BRANCH_LEAVES : Reg := ⟨0x330007, 0, 0, 1⟩
/-- 05 R138. -/
def R.TRE_BRANCH_UNITS : Reg := ⟨0x330008, 0, 0, 1⟩
/-- 05 R138. -/
def R.TRE_BRANCH_BUCKET_RESET : Reg := ⟨0x330009, 0, 0, 1⟩
/-- 05 R138. -/
def R.TRE_TRUNK_MAX : Reg := ⟨0x340000, 524288, 524288, 256⟩
/-- 05 R138. -/
def R.TRE_TRUNK_MAX_DEPTH : Reg := ⟨0x340001, 1024, 1024, 256⟩
/-- 05 R138. -/
def R.TRE_TRUNK_T : Reg := ⟨0x340002, 0, 0, 256⟩
/-- 05 R138. -/
def R.TRE_GATE_ENABLE : Reg := ⟨0x340003, 0, 0, 256⟩
/-- 05 R138. -/
def R.TRE_GATE_BASE : Reg := ⟨0x340004, 0, 0, 256⟩
/-- 05 R138. -/
def R.TRE_GATE_SHADOW_LEN : Reg := ⟨0x340005, 1, 1, 256⟩
/-- 05 R138. -/
def R.TRE_GATE_SWITCH_TIME : Reg := ⟨0x340006, 0, 0, 256⟩
/-- 05 R138. -/
def R.TRE_GATE_SWITCH : Reg := ⟨0x340007, 0, 0, 256⟩
/-- 05 R138. -/
def R.TRE_GATE_ACTIVE_LEN : Reg := ⟨0x340008, 1, 1, 256⟩
/-- 05 R138. -/
def R.TRE_GATE_RALLIES : Reg := ⟨0x340009, 0, 0, 256⟩
/-- 05 R138. -/
def R.TRE_TRUNK_UNITS : Reg := ⟨0x34000A, 0, 0, 256⟩
/-- 05 R138. -/
def R.TRE_TRUNK_CROSSED : Reg := ⟨0x34000B, 0, 0, 256⟩
/-- 05 R138. -/
def R.TRE_TRUNK_BUCKET_RESET : Reg := ⟨0x34000C, 0, 0, 256⟩
/-- 05 R138. -/
def R.TRE_GATE_SWITCH_CANCEL : Reg := ⟨0x34000D, 0, 0, 256⟩
/-- 05 R138. -/
def R.TRE_GATE_SWITCH_PENDING : Reg := ⟨0x34000E, 0, 0, 256⟩
/-- 05 R138. -/
def R.TRE_PROFILE : Reg := ⟨0x350000, 0, 0, 256⟩
/-- 05 R138. -/
def R.TRE_REG_PERIOD : Reg := ⟨0x360000, 1000, 1000, 1⟩
/-- 05 R138. -/
def R.TRE_REG_HIGH : Reg := ⟨0x360001, 56, 56, 1⟩
/-- 05 R138. -/
def R.TRE_REG_LOW : Reg := ⟨0x360002, 32, 32, 1⟩
/-- 05 R138. -/
def R.TRE_REG_ALPHA : Reg := ⟨0x360003, 1, 1, 1⟩
/-- 05 R138. -/
def R.TRE_REG_BETA : Reg := ⟨0x360004, 128, 128, 1⟩
/-- 05 R138. -/
def R.TRE_LEAF_IDLE_TIMEOUT : Reg := ⟨0x360005, 1000, 1000, 1⟩
/-- 05 R138. -/
def R.TRE_GATE_GUARD : Reg := ⟨0x360006, 0, 0, 1⟩
/-- 05 R138. -/
def R.TRE_MODEL_RATE : Reg := ⟨0x370001, 0, 0, 1⟩
/-- 05 R138. -/
def R.TRE_MODEL_FLOOR : Reg := ⟨0x370002, 0, 0, 1⟩
/-- 05 R138. -/
def R.TRE_MODEL_DEPTH : Reg := ⟨0x370003, 100, 100, 1⟩
/-- 05 R138. -/
def R.TRE_ADMIT_RATIO : Reg := ⟨0x370004, 55706, 55706, 1⟩
/-- 05 R138. -/
def R.TRE_COMMITTED : Reg := ⟨0x370005, 0, 0, 1⟩
/-- 05 R138. -/
def R.TRE_SHORTFALL : Reg := ⟨0x370006, 0, 0, 1⟩
/-- 05 R138. -/
def R.TRE_ADMIT_REFUSALS : Reg := ⟨0x370007, 0, 0, 1⟩
/-- 05 R138. -/
def R.TRE_TIER_SCALE : Reg := ⟨0x370100, 65536, 65536, 1⟩
/-- 05 R138. -/
def R.TRE_MODEL_EFF_INIT : Reg := ⟨0x370200, 52429, 52429, 1⟩
/-- 05 R138. -/
def R.TRE_TIER_COMMITTED : Reg := ⟨0x370300, 0, 0, 1⟩
/-- 05 R138. -/
def R.TRE_MODEL_FACTORS : Reg := ⟨0x371000, 0, 0, 1⟩
/-- 05 R138. -/
def R.TRE_FUN_LEAF_QUOTA : Reg := ⟨0x380000, 16384, 16384, 256⟩
/-- 05 R138. -/
def R.TRE_FUN_LEAVES : Reg := ⟨0x380001, 0, 0, 256⟩
/-- 05 R138. -/
def R.TRE_FUN_ADMIT_REFUSALS : Reg := ⟨0x380002, 0, 0, 256⟩
/-- 05 R138. -/
def R.TRE_FUN_RATE_REFUSALS : Reg := ⟨0x380003, 0, 0, 256⟩
/-- 05 R138. -/
def R.TRE_LEAF_CREATE : Reg := ⟨0x390000, 0, 0, 1⟩
/-- 05 R138. -/
def R.TRE_CHARGES_DROPPED : Reg := ⟨0x390001, 0, 0, 1⟩
/-- 05 R138. -/
def R.TRE_LEAVES_FREE : Reg := ⟨0x390002, 262144, 262144, 1⟩
/-- 06 R167. -/
def R.HOM_FUN_COHERENT : Reg := ⟨0x400000, 0, 0, 1⟩
/-- 06 R167. -/
def R.HOM_SNOOP_TIMEOUT : Reg := ⟨0x400200, 10, 10, 1⟩
/-- 06 R167. -/
def R.HOM_ACK_TIMEOUT : Reg := ⟨0x400201, 10, 10, 1⟩
/-- 06 R167. -/
def R.HOM_RESPONSE_TIMEOUT : Reg := ⟨0x400202, 20, 20, 1⟩
/-- 06 R167. -/
def R.HOM_FILTER_ENTRIES : Reg := ⟨0x400300, 0, 0, 1⟩
/-- 06 R167. -/
def R.HOM_FILTER_COARSE : Reg := ⟨0x400301, 0, 0, 1⟩
/-- 06 R167. -/
def R.HOM_BACKINVALS : Reg := ⟨0x400302, 0, 0, 1⟩
/-- 06 R167. -/
def R.HOM_PRUNES : Reg := ⟨0x400303, 0, 0, 1⟩
/-- 06 R167. -/
def R.HOM_SET_RETRIES : Reg := ⟨0x400304, 0, 0, 1⟩
/-- 06 R167. -/
def R.HOM_SET_RETRY_MAX : Reg := ⟨0x400305, 0, 0, 1⟩
/-- 06 R167. -/
def R.HOM_STALE_RESPONSES : Reg := ⟨0x400306, 0, 0, 1⟩
/-- 06 R167. -/
def R.HOM_OPEN_TRANSACTIONS : Reg := ⟨0x400400, 0, 0, 1⟩
/-- 06 R167. -/
def R.HOM_OPEN_MAX : Reg := ⟨0x400401, 0, 0, 1⟩
/-- 06 R167. -/
def R.HOM_WB_CROSSINGS : Reg := ⟨0x400500, 0, 0, 1⟩
/-- 06 R167. -/
def R.HOM_UPGRADE_FAILS : Reg := ⟨0x400501, 0, 0, 1⟩
/-- 06 R167. -/
def R.HOM_ACK_TIMEOUTS : Reg := ⟨0x400502, 0, 0, 1⟩
/-- 06 R167. -/
def R.HOM_ATOMICS : Reg := ⟨0x400600, 0, 0, 1⟩
/-- 06 R167. -/
def R.HOM_ATOMIC_HITS : Reg := ⟨0x400601, 0, 0, 1⟩
/-- 06 R167. -/
def R.HOM_HINTS_ACCEPTED : Reg := ⟨0x400700, 0, 0, 1⟩
/-- 06 R167. -/
def R.HOM_HINTS_DECLINED : Reg := ⟨0x400701, 0, 0, 1⟩
/-- 06 R167. -/
def R.HOM_HINTS_DROPPED : Reg := ⟨0x400702, 0, 0, 1⟩
/-- 06 R167. -/
def R.HOM_POSSESSION_OVERFLOWS : Reg := ⟨0x400800, 0, 0, 1⟩
/-- 06 R167. -/
def R.HOM_FILTER_CORRECTED : Reg := ⟨0x400900, 0, 0, 1⟩
/-- 06 R167. -/
def R.HOM_FILTER_UNCORRECTABLE : Reg := ⟨0x400901, 0, 0, 1⟩
/-- 06 R167. -/
def R.HOM_FILTER_PROBE_ADDR : Reg := ⟨0x401000, 0, 0, 1⟩
/-- 06 R167. -/
def R.HOM_FILTER_PROBE_STATE : Reg := ⟨0x401001, 0, 0, 1⟩
/-- 06 R167. -/
def R.HOM_FILTER_PROBE_HOLDERS : Reg := ⟨0x401002, 0, 0, 1⟩
/-- 06 R167. -/
def R.HOM_COUNTERS_CLEAR : Reg := ⟨0x401100, 0, 0, 1⟩
/-- 06 R167. -/
def R.HOM_CELL_STATE : Reg := ⟨0x410000, 0, 0, 256⟩
/-- 06 R167. -/
def R.HOM_CELL_CMD : Reg := ⟨0x410001, 0, 0, 256⟩
/-- 06 R167. -/
def R.HOM_POSSESSION_WINDOW : Reg := ⟨0x410002, 200, 200, 256⟩
/-- 06 R167. -/
def R.HOM_CELL_FALLS : Reg := ⟨0x410003, 0, 0, 256⟩
/-- 06 R167. -/
def R.HOM_CELL_FALL_CAUSE : Reg := ⟨0x410004, 0, 0, 256⟩
/-- 06 R167. -/
def R.HOM_CELL_FALL_AGENT : Reg := ⟨0x410005, 65535, 65535, 256⟩
/-- 06 R167. -/
def R.HOM_CELL_POISONED : Reg := ⟨0x410006, 0, 0, 256⟩
/-- 06 R167. -/
def R.HOM_CELL_AGENTS : Reg := ⟨0x410007, 0, 0, 256⟩
/-- 07 R199. -/
def R.ENG_DRAIN_HIGH : Reg := ⟨0x500000, 48, 48, 1⟩
/-- 07 R199. -/
def R.ENG_DRAIN_LOW : Reg := ⟨0x500001, 16, 16, 1⟩
/-- 07 R199. -/
def R.ENG_MERGE_TIMEOUT : Reg := ⟨0x500002, 250, 250, 1⟩
/-- 07 R199. -/
def R.ENG_AGE_CAP : Reg := ⟨0x500003, 2000, 2000, 1⟩
/-- 07 R199. -/
def R.ENG_RH_THRESHOLD : Reg := ⟨0x500004, 2048, 2048, 1⟩
/-- 07 R199. -/
def R.ENG_QUAL_ENABLE : Reg := ⟨0x500100, 1, 1, 1⟩
/-- 07 R199. -/
def R.ENG_QUAL_PERIOD : Reg := ⟨0x500101, 86400, 86400, 1⟩
/-- 07 R199. -/
def R.ENG_QUAL_SETTLE : Reg := ⟨0x500102, 1000, 1000, 1⟩
/-- 07 R199. -/
def R.ENG_QUAL_BAND : Reg := ⟨0x500103, 5, 5, 1⟩
/-- 07 R199. -/
def R.ENG_QUAL_PASSES : Reg := ⟨0x500104, 0, 0, 1⟩
/-- 07 R199. -/
def R.ENG_QUAL_FAILS : Reg := ⟨0x500105, 0, 0, 1⟩
/-- 07 R199. -/
def R.ENG_CLASS_FALLBACKS : Reg := ⟨0x500106, 0, 0, 1⟩
/-- 07 R199. -/
def R.ENG_BANKS_TIGHTENED : Reg := ⟨0x500107, 0, 0, 1⟩
/-- 07 R199. -/
def R.ENG_CLASS_LOG : Reg := ⟨0x500200, 0, 0, 1⟩
/-- 07 R199. -/
def R.ENG_CLASS_LOG_NEXT : Reg := ⟨0x500201, 0, 0, 1⟩
/-- 07 R199. -/
def R.ENG_COUNTERS_CLEAR : Reg := ⟨0x500300, 0, 0, 1⟩
/-- 07 R199. -/
def R.ENG_EVENT_CHANNELS : Reg := ⟨0x500400, 0, 0, 1⟩
/-- 07 R199. -/
def R.ENG_T_NOMINAL : Reg := ⟨0x501000, 0, 0, 1⟩
/-- 07 R199. -/
def R.ENG_RQ_DEPTH : Reg := ⟨0x510000, 0, 0, 256⟩
/-- 07 R199. -/
def R.ENG_WQ_DEPTH : Reg := ⟨0x510001, 0, 0, 256⟩
/-- 07 R199. -/
def R.ENG_MERGE_OPEN : Reg := ⟨0x510002, 0, 0, 256⟩
/-- 07 R199. -/
def R.ENG_HOME_SLOTS : Reg := ⟨0x510003, 0, 0, 256⟩
/-- 07 R199. -/
def R.ENG_MODE : Reg := ⟨0x510004, 0, 0, 256⟩
/-- 07 R199. -/
def R.ENG_READS : Reg := ⟨0x510005, 0, 0, 256⟩
/-- 07 R199. -/
def R.ENG_WRITES : Reg := ⟨0x510006, 0, 0, 256⟩
/-- 07 R199. -/
def R.ENG_PAGE_HITS : Reg := ⟨0x510007, 0, 0, 256⟩
/-- 07 R199. -/
def R.ENG_PAGE_MISSES : Reg := ⟨0x510008, 0, 0, 256⟩
/-- 07 R199. -/
def R.ENG_PAGE_CONFLICTS : Reg := ⟨0x510009, 0, 0, 256⟩
/-- 07 R199. -/
def R.ENG_TWIN_OPENS : Reg := ⟨0x51000A, 0, 0, 256⟩
/-- 07 R199. -/
def R.ENG_MERGES_FULL : Reg := ⟨0x51000B, 0, 0, 256⟩
/-- 07 R199. -/
def R.ENG_RMW : Reg := ⟨0x51000C, 0, 0, 256⟩
/-- 07 R199. -/
def R.ENG_DRAINS : Reg := ⟨0x51000D, 0, 0, 256⟩
/-- 07 R199. -/
def R.ENG_AGED : Reg := ⟨0x51000E, 0, 0, 256⟩
/-- 07 R199. -/
def R.ENG_AGE_MAX : Reg := ⟨0x51000F, 0, 0, 256⟩
/-- 07 R199. -/
def R.ENG_FORWARDS : Reg := ⟨0x510010, 0, 0, 256⟩
/-- 07 R199. -/
def R.ENG_RH_SATURATIONS : Reg := ⟨0x510011, 0, 0, 256⟩
/-- 07 R199. -/
def R.ENG_POISON_WRITES : Reg := ⟨0x510012, 0, 0, 256⟩
/-- 07 R199. -/
def R.ENG_BANK_CLASS : Reg := ⟨0x540000, 0, 0, 256⟩
/-- 07 R199. -/
def R.ENG_BANK_CLASS_CAP : Reg := ⟨0x544000, 3, 3, 256⟩
/-- 07 R199. -/
def R.ENG_RH_REFT : Reg := ⟨0x548000, 0, 0, 256⟩
/-- 08 R230. -/
def R.CDI_RETRAIN_PERIOD : Reg := ⟨0x600000, 10000, 10000, 1⟩
/-- 08 R230. -/
def R.CDI_TRACK_GAP : Reg := ⟨0x600001, 5000, 5000, 1⟩
/-- 08 R230. -/
def R.CDI_STATUS_POLL : Reg := ⟨0x600002, 1000, 1000, 1⟩
/-- 08 R230. -/
def R.CDI_LANE_ERR_LIMIT : Reg := ⟨0x600003, 16, 16, 1⟩
/-- 08 R230. -/
def R.CDI_LANE_WINDOW : Reg := ⟨0x600004, 1000, 1000, 1⟩
/-- 08 R230. -/
def R.CDI_CMD_ERR_LIMIT : Reg := ⟨0x600005, 2, 2, 1⟩
/-- 08 R230. -/
def R.CDI_TRAIN_MODE : Reg := ⟨0x600006, 1, 1, 1⟩
/-- 08 R230. -/
def R.CDI_RETRAIN_ENABLE : Reg := ⟨0x600007, 1, 1, 1⟩
/-- 08 R230. -/
def R.CDI_TRAIN_RESULT : Reg := ⟨0x600100, 0, 0, 1⟩
/-- 08 R230. -/
def R.CDI_TRAIN_TIME : Reg := ⟨0x600101, 0, 0, 1⟩
/-- 08 R230. -/
def R.CDI_PC_STATE : Reg := ⟨0x610000, 0, 0, 256⟩
/-- 08 R230. -/
def R.CDI_LANE_MAP : Reg := ⟨0x610001, 0, 0, 256⟩
/-- 08 R230. -/
def R.CDI_ERASURES : Reg := ⟨0x610002, 0, 0, 256⟩
/-- 08 R230. -/
def R.CDI_SPARES_RETIRED : Reg := ⟨0x610003, 0, 0, 256⟩
/-- 08 R230. -/
def R.CDI_RETRAINS : Reg := ⟨0x610004, 0, 0, 256⟩
/-- 08 R230. -/
def R.CDI_RETRAIN_FAILS : Reg := ⟨0x610005, 0, 0, 256⟩
/-- 08 R230. -/
def R.CDI_RETRAIN_LATE : Reg := ⟨0x610006, 0, 0, 256⟩
/-- 08 R230. -/
def R.CDI_HOLD_MAX : Reg := ⟨0x610007, 0, 0, 256⟩
/-- 08 R230. -/
def R.CDI_PC_DEGRADED_LANE : Reg := ⟨0x610008, 255, 255, 256⟩
/-- 08 R230. -/
def R.CDI_RD_DELAY : Reg := ⟨0x630000, 0, 0, 256⟩
/-- 08 R230. -/
def R.CDI_WR_DELAY : Reg := ⟨0x634000, 0, 0, 256⟩
/-- 08 R230. -/
def R.CDI_RD_VREF : Reg := ⟨0x638000, 0, 0, 256⟩
/-- 08 R230. -/
def R.CDI_WR_VREF : Reg := ⟨0x63C000, 0, 0, 256⟩
/-- 08 R230. -/
def R.CDI_SLICE_TEMP : Reg := ⟨0x640000, 0, 0, 256⟩
/-- 08 R230. -/
def R.CDI_CMD_SPARES : Reg := ⟨0x644000, 0, 0, 256⟩
/-- 08 R230. -/
def R.CDI_CMD_ERRORS : Reg := ⟨0x644001, 0, 0, 256⟩
/-- 08 R230. -/
def R.CDI_CMDS_IGNORED : Reg := ⟨0x644002, 0, 0, 256⟩
/-- 08 R230. -/
def R.CDI_LINES_POISONED : Reg := ⟨0x644003, 0, 0, 256⟩
/-- 08 R230. -/
def R.CDI_CHANNEL_STATE : Reg := ⟨0x644004, 0, 0, 256⟩
/-- 08 R230. -/
def R.CDI_MR_READ : Reg := ⟨0x660000, 0, 0, 1⟩
/-- 08 R230. -/
def R.CDI_MR_VALUE : Reg := ⟨0x660001, 0, 0, 1⟩
/-- 08 R230. -/
def R.CDI_COUNTERS_CLEAR : Reg := ⟨0x660100, 0, 0, 1⟩
/-- 09 R257. -/
def R.RFH_MODE : Reg := ⟨0x700000, 0, 0, 1⟩
/-- 09 R257. -/
def R.RFH_MODE_ACTIVE : Reg := ⟨0x700001, 0, 0, 1⟩
/-- 09 R257. -/
def R.RFH_SCALE_UP_2 : Reg := ⟨0x700100, 1344, 1344, 1⟩
/-- 09 R257. -/
def R.RFH_SCALE_UP_4 : Reg := ⟨0x700101, 1504, 1504, 1⟩
/-- 09 R257. -/
def R.RFH_SCALE_HOLD : Reg := ⟨0x700102, 100, 100, 1⟩
/-- 09 R257. -/
def R.RFH_TEMP_POLL : Reg := ⟨0x700103, 100, 100, 1⟩
/-- 09 R257. -/
def R.RFH_THROTTLE_START : Reg := ⟨0x700200, 1600, 1600, 1⟩
/-- 09 R257. -/
def R.RFH_THROTTLE_HOLD : Reg := ⟨0x700201, 1, 1, 1⟩
/-- 09 R257. -/
def R.RFH_TRIP_CLEAR : Reg := ⟨0x700202, 1600, 1600, 1⟩
/-- 09 R257. -/
def R.RFH_TRIP_HOLD : Reg := ⟨0x700203, 10, 10, 1⟩
/-- 09 R257. -/
def R.RFH_TRIP_STATE : Reg := ⟨0x700204, 0, 0, 1⟩
/-- 09 R257. -/
def R.RFH_TRIPS : Reg := ⟨0x700205, 0, 0, 1⟩
/-- 09 R257. -/
def R.RFH_TRIP_LAST : Reg := ⟨0x700206, 0, 0, 1⟩
/-- 09 R257. -/
def R.RFH_HOTTEST : Reg := ⟨0x700300, 0, 0, 1⟩
/-- 09 R257. -/
def R.RFH_HOTTEST_SOURCE : Reg := ⟨0x700301, 0, 0, 1⟩
/-- 09 R257. -/
def R.RFH_BLOCK_TEMP : Reg := ⟨0x700400, 0, 0, 1⟩
/-- 09 R257. -/
def R.RFH_THETA : Reg := ⟨0x700500, 0, 0, 1⟩
/-- 09 R257. -/
def R.RFH_ALLOWANCE : Reg := ⟨0x700600, 32, 32, 1⟩
/-- 09 R257. -/
def R.RFH_SLEW_EXCEEDED : Reg := ⟨0x700700, 0, 0, 1⟩
/-- 09 R257. -/
def R.RFH_SENSOR_INVALID : Reg := ⟨0x700701, 0, 0, 1⟩
/-- 09 R257. -/
def R.RFH_SLICE_SCALE : Reg := ⟨0x701000, 0, 0, 256⟩
/-- 09 R257. -/
def R.RFH_SLICE_PASS : Reg := ⟨0x703000, 0, 0, 256⟩
/-- 09 R257. -/
def R.RFH_REFPB : Reg := ⟨0x705000, 0, 0, 256⟩
/-- 09 R257. -/
def R.RFH_REFAB : Reg := ⟨0x705001, 0, 0, 256⟩
/-- 09 R257. -/
def R.RFH_REF_URGENT : Reg := ⟨0x705002, 0, 0, 256⟩
/-- 09 R257. -/
def R.RFH_REF_LATE : Reg := ⟨0x705003, 0, 0, 256⟩
/-- 09 R257. -/
def R.RFH_REF_COVER : Reg := ⟨0x705004, 0, 0, 256⟩
/-- 09 R257. -/
def R.RFH_CATCHUPS : Reg := ⟨0x705005, 0, 0, 256⟩
/-- 09 R257. -/
def R.RFH_BIN_SELECT : Reg := ⟨0x710000, 0, 0, 1⟩
/-- 09 R257. -/
def R.RFH_BIN_BANK : Reg := ⟨0x710001, 0, 0, 1⟩
/-- 09 R257. -/
def R.RFH_BIN_COUNT : Reg := ⟨0x710100, 0, 0, 1⟩
/-- 09 R257. -/
def R.RFH_BIN_MAX : Reg := ⟨0x710200, 3, 3, 1⟩
/-- 09 R257. -/
def R.RFH_BIN_RESET : Reg := ⟨0x710201, 0, 0, 1⟩
/-- 09 R257. -/
def R.RFH_BIN_SAVE_PERIOD : Reg := ⟨0x710202, 600, 600, 1⟩
/-- 09 R257. -/
def R.RFH_BIN_MAX_AGE : Reg := ⟨0x710203, 30, 30, 1⟩
/-- 09 R257. -/
def R.RFH_BIN_LOADED : Reg := ⟨0x710204, 0, 0, 1⟩
/-- 09 R257. -/
def R.RFH_PROF_ENABLE : Reg := ⟨0x710300, 1, 1, 1⟩
/-- 09 R257. -/
def R.RFH_PROF_PARALLEL : Reg := ⟨0x710301, 8, 8, 1⟩
/-- 09 R257. -/
def R.RFH_PROF_WALK_MIN : Reg := ⟨0x710302, 24, 24, 1⟩
/-- 09 R257. -/
def R.RFH_PROF_LOOSENED : Reg := ⟨0x710303, 0, 0, 1⟩
/-- 09 R257. -/
def R.RFH_PROF_TIGHTENED : Reg := ⟨0x710304, 0, 0, 1⟩
/-- 09 R257. -/
def R.RFH_PROF_WEAK : Reg := ⟨0x710305, 0, 0, 1⟩
/-- 09 R257. -/
def R.RFH_PROF_ABANDONED : Reg := ⟨0x710306, 0, 0, 1⟩
/-- 09 R257. -/
def R.RFH_PROF_WALKS : Reg := ⟨0x710307, 0, 0, 1⟩
/-- 09 R257. -/
def R.RFH_PROF_PARKED : Reg := ⟨0x710308, 0, 0, 1⟩
/-- 09 R257. -/
def R.RFH_COUNTERS_CLEAR : Reg := ⟨0x711000, 0, 0, 1⟩
/-- 10 R288. -/
def R.INT_SCRUB_ENABLE : Reg := ⟨0x800000, 1, 1, 1⟩
/-- 10 R288. -/
def R.INT_SCRUB_PERIOD : Reg := ⟨0x800001, 86400, 86400, 1⟩
/-- 10 R288. -/
def R.INT_SCRUB_PASSES : Reg := ⟨0x800002, 0, 0, 1⟩
/-- 10 R288. -/
def R.INT_LAST_SUSPECT : Reg := ⟨0x800003, 65535, 65535, 1⟩
/-- 10 R288. -/
def R.INT_RECUR_ALERT : Reg := ⟨0x800100, 64, 64, 1⟩
/-- 10 R288. -/
def R.INT_HARD_LIMIT : Reg := ⟨0x800101, 3, 3, 1⟩
/-- 10 R288. -/
def R.INT_BANK_RECOMMEND : Reg := ⟨0x800102, 8, 8, 1⟩
/-- 10 R288. -/
def R.INT_RECUR_ENTRIES : Reg := ⟨0x800103, 0, 0, 1⟩
/-- 10 R288. -/
def R.INT_LOG_COUNT : Reg := ⟨0x800200, 0, 0, 1⟩
/-- 10 R288. -/
def R.INT_LOG_NEXT : Reg := ⟨0x800201, 0, 0, 1⟩
/-- 10 R288. -/
def R.INT_LOG_SEQ : Reg := ⟨0x800202, 0, 0, 1⟩
/-- 10 R288. -/
def R.INT_LOG_SELECT : Reg := ⟨0x800203, 0, 0, 1⟩
/-- 10 R288. -/
def R.INT_LOG_RECORD : Reg := ⟨0x800204, 0, 0, 1⟩
/-- 10 R288. -/
def R.INT_LOG_LOST : Reg := ⟨0x800205, 0, 0, 1⟩
/-- 10 R288. -/
def R.INT_RETIRE_ROW : Reg := ⟨0x800300, 0, 0, 1⟩
/-- 10 R288. -/
def R.INT_RETIRE_BANK : Reg := ⟨0x800301, 0, 0, 1⟩
/-- 10 R288. -/
def R.INT_REPAIRS_DONE : Reg := ⟨0x800302, 0, 0, 1⟩
/-- 10 R288. -/
def R.INT_TEST_LOC : Reg := ⟨0x800400, 0, 0, 1⟩
/-- 10 R288. -/
def R.INT_TEST_DATA : Reg := ⟨0x800401, 0, 0, 1⟩
/-- 10 R288. -/
def R.INT_TEST_CHECK : Reg := ⟨0x800402, 0, 0, 1⟩
/-- 10 R288. -/
def R.INT_TEST_CMD : Reg := ⟨0x800403, 0, 0, 1⟩
/-- 10 R288. -/
def R.INT_TEST_RESULT : Reg := ⟨0x800404, 0, 0, 1⟩
/-- 10 R288. -/
def R.INT_TEST_SYNDROME : Reg := ⟨0x800405, 0, 0, 1⟩
/-- 10 R288. -/
def R.INT_COUNTERS_CLEAR : Reg := ⟨0x800500, 0, 0, 1⟩
/-- 10 R288. -/
def R.INT_CORRECTED : Reg := ⟨0x810000, 0, 0, 256⟩
/-- 10 R288. -/
def R.INT_UNCORRECTABLE : Reg := ⟨0x810001, 0, 0, 256⟩
/-- 10 R288. -/
def R.INT_POISON_READS : Reg := ⟨0x810002, 0, 0, 256⟩
/-- 10 R288. -/
def R.INT_ERASURE_FILLS : Reg := ⟨0x810003, 0, 0, 256⟩
/-- 10 R288. -/
def R.INT_WRITEBACKS : Reg := ⟨0x810004, 0, 0, 256⟩
/-- 10 R288. -/
def R.INT_WB_SKIPPED : Reg := ⟨0x810005, 0, 0, 256⟩
/-- 10 R288. -/
def R.INT_REPEATS : Reg := ⟨0x810006, 0, 0, 256⟩
/-- 10 R288. -/
def R.INT_HARD : Reg := ⟨0x810007, 0, 0, 256⟩
/-- 10 R288. -/
def R.INT_REPAIR_STATE : Reg := ⟨0x810008, 0, 0, 256⟩
/-- 10 R288. -/
def R.INT_REPAIR_PROGRESS : Reg := ⟨0x810009, 0, 0, 256⟩
/-- 10 R288. -/
def R.INT_SCRUB_ROW : Reg := ⟨0x81000A, 0, 0, 256⟩
/-- 10 R288. -/
def R.INT_SUSPECT_QUEUE : Reg := ⟨0x81000B, 0, 0, 256⟩
/-- 10 R288. -/
def R.INT_REPAIR_REFUSAL : Reg := ⟨0x81000C, 0, 0, 256⟩
/-- 10 R288. -/
def R.INT_SPARE_STATE : Reg := ⟨0x820000, 0, 0, 256⟩
/-- 11 R319. -/
def R.SLP_STATE : Reg := ⟨0x900000, 0, 0, 1⟩
/-- 11 R319. -/
def R.SLP_GROUPS_ASLEEP : Reg := ⟨0x900001, 0, 0, 1⟩
/-- 11 R319. -/
def R.SLP_ENTRY_POINT : Reg := ⟨0x900002, 0, 0, 1⟩
/-- 11 R319. -/
def R.SLP_PWR_CMD : Reg := ⟨0x900100, 0, 0, 1⟩
/-- 11 R319. -/
def R.SLP_PWR_RESULT : Reg := ⟨0x900101, 0, 0, 1⟩
/-- 11 R319. -/
def R.SLP_STATE_ALLOW : Reg := ⟨0x900102, 7, 7, 1⟩
/-- 11 R319. -/
def R.SLP_ENTRY_LIMIT : Reg := ⟨0x900103, 20, 20, 1⟩
/-- 11 R319. -/
def R.SLP_WAKE_AT : Reg := ⟨0x900104, 0, 0, 1⟩
/-- 11 R319. -/
def R.SLP_A1_ENABLE : Reg := ⟨0x900105, 1, 1, 1⟩
/-- 11 R319. -/
def R.SLP_ENTRY_SEQ : Reg := ⟨0x900200, 0, 0, 1⟩
/-- 11 R319. -/
def R.SLP_REPLAY_DEPTH : Reg := ⟨0x900201, 0, 0, 1⟩
/-- 11 R319. -/
def R.SLP_REPLAY_MAX : Reg := ⟨0x900202, 0, 0, 1⟩
/-- 11 R319. -/
def R.SLP_REPLAY_FULL : Reg := ⟨0x900203, 0, 0, 1⟩
/-- 11 R319. -/
def R.SLP_REFUSALS : Reg := ⟨0x901000, 0, 0, 256⟩
/-- 11 R319. -/
def R.SLP_ABORTS : Reg := ⟨0x901300, 0, 0, 256⟩
/-- 11 R319. -/
def R.SLP_LAST_REFUSER : Reg := ⟨0x901600, 0, 0, 1⟩
/-- 11 R319. -/
def R.SLP_ENTRIES : Reg := ⟨0x901700, 0, 0, 1⟩
/-- 11 R319. -/
def R.SLP_EXIT_LAST : Reg := ⟨0x901800, 0, 0, 1⟩
/-- 11 R319. -/
def R.SLP_SUSPECT_BANK : Reg := ⟨0x902000, 65535, 65535, 1⟩
/-- 11 R319. -/
def R.SLP_SUSPECT_COUNT : Reg := ⟨0x902001, 0, 0, 1⟩
/-- 11 R319. -/
def R.SLP_SAPLING_FAILS : Reg := ⟨0x902002, 0, 0, 1⟩
/-- 11 R319. -/
def R.SLP_COUNT_MISMATCHES : Reg := ⟨0x902003, 0, 0, 1⟩
/-- 11 R319. -/
def R.SLP_SR_COUNT_LAST : Reg := ⟨0x902100, 0, 0, 256⟩
/-- 11 R319. -/
def R.SLP_TIME : Reg := ⟨0x910000, 0, 0, 1⟩
/-- 11 R319. -/
def R.SLP_TIME_QUALITY : Reg := ⟨0x910001, 3, 3, 1⟩
/-- 11 R319. -/
def R.SLP_TIME_ERROR : Reg := ⟨0x910002, 0, 0, 1⟩
/-- 11 R319. -/
def R.SLP_TIME_LAST_OFFSET : Reg := ⟨0x910003, 0, 0, 1⟩
/-- 11 R319. -/
def R.SLP_TIME_FREQ : Reg := ⟨0x910004, 0, 0, 1⟩
/-- 11 R319. -/
def R.SLP_TIME_STEPS : Reg := ⟨0x910005, 0, 0, 1⟩
/-- 11 R319. -/
def R.SLP_DISC_WINDOW : Reg := ⟨0x910006, 100, 100, 1⟩
/-- 11 R319. -/
def R.SLP_TSYNC_LOSS : Reg := ⟨0x910007, 3, 3, 1⟩
/-- 11 R319. -/
def R.SLP_ERR_LIMIT : Reg := ⟨0x910008, 10000000, 10000000, 1⟩
/-- 11 R319. -/
def R.SLP_HOLD_TRIM_25 : Reg := ⟨0x910009, 0, 0, 1⟩
/-- 11 R319. -/
def R.SLP_HOLD_TRIM_XTAL : Reg := ⟨0x91000A, 0, 0, 1⟩
/-- 11 R319. -/
def R.SLP_UPTIME_WALL : Reg := ⟨0x910100, 0, 0, 1⟩
/-- 11 R319. -/
def R.SLP_UPTIME_BEATS : Reg := ⟨0x910101, 0, 0, 1⟩
/-- 11 R319. -/
def R.SLP_LAST_SLEEP_WALL : Reg := ⟨0x910102, 0, 0, 1⟩
/-- 11 R319. -/
def R.SLP_LAST_SLEEP_BEATS : Reg := ⟨0x910103, 0, 0, 1⟩
/-- 11 R319. -/
def R.SLP_SLEEP_WALL_TOTAL : Reg := ⟨0x910104, 0, 0, 1⟩
/-- 11 R319. -/
def R.SLP_COUNTERS_CLEAR : Reg := ⟨0x910200, 0, 0, 1⟩
/-- 12 R360. -/
def R.MGT_SCHEMA_VERSION : Reg := ⟨0xA00000, 768, 768, 1⟩
/-- 12 R360. -/
def R.MGT_DICT_LOCK : Reg := ⟨0xA00100, 0, 0, 1⟩
/-- 12 R360. -/
def R.MGT_DICT_LOCKED : Reg := ⟨0xA00101, 0, 0, 1⟩
/-- 12 R360. -/
def R.MGT_PERSIST_PERIOD : Reg := ⟨0xA00200, 1000, 1000, 1⟩
/-- 12 R360. -/
def R.MGT_PERSIST_ERASE : Reg := ⟨0xA00201, 0, 0, 1⟩
/-- 12 R360. -/
def R.MGT_PERSIST_INVALID : Reg := ⟨0xA00202, 0, 0, 1⟩
/-- 12 R360. -/
def R.MGT_REFUSALS : Reg := ⟨0xA00300, 0, 0, 1⟩
/-- 12 R360. -/
def R.MGT_DESCRIBE : Reg := ⟨0xA00400, 0, 0, 1⟩
/-- 12 R360. -/
def R.MGT_DESCRIPTOR : Reg := ⟨0xA00401, 0, 0, 1⟩
/-- 12 R360. -/
def R.MGT_IANA_PEN : Reg := ⟨0xA01000, 0, 0, 1⟩
/-- 12 R360. -/
def R.MGT_EID : Reg := ⟨0xA01001, 0, 0, 1⟩
/-- 12 R360. -/
def R.MGT_MANAGER_EID : Reg := ⟨0xA01002, 0, 0, 1⟩
/-- 12 R360. -/
def R.MGT_OBSERVER_EIDS : Reg := ⟨0xA01003, 0, 0, 1⟩
/-- 12 R360. -/
def R.MGT_I3C_ADDRESS : Reg := ⟨0xA01004, 0, 0, 1⟩
/-- 12 R360. -/
def R.MGT_SB_STATUS : Reg := ⟨0xA01100, 0, 0, 1⟩
/-- 12 R360. -/
def R.MGT_SB_FLUSH : Reg := ⟨0xA01101, 0, 0, 1⟩
/-- 12 R360. -/
def R.MGT_SB_CORRECTED : Reg := ⟨0xA01102, 0, 0, 1⟩
/-- 12 R360. -/
def R.MGT_SB_BAD_FRAMES : Reg := ⟨0xA01103, 0, 0, 1⟩
/-- 12 R360. -/
def R.MGT_SB_OVERRUNS : Reg := ⟨0xA01104, 0, 0, 1⟩
/-- 12 R360. -/
def R.MGT_SB_DISCARDS : Reg := ⟨0xA01105, 0, 0, 1⟩
/-- 12 R360. -/
def R.MGT_MBX_BIND : Reg := ⟨0xA10000, 0, 0, 256⟩
/-- 12 R360. -/
def R.MGT_MBX_DATA : Reg := ⟨0xA10001, 0, 0, 256⟩
/-- 12 R360. -/
def R.MGT_MBX_STATUS : Reg := ⟨0xA10002, 0, 0, 256⟩
/-- 12 R360. -/
def R.MGT_MBX_TIMEOUT : Reg := ⟨0xA10003, 100, 100, 256⟩
/-- 12 R360. -/
def R.MGT_MBX_LOCK : Reg := ⟨0xA10004, 0, 0, 256⟩
/-- 12 R360. -/
def R.MGT_MBX_MODE : Reg := ⟨0xA10005, 0, 0, 256⟩
/-- 12 R360. -/
def R.MGT_MBX_TABLE_LOCK : Reg := ⟨0xA14000, 0, 0, 1⟩
/-- 12 R360. -/
def R.MGT_MBX_TABLE_LOCKED : Reg := ⟨0xA14001, 0, 0, 1⟩
/-- 12 R360. -/
def R.MGT_MBX_PENDING : Reg := ⟨0xA14100, 0, 0, 1⟩
/-- 12 R360. -/
def R.MGT_MASTER_STATE : Reg := ⟨0xA14200, 0, 0, 1⟩
/-- 12 R360. -/
def R.MGT_MASTER_SLEEP : Reg := ⟨0xA14300, 0, 0, 1⟩
/-- 12 R360. -/
def R.MGT_UMPIRE_STATE : Reg := ⟨0xA20000, 0, 0, 1⟩
/-- 12 R360. -/
def R.MGT_UMPIRE_RESETS : Reg := ⟨0xA20001, 0, 0, 1⟩
/-- 12 R360. -/
def R.MGT_UMPIRE_RESET_CAUSE : Reg := ⟨0xA20002, 0, 0, 1⟩
/-- 12 R360. -/
def R.MGT_WDOG_PERIOD : Reg := ⟨0xA20003, 100, 100, 1⟩
/-- 12 R360. -/
def R.MGT_UMPIRE_ESCALATE : Reg := ⟨0xA20004, 3, 3, 1⟩
/-- 12 R360. -/
def R.MGT_UMPIRE_RESTART : Reg := ⟨0xA20005, 0, 0, 1⟩
/-- 12 R360. -/
def R.MGT_MRAM_WEAR : Reg := ⟨0xA30100, 0, 0, 1⟩
/-- 12 R360. -/
def R.MGT_MRAM_CORRECTED : Reg := ⟨0xA30200, 0, 0, 1⟩
/-- 12 R360. -/
def R.MGT_MRAM_UNCORRECTABLE : Reg := ⟨0xA30201, 0, 0, 1⟩
/-- 12 R360. -/
def R.MGT_SPDM_REQUESTER : Reg := ⟨0xA40000, 0, 0, 1⟩
/-- 12 R360. -/
def R.MGT_SPDM_ERRORS : Reg := ⟨0xA40001, 0, 0, 1⟩
/-- 12 R360. -/
def R.MGT_ID_PUBKEY : Reg := ⟨0xA40100, 0, 0, 1⟩
/-- 12 R360. -/
def R.MGT_CERT_DIGEST : Reg := ⟨0xA40101, 0, 0, 1⟩
/-- 12 R360. -/
def R.MGT_MEASUREMENT : Reg := ⟨0xA40200, 0, 0, 1⟩
/-- 12 R360. -/
def R.MGT_COUNTERS_CLEAR : Reg := ⟨0xAF0000, 0, 0, 1⟩
/-- 13 R375. -/
def R.UPG_ACTIVE_SLOT : Reg := ⟨0xA80000, 0, 0, 1⟩
/-- 13 R375. -/
def R.UPG_STATE : Reg := ⟨0xA80001, 0, 0, 1⟩
/-- 13 R375. -/
def R.UPG_TRIAL_PERIOD : Reg := ⟨0xA80002, 3600, 3600, 1⟩
/-- 13 R375. -/
def R.UPG_TRIAL_LEFT : Reg := ⟨0xA80003, 0, 0, 1⟩
/-- 13 R375. -/
def R.UPG_SVN_FLOOR : Reg := ⟨0xA80004, 0, 0, 1⟩
/-- 13 R375. -/
def R.UPG_IMAGE_VERSION : Reg := ⟨0xA80100, 0, 0, 256⟩
/-- 13 R375. -/
def R.UPG_IMAGE_SVN : Reg := ⟨0xA80101, 0, 0, 256⟩
/-- 13 R375. -/
def R.UPG_IMAGE_CAP : Reg := ⟨0xA80102, 0, 0, 256⟩
/-- 13 R375. -/
def R.UPG_IMAGE_STATE : Reg := ⟨0xA80103, 0, 0, 256⟩
/-- 13 R375. -/
def R.UPG_LOAD_BEGIN : Reg := ⟨0xA81000, 0, 0, 1⟩
/-- 13 R375. -/
def R.UPG_LOAD_OFFSET : Reg := ⟨0xA81001, 0, 0, 1⟩
/-- 13 R375. -/
def R.UPG_LOAD_DATA : Reg := ⟨0xA81002, 0, 0, 1⟩
/-- 13 R375. -/
def R.UPG_VERIFY : Reg := ⟨0xA81003, 0, 0, 1⟩
/-- 13 R375. -/
def R.UPG_LOAD_STATUS : Reg := ⟨0xA81004, 0, 0, 1⟩
/-- 13 R375. -/
def R.UPG_ACTIVATE : Reg := ⟨0xA81100, 0, 0, 1⟩
/-- 13 R375. -/
def R.UPG_COMMIT : Reg := ⟨0xA81101, 0, 0, 1⟩
/-- 13 R375. -/
def R.UPG_ROLLBACK : Reg := ⟨0xA81102, 0, 0, 1⟩
/-- 13 R375. -/
def R.UPG_ACTIVATIONS : Reg := ⟨0xA81103, 0, 0, 1⟩
/-- 13 R375. -/
def R.UPG_ROLLBACKS : Reg := ⟨0xA81104, 0, 0, 1⟩
/-- 13 R375. -/
def R.UPG_LAST_ROLLBACK_CAUSE : Reg := ⟨0xA81105, 0, 0, 1⟩
/-- 13 R375. -/
def R.HOM_CELL_REVISION : Reg := ⟨0x410008, 2, 2, 256⟩
/-- 13 R375. -/
def R.HOM_CELL_EPOCH_REV : Reg := ⟨0x410009, 2, 2, 256⟩
/-- 13 R375. -/
def R.HOM_CELL_EPOCH_TIME : Reg := ⟨0x41000A, 0, 0, 256⟩
/-- 13 R375. -/
def R.HOM_CELL_EPOCH_CMD : Reg := ⟨0x41000B, 0, 0, 256⟩
/-- 13 R375. -/
def R.HOM_CELL_EPOCH_STATUS : Reg := ⟨0x41000C, 0, 0, 256⟩
/-- 14 R395. -/
def R.FLT_GRP_STATUS : Reg := ⟨0xB00000, 0, 0, 256⟩
/-- 14 R395. -/
def R.FLT_GRP_ENABLE : Reg := ⟨0xB00001, 0, 0, 256⟩
/-- 14 R395. -/
def R.FLT_GRP_FORCE : Reg := ⟨0xB00002, 0, 0, 256⟩
/-- 14 R395. -/
def R.FLT_GRP_FIRST : Reg := ⟨0xB00003, 0, 0, 256⟩
/-- 14 R395. -/
def R.FLT_GRP_FIRST_TIME : Reg := ⟨0xB00004, 0, 0, 256⟩
/-- 14 R395. -/
def R.FLT_GRP_DETAIL : Reg := ⟨0xB00005, 0, 0, 256⟩
/-- 14 R395. -/
def R.FLT_GRP_LATCH_CLEAR : Reg := ⟨0xB00006, 0, 0, 256⟩
/-- 14 R395. -/
def R.FLT_GRP_ROUTE : Reg := ⟨0xB00007, 256, 256, 256⟩
/-- 14 R395. -/
def R.FLT_GRP_FAULT_MASK : Reg := ⟨0xB00008, 0, 0, 256⟩
/-- 14 R395. -/
def R.FLT_GRP_QUIET : Reg := ⟨0xB00009, 1000, 1000, 256⟩
/-- 14 R395. -/
def R.FLT_GRP_STATE : Reg := ⟨0xB0000A, 0, 0, 256⟩
/-- 14 R395. -/
def R.FLT_GRP_RECOVERIES : Reg := ⟨0xB0000B, 0, 0, 256⟩
/-- 14 R395. -/
def R.FLT_GRP_FORCED : Reg := ⟨0xB0000C, 0, 0, 256⟩
/-- 14 R395. -/
def R.FLT_SRC_COUNT : Reg := ⟨0xB10000, 0, 0, 256⟩
/-- 14 R395. -/
def R.FLT_OWNER_GROUPS : Reg := ⟨0xB20000, 49672, 49672, 1⟩
/-- 14 R395. -/
def R.FLT_INPUT_STATE : Reg := ⟨0xB30000, 0, 0, 256⟩
/-- 14 R395. -/
def R.FLT_INPUT_LEVEL : Reg := ⟨0xB30001, 0, 0, 256⟩
/-- 14 R395. -/
def R.FLT_INPUT_COALESCED : Reg := ⟨0xB30002, 0, 0, 256⟩
/-- 14 R395. -/
def R.FLT_INPUT_STUCKS : Reg := ⟨0xB30003, 0, 0, 256⟩
/-- 14 R395. -/
def R.FLT_STUCK_LIMIT : Reg := ⟨0xB32000, 10, 10, 1⟩
/-- 14 R395. -/
def R.FLT_BLOCK_RESET : Reg := ⟨0xB40000, 0, 0, 1⟩
/-- 14 R395. -/
def R.FLT_LINK_RESET : Reg := ⟨0xB40100, 0, 0, 1⟩
/-- 14 R395. -/
def R.FLT_LINK_RESETS : Reg := ⟨0xB40200, 0, 0, 1⟩
/-- 14 R395. -/
def R.FLT_COUNTERS_CLEAR : Reg := ⟨0xB40300, 0, 0, 1⟩
/-- 14 R395. -/
def R.FUN_RESET : Reg := ⟨0xE00000, 0, 0, 256⟩
/-- 14 R395. -/
def R.FUN_RESET_MODE : Reg := ⟨0xE00001, 0, 0, 256⟩
/-- 14 R395. -/
def R.FUN_RESET_STATE : Reg := ⟨0xE00002, 0, 0, 256⟩
/-- 14 R395. -/
def R.FUN_RESETS : Reg := ⟨0xE00003, 0, 0, 256⟩
/-- 14 R395. -/
def R.FUN_RESET_DRAIN_LIMIT : Reg := ⟨0xE00004, 100, 100, 256⟩
/-- 14 R395. -/
def R.FUN_LEDGER_CAUSE : Reg := ⟨0xE00005, 0, 0, 256⟩
/-- 14 R395. -/
def R.FUN_LEDGER_COUNT : Reg := ⟨0xE00006, 0, 0, 256⟩
/-- 14 R395. -/
def R.FUN_LEDGER_OVERFLOW : Reg := ⟨0xE00007, 0, 0, 256⟩
/-- 14 R395. -/
def R.FUN_LEDGER_SELECT : Reg := ⟨0xE00008, 0, 0, 256⟩
/-- 14 R395. -/
def R.FUN_LEDGER_ENTRY : Reg := ⟨0xE00009, 0, 0, 256⟩
/-- 14 R395. -/
def R.FUN_LEDGER_CLEAR : Reg := ⟨0xE0000A, 0, 0, 256⟩
/-- 15 R410. -/
def R.OBS_CYCLES : Reg := ⟨0xC00000, 0, 0, 256⟩
/-- 15 R410. -/
def R.OBS_COUNT : Reg := ⟨0xC00001, 0, 0, 256⟩
/-- 15 R410. -/
def R.OBS_CTRL : Reg := ⟨0xC00009, 0, 0, 256⟩
/-- 15 R410. -/
def R.OBS_UNIT_STATUS : Reg := ⟨0xC00011, 0, 0, 256⟩
/-- 15 R410. -/
def R.OBS_UNIT_CLEAR : Reg := ⟨0xC00012, 0, 0, 256⟩
/-- 15 R410. -/
def R.OBS_SNAP : Reg := ⟨0xC10000, 0, 0, 256⟩
/-- 15 R410. -/
def R.OBS_GLOBAL_CMD : Reg := ⟨0xC80000, 0, 0, 1⟩
/-- 15 R410. -/
def R.OBS_GLOBAL_TIME : Reg := ⟨0xC80001, 0, 0, 1⟩
/-- 15 R410. -/
def R.OBS_GLOBAL_STATE : Reg := ⟨0xC80002, 0, 0, 1⟩
/-- 15 R410. -/
def R.OBS_SNAP_TIME : Reg := ⟨0xC80003, 0, 0, 1⟩
/-- 15 R410. -/
def R.OBS_OWNER_UNITS : Reg := ⟨0xC80100, 0, 0, 1⟩
/-- 15 R410. -/
def R.OBS_OWNER_RING : Reg := ⟨0xC80101, 0, 0, 1⟩
/-- 15 R410. -/
def R.OBS_RING_PERIOD : Reg := ⟨0xC90000, 0, 0, 1⟩
/-- 15 R410. -/
def R.OBS_RING_FUNCTIONS : Reg := ⟨0xC90001, 65535, 65535, 1⟩
/-- 15 R410. -/
def R.OBS_RING_OPS : Reg := ⟨0xC90002, 31, 31, 1⟩
/-- 15 R410. -/
def R.OBS_RING_LEAF : Reg := ⟨0xC90003, 0, 0, 1⟩
/-- 15 R410. -/
def R.OBS_RING_MODE : Reg := ⟨0xC90004, 0, 0, 1⟩
/-- 15 R410. -/
def R.OBS_RING_NEXT : Reg := ⟨0xC90005, 0, 0, 1⟩
/-- 15 R410. -/
def R.OBS_RING_COUNT : Reg := ⟨0xC90006, 0, 0, 1⟩
/-- 15 R410. -/
def R.OBS_RING_WRAPS : Reg := ⟨0xC90007, 0, 0, 1⟩
/-- 15 R410. -/
def R.OBS_RING_DROPPED : Reg := ⟨0xC90008, 0, 0, 1⟩
/-- 15 R410. -/
def R.OBS_RING_SELECT : Reg := ⟨0xC90009, 0, 0, 1⟩
/-- 15 R410. -/
def R.OBS_RING_RECORD : Reg := ⟨0xC9000A, 0, 0, 1⟩
/-- 15 R410. -/
def R.OBS_RING_CLEAR : Reg := ⟨0xC9000B, 0, 0, 1⟩
/-- 15 R410. -/
def R.OBS_TRACE_ENABLE : Reg := ⟨0xCA0000, 0, 0, 1⟩
/-- 15 R410. -/
def R.OBS_TRACE_SOURCES : Reg := ⟨0xCA0001, 1, 1, 1⟩
/-- 15 R410. -/
def R.OBS_TRACE_GROUPS : Reg := ⟨0xCA0002, 65535, 65535, 1⟩
/-- 15 R410. -/
def R.OBS_TRACE_UNITS : Reg := ⟨0xCA0003, 0, 0, 1⟩
/-- 15 R410. -/
def R.OBS_TRACE_DUMP_PERIOD : Reg := ⟨0xCA0004, 0, 0, 1⟩
/-- 15 R410. -/
def R.OBS_TRACE_SYNC_PERIOD : Reg := ⟨0xCA0005, 256, 256, 1⟩
/-- 15 R410. -/
def R.OBS_TRACE_WORDS : Reg := ⟨0xCA0006, 0, 0, 1⟩
/-- 15 R410. -/
def R.OBS_TRACE_DROPPED : Reg := ⟨0xCA0007, 0, 0, 1⟩
/-- 15 R410. -/
def R.OBS_STATS_CLEAR : Reg := ⟨0xCB0000, 0, 0, 1⟩
/-- 16 R424. -/
def R.BUP_START_PATH : Reg := ⟨0xD00000, 0, 0, 1⟩
/-- 16 R424. -/
def R.BUP_START_RESULT : Reg := ⟨0xD00001, 0, 0, 1⟩
/-- 16 R424. -/
def R.BUP_STOP_CAUSE : Reg := ⟨0xD00002, 0, 0, 1⟩
/-- 16 R424. -/
def R.BUP_START_TIME : Reg := ⟨0xD00003, 0, 0, 1⟩
/-- 16 R424. -/
def R.BUP_START_STEP : Reg := ⟨0xD00004, 1, 1, 1⟩
/-- 16 R424. -/
def R.BUP_ARRAY_TEST : Reg := ⟨0xD00100, 1, 1, 1⟩
/-- 16 R424. -/
def R.BUP_FILL : Reg := ⟨0xD00101, 0, 0, 1⟩
/-- 16 R424. -/
def R.BUP_FUSE_REPAIR : Reg := ⟨0xD00102, 1, 0, 1⟩
/-- 16 R424. -/
def R.BUP_FUSE_PER_SLICE : Reg := ⟨0xD00103, 2, 2, 1⟩
/-- 16 R424. -/
def R.BUP_ARRAY_RESULT : Reg := ⟨0xD00200, 0, 0, 1⟩
/-- 16 R424. -/
def R.BUP_ARRAY_TIME : Reg := ⟨0xD00201, 0, 0, 1⟩
/-- 16 R424. -/
def R.BUP_ARRAY_FAILS : Reg := ⟨0xD00202, 0, 0, 1⟩
/-- 16 R424. -/
def R.BUP_GRAFTED : Reg := ⟨0xD00203, 0, 0, 1⟩
/-- 16 R424. -/
def R.BUP_FUSED : Reg := ⟨0xD00204, 0, 0, 1⟩
/-- 16 R424. -/
def R.BUP_UNREPAIRED : Reg := ⟨0xD00205, 0, 0, 1⟩
/-- 16 R424. -/
def R.BUP_MBIST_RESULT : Reg := ⟨0xD00300, 0, 0, 1⟩
/-- 16 R424. -/
def R.BUP_MBIST_FAILED : Reg := ⟨0xD00301, 0, 0, 1⟩
/-- 16 R424. -/
def R.BUP_MBIST_REPAIRED : Reg := ⟨0xD00302, 0, 0, 1⟩
/-- 16 R424. -/
def R.BUP_FUSE_WORDS_FREE : Reg := ⟨0xD00400, 0, 0, 1⟩
/-- 16 R424. -/
def R.BUP_FUSE_FAILS : Reg := ⟨0xD00401, 0, 0, 1⟩
/-- 16 R424. -/
def R.BUP_FAIL_SELECT : Reg := ⟨0xD00500, 0, 0, 1⟩
/-- 16 R424. -/
def R.BUP_FAIL_RECORD : Reg := ⟨0xD00501, 0, 0, 1⟩
/-- 16 R424. -/
def R.BUP_FUSE_SELECT : Reg := ⟨0xD00600, 256, 256, 1⟩
/-- 16 R424. -/
def R.BUP_FUSE_WORD : Reg := ⟨0xD00601, 0, 0, 1⟩

/-- Entries of indices 0x0000 to 0x0FFF. -/
def entriesArea0 : List Entry :=
  [⟨0x0001, 1, 1, 0x00, 1, 1, 7, 0, 42, 0, 0, false, .any, 0⟩,
   ⟨0x0001, 1, 1, 0x01, 1, 1, 0, 0, 42, 0, 0, false, .any, 0⟩,
   ⟨0x0001, 1, 1, 0x02, 1, 1, 0, 0, 42, 0, 0, false, .any, 0⟩,
   ⟨0x0001, 1, 1, 0x03, 1, 1, 0, 0, 42, 2, 2, false, .any, 0⟩,
   ⟨0x0001, 1, 1, 0x04, 1, 1, 8, 0, 42, 12, 12, false, .any, 0⟩,
   ⟨0x0002, 1, 1, 0x00, 1, 1, 3, 0, 42, 137438953472, 68719476736, false, .any, 0⟩,
   ⟨0x0002, 1, 1, 0x01, 1, 1, 3, 0, 42, 133143986176, 66571993088, false, .any, 0⟩,
   ⟨0x0002, 1, 1, 0x02, 1, 1, 1, 0, 42, 8192, 4096, true, .any, 0⟩,
   ⟨0x0002, 1, 1, 0x03, 1, 1, 1, 0, 42, 256, 128, false, .any, 0⟩,
   ⟨0x0002, 1, 1, 0x04, 1, 1, 2, 0, 42, 3276800, 1638400, false, .any, 0⟩,
   ⟨0x0002, 1, 1, 0x05, 1, 1, 0, 0, 42, 54, 30, false, .any, 0⟩,
   ⟨0x0003, 1, 1, 0x00, 1, 1, 2, 0, 34, 0, 0, false, .any, 0⟩,
   ⟨0x0003, 1, 1, 0x01, 1, 1, 6, 4, 16, 0, 0, false, .span 1 1, 0⟩,
   ⟨0x0010, 1, 1, 0x00, 1, 1, 7, 0, 34, 0, 0, false, .any, 0⟩,
   ⟨0x0010, 1, 1, 0x01, 1, 1, 2, 0, 34, 0, 0, true, .any, 0⟩,
   ⟨0x0011, 1, 1, 0x00, 1, 1, 8, 0, 34, 0, 0, false, .any, 0⟩,
   ⟨0x0011, 1, 1, 0x01, 1, 1, 2, 0, 34, 0, 0, true, .any, 0⟩,
   ⟨0x0012, 1, 1, 0x00, 1, 1, 6, 1, 50, 1, 1, true, .span 0 1, 0⟩,
   ⟨0x0012, 1, 1, 0x01, 1, 1, 0, 0, 34, 200, 200, false, .any, 0⟩,
   ⟨0x0012, 1, 1, 0x02, 1, 1, 2, 0, 34, 0, 0, true, .any, 0⟩,
   ⟨0x0013, 1, 1, 0x00, 1, 1, 2, 0, 34, 0, 0, true, .any, 0⟩,
   ⟨0x0013, 1, 1, 0x01, 1, 1, 2, 1, 50, 1000, 1000, true, .span 100 10000, 0⟩,
   ⟨0x0014, 1, 1, 0x00, 1, 1, 2, 1, 50, 2000, 2000, true, .span 100 100000, 0⟩,
   ⟨0x0015, 1, 1, 0x00, 1, 1, 2, 0, 34, 0, 0, false, .any, 0⟩,
   ⟨0x0015, 1, 1, 0x01, 1, 1, 2, 0, 34, 0, 0, false, .any, 0⟩,
   ⟨0x0016, 1, 1, 0x00, 1, 1, 6, 0, 42, 0, 0, false, .any, 0⟩]

/-- Entries of indices 0x1000 to 0x1FFF. -/
def entriesArea1 : List Entry :=
  [⟨0x1000, 1, 1, 0x00, 1, 1, 8, 1, 50, 255, 15, true, .mask 0xFF, 0⟩,
   ⟨0x1001, 1, 1, 0x00, 8, 4, 8, 1, 58, 0, 0, true, .mask 0xFFFF, 0⟩,
   ⟨0x1002, 1, 1, 0x00, 8, 4, 7, 0, 42, 0, 0, false, .any, 0⟩,
   ⟨0x1003, 1, 1, 0x00, 8, 4, 0, 0, 42, 0, 0, false, .any, 0⟩,
   ⟨0x1004, 1, 1, 0x00, 1, 1, 8, 1, 50, 12, 12, true, .span 4 12, 0⟩,
   ⟨0x1005, 1, 1, 0x00, 1, 1, 2, 1, 50, 100, 100, true, .span 10 10000, 0⟩,
   ⟨0x1006, 1, 1, 0x00, 1, 1, 8, 1, 50, 0, 0, true, .bits 0xFF, 0⟩,
   ⟨0x1007, 1, 1, 0x00, 1, 1, 0, 1, 50, 8, 8, true, .span 1 32, 0⟩,
   ⟨0x1010, 1, 1, 0x00, 8, 4, 2, 0, 34, 0, 0, false, .any, 0⟩,
   ⟨0x1011, 1, 1, 0x00, 8, 4, 2, 0, 34, 0, 0, false, .any, 0⟩,
   ⟨0x1012, 1, 1, 0x00, 8, 4, 2, 0, 34, 0, 0, false, .any, 0⟩,
   ⟨0x1013, 1, 1, 0x00, 8, 4, 2, 0, 34, 0, 0, false, .any, 0⟩,
   ⟨0x1014, 1, 1, 0x00, 8, 4, 2, 0, 34, 0, 0, false, .any, 0⟩,
   ⟨0x1015, 1, 1, 0x00, 8, 4, 2, 0, 34, 0, 0, false, .any, 0⟩,
   ⟨0x1016, 1, 1, 0x00, 8, 4, 2, 0, 34, 0, 0, false, .any, 0⟩,
   ⟨0x1017, 1, 1, 0x00, 8, 4, 2, 0, 34, 0, 0, false, .any, 0⟩,
   ⟨0x1018, 1, 1, 0x00, 8, 4, 2, 0, 34, 0, 0, false, .any, 0⟩,
   ⟨0x1019, 1, 1, 0x00, 8, 4, 2, 0, 34, 0, 0, false, .any, 0⟩,
   ⟨0x1020, 1, 1, 0x00, 1, 1, 2, 0, 34, 0, 0, false, .any, 0⟩,
   ⟨0x1030, 1, 1, 0x00, 1, 1, 1, 0, 34, 0, 0, false, .any, 0⟩,
   ⟨0x1031, 1, 1, 0x00, 1, 1, 6, 4, 16, 0, 0, false, .span 1 1, 0⟩,
   ⟨0x1100, 16, 16, 0x00, 256, 256, 2, 0, 34, 0, 0, false, .any, 0⟩]

/-- Entries of indices 0x2000 to 0x2FFF. -/
def entriesArea2 : List Entry :=
  [⟨0x2000, 1, 1, 0x00, 1, 1, 1, 1, 58, 0, 0, true, .span 0 32767, 0⟩,
   ⟨0x2001, 1, 1, 0x00, 1, 1, 6, 4, 16, 0, 0, false, .span 1 1, 0⟩,
   ⟨0x2001, 1, 1, 0x01, 1, 1, 7, 0, 34, 0, 0, false, .any, 0⟩,
   ⟨0x2001, 1, 1, 0x02, 1, 1, 1, 0, 34, 0, 0, false, .any, 0⟩,
   ⟨0x2001, 1, 1, 0x03, 1, 1, 2, 0, 42, 0, 0, true, .any, 0⟩,
   ⟨0x2001, 1, 1, 0x04, 1, 1, 9, 1, 50, 0, 0, false, .any, 0⟩,
   ⟨0x2001, 1, 1, 0x05, 1, 1, 6, 4, 16, 0, 0, false, .span 1 1, 0⟩,
   ⟨0x2002, 1, 1, 0x00, 1, 1, 1, 0, 34, 0, 0, true, .any, 0⟩,
   ⟨0x2003, 1, 1, 0x00, 1, 1, 3, 4, 16, 0, 0, false, .span 0 0xFFFFFFFFFFFFF, 0⟩,
   ⟨0x2003, 1, 1, 0x01, 1, 1, 0, 1, 48, 0, 0, false, .span 0 15, 0⟩,
   ⟨0x2003, 1, 1, 0x02, 1, 1, 3, 0, 32, 0, 0, false, .any, 0⟩,
   ⟨0x2003, 1, 1, 0x03, 1, 1, 3, 4, 16, 0, 0, false, .any, 0⟩,
   ⟨0x2010, 1, 1, 0x00, 16, 16, 2, 0, 42, 0, 0, false, .any, 0⟩,
   ⟨0x2400, 1024, 1024, 0x00, 1, 1, 3, 1, 50, 0, 0, true, .span 0 0xFFFFFFFFFFFFF, 0⟩,
   ⟨0x2400, 1024, 1024, 0x01, 1, 1, 1, 1, 50, 0, 0, true, .span 0 16383, 0⟩,
   ⟨0x2400, 1024, 1024, 0x02, 1, 1, 1, 1, 50, 0, 0, true, .span 0 16384, 0⟩,
   ⟨0x2400, 1024, 1024, 0x03, 1, 1, 8, 1, 50, 0, 0, true, .bits 0x8FFFFF00, 0⟩,
   ⟨0x2800, 1024, 1024, 0x00, 1, 1, 3, 0, 42, 0, 0, true, .any, 0⟩,
   ⟨0x2800, 1024, 1024, 0x01, 1, 1, 1, 0, 42, 0, 0, true, .any, 0⟩,
   ⟨0x2800, 1024, 1024, 0x02, 1, 1, 1, 0, 42, 0, 0, true, .any, 0⟩,
   ⟨0x2800, 1024, 1024, 0x03, 1, 1, 8, 0, 42, 0, 0, true, .any, 0⟩,
   ⟨0x2C00, 1, 1, 0x00, 256, 128, 1, 0, 34, 0, 0, true, .any, 0⟩,
   ⟨0x2C01, 1, 1, 0x00, 64, 32, 1, 0, 34, 0, 0, true, .any, 0⟩]

/-- Entries of indices 0x3000 to 0x3FFF. -/
def entriesArea3 : List Entry :=
  [⟨0x3000, 1, 1, 0x00, 1, 1, 2, 1, 63, 0, 0, false, .span 0 262143, 0⟩,
   ⟨0x3001, 1, 1, 0x00, 1, 1, 1, 1, 51, 0, 0, false, .span 0 4095, 0⟩,
   ⟨0x3002, 1, 1, 0x00, 1, 1, 1, 1, 51, 0, 0, false, .mask 0xFFF, 0⟩,
   ⟨0x3003, 1, 1, 0x00, 1, 1, 2, 1, 50, 100, 100, true, .span 100 1000000000, 0⟩,
   ⟨0x3003, 1, 1, 0x01, 1, 1, 10, 1, 50, 0, 0, true, .any, 512⟩,
   ⟨0x3100, 16, 16, 0x00, 64, 64, 3, 1, 58, 0, 0, true, .mask 0xC0FF0FFF0FFFFFFF, 0⟩,
   ⟨0x3200, 1, 1, 0x00, 1, 1, 8, 1, 58, 0, 0, false, .any, 0⟩,
   ⟨0x3200, 1, 1, 0x01, 1, 1, 2, 1, 58, 0, 0, false, .span 0 524288, 0⟩,
   ⟨0x3200, 1, 1, 0x02, 1, 1, 1, 1, 58, 0, 0, false, .span 1 32767, 0⟩,
   ⟨0x3200, 1, 1, 0x03, 1, 1, 2, 1, 62, 0, 0, false, .span 0 524288, 0⟩,
   ⟨0x3200, 1, 1, 0x04, 1, 1, 1, 1, 62, 0, 0, false, .span 1 32767, 0⟩,
   ⟨0x3200, 1, 1, 0x05, 1, 1, 2, 1, 62, 0, 0, false, .span 0 524288, 0⟩,
   ⟨0x3200, 1, 1, 0x06, 1, 1, 1, 1, 62, 0, 0, false, .span 1 32767, 0⟩,
   ⟨0x3200, 1, 1, 0x07, 1, 1, 0, 1, 58, 0, 0, false, .span 0 3, 0⟩,
   ⟨0x3200, 1, 1, 0x08, 1, 1, 1, 1, 62, 0, 0, false, .span 1 4096, 0⟩,
   ⟨0x3200, 1, 1, 0x09, 1, 1, 1, 1, 62, 0, 0, false, .span 1 4096, 0⟩,
   ⟨0x3200, 1, 1, 0x0A, 1, 1, 1, 0, 42, 0, 0, false, .any, 0⟩,
   ⟨0x3200, 1, 1, 0x0B, 1, 1, 4, 0, 42, 0, 0, false, .any, 0⟩,
   ⟨0x3200, 1, 1, 0x0C, 1, 1, 4, 0, 42, 0, 0, false, .any, 0⟩,
   ⟨0x3200, 1, 1, 0x0D, 1, 1, 4, 0, 42, 0, 0, false, .any, 0⟩,
   ⟨0x3200, 1, 1, 0x0E, 1, 1, 1, 0, 42, 0, 0, false, .any, 0⟩,
   ⟨0x3200, 1, 1, 0x0F, 1, 1, 1, 0, 42, 0, 0, false, .any, 0⟩,
   ⟨0x3200, 1, 1, 0x10, 1, 1, 1, 0, 42, 0, 0, false, .any, 0⟩,
   ⟨0x3200, 1, 1, 0x11, 1, 1, 2, 0, 42, 0, 0, false, .any, 0⟩,
   ⟨0x3200, 1, 1, 0x12, 1, 1, 2, 0, 42, 0, 0, false, .any, 0⟩,
   ⟨0x3200, 1, 1, 0x13, 1, 1, 3, 0, 42, 0, 0, false, .any, 0⟩,
   ⟨0x3200, 1, 1, 0x14, 1, 1, 2, 0, 42, 0, 0, false, .any, 0⟩,
   ⟨0x3200, 1, 1, 0x15, 1, 1, 6, 4, 16, 0, 0, false, .span 1 1, 0⟩,
   ⟨0x3200, 1, 1, 0x16, 1, 1, 1, 1, 58, 0, 0, false, .span 0 4095, 0⟩,
   ⟨0x3200, 1, 1, 0x17, 1, 1, 2, 0, 42, 0, 0, false, .any, 0⟩] ++
  [⟨0x3200, 1, 1, 0x18, 1, 1, 6, 4, 20, 0, 0, false, .span 1 1, 0⟩,
   ⟨0x3300, 1, 1, 0x00, 1, 1, 8, 1, 50, 0, 0, true, .mask 0x80000037, 0⟩,
   ⟨0x3300, 1, 1, 0x01, 1, 1, 2, 1, 50, 0, 0, true, .span 0 524288, 0⟩,
   ⟨0x3300, 1, 1, 0x02, 1, 1, 1, 1, 50, 64, 64, true, .span 1 32767, 0⟩,
   ⟨0x3300, 1, 1, 0x03, 1, 1, 2, 1, 50, 524288, 524288, true, .span 0 524288, 0⟩,
   ⟨0x3300, 1, 1, 0x04, 1, 1, 1, 1, 50, 256, 256, true, .span 1 32767, 0⟩,
   ⟨0x3300, 1, 1, 0x05, 1, 1, 4, 0, 34, 0, 0, false, .any, 0⟩,
   ⟨0x3300, 1, 1, 0x06, 1, 1, 4, 0, 34, 0, 0, false, .any, 0⟩,
   ⟨0x3300, 1, 1, 0x07, 1, 1, 2, 0, 34, 0, 0, false, .any, 0⟩,
   ⟨0x3300, 1, 1, 0x08, 1, 1, 3, 0, 34, 0, 0, false, .any, 0⟩,
   ⟨0x3300, 1, 1, 0x09, 1, 1, 6, 4, 16, 0, 0, false, .span 1 1, 0⟩,
   ⟨0x3400, 8, 4, 0x00, 1, 1, 2, 1, 50, 524288, 524288, true, .span 0 524288, 0⟩,
   ⟨0x3400, 8, 4, 0x01, 1, 1, 1, 1, 50, 1024, 1024, true, .span 1 32767, 0⟩,
   ⟨0x3400, 8, 4, 0x02, 1, 1, 4, 0, 34, 0, 0, false, .any, 0⟩,
   ⟨0x3400, 8, 4, 0x03, 1, 1, 6, 1, 50, 0, 0, true, .span 0 1, 0⟩,
   ⟨0x3400, 8, 4, 0x04, 1, 1, 9, 1, 50, 0, 0, true, .any, 0⟩,
   ⟨0x3400, 8, 4, 0x05, 1, 1, 1, 1, 50, 1, 1, true, .span 1 256, 0⟩,
   ⟨0x3400, 8, 4, 0x06, 1, 1, 9, 1, 50, 0, 0, false, .any, 0⟩,
   ⟨0x3400, 8, 4, 0x07, 1, 1, 6, 4, 16, 0, 0, false, .span 1 1, 0⟩,
   ⟨0x3400, 8, 4, 0x08, 1, 1, 1, 0, 34, 1, 1, true, .any, 0⟩,
   ⟨0x3400, 8, 4, 0x09, 1, 1, 3, 0, 34, 0, 0, false, .any, 0⟩,
   ⟨0x3400, 8, 4, 0x0A, 1, 1, 3, 0, 34, 0, 0, false, .any, 0⟩,
   ⟨0x3400, 8, 4, 0x0B, 1, 1, 2, 0, 34, 0, 0, false, .any, 0⟩,
   ⟨0x3400, 8, 4, 0x0C, 1, 1, 6, 4, 16, 0, 0, false, .span 1 1, 0⟩,
   ⟨0x3400, 8, 4, 0x0D, 1, 1, 6, 4, 16, 0, 0, false, .span 1 1, 0⟩,
   ⟨0x3400, 8, 4, 0x0E, 1, 1, 6, 0, 34, 0, 0, false, .any, 0⟩,
   ⟨0x3500, 256, 256, 0x00, 1, 1, 2, 1, 50, 0, 0, true, .span 0 524288, 0⟩,
   ⟨0x3500, 256, 256, 0x01, 1, 1, 2, 1, 50, 1, 1, true, .span 1 32767, 0⟩,
   ⟨0x3500, 256, 256, 0x02, 1, 1, 2, 1, 50, 0, 0, true, .span 0 524288, 0⟩,
   ⟨0x3500, 256, 256, 0x03, 1, 1, 2, 1, 50, 1, 1, true, .span 1 32767, 0⟩,
   ⟨0x3500, 256, 256, 0x04, 1, 1, 2, 1, 50, 0, 0, true, .span 0 524288, 0⟩,
   ⟨0x3500, 256, 256, 0x05, 1, 1, 2, 1, 50, 1, 1, true, .span 1 32767, 0⟩,
   ⟨0x3500, 256, 256, 0x06, 1, 1, 2, 1, 50, 0, 0, true, .span 0 3, 0⟩,
   ⟨0x3500, 256, 256, 0x07, 1, 1, 2, 1, 50, 1, 1, true, .span 1 4096, 0⟩,
   ⟨0x3500, 256, 256, 0x08, 1, 1, 2, 1, 50, 1, 1, true, .span 1 4096, 0⟩,
   ⟨0x3500, 256, 256, 0x09, 1, 1, 2, 1, 50, 1, 1, true, .span 1 4096, 0⟩,
   ⟨0x3600, 1, 1, 0x00, 1, 1, 2, 1, 50, 1000, 1000, true, .span 100 100000, 0⟩,
   ⟨0x3600, 1, 1, 0x01, 1, 1, 0, 1, 50, 56, 56, true, .span 1 64, 0⟩,
   ⟨0x3600, 1, 1, 0x02, 1, 1, 0, 1, 50, 32, 32, true, .span 0 63, 0⟩] ++
  [⟨0x3600, 1, 1, 0x03, 1, 1, 0, 1, 50, 1, 1, true, .span 1 64, 0⟩,
   ⟨0x3600, 1, 1, 0x04, 1, 1, 0, 1, 50, 128, 128, true, .span 1 255, 0⟩,
   ⟨0x3600, 1, 1, 0x05, 1, 1, 2, 1, 50, 1000, 1000, true, .span 1 1000000, 0⟩,
   ⟨0x3600, 1, 1, 0x06, 1, 1, 2, 1, 50, 0, 0, true, .span 0 10000, 0⟩,
   ⟨0x3700, 1, 1, 0x01, 1, 1, 2, 0, 42, 0, 0, false, .any, 0⟩,
   ⟨0x3700, 1, 1, 0x02, 1, 1, 2, 0, 42, 0, 0, false, .any, 0⟩,
   ⟨0x3700, 1, 1, 0x03, 1, 1, 1, 1, 50, 100, 100, true, .span 1 10000, 0⟩,
   ⟨0x3700, 1, 1, 0x04, 1, 1, 1, 1, 50, 55706, 55706, true, .span 1 65535, 0⟩,
   ⟨0x3700, 1, 1, 0x05, 1, 1, 2, 0, 42, 0, 0, false, .any, 0⟩,
   ⟨0x3700, 1, 1, 0x06, 1, 1, 2, 0, 42, 0, 0, false, .any, 0⟩,
   ⟨0x3700, 1, 1, 0x07, 1, 1, 2, 0, 34, 0, 0, false, .any, 0⟩,
   ⟨0x3701, 1, 1, 0x00, 4, 4, 2, 0, 42, 65536, 65536, false, .any, 0⟩,
   ⟨0x3702, 1, 1, 0x00, 1, 1, 1, 1, 50, 52429, 52429, true, .span 1 65535, 0⟩,
   ⟨0x3703, 1, 1, 0x00, 4, 4, 2, 0, 42, 0, 0, false, .any, 0⟩,
   ⟨0x3710, 1, 1, 0x00, 64, 32, 3, 0, 34, 0, 0, false, .any, 0⟩,
   ⟨0x3800, 16, 16, 0x00, 1, 1, 2, 1, 58, 16384, 16384, true, .span 0 262144, 0⟩,
   ⟨0x3800, 16, 16, 0x01, 1, 1, 2, 0, 42, 0, 0, false, .any, 0⟩,
   ⟨0x3800, 16, 16, 0x02, 1, 1, 2, 0, 42, 0, 0, false, .any, 0⟩,
   ⟨0x3800, 16, 16, 0x03, 1, 1, 2, 0, 42, 0, 0, false, .any, 0⟩,
   ⟨0x3900, 1, 1, 0x00, 1, 1, 3, 4, 16, 0, 0, false, .mask 0x3FFFFFFFFF, 0⟩,
   ⟨0x3900, 1, 1, 0x01, 1, 1, 2, 0, 34, 0, 0, false, .any, 0⟩,
   ⟨0x3900, 1, 1, 0x02, 1, 1, 2, 0, 34, 262144, 262144, false, .any, 0⟩]

/-- Entries of indices 0x4000 to 0x4FFF. -/
def entriesArea4 : List Entry :=
  [⟨0x4000, 1, 1, 0x00, 1, 1, 8, 1, 58, 0, 0, true, .mask 0xFFFF, 0⟩,
   ⟨0x4002, 1, 1, 0x00, 1, 1, 2, 1, 50, 10, 10, true, .span 1 1000, 0⟩,
   ⟨0x4002, 1, 1, 0x01, 1, 1, 2, 1, 50, 10, 10, true, .span 1 1000, 0⟩,
   ⟨0x4002, 1, 1, 0x02, 1, 1, 2, 1, 50, 20, 20, true, .span 1 1000, 0⟩,
   ⟨0x4003, 1, 1, 0x00, 1, 1, 2, 0, 34, 0, 0, false, .any, 0⟩,
   ⟨0x4003, 1, 1, 0x01, 1, 1, 2, 0, 34, 0, 0, false, .any, 0⟩,
   ⟨0x4003, 1, 1, 0x02, 1, 1, 3, 0, 34, 0, 0, false, .any, 0⟩,
   ⟨0x4003, 1, 1, 0x03, 1, 1, 3, 0, 34, 0, 0, false, .any, 0⟩,
   ⟨0x4003, 1, 1, 0x04, 1, 1, 2, 0, 34, 0, 0, false, .any, 0⟩,
   ⟨0x4003, 1, 1, 0x05, 1, 1, 1, 0, 34, 0, 0, false, .any, 0⟩,
   ⟨0x4003, 1, 1, 0x06, 1, 1, 2, 0, 34, 0, 0, false, .any, 0⟩,
   ⟨0x4004, 1, 1, 0x00, 1, 1, 1, 0, 34, 0, 0, false, .any, 0⟩,
   ⟨0x4004, 1, 1, 0x01, 1, 1, 1, 0, 34, 0, 0, false, .any, 0⟩,
   ⟨0x4005, 1, 1, 0x00, 1, 1, 2, 0, 34, 0, 0, false, .any, 0⟩,
   ⟨0x4005, 1, 1, 0x01, 1, 1, 2, 0, 34, 0, 0, false, .any, 0⟩,
   ⟨0x4005, 1, 1, 0x02, 1, 1, 2, 0, 34, 0, 0, false, .any, 0⟩,
   ⟨0x4006, 1, 1, 0x00, 1, 1, 3, 0, 34, 0, 0, false, .any, 0⟩,
   ⟨0x4006, 1, 1, 0x01, 1, 1, 3, 0, 34, 0, 0, false, .any, 0⟩,
   ⟨0x4007, 1, 1, 0x00, 1, 1, 2, 0, 34, 0, 0, false, .any, 0⟩,
   ⟨0x4007, 1, 1, 0x01, 1, 1, 2, 0, 34, 0, 0, false, .any, 0⟩,
   ⟨0x4007, 1, 1, 0x02, 1, 1, 2, 0, 34, 0, 0, false, .any, 0⟩,
   ⟨0x4008, 1, 1, 0x00, 1, 1, 2, 0, 34, 0, 0, false, .any, 0⟩,
   ⟨0x4009, 1, 1, 0x00, 1, 1, 2, 0, 34, 0, 0, false, .any, 0⟩,
   ⟨0x4009, 1, 1, 0x01, 1, 1, 2, 0, 34, 0, 0, false, .any, 0⟩,
   ⟨0x4010, 1, 1, 0x00, 1, 1, 3, 4, 16, 0, 0, false, .span 0 0xFFFFFFFFFFFFF, 0⟩,
   ⟨0x4010, 1, 1, 0x01, 1, 1, 3, 0, 32, 0, 0, false, .any, 0⟩,
   ⟨0x4010, 1, 1, 0x02, 1, 1, 3, 0, 32, 0, 0, false, .any, 0⟩,
   ⟨0x4011, 1, 1, 0x00, 1, 1, 6, 4, 16, 0, 0, false, .span 1 1, 0⟩,
   ⟨0x4100, 16, 16, 0x00, 1, 1, 7, 0, 42, 0, 0, false, .any, 0⟩,
   ⟨0x4100, 16, 16, 0x01, 1, 1, 0, 4, 16, 0, 0, false, .span 1 2, 0⟩] ++
  [⟨0x4100, 16, 16, 0x02, 1, 1, 1, 1, 50, 200, 200, true, .span 0 5000, 0⟩,
   ⟨0x4100, 16, 16, 0x03, 1, 1, 2, 0, 34, 0, 0, true, .any, 0⟩,
   ⟨0x4100, 16, 16, 0x04, 1, 1, 7, 0, 42, 0, 0, false, .any, 0⟩,
   ⟨0x4100, 16, 16, 0x05, 1, 1, 1, 0, 34, 65535, 65535, false, .any, 0⟩,
   ⟨0x4100, 16, 16, 0x06, 1, 1, 2, 0, 34, 0, 0, true, .any, 0⟩,
   ⟨0x4100, 16, 16, 0x07, 1, 1, 1, 0, 42, 0, 0, false, .any, 0⟩,
   ⟨0x4100, 16, 16, 0x08, 1, 1, 7, 0, 42, 2, 2, true, .any, 0⟩,
   ⟨0x4100, 16, 16, 0x09, 1, 1, 0, 1, 50, 2, 2, true, .span 2 3, 0⟩,
   ⟨0x4100, 16, 16, 0x0A, 1, 1, 9, 1, 50, 0, 0, true, .any, 0⟩,
   ⟨0x4100, 16, 16, 0x0B, 1, 1, 0, 4, 16, 0, 0, false, .span 1 2, 0⟩,
   ⟨0x4100, 16, 16, 0x0C, 1, 1, 7, 0, 34, 0, 0, true, .any, 0⟩]

/-- Entries of indices 0x5000 to 0x5FFF. -/
def entriesArea5 : List Entry :=
  [⟨0x5000, 1, 1, 0x00, 1, 1, 0, 1, 50, 48, 48, true, .span 2 64, 0⟩,
   ⟨0x5000, 1, 1, 0x01, 1, 1, 0, 1, 50, 16, 16, true, .span 0 63, 0⟩,
   ⟨0x5000, 1, 1, 0x02, 1, 1, 1, 1, 50, 250, 250, true, .span 0 10000, 0⟩,
   ⟨0x5000, 1, 1, 0x03, 1, 1, 1, 1, 50, 2000, 2000, true, .span 200 2000, 0⟩,
   ⟨0x5000, 1, 1, 0x04, 1, 1, 1, 1, 50, 2048, 2048, true, .span 256 2048, 0⟩,
   ⟨0x5001, 1, 1, 0x00, 1, 1, 6, 1, 50, 1, 1, true, .span 0 1, 0⟩,
   ⟨0x5001, 1, 1, 0x01, 1, 1, 2, 1, 50, 86400, 86400, true, .span 3600 2592000, 0⟩,
   ⟨0x5001, 1, 1, 0x02, 1, 1, 2, 1, 50, 1000, 1000, true, .span 100 60000, 0⟩,
   ⟨0x5001, 1, 1, 0x03, 1, 1, 7, 0, 34, 5, 5, false, .any, 0⟩,
   ⟨0x5001, 1, 1, 0x04, 1, 1, 2, 0, 34, 0, 0, false, .any, 0⟩,
   ⟨0x5001, 1, 1, 0x05, 1, 1, 2, 0, 34, 0, 0, false, .any, 0⟩,
   ⟨0x5001, 1, 1, 0x06, 1, 1, 2, 0, 34, 0, 0, true, .any, 0⟩,
   ⟨0x5001, 1, 1, 0x07, 1, 1, 1, 0, 34, 0, 0, false, .any, 0⟩,
   ⟨0x5002, 1, 1, 0x00, 1, 1, 10, 0, 34, 0, 0, true, .any, 4096⟩,
   ⟨0x5002, 1, 1, 0x01, 1, 1, 1, 0, 34, 0, 0, true, .any, 0⟩,
   ⟨0x5003, 1, 1, 0x00, 1, 1, 6, 4, 16, 0, 0, false, .span 1 1, 0⟩,
   ⟨0x5004, 1, 1, 0x00, 7, 7, 8, 0, 34, 0, 0, false, .any, 0⟩,
   ⟨0x5010, 1, 1, 0x00, 22, 22, 1, 0, 42, 0, 0, false, .any, 0⟩,
   ⟨0x5100, 64, 32, 0x00, 1, 1, 0, 0, 34, 0, 0, false, .any, 0⟩,
   ⟨0x5100, 64, 32, 0x01, 1, 1, 0, 0, 34, 0, 0, false, .any, 0⟩,
   ⟨0x5100, 64, 32, 0x02, 1, 1, 0, 0, 34, 0, 0, false, .any, 0⟩,
   ⟨0x5100, 64, 32, 0x03, 1, 1, 0, 0, 34, 0, 0, false, .any, 0⟩,
   ⟨0x5100, 64, 32, 0x04, 1, 1, 7, 0, 34, 0, 0, false, .any, 0⟩,
   ⟨0x5100, 64, 32, 0x05, 1, 1, 3, 0, 34, 0, 0, false, .any, 0⟩,
   ⟨0x5100, 64, 32, 0x06, 1, 1, 3, 0, 34, 0, 0, false, .any, 0⟩,
   ⟨0x5100, 64, 32, 0x07, 1, 1, 3, 0, 34, 0, 0, false, .any, 0⟩,
   ⟨0x5100, 64, 32, 0x08, 1, 1, 3, 0, 34, 0, 0, false, .any, 0⟩,
   ⟨0x5100, 64, 32, 0x09, 1, 1, 3, 0, 34, 0, 0, false, .any, 0⟩,
   ⟨0x5100, 64, 32, 0x0A, 1, 1, 3, 0, 34, 0, 0, false, .any, 0⟩,
   ⟨0x5100, 64, 32, 0x0B, 1, 1, 3, 0, 34, 0, 0, false, .any, 0⟩] ++
  [⟨0x5100, 64, 32, 0x0C, 1, 1, 3, 0, 34, 0, 0, false, .any, 0⟩,
   ⟨0x5100, 64, 32, 0x0D, 1, 1, 2, 0, 34, 0, 0, false, .any, 0⟩,
   ⟨0x5100, 64, 32, 0x0E, 1, 1, 2, 0, 34, 0, 0, false, .any, 0⟩,
   ⟨0x5100, 64, 32, 0x0F, 1, 1, 2, 0, 34, 0, 0, false, .any, 0⟩,
   ⟨0x5100, 64, 32, 0x10, 1, 1, 3, 0, 34, 0, 0, false, .any, 0⟩,
   ⟨0x5100, 64, 32, 0x11, 1, 1, 2, 0, 34, 0, 0, false, .any, 0⟩,
   ⟨0x5100, 64, 32, 0x12, 1, 1, 2, 0, 34, 0, 0, false, .any, 0⟩,
   ⟨0x5400, 32, 16, 0x00, 256, 256, 0, 0, 34, 0, 0, false, .any, 0⟩,
   ⟨0x5440, 32, 16, 0x00, 256, 256, 0, 1, 50, 3, 3, true, .span 0 3, 0⟩,
   ⟨0x5480, 32, 16, 0x00, 256, 256, 2, 0, 34, 0, 0, false, .any, 0⟩]

/-- Entries of indices 0x6000 to 0x6FFF. -/
def entriesArea6 : List Entry :=
  [⟨0x6000, 1, 1, 0x00, 1, 1, 2, 1, 50, 10000, 10000, true, .span 1000 1000000, 0⟩,
   ⟨0x6000, 1, 1, 0x01, 1, 1, 1, 1, 50, 5000, 5000, true, .span 1000 20000, 0⟩,
   ⟨0x6000, 1, 1, 0x02, 1, 1, 1, 1, 50, 1000, 1000, true, .span 250 1000, 0⟩,
   ⟨0x6000, 1, 1, 0x03, 1, 1, 1, 1, 50, 16, 16, true, .span 4 1024, 0⟩,
   ⟨0x6000, 1, 1, 0x04, 1, 1, 2, 1, 50, 1000, 1000, true, .span 10 1000000, 0⟩,
   ⟨0x6000, 1, 1, 0x05, 1, 1, 0, 1, 50, 2, 2, true, .span 1 16, 0⟩,
   ⟨0x6000, 1, 1, 0x06, 1, 1, 7, 1, 50, 1, 1, true, .span 0 1, 0⟩,
   ⟨0x6000, 1, 1, 0x07, 1, 1, 6, 1, 50, 1, 1, true, .span 0 1, 0⟩,
   ⟨0x6001, 1, 1, 0x00, 1, 1, 7, 0, 34, 0, 0, false, .any, 0⟩,
   ⟨0x6001, 1, 1, 0x01, 1, 1, 2, 0, 34, 0, 0, false, .any, 0⟩,
   ⟨0x6100, 64, 32, 0x00, 1, 1, 7, 0, 42, 0, 0, true, .any, 0⟩,
   ⟨0x6100, 64, 32, 0x01, 1, 1, 1, 0, 34, 0, 0, true, .any, 0⟩,
   ⟨0x6100, 64, 32, 0x02, 1, 1, 3, 0, 34, 0, 0, true, .any, 0⟩,
   ⟨0x6100, 64, 32, 0x03, 1, 1, 0, 0, 34, 0, 0, true, .any, 0⟩,
   ⟨0x6100, 64, 32, 0x04, 1, 1, 2, 0, 34, 0, 0, false, .any, 0⟩,
   ⟨0x6100, 64, 32, 0x05, 1, 1, 2, 0, 34, 0, 0, true, .any, 0⟩,
   ⟨0x6100, 64, 32, 0x06, 1, 1, 2, 0, 34, 0, 0, false, .any, 0⟩,
   ⟨0x6100, 64, 32, 0x07, 1, 1, 1, 0, 34, 0, 0, false, .any, 0⟩,
   ⟨0x6100, 64, 32, 0x08, 1, 1, 0, 0, 34, 255, 255, true, .any, 0⟩,
   ⟨0x6300, 64, 32, 0x00, 38, 38, 3, 0, 34, 0, 0, true, .any, 0⟩,
   ⟨0x6340, 64, 32, 0x00, 38, 38, 3, 0, 34, 0, 0, true, .any, 0⟩,
   ⟨0x6380, 64, 32, 0x00, 38, 38, 1, 0, 34, 0, 0, true, .any, 0⟩,
   ⟨0x63C0, 64, 32, 0x00, 4, 4, 0, 0, 34, 0, 0, true, .any, 0⟩,
   ⟨0x6400, 32, 16, 0x00, 4, 4, 4, 0, 42, 0, 0, false, .any, 0⟩,
   ⟨0x6440, 32, 16, 0x00, 1, 1, 1, 0, 34, 0, 0, true, .any, 0⟩,
   ⟨0x6440, 32, 16, 0x01, 1, 1, 2, 0, 34, 0, 0, true, .any, 0⟩,
   ⟨0x6440, 32, 16, 0x02, 1, 1, 2, 0, 34, 0, 0, true, .any, 0⟩,
   ⟨0x6440, 32, 16, 0x03, 1, 1, 2, 0, 34, 0, 0, true, .any, 0⟩,
   ⟨0x6440, 32, 16, 0x04, 1, 1, 7, 0, 42, 0, 0, true, .any, 0⟩,
   ⟨0x6600, 1, 1, 0x00, 1, 1, 1, 4, 16, 0, 0, false, .mask 0xFB1F, 0⟩] ++
  [⟨0x6600, 1, 1, 0x01, 1, 1, 1, 0, 32, 0, 0, false, .any, 0⟩,
   ⟨0x6601, 1, 1, 0x00, 1, 1, 6, 4, 16, 0, 0, false, .span 1 1, 0⟩]

/-- Entries of indices 0x7000 to 0x7FFF. -/
def entriesArea7 : List Entry :=
  [⟨0x7000, 1, 1, 0x00, 1, 1, 7, 1, 50, 0, 0, true, .span 0 2, 0⟩,
   ⟨0x7000, 1, 1, 0x01, 1, 1, 7, 0, 34, 0, 0, false, .any, 0⟩,
   ⟨0x7001, 1, 1, 0x00, 1, 1, 1, 1, 50, 1344, 1344, true, .span 1280 1344, 0⟩,
   ⟨0x7001, 1, 1, 0x01, 1, 1, 1, 1, 50, 1504, 1504, true, .span 1440 1504, 0⟩,
   ⟨0x7001, 1, 1, 0x02, 1, 1, 2, 1, 50, 100, 100, true, .span 10 10000, 0⟩,
   ⟨0x7001, 1, 1, 0x03, 1, 1, 1, 1, 50, 100, 100, true, .span 100 1000, 0⟩,
   ⟨0x7002, 1, 1, 0x00, 1, 1, 1, 1, 50, 1600, 1600, true, .span 1520 1600, 0⟩,
   ⟨0x7002, 1, 1, 0x01, 1, 1, 1, 1, 50, 1, 1, true, .span 1 1000, 0⟩,
   ⟨0x7002, 1, 1, 0x02, 1, 1, 1, 1, 50, 1600, 1600, true, .span 1440 1600, 0⟩,
   ⟨0x7002, 1, 1, 0x03, 1, 1, 2, 1, 50, 10, 10, true, .span 1 10000, 0⟩,
   ⟨0x7002, 1, 1, 0x04, 1, 1, 6, 0, 42, 0, 0, false, .any, 0⟩,
   ⟨0x7002, 1, 1, 0x05, 1, 1, 2, 0, 34, 0, 0, true, .any, 0⟩,
   ⟨0x7002, 1, 1, 0x06, 1, 1, 9, 0, 34, 0, 0, true, .any, 0⟩,
   ⟨0x7003, 1, 1, 0x00, 1, 1, 4, 0, 42, 0, 0, false, .any, 0⟩,
   ⟨0x7003, 1, 1, 0x01, 1, 1, 1, 0, 34, 0, 0, false, .any, 0⟩,
   ⟨0x7004, 1, 1, 0x00, 12, 12, 4, 0, 34, 0, 0, false, .any, 0⟩,
   ⟨0x7005, 1, 1, 0x00, 32, 16, 4, 0, 42, 0, 0, false, .any, 0⟩,
   ⟨0x7006, 1, 1, 0x00, 32, 16, 0, 0, 42, 32, 32, false, .any, 0⟩,
   ⟨0x7007, 1, 1, 0x00, 1, 1, 2, 0, 34, 0, 0, false, .any, 0⟩,
   ⟨0x7007, 1, 1, 0x01, 1, 1, 2, 0, 34, 0, 0, false, .any, 0⟩,
   ⟨0x7010, 32, 16, 0x00, 4, 4, 7, 0, 42, 0, 0, false, .any, 0⟩,
   ⟨0x7030, 32, 16, 0x00, 4, 4, 2, 0, 34, 0, 0, false, .any, 0⟩,
   ⟨0x7050, 64, 32, 0x00, 1, 1, 3, 0, 34, 0, 0, false, .any, 0⟩,
   ⟨0x7050, 64, 32, 0x01, 1, 1, 3, 0, 34, 0, 0, false, .any, 0⟩,
   ⟨0x7050, 64, 32, 0x02, 1, 1, 2, 0, 34, 0, 0, false, .any, 0⟩,
   ⟨0x7050, 64, 32, 0x03, 1, 1, 2, 0, 34, 0, 0, true, .any, 0⟩,
   ⟨0x7050, 64, 32, 0x04, 1, 1, 2, 0, 34, 0, 0, false, .any, 0⟩,
   ⟨0x7050, 64, 32, 0x05, 1, 1, 2, 0, 34, 0, 0, false, .any, 0⟩,
   ⟨0x7100, 1, 1, 0x00, 1, 1, 1, 1, 51, 0, 0, false, .span 0 8191, 0⟩,
   ⟨0x7100, 1, 1, 0x01, 1, 1, 10, 0, 34, 0, 0, false, .any, 256⟩] ++
  [⟨0x7101, 1, 1, 0x00, 4, 4, 2, 0, 34, 0, 0, false, .any, 0⟩,
   ⟨0x7102, 1, 1, 0x00, 1, 1, 0, 1, 50, 3, 3, true, .span 0 3, 0⟩,
   ⟨0x7102, 1, 1, 0x01, 1, 1, 6, 4, 16, 0, 0, false, .span 1 1, 0⟩,
   ⟨0x7102, 1, 1, 0x02, 1, 1, 2, 1, 50, 600, 600, true, .span 60 86400, 0⟩,
   ⟨0x7102, 1, 1, 0x03, 1, 1, 1, 1, 50, 30, 30, true, .span 1 365, 0⟩,
   ⟨0x7102, 1, 1, 0x04, 1, 1, 6, 0, 34, 0, 0, false, .any, 0⟩,
   ⟨0x7103, 1, 1, 0x00, 1, 1, 6, 1, 50, 1, 1, true, .span 0 1, 0⟩,
   ⟨0x7103, 1, 1, 0x01, 1, 1, 0, 1, 50, 8, 8, true, .span 1 16, 0⟩,
   ⟨0x7103, 1, 1, 0x02, 1, 1, 1, 1, 50, 24, 24, true, .span 1 720, 0⟩,
   ⟨0x7103, 1, 1, 0x03, 1, 1, 2, 0, 34, 0, 0, true, .any, 0⟩,
   ⟨0x7103, 1, 1, 0x04, 1, 1, 2, 0, 34, 0, 0, true, .any, 0⟩,
   ⟨0x7103, 1, 1, 0x05, 1, 1, 2, 0, 34, 0, 0, true, .any, 0⟩,
   ⟨0x7103, 1, 1, 0x06, 1, 1, 2, 0, 34, 0, 0, false, .any, 0⟩,
   ⟨0x7103, 1, 1, 0x07, 1, 1, 2, 0, 34, 0, 0, true, .any, 0⟩,
   ⟨0x7103, 1, 1, 0x08, 1, 1, 1, 0, 34, 0, 0, false, .any, 0⟩,
   ⟨0x7110, 1, 1, 0x00, 1, 1, 6, 4, 16, 0, 0, false, .span 1 1, 0⟩]

/-- Entries of indices 0x8000 to 0x8FFF. -/
def entriesArea8 : List Entry :=
  [⟨0x8000, 1, 1, 0x00, 1, 1, 6, 1, 50, 1, 1, true, .span 0 1, 0⟩,
   ⟨0x8000, 1, 1, 0x01, 1, 1, 2, 1, 50, 86400, 86400, true, .span 600 2592000, 0⟩,
   ⟨0x8000, 1, 1, 0x02, 1, 1, 2, 0, 34, 0, 0, true, .any, 0⟩,
   ⟨0x8000, 1, 1, 0x03, 1, 1, 1, 0, 34, 65535, 65535, false, .any, 0⟩,
   ⟨0x8001, 1, 1, 0x00, 1, 1, 1, 1, 50, 64, 64, true, .span 2 65535, 0⟩,
   ⟨0x8001, 1, 1, 0x01, 1, 1, 0, 1, 50, 3, 3, true, .span 1 3, 0⟩,
   ⟨0x8001, 1, 1, 0x02, 1, 1, 0, 1, 50, 8, 8, true, .span 1 64, 0⟩,
   ⟨0x8001, 1, 1, 0x03, 1, 1, 1, 0, 34, 0, 0, false, .any, 0⟩,
   ⟨0x8002, 1, 1, 0x00, 1, 1, 1, 0, 34, 0, 0, true, .any, 0⟩,
   ⟨0x8002, 1, 1, 0x01, 1, 1, 1, 0, 34, 0, 0, true, .any, 0⟩,
   ⟨0x8002, 1, 1, 0x02, 1, 1, 2, 0, 34, 0, 0, true, .any, 0⟩,
   ⟨0x8002, 1, 1, 0x03, 1, 1, 1, 1, 51, 0, 0, false, .span 0 8191, 0⟩,
   ⟨0x8002, 1, 1, 0x04, 1, 1, 10, 0, 34, 0, 0, false, .any, 32⟩,
   ⟨0x8002, 1, 1, 0x05, 1, 1, 2, 0, 34, 0, 0, true, .any, 0⟩,
   ⟨0x8003, 1, 1, 0x00, 1, 1, 3, 4, 16, 0, 0, false, .any, 0⟩,
   ⟨0x8003, 1, 1, 0x01, 1, 1, 1, 4, 16, 0, 0, false, .any, 0⟩,
   ⟨0x8003, 1, 1, 0x02, 1, 1, 2, 0, 34, 0, 0, true, .any, 0⟩,
   ⟨0x8004, 1, 1, 0x00, 1, 1, 3, 1, 48, 0, 0, false, .mask 0xFFFFFFEF, 0⟩,
   ⟨0x8004, 1, 1, 0x01, 1, 1, 10, 1, 48, 0, 0, false, .any, 64⟩,
   ⟨0x8004, 1, 1, 0x02, 1, 1, 3, 1, 48, 0, 0, false, .any, 0⟩,
   ⟨0x8004, 1, 1, 0x03, 1, 1, 0, 4, 16, 0, 0, false, .span 1 4, 0⟩,
   ⟨0x8004, 1, 1, 0x04, 1, 1, 3, 0, 32, 0, 0, false, .any, 0⟩,
   ⟨0x8004, 1, 1, 0x05, 1, 1, 3, 0, 32, 0, 0, false, .any, 0⟩,
   ⟨0x8005, 1, 1, 0x00, 1, 1, 6, 4, 16, 0, 0, false, .span 1 1, 0⟩,
   ⟨0x8100, 64, 32, 0x00, 1, 1, 3, 0, 34, 0, 0, false, .any, 0⟩,
   ⟨0x8100, 64, 32, 0x01, 1, 1, 2, 0, 34, 0, 0, true, .any, 0⟩,
   ⟨0x8100, 64, 32, 0x02, 1, 1, 2, 0, 34, 0, 0, false, .any, 0⟩,
   ⟨0x8100, 64, 32, 0x03, 1, 1, 3, 0, 34, 0, 0, false, .any, 0⟩,
   ⟨0x8100, 64, 32, 0x04, 1, 1, 3, 0, 34, 0, 0, false, .any, 0⟩,
   ⟨0x8100, 64, 32, 0x05, 1, 1, 2, 0, 34, 0, 0, false, .any, 0⟩] ++
  [⟨0x8100, 64, 32, 0x06, 1, 1, 2, 0, 34, 0, 0, false, .any, 0⟩,
   ⟨0x8100, 64, 32, 0x07, 1, 1, 2, 0, 34, 0, 0, true, .any, 0⟩,
   ⟨0x8100, 64, 32, 0x08, 1, 1, 7, 0, 34, 0, 0, false, .any, 0⟩,
   ⟨0x8100, 64, 32, 0x09, 1, 1, 2, 0, 34, 0, 0, false, .any, 0⟩,
   ⟨0x8100, 64, 32, 0x0A, 1, 1, 2, 0, 34, 0, 0, false, .any, 0⟩,
   ⟨0x8100, 64, 32, 0x0B, 1, 1, 0, 0, 34, 0, 0, false, .any, 0⟩,
   ⟨0x8100, 64, 32, 0x0C, 1, 1, 7, 0, 34, 0, 0, false, .any, 0⟩,
   ⟨0x8200, 64, 32, 0x00, 4, 4, 2, 0, 34, 0, 0, true, .any, 0⟩]

/-- Entries of indices 0x9000 to 0x9FFF. -/
def entriesArea9 : List Entry :=
  [⟨0x9000, 1, 1, 0x00, 1, 1, 7, 0, 42, 0, 0, false, .any, 0⟩,
   ⟨0x9000, 1, 1, 0x01, 1, 1, 8, 0, 42, 0, 0, false, .any, 0⟩,
   ⟨0x9000, 1, 1, 0x02, 1, 1, 7, 0, 34, 0, 0, false, .any, 0⟩,
   ⟨0x9001, 1, 1, 0x00, 1, 1, 3, 4, 16, 0, 0, false, .any, 0⟩,
   ⟨0x9001, 1, 1, 0x01, 1, 1, 3, 0, 32, 0, 0, false, .any, 0⟩,
   ⟨0x9001, 1, 1, 0x02, 1, 1, 8, 1, 50, 7, 7, true, .bits 7, 0⟩,
   ⟨0x9001, 1, 1, 0x03, 1, 1, 2, 1, 50, 20, 20, true, .span 2 1000, 0⟩,
   ⟨0x9001, 1, 1, 0x04, 1, 1, 9, 1, 50, 0, 0, false, .any, 0⟩,
   ⟨0x9001, 1, 1, 0x05, 1, 1, 6, 1, 50, 1, 1, true, .span 0 1, 0⟩,
   ⟨0x9002, 1, 1, 0x00, 1, 1, 3, 0, 34, 0, 0, true, .any, 0⟩,
   ⟨0x9002, 1, 1, 0x01, 1, 1, 1, 0, 34, 0, 0, false, .any, 0⟩,
   ⟨0x9002, 1, 1, 0x02, 1, 1, 1, 0, 34, 0, 0, false, .any, 0⟩,
   ⟨0x9002, 1, 1, 0x03, 1, 1, 2, 0, 34, 0, 0, false, .any, 0⟩,
   ⟨0x9010, 3, 3, 0x00, 7, 7, 2, 0, 34, 0, 0, true, .any, 0⟩,
   ⟨0x9013, 3, 3, 0x00, 7, 7, 2, 0, 34, 0, 0, true, .any, 0⟩,
   ⟨0x9016, 1, 1, 0x00, 3, 3, 2, 0, 42, 0, 0, false, .any, 0⟩,
   ⟨0x9017, 1, 1, 0x00, 3, 3, 2, 0, 34, 0, 0, true, .any, 0⟩,
   ⟨0x9018, 1, 1, 0x00, 3, 3, 2, 0, 34, 0, 0, false, .any, 0⟩,
   ⟨0x9020, 1, 1, 0x00, 1, 1, 1, 0, 34, 65535, 65535, false, .any, 0⟩,
   ⟨0x9020, 1, 1, 0x01, 1, 1, 2, 0, 34, 0, 0, true, .any, 0⟩,
   ⟨0x9020, 1, 1, 0x02, 1, 1, 2, 0, 34, 0, 0, true, .any, 0⟩,
   ⟨0x9020, 1, 1, 0x03, 1, 1, 2, 0, 34, 0, 0, true, .any, 0⟩,
   ⟨0x9021, 32, 16, 0x00, 4, 4, 2, 0, 34, 0, 0, false, .any, 0⟩,
   ⟨0x9100, 1, 1, 0x00, 1, 1, 9, 0, 42, 0, 0, false, .any, 0⟩,
   ⟨0x9100, 1, 1, 0x01, 1, 1, 7, 0, 42, 3, 3, false, .any, 0⟩,
   ⟨0x9100, 1, 1, 0x02, 1, 1, 3, 0, 42, 0, 0, false, .any, 0⟩,
   ⟨0x9100, 1, 1, 0x03, 1, 1, 5, 0, 34, 0, 0, false, .any, 0⟩,
   ⟨0x9100, 1, 1, 0x04, 1, 1, 4, 0, 34, 0, 0, true, .any, 0⟩,
   ⟨0x9100, 1, 1, 0x05, 1, 1, 2, 0, 34, 0, 0, false, .any, 0⟩,
   ⟨0x9100, 1, 1, 0x06, 1, 1, 2, 1, 50, 100, 100, true, .span 10 10000, 0⟩] ++
  [⟨0x9100, 1, 1, 0x07, 1, 1, 0, 1, 50, 3, 3, true, .span 1 60, 0⟩,
   ⟨0x9100, 1, 1, 0x08, 1, 1, 3, 1, 50, 10000000, 10000000, true, .span 1000 1000000000000, 0⟩,
   ⟨0x9100, 1, 1, 0x09, 1, 1, 4, 0, 34, 0, 0, true, .any, 0⟩,
   ⟨0x9100, 1, 1, 0x0A, 1, 1, 4, 0, 34, 0, 0, true, .any, 0⟩,
   ⟨0x9101, 1, 1, 0x00, 1, 1, 3, 0, 42, 0, 0, false, .any, 0⟩,
   ⟨0x9101, 1, 1, 0x01, 1, 1, 3, 0, 42, 0, 0, false, .any, 0⟩,
   ⟨0x9101, 1, 1, 0x02, 1, 1, 3, 0, 42, 0, 0, false, .any, 0⟩,
   ⟨0x9101, 1, 1, 0x03, 1, 1, 3, 0, 42, 0, 0, false, .any, 0⟩,
   ⟨0x9101, 1, 1, 0x04, 1, 1, 3, 0, 34, 0, 0, true, .any, 0⟩,
   ⟨0x9102, 1, 1, 0x00, 1, 1, 6, 4, 16, 0, 0, false, .span 1 1, 0⟩]

/-- Entries of indices 0xA000 to 0xAFFF. -/
def entriesAreaA : List Entry :=
  [⟨0xA000, 1, 1, 0x00, 1, 1, 1, 0, 42, 768, 768, false, .any, 0⟩,
   ⟨0xA001, 1, 1, 0x00, 1, 1, 6, 4, 16, 0, 0, false, .span 1 1, 0⟩,
   ⟨0xA001, 1, 1, 0x01, 1, 1, 6, 0, 42, 0, 0, false, .any, 0⟩,
   ⟨0xA002, 1, 1, 0x00, 1, 1, 2, 1, 50, 1000, 1000, true, .span 100 60000, 0⟩,
   ⟨0xA002, 1, 1, 0x01, 1, 1, 6, 4, 16, 0, 0, false, .span 1 1, 0⟩,
   ⟨0xA002, 1, 1, 0x02, 1, 1, 2, 0, 34, 0, 0, false, .any, 0⟩,
   ⟨0xA003, 1, 1, 0x01, 7, 7, 2, 0, 34, 0, 0, false, .any, 0⟩,
   ⟨0xA004, 1, 1, 0x00, 1, 1, 2, 4, 21, 0, 0, false, .mask 0xFFFFFF, 0⟩,
   ⟨0xA004, 1, 1, 0x01, 1, 1, 3, 0, 42, 0, 0, false, .any, 0⟩,
   ⟨0xA010, 1, 1, 0x00, 1, 1, 2, 0, 42, 0, 0, false, .any, 0⟩,
   ⟨0xA010, 1, 1, 0x01, 1, 1, 0, 0, 34, 0, 0, false, .any, 0⟩,
   ⟨0xA010, 1, 1, 0x02, 1, 1, 0, 3, 50, 0, 0, true, .zeroOr 8 254, 0⟩,
   ⟨0xA010, 1, 1, 0x03, 1, 1, 2, 3, 50, 0, 0, true, .any, 0⟩,
   ⟨0xA010, 1, 1, 0x04, 1, 1, 0, 0, 34, 0, 0, false, .any, 0⟩,
   ⟨0xA011, 1, 1, 0x00, 1, 1, 8, 1, 50, 0, 0, false, .mask 7, 0⟩,
   ⟨0xA011, 1, 1, 0x01, 1, 1, 0, 4, 16, 0, 0, false, .span 1 3, 0⟩,
   ⟨0xA011, 1, 1, 0x02, 1, 1, 2, 0, 34, 0, 0, false, .any, 0⟩,
   ⟨0xA011, 1, 1, 0x03, 1, 1, 2, 0, 34, 0, 0, false, .any, 0⟩,
   ⟨0xA011, 1, 1, 0x04, 1, 1, 2, 0, 34, 0, 0, false, .any, 0⟩,
   ⟨0xA011, 1, 1, 0x05, 1, 1, 2, 0, 34, 0, 0, false, .any, 0⟩,
   ⟨0xA100, 64, 64, 0x00, 1, 1, 1, 1, 50, 0, 0, true, .any, 0⟩,
   ⟨0xA100, 64, 64, 0x01, 1, 1, 3, 1, 0, 0, 0, false, .any, 0⟩,
   ⟨0xA100, 64, 64, 0x02, 1, 1, 8, 1, 50, 0, 0, false, .any, 0⟩,
   ⟨0xA100, 64, 64, 0x03, 1, 1, 2, 1, 50, 100, 100, true, .span 1 1000000, 0⟩,
   ⟨0xA100, 64, 64, 0x04, 1, 1, 0, 1, 34, 0, 0, false, .any, 0⟩,
   ⟨0xA100, 64, 64, 0x05, 1, 1, 7, 3, 50, 0, 0, true, .span 0 1, 0⟩,
   ⟨0xA140, 1, 1, 0x00, 1, 1, 6, 4, 16, 0, 0, false, .span 1 1, 0⟩,
   ⟨0xA140, 1, 1, 0x01, 1, 1, 6, 0, 42, 0, 0, false, .any, 0⟩,
   ⟨0xA141, 1, 1, 0x00, 65, 65, 3, 0, 34, 0, 0, false, .any, 0⟩,
   ⟨0xA142, 1, 1, 0x00, 65, 65, 7, 0, 42, 0, 0, false, .any, 0⟩] ++
  [⟨0xA143, 1, 1, 0x00, 65, 65, 6, 1, 50, 0, 0, false, .span 0 1, 0⟩,
   ⟨0xA200, 1, 1, 0x00, 1, 1, 7, 0, 34, 0, 0, false, .any, 0⟩,
   ⟨0xA200, 1, 1, 0x01, 1, 1, 2, 0, 34, 0, 0, true, .any, 0⟩,
   ⟨0xA200, 1, 1, 0x02, 1, 1, 7, 0, 34, 0, 0, false, .any, 0⟩,
   ⟨0xA200, 1, 1, 0x03, 1, 1, 2, 1, 50, 100, 100, true, .span 10 10000, 0⟩,
   ⟨0xA200, 1, 1, 0x04, 1, 1, 0, 1, 50, 3, 3, true, .span 1 16, 0⟩,
   ⟨0xA200, 1, 1, 0x05, 1, 1, 6, 4, 16, 0, 0, false, .span 1 1, 0⟩,
   ⟨0xA301, 1, 1, 0x00, 9, 9, 2, 0, 34, 0, 0, true, .any, 0⟩,
   ⟨0xA302, 1, 1, 0x00, 1, 1, 2, 0, 34, 0, 0, true, .any, 0⟩,
   ⟨0xA302, 1, 1, 0x01, 1, 1, 2, 0, 34, 0, 0, true, .any, 0⟩,
   ⟨0xA400, 1, 1, 0x00, 1, 1, 0, 0, 34, 0, 0, false, .any, 0⟩,
   ⟨0xA400, 1, 1, 0x01, 1, 1, 2, 0, 34, 0, 0, false, .any, 0⟩,
   ⟨0xA401, 1, 1, 0x00, 1, 1, 10, 0, 42, 0, 0, false, .any, 97⟩,
   ⟨0xA401, 1, 1, 0x01, 1, 1, 10, 0, 42, 0, 0, false, .any, 48⟩,
   ⟨0xA402, 1, 1, 0x01, 4, 4, 10, 0, 42, 0, 0, false, .any, 48⟩,
   ⟨0xAF00, 1, 1, 0x00, 1, 1, 6, 4, 16, 0, 0, false, .span 1 1, 0⟩,
   ⟨0xA800, 1, 1, 0x00, 1, 1, 7, 0, 34, 0, 0, true, .any, 0⟩,
   ⟨0xA800, 1, 1, 0x01, 1, 1, 7, 0, 34, 0, 0, false, .any, 0⟩,
   ⟨0xA800, 1, 1, 0x02, 1, 1, 2, 1, 50, 3600, 3600, true, .span 60 86400, 0⟩,
   ⟨0xA800, 1, 1, 0x03, 1, 1, 2, 0, 34, 0, 0, false, .any, 0⟩,
   ⟨0xA800, 1, 1, 0x04, 1, 1, 2, 1, 50, 0, 0, true, .any, 0⟩,
   ⟨0xA801, 2, 2, 0x00, 1, 1, 2, 0, 42, 0, 0, false, .any, 0⟩,
   ⟨0xA801, 2, 2, 0x01, 1, 1, 2, 0, 34, 0, 0, false, .any, 0⟩,
   ⟨0xA801, 2, 2, 0x02, 1, 1, 0, 0, 34, 0, 0, false, .any, 0⟩,
   ⟨0xA801, 2, 2, 0x03, 1, 1, 7, 0, 34, 0, 0, true, .any, 0⟩,
   ⟨0xA810, 1, 1, 0x00, 1, 1, 6, 4, 16, 0, 0, false, .span 1 1, 0⟩,
   ⟨0xA810, 1, 1, 0x01, 1, 1, 1, 1, 50, 0, 0, false, .span 0 511, 0⟩,
   ⟨0xA810, 1, 1, 0x02, 1, 1, 10, 2, 16, 0, 0, false, .any, 4096⟩,
   ⟨0xA810, 1, 1, 0x03, 1, 1, 6, 4, 16, 0, 0, false, .span 1 1, 0⟩,
   ⟨0xA810, 1, 1, 0x04, 1, 1, 7, 0, 34, 0, 0, false, .any, 0⟩] ++
  [⟨0xA811, 1, 1, 0x00, 1, 1, 6, 4, 16, 0, 0, false, .span 1 1, 0⟩,
   ⟨0xA811, 1, 1, 0x01, 1, 1, 6, 4, 16, 0, 0, false, .span 1 1, 0⟩,
   ⟨0xA811, 1, 1, 0x02, 1, 1, 6, 4, 16, 0, 0, false, .span 1 1, 0⟩,
   ⟨0xA811, 1, 1, 0x03, 1, 1, 2, 0, 34, 0, 0, true, .any, 0⟩,
   ⟨0xA811, 1, 1, 0x04, 1, 1, 2, 0, 34, 0, 0, true, .any, 0⟩,
   ⟨0xA811, 1, 1, 0x05, 1, 1, 7, 0, 34, 0, 0, true, .any, 0⟩]

/-- Entries of indices 0xB000 to 0xBFFF. -/
def entriesAreaB : List Entry :=
  [⟨0xB000, 16, 16, 0x00, 1, 1, 8, 1, 58, 0, 0, false, .any, 0⟩,
   ⟨0xB000, 16, 16, 0x01, 1, 1, 8, 1, 50, 0, 0, true, .any, 0⟩,
   ⟨0xB000, 16, 16, 0x02, 1, 1, 8, 4, 16, 0, 0, false, .any, 0⟩,
   ⟨0xB000, 16, 16, 0x03, 1, 1, 2, 0, 42, 0, 0, false, .any, 0⟩,
   ⟨0xB000, 16, 16, 0x04, 1, 1, 9, 0, 42, 0, 0, false, .any, 0⟩,
   ⟨0xB000, 16, 16, 0x05, 1, 1, 2, 0, 42, 0, 0, false, .any, 0⟩,
   ⟨0xB000, 16, 16, 0x06, 1, 1, 6, 4, 16, 0, 0, false, .span 1 1, 0⟩,
   ⟨0xB000, 16, 16, 0x07, 1, 1, 8, 1, 50, 256, 256, true, .mask 0x1FF, 0⟩,
   ⟨0xB000, 16, 16, 0x08, 1, 1, 8, 1, 50, 0, 0, true, .any, 0⟩,
   ⟨0xB000, 16, 16, 0x09, 1, 1, 2, 1, 50, 1000, 1000, true, .span 0 10000, 0⟩,
   ⟨0xB000, 16, 16, 0x0A, 1, 1, 7, 0, 34, 0, 0, false, .any, 0⟩,
   ⟨0xB000, 16, 16, 0x0B, 1, 1, 2, 0, 34, 0, 0, true, .any, 0⟩,
   ⟨0xB000, 16, 16, 0x0C, 1, 1, 2, 0, 34, 0, 0, false, .any, 0⟩,
   ⟨0xB100, 16, 16, 0x00, 32, 32, 2, 0, 34, 0, 0, false, .any, 0⟩,
   ⟨0xB200, 1, 1, 0x00, 1, 1, 8, 1, 50, 49672, 49672, true, .bits 0xFFFF, 0⟩,
   ⟨0xB300, 18, 18, 0x00, 1, 1, 7, 0, 34, 0, 0, false, .any, 0⟩,
   ⟨0xB300, 18, 18, 0x01, 1, 1, 6, 0, 34, 0, 0, false, .any, 0⟩,
   ⟨0xB300, 18, 18, 0x02, 1, 1, 2, 0, 34, 0, 0, false, .any, 0⟩,
   ⟨0xB300, 18, 18, 0x03, 1, 1, 2, 0, 34, 0, 0, true, .any, 0⟩,
   ⟨0xB320, 1, 1, 0x00, 1, 1, 2, 1, 50, 10, 10, true, .span 1 1000, 0⟩,
   ⟨0xB400, 1, 1, 0x00, 1, 1, 6, 4, 16, 0, 0, false, .span 1 1, 0⟩,
   ⟨0xB401, 1, 1, 0x00, 1, 1, 0, 4, 16, 0, 0, false, .span 0 7, 0⟩,
   ⟨0xB402, 1, 1, 0x00, 8, 4, 2, 0, 34, 0, 0, false, .any, 0⟩,
   ⟨0xB403, 1, 1, 0x00, 1, 1, 6, 4, 16, 0, 0, false, .span 1 1, 0⟩]

/-- Entries of indices 0xC000 to 0xCFFF. -/
def entriesAreaC : List Entry :=
  [⟨0xC000, 52, 52, 0x00, 1, 1, 3, 0, 42, 0, 0, false, .any, 0⟩,
   ⟨0xC000, 52, 52, 0x01, 8, 8, 3, 0, 42, 0, 0, false, .any, 0⟩,
   ⟨0xC000, 52, 52, 0x09, 8, 8, 8, 1, 50, 0, 0, false, .any, 0⟩,
   ⟨0xC000, 52, 52, 0x11, 1, 1, 8, 1, 50, 0, 0, false, .any, 0⟩,
   ⟨0xC000, 52, 52, 0x12, 1, 1, 6, 4, 16, 0, 0, false, .span 1 1, 0⟩,
   ⟨0xC100, 52, 52, 0x00, 9, 9, 3, 0, 42, 0, 0, false, .any, 0⟩,
   ⟨0xC800, 1, 1, 0x00, 1, 1, 0, 4, 16, 0, 0, false, .span 1 4, 0⟩,
   ⟨0xC800, 1, 1, 0x01, 1, 1, 9, 1, 50, 0, 0, false, .any, 0⟩,
   ⟨0xC800, 1, 1, 0x02, 1, 1, 8, 0, 42, 0, 0, false, .any, 0⟩,
   ⟨0xC800, 1, 1, 0x03, 1, 1, 9, 0, 42, 0, 0, false, .any, 0⟩,
   ⟨0xC801, 1, 1, 0x00, 1, 1, 3, 1, 58, 0, 0, true, .mask 0xFFFFFFFFFFFFF, 0⟩,
   ⟨0xC801, 1, 1, 0x01, 1, 1, 6, 1, 58, 0, 0, true, .span 0 1, 0⟩,
   ⟨0xC900, 1, 1, 0x00, 1, 1, 2, 1, 50, 0, 0, false, .span 0 65536, 0⟩,
   ⟨0xC900, 1, 1, 0x01, 1, 1, 8, 1, 50, 65535, 65535, false, .bits 0xFFFF, 0⟩,
   ⟨0xC900, 1, 1, 0x02, 1, 1, 8, 1, 50, 31, 31, false, .bits 0x1F, 0⟩,
   ⟨0xC900, 1, 1, 0x03, 1, 1, 2, 1, 50, 0, 0, false, .bits 0x7FFFF, 0⟩,
   ⟨0xC900, 1, 1, 0x04, 1, 1, 7, 1, 50, 0, 0, false, .span 0 1, 0⟩,
   ⟨0xC900, 1, 1, 0x05, 1, 1, 1, 0, 42, 0, 0, false, .any, 0⟩,
   ⟨0xC900, 1, 1, 0x06, 1, 1, 1, 0, 42, 0, 0, false, .any, 0⟩,
   ⟨0xC900, 1, 1, 0x07, 1, 1, 2, 0, 34, 0, 0, false, .any, 0⟩,
   ⟨0xC900, 1, 1, 0x08, 1, 1, 2, 0, 34, 0, 0, false, .any, 0⟩,
   ⟨0xC900, 1, 1, 0x09, 1, 1, 1, 1, 63, 0, 0, false, .span 0 4095, 0⟩,
   ⟨0xC900, 1, 1, 0x0A, 1, 1, 10, 0, 42, 0, 0, false, .any, 32⟩,
   ⟨0xC900, 1, 1, 0x0B, 1, 1, 6, 4, 16, 0, 0, false, .span 1 1, 0⟩,
   ⟨0xCA00, 1, 1, 0x00, 1, 1, 6, 1, 50, 0, 0, false, .span 0 1, 0⟩,
   ⟨0xCA00, 1, 1, 0x01, 1, 1, 8, 1, 50, 1, 1, false, .bits 7, 0⟩,
   ⟨0xCA00, 1, 1, 0x02, 1, 1, 8, 1, 50, 65535, 65535, false, .bits 0xFFFF, 0⟩,
   ⟨0xCA00, 1, 1, 0x03, 1, 1, 3, 1, 50, 0, 0, false, .bits 0xFFFFFFFFFFFFF, 0⟩,
   ⟨0xCA00, 1, 1, 0x04, 1, 1, 2, 1, 50, 0, 0, false, .zeroOr 10 1000000, 0⟩,
   ⟨0xCA00, 1, 1, 0x05, 1, 1, 1, 1, 50, 256, 256, false, .span 16 4096, 0⟩] ++
  [⟨0xCA00, 1, 1, 0x06, 1, 1, 3, 0, 34, 0, 0, false, .any, 0⟩,
   ⟨0xCA00, 1, 1, 0x07, 1, 1, 2, 0, 34, 0, 0, false, .any, 0⟩,
   ⟨0xCB00, 1, 1, 0x00, 1, 1, 6, 4, 16, 0, 0, false, .span 1 1, 0⟩]

/-- Entries of indices 0xD000 to 0xDFFF. -/
def entriesAreaD : List Entry :=
  [⟨0xD000, 1, 1, 0x00, 1, 1, 7, 0, 42, 0, 0, false, .any, 0⟩,
   ⟨0xD000, 1, 1, 0x01, 1, 1, 7, 0, 42, 0, 0, false, .any, 0⟩,
   ⟨0xD000, 1, 1, 0x02, 1, 1, 7, 0, 34, 0, 0, false, .any, 0⟩,
   ⟨0xD000, 1, 1, 0x03, 1, 1, 2, 0, 34, 0, 0, false, .any, 0⟩,
   ⟨0xD000, 1, 1, 0x04, 1, 1, 7, 0, 34, 1, 1, false, .any, 0⟩,
   ⟨0xD001, 1, 1, 0x00, 1, 1, 6, 1, 50, 1, 1, true, .span 0 1, 0⟩,
   ⟨0xD001, 1, 1, 0x01, 1, 1, 7, 1, 50, 0, 0, true, .span 0 1, 0⟩,
   ⟨0xD001, 1, 1, 0x02, 1, 1, 6, 1, 50, 1, 0, true, .span 0 1, 0⟩,
   ⟨0xD001, 1, 1, 0x03, 1, 1, 0, 1, 50, 2, 2, true, .span 0 3, 0⟩,
   ⟨0xD002, 1, 1, 0x00, 1, 1, 7, 0, 34, 0, 0, false, .any, 0⟩,
   ⟨0xD002, 1, 1, 0x01, 1, 1, 2, 0, 34, 0, 0, false, .any, 0⟩,
   ⟨0xD002, 1, 1, 0x02, 1, 1, 2, 0, 34, 0, 0, false, .any, 0⟩,
   ⟨0xD002, 1, 1, 0x03, 1, 1, 2, 0, 34, 0, 0, false, .any, 0⟩,
   ⟨0xD002, 1, 1, 0x04, 1, 1, 2, 0, 34, 0, 0, false, .any, 0⟩,
   ⟨0xD002, 1, 1, 0x05, 1, 1, 2, 0, 34, 0, 0, false, .any, 0⟩,
   ⟨0xD003, 1, 1, 0x00, 1, 1, 7, 0, 34, 0, 0, false, .any, 0⟩,
   ⟨0xD003, 1, 1, 0x01, 1, 1, 8, 0, 34, 0, 0, false, .any, 0⟩,
   ⟨0xD003, 1, 1, 0x02, 1, 1, 8, 0, 34, 0, 0, false, .any, 0⟩,
   ⟨0xD004, 1, 1, 0x00, 1, 1, 1, 0, 34, 0, 0, false, .any, 0⟩,
   ⟨0xD004, 1, 1, 0x01, 1, 1, 2, 0, 34, 0, 0, true, .any, 0⟩,
   ⟨0xD005, 1, 1, 0x00, 1, 1, 1, 1, 51, 0, 0, false, .span 0 1023, 0⟩,
   ⟨0xD005, 1, 1, 0x01, 1, 1, 3, 0, 34, 0, 0, false, .any, 0⟩,
   ⟨0xD006, 1, 1, 0x00, 1, 1, 1, 1, 51, 256, 256, false, .span 0x100 0x7FF, 0⟩,
   ⟨0xD006, 1, 1, 0x01, 1, 1, 2, 0, 34, 0, 0, false, .any, 0⟩]

/-- Entries of indices 0xE000 to 0xEFFF. -/
def entriesAreaE : List Entry :=
  [⟨0xE000, 16, 16, 0x00, 1, 1, 6, 4, 20, 0, 0, false, .span 1 1, 0⟩,
   ⟨0xE000, 16, 16, 0x01, 1, 1, 7, 1, 62, 0, 0, true, .span 0 1, 0⟩,
   ⟨0xE000, 16, 16, 0x02, 1, 1, 7, 0, 42, 0, 0, false, .any, 0⟩,
   ⟨0xE000, 16, 16, 0x03, 1, 1, 2, 0, 42, 0, 0, true, .any, 0⟩,
   ⟨0xE000, 16, 16, 0x04, 1, 1, 2, 1, 62, 100, 100, true, .span 1 1000, 0⟩,
   ⟨0xE000, 16, 16, 0x05, 1, 1, 1, 0, 42, 0, 0, false, .any, 0⟩,
   ⟨0xE000, 16, 16, 0x06, 1, 1, 1, 0, 42, 0, 0, false, .any, 0⟩,
   ⟨0xE000, 16, 16, 0x07, 1, 1, 2, 0, 42, 0, 0, false, .any, 0⟩,
   ⟨0xE000, 16, 16, 0x08, 1, 1, 1, 1, 63, 0, 0, false, .span 0 4095, 0⟩,
   ⟨0xE000, 16, 16, 0x09, 1, 1, 3, 0, 42, 0, 0, false, .any, 0⟩,
   ⟨0xE000, 16, 16, 0x0A, 1, 1, 6, 4, 20, 0, 0, false, .span 1 1, 0⟩]

/-- The entries that may hold an index: the area is its upper digit (Table SCP-4). -/
def entriesOf (index : Nat) : List Entry :=
  match index / 0x1000 with
  | 0 => entriesArea0
  | 1 => entriesArea1
  | 2 => entriesArea2
  | 3 => entriesArea3
  | 4 => entriesArea4
  | 5 => entriesArea5
  | 6 => entriesArea6
  | 7 => entriesArea7
  | 8 => entriesArea8
  | 9 => entriesArea9
  | 10 => entriesAreaA
  | 11 => entriesAreaB
  | 12 => entriesAreaC
  | 13 => entriesAreaD
  | 14 => entriesAreaE
  | _ => []

end Sys2Proof.Machine
end

