-- ==== Sys2Proof/Machine/State.lean ====
section
/-!
DEFINITION. The state of the block as plain data, its reset value, and the reasons a step may stop.
-/
namespace Sys2Proof.Machine

/-- Faults. The spec gives every command an effect, so no meaning of this model answers with one; the type is the
host's interface. Safe. -/
inductive Fault where
  /-- Raised by no meaning. Safe: nothing can be proved of a state it stands for. -/
  | unused
  deriving DecidableEq, Repr

/-- Refusals. -/
inductive Refusal where
  /-- Answered by the dispatch for a command with no meaning in this model. Safe. -/
  | notModelled (mnemonic : String)
  deriving DecidableEq, Repr

/-- The ports of Table BND-1 (02 R27) whose level the block or its surroundings hold. Supplies are bit pairs, [0] VDDL
and [1] VDDP. -/
structure Pins where
  porN : Bool := false
  rstN : Bool := false
  rstCmpl : Bool := false
  rstCmplAck : Bool := false
  pwrReq : Nat := 0
  pwrAck : Nat := 0
  /-- `now` at which each supply (0 VDDL, 1 VDDP) began to wait for its acknowledgement (02 R39). -/
  pwrAt : Tbl Nat := []
  avsReq : Bool := false
  avsAck : Bool := false
  wakeN : Bool := true
  extWake : Bool := false
  thermAlarmN : Bool := true
  cdiRstN : Bool := false
  dieCattrip : Nat := 0
  /-- ply_irq as held while the beat is stopped (R43). -/
  irqHeld : Nat := 0
  ref100 : Bool := true
  ref25 : Bool := true
  xtal32k : Bool := true
  trcClk : Bool := false
  trcValid : Bool := false
  trcData : Nat := 0
  fuseAddr : Nat := 0
  fuseRd : Bool := false
  fusePgm : Bool := false
  fusePgmBit : Nat := 0
  fuseVppReq : Bool := false
  tsync : Bool := false
  i3cSdaO : Bool := false
  i3cSdaOe : Bool := false
  wso : Bool := false
  deriving DecidableEq, Repr

/-- Where the block stands between reset and service (02 R36 to R38, 16 R412, R423). -/
inductive Phase where
  /-- ply_por_n is low. -/
  | por
  /-- Held in block reset. -/
  | reset
  /-- Start-up runs. -/
  | starting
  /-- Step 10 reached. -/
  | service
  /-- Stopped short of service. -/
  | stopped
  deriving DecidableEq, Repr

/-- Start-up bookkeeping (16 R411 to R424). -/
structure StartUp where
  phase : Phase := .por
  path : Nat := 0
  done3A : Bool := false
  done3B : Bool := false
  done4 : Bool := false
  trained : Bool := false
  marched : Bool := false
  filled : Bool := false
  /-- Start-up is in step 1 and in step 2. -/
  inStep1 : Bool := false
  waitAck : Bool := false
  /-- Acknowledgement seen low since the reset (R37). -/
  ackSeenLow : Bool := true
  /-- Beats (`now`) at which the start time began, the excluded time and when the running exclusion began. -/
  from_ : Nat := 0
  excluded : Nat := 0
  /-- Pool time and beats at the latest block reset (11 R314). -/
  wall0 : Nat := 0
  beats0 : Nat := 0
  exclFrom : Option Nat := none
  /-- A commanded or escalated reset in progress, with its cause (14 R388). -/
  commanded : Option Nat := none
  commandedAt : Nat := 0
  /-- An image was in trial at the reset (16 R414). -/
  trial : Bool := false
  /-- The reference-clock loss lasts (02 R35). -/
  refLost : Bool := false
  /-- A block PLL has lost lock since the PLLs last locked (02 R34). -/
  pllLost : Bool := false
  /-- The start to come, or in progress, is one through ply_por_n not yet counted in BLK_COLD_STARTS. -/
  cold : Bool := true
  /-- `now` of the latest rise of ply_cdi_rst_n (08 R208). -/
  cdiAt : Nat := 0
  /-- `now` of the latest reset, for causes that fall on one beat (02 R38). -/
  resetAt : Option Nat := none
  trainReport : Option TrainReport := none
  binsOk : Bool := false
  trainingOk : Bool := false
  /-- Failures of the latest march in order, with outcomes (R419): packed as BUP_FAIL_RECORD. -/
  fails : List Nat := []
  /-- March failures still to repair, the one being repaired by fuse, and when its repair began. -/
  todo : List MarchFail := []
  hard : Option MarchFail := none
  hardFrom : Nat := 0
  fuseWord : Option Nat := none
  /-- Channels failed by this start's memory self-test (Table BUP-3). -/
  bad : List Nat := []
  /-- Fuse repairs done in this start per slice. -/
  perSlice : Tbl Nat := []
  deriving DecidableEq, Repr

/-- The fuse macro as loaded (02 R46, 16 R420): repair words and shadows by address. -/
structure Fuses where
  testLocked : Bool := true
  pen : Nat := 0
  provisionalId : Nat := 0
  dcr : Nat := 0
  repair : Tbl Nat := []
  deriving DecidableEq, Repr

/-- The time base (11 R311 to R315). Times are in units of 1/64,000,000,000 ns, in which every increment the spec gives
is whole. -/
structure TimeBase where
  t : Nat := 0
  /-- The beat runs. -/
  run : Bool := false
  /-- Slew in 1/8 ppb and what is left of it. -/
  slew8 : Int := 0
  slewLeft : Int := 0
  quality : Nat := 3
  /-- Error bound of R312 in 10^-9 ns. -/
  err : Nat := 0
  offset8 : Int := 0
  tE : Nat := 0
  held : Nat := 0
  /-- Clock time counted since the beat stopped or the holdover clock last switched, ns. -/
  segNs : Nat := 0
  onXtal : Bool := false
  /-- Time counted in holdovers that have ended, ns (R308). -/
  heldNs : Nat := 0
  /-- A forward step that the next beat takes (R311). -/
  stepDue : Nat := 0
  /-- The value naming the next edge, and whether copies disagreed (03 R80). -/
  named : Option Nat := none
  /-- `now` at which it arrived. -/
  namedAt : Nat := 0
  conflict : Bool := false
  lastEdge : Option Nat := none
  missed : Nat := 0
  /-- Beats that have run since power-on. -/
  beats : Nat := 0
  deriving DecidableEq, Repr

/-- Adaptive supply (02 R41, R42). -/
structure Avs where
  /-- A handshake is under way: request raised, or waiting for the acknowledgement's fall. -/
  busy : Bool := false
  /-- The code of an S2 entry or exit that waits for the handshake under way to complete (02 R41, R42). -/
  want : Option Nat := none
  /-- Code held before an S2 entry. -/
  saved : Nat := 200
  /-- `now` of the latest request (02 R42). -/
  reqAt : Nat := 0
  deriving DecidableEq, Repr

/-- FDI link states (Table BND-3). -/
inductive Fdi where
  | reset | active | retrain | l1 | linkReset | linkError | disabled
  deriving DecidableEq, Repr

/-- A CTP message ready to be placed in a flit: its credit class (none for CTL and time), header and data slots (03 R57, R58, R64). -/
structure TxMsg where
  cls : Option Nat
  hdr : Slot
  data : List Slot
  deriving DecidableEq, Repr

/-- A control request that waits in its link island (03 Table LNK-14, 11 R300). -/
inductive CtlReq where
  | join (agent fn cell : Nat) (caching : Bool)
  | leave (agent : Nat)
  deriving DecidableEq, Repr

/-- One host port's link layer (02 R29 to R33, 03 R55 to R66, R83). Credit lists are CR0 to CR5. -/
structure Link where
  fdi : Fdi := .reset
  /-- lp_state_req: 0 NOP, 1 Active, 2 L1, 3 LinkReset, 4 Disabled. -/
  req : Nat := 0
  linkError : Bool := false
  stallAck : Bool := false
  clkAck : Bool := false
  rxActive : Bool := false
  /-- lp_wake_req, and pl_wake_ack, which follows it. -/
  wakeReq : Bool := false
  wakeAck : Bool := false
  inband : Bool := false
  cfgRefused : Bool := false
  /-- Port kept Disabled by a failed memory self-test (Table BUP-3, memory 10). -/
  faulty : Bool := false
  /-- Revisions the block offered in this negotiation (R83). -/
  offered : Nat := 0
  up : Bool := false
  txSeq : Nat := 0
  txBuf : List (Nat × Flit) := []
  peerAck : Nat := 1023
  nakSeq : Nat := 0
  naks : Nat := 0
  rxNext : Nat := 0
  waitSeq : Bool := false
  /-- Block's receive credits: used by the host and not returned, and totals returned. -/
  rxUsed : List Nat := [0, 0, 0, 0, 0, 0]
  rxRet : List Nat := [0, 0, 0, 0, 0, 0]
  /-- Host's credits: advertised, used in total, returned in total. -/
  txAdv : List Nat := [0, 0, 0, 0, 0, 0]
  txUsed : List Nat := [0, 0, 0, 0, 0, 0]
  txRet : List Nat := [0, 0, 0, 0, 0, 0]
  /-- The acknowledgement or a credit total changed since the last flit (R58). -/
  dirty : Bool := false
  /-- Control requests that wait for dispatch to resume (11 R300). -/
  ctl : List CtlReq := []
  /-- ACK_SEQ and credit totals as sent while the replay queue is full (11 R301). -/
  frozen : Option (Nat × List Nat) := none
  /-- pl_rx_active_req raised in S2, to be answered when the link island is restored (02 R32). -/
  rxWaits : Bool := false
  /-- The port left L1 in S2 to a state that Table BND-3 does not list: LinkError when the link island is restored. -/
  errWaits : Bool := false
  /-- A link reset ordered in L1: LinkReset is requested once the port is back in Active (Table BND-3). -/
  resetWaits : Bool := false
  ingress : Nat := 0
  /-- Messages waiting for credit, in order, and the waiting event message per group (R66). -/
  txq : List TxMsg := []
  evq : Tbl TxMsg := []
  powered : Bool := true
  retained : Bool := false
  /-- `now` of the latest start of negotiation, Retrain and NAK (02 R32, 03 R60, R83). -/
  negAt : Nat := 0
  retrainAt : Nat := 0
  nakAt : Nat := 0
  deriving DecidableEq, Repr

/-- A joined agent (03 R81). -/
structure Agent where
  caching : Bool
  cell : Nat
  fn : Nat
  port : Nat
  leaving : Bool := false
  /-- Marked by the fall of its cell (06 R164). -/
  fallen : Bool := false
  /-- Its port was reset: it is removed when its cell's fall is complete (14 R389). -/
  doomed : Bool := false
  deriving DecidableEq, Repr

/-- The two stored copies of a persistent value: the newer and the older one, with sequence numbers (12 R330). -/
structure Copies where
  value : Nat
  seq : Nat
  old : Option (Nat × Nat)
  deriving DecidableEq, Repr

/-- A BLOB staged by one master, or its snapshot (12 R328). -/
structure Staging where
  index : Nat
  sub : Nat
  bytes : List Nat
  /-- `now` of the latest part. -/
  at_ : Nat := 0
  deriving DecidableEq, Repr

/-- A mailbox channel (12 R344 to R350). -/
structure Mbx where
  word : Nat := 0
  full : Bool := false
  poster : Nat := 0
  late : Bool := false
  lock : Nat := 0
  collision : Bool := false
  timeout : Bool := false
  discarded : Bool := false
  orphaned : Bool := false
  crossed : Bool := false
  /-- `now` of the posting of the word held. -/
  since : Nat := 0
  deriving DecidableEq, Repr

/-- A frame FIFO (12 R337, R338): words by address (SOF, EOF, TELEMETRY, VALID and DATA fields) and 10-bit pointers. -/
structure Fifo where
  words : Tbl Nat := []
  r : Nat := 0
  c : Nat := 0
  w : Nat := 0
  deriving DecidableEq, Repr

/-- A reassembly of an MCTP message: source EID, tag, next packet sequence, bytes (12 R333). -/
structure Reassembly where
  src : Nat
  tag : Nat
  seq : Nat
  bytes : List Nat
  deriving DecidableEq, Repr

/-- The sideband (12 R333 to R343). -/
structure Sideband where
  inb : Fifo := {}
  outb : Fifo := {}
  /-- Frames written when a whole frame fits: telemetry flag and bytes, oldest first (R340). -/
  outWait : List (Bool × List Nat) := []
  /-- Committed pointers up to which queued telemetry, or control, frames are skipped (R342). -/
  skipTel : Option Nat := none
  skipCtl : Option Nat := none
  reasm : List Reassembly := []
  /-- A Set Endpoint ID was accepted since block reset. -/
  setSeen : Bool := false
  /-- An outbound packet awaits a read after its in-band interrupt. -/
  ibi : Bool := false
  /-- `now` of its latest sending (R335). -/
  ibiAt : Nat := 0
  /-- Groups whose alert was sent and whose status has not been read since. -/
  alerts : Nat := 0
  overrun : Bool := false
  /-- MCTP tag of the request being served, and of the next message the block starts. -/
  tag : Nat := 0
  outTag : Nat := 0
  deriving DecidableEq, Repr

/-- A signed SPDM response in preparation (12 R356). -/
inductive Signing where
  | challenge (source slot summary : Nat) (nonce : Nat)
  | measurements (source index : Nat) (nonce : Nat)
  deriving DecidableEq, Repr

/-- Umpire cores and SPDM connection (12 R352 to R357). -/
structure Umpires where
  /-- `now` of each restart by mismatch or watchdog. -/
  restarts : List Nat := []
  /-- `now` at which the trial in force began (13 R366). -/
  trialFrom : Nat := 0
  /-- 0 nothing, 1 after GET_VERSION, 2 after GET_CAPABILITIES, 3 after NEGOTIATE_ALGORITHMS. -/
  spdm : Nat := 0
  signing : Option Signing := none
  certOk : Bool := false
  nonceNo : Nat := 0
  /-- Slot that the UPG_VERIFY under way checks (13 R362). -/
  verifying : Nat := 0
  deriving DecidableEq, Repr

/-- A firmware image slot (13 R361): blocks written and the load's progress. -/
structure ImageSlot where
  blocks : Tbl (BitVec 32768) := []
  written : Nat := 0
  minor : Nat := 0
  deriving DecidableEq, Repr

/-- Event delivery (14 R378 to R384) beside the group entries held in `regs`. -/
structure Events where
  /-- FLT_GRP_STATUS, and the latch: FLT_GRP_FIRST, FLT_GRP_FIRST_TIME, FLT_GRP_DETAIL, per group. -/
  status : Tbl Nat := []
  first : Tbl Nat := []
  firstTime : Tbl Nat := []
  firstDetail : Tbl Nat := []
  /-- `now` of the latched raising: events of one beat are taken in the order of 11 R316. -/
  firstAt : Tbl Nat := []
  /-- Groups in the fault state. -/
  fault : Nat := 0
  /-- FLT_GRP_FORCED per group and FLT_SRC_COUNT per event number. -/
  forced : Tbl Nat := []
  count : Tbl Nat := []
  /-- Detail of each source's latest raising and whether it was forced. -/
  detail : Tbl (Nat × Bool) := []
  /-- Forces due on the next beat, per group. -/
  forces : Tbl Nat := []
  /-- Groups whose quiet timer runs. -/
  quiet : Nat := 0
  /-- Counted ns at the latest start of a group's quiet timer (14 R384). -/
  quietFrom : Tbl Nat := []
  /-- `now` of the latest sample that saw a conditioned input rise, of its masking, or of its latest sample since (14 R386). -/
  highAt : Tbl Nat := []
  /-- End of the pacing microsecond per group × 16 + destination (8 = sideband), and what waits for it. -/
  pace : Tbl Nat := []
  waiting : Tbl Bool := []
  /-- Events raised while the beat is stopped: group, source, detail halves (11 R315). -/
  latched : List (Nat × Nat × Nat × Nat) := []
  deriving DecidableEq, Repr

/-- A function reset in progress (14 R390). -/
structure FunReset where
  mode : Nat
  draining : Bool
  /-- Begun: its steps 1 to 5 have taken place, on the beat after the write. -/
  started : Bool
  /-- `now` of its start. -/
  from_ : Nat := 0
  deriving DecidableEq, Repr

/-- Observation (15 R396 to R410). -/
structure Obs where
  /-- Counters by unit × 16 + counter (8 = cycle counter), unit status, and snapshot values. -/
  counts : Tbl Nat := []
  status : Tbl Nat := []
  snaps : Tbl Nat := []
  /-- Overflows whose event is raised at the end of the beat: unit, counter (R316 class 7). -/
  wrapped : List (Nat × Nat) := []
  frozen : Bool := false
  pendingCmd : Option Nat := none
  ring : Tbl Nat := []
  candidates : Nat := 0
  /-- Beat of the latest ring write and writes on it. -/
  beatAt : Nat := 0
  beatWrites : Nat := 0
  fifo : List (List Nat) := []
  /-- Words of the record being sent. -/
  sending : List Nat := []
  records : Nat := 0
  syncNo : Nat := 0
  dumpNo : Nat := 0
  /-- `now` of the latest dump. -/
  dumpAt : Nat := 0
  dropped : Nat := 0
  lastSync : Nat := 0
  /-- Idle cycles still to send before the first SYNC, and before the clock stops. -/
  lead : Nat := 0
  /-- Ring and trace refused by the memory self-test (Table BUP-3, memory 13). -/
  faulty : Bool := false
  deriving DecidableEq, Repr

/-- Operations of Table LNK-5. -/
inductive ReqOp where
  | rd | wrFull | wrPart | rdShared | rdOwn | upgrade | wbDirty | wrHint | atom
  /-- An opcode from 0x0A to 0x3F. -/
  | other (opcode : Nat)
  deriving DecidableEq, Repr

/-- Opcode of Table LNK-5. -/
def ReqOp.code : ReqOp → Nat
  | .rd => 1 | .wrFull => 2 | .wrPart => 3 | .rdShared => 4 | .rdOwn => 5 | .upgrade => 6
  | .wbDirty => 7 | .wrHint => 8 | .atom => 9 | .other n => n

/-- Where an accepted request stands. -/
inductive Stage where
  /-- In the replay queue (11 R300). -/
  | replay
  /-- At its leaf. -/
  | queued
  /-- In the crossing from tree to home. -/
  | crossing
  /-- Taken by the home: its transaction waits or is active. -/
  | home
  /-- A crossing lost it, or its response: nothing more happens until its response timeout (01 R17). -/
  | lost
  /-- Its response is decided and waits for credit. -/
  | ready
  /-- Its response left or was discarded; only the home's close remains. -/
  | done
  deriving DecidableEq, Repr

/-- The response decided for a request (Table LNK-7). -/
structure Rsp where
  /-- 1 DATA, 2 CMP, 3 ERR. -/
  opcode : Nat
  code : Nat
  state : Nat
  ackReq : Bool
  hint : Nat
  data : Line
  deriving DecidableEq, Repr

/-- One CTP request inside the block, from acceptance to response (01 Table BLK-4, 15 R405). -/
structure Flight where
  op : ReqOp
  h : ReqHdr
  data : Line := 0
  mask : BitVec 64 := 0
  poison : Bool := false
  target : Nat := 0
  atom : AtomSpec := ⟨0, false, 0, 0, 0⟩
  stage : Stage := .queued
  leaf : Nat := 0x3FFFF
  joined : Nat := 0
  /-- Dispatch: charged branch and trunk, level, and whether it holds a tag, a read-return slot, room (0 none, 1 read,
  2 write) in pseudo-channel `roomPc`. -/
  branch : Nat := 0
  trunk : Nat := 0
  level : Nat := 0
  tag : Bool := false
  slot : Bool := false
  room : Nat := 0
  roomPc : Nat := 0
  misrouted : Bool := false
  /-- Stamps t0 to t3 (`now`) and the pool time of t0. -/
  t0 : Nat := 0
  t0Pool : Nat := 0
  t1 : Option Nat := none
  t2 : Option Nat := none
  t3 : Option Nat := none
  bank : Nat := 0x1FFF
  page : Nat := 0
  cls : Nat := 0
  snooped : Bool := false
  replayed : Bool := false
  rsp : Option Rsp := none
  /-- The response is discarded when ready (14 R389). -/
  dropRsp : Bool := false
  /-- Outcome for the ledger: 0 not executed, 1 executed, 2, 3 failed (Table FLT-5), and its slot there. -/
  outcome : Nat := 0
  ledger : Option Nat := none
  /-- `now` at which a crossing lost the request or its response (01 R17). -/
  lostAt : Nat := 0
  deriving DecidableEq, Repr

/-- A leaf's descriptor (05 R104). -/
structure LeafDesc where
  cir : Nat
  cbs : Nat
  eir : Nat
  ebs : Nat
  pir : Nat
  pbs : Nat
  tier : Nat
  olMax : Nat
  olMin : Nat
  branch : Nat
  fn : Nat
  label : Nat
  pinned : Bool
  closed : Bool
  olInit : Nat
  deriving DecidableEq, Repr

/-- An allocated leaf (05 R101 to R127). Buckets are in 1/65,536 unit. -/
structure Leaf where
  d : LeafDesc
  c : Int
  e : Int
  p : Int
  limit : Nat
  outstanding : Nat := 0
  /-- Queued requests, oldest first, by request number. -/
  queue : List Nat := []
  units : Nat := 0
  refusals : Nat := 0
  depthMax : Nat := 0
  delayMax : Nat := 0
  windowUnits : Nat := 0
  thisWindow : Nat := 0
  congested : Bool := false
  belowLow : Bool := true
  dispatched : Bool := false
  /-- `now` of the latest beat on which the leaf was not idle (R106). -/
  busyAt : Nat := 0
  deriving DecidableEq, Repr

/-- A branch's state beside its descriptor entries (05 R101 to R123). -/
structure Branch where
  n : Int := 0
  x : Int := 0
  units : Nat := 0
  ptr : Nat := 0
  deriving DecidableEq, Repr

/-- A trunk's state beside its entries; its gate lists are in `regs` (05 R120 to R123). -/
structure Trunk where
  t : Int := 0
  /-- Round-robin branch pointer per level 0 to 5. -/
  ptrs : List Nat := [0, 0, 0, 0, 0, 0]
  /-- Base of a list enabled without one (R121), 0 before it is fixed. -/
  autoBase : Nat := 0
  /-- Pool time at which the entry in force began; 0 before the first. -/
  entered : Nat := 0
  /-- Branches open by the gate as last evaluated: none while every branch is open. -/
  open_ : Option Nat := none
  deriving DecidableEq, Repr

/-- An engine's read-modify-write report waiting in the crossing to the tree (05 R111): charged leaf (with its pair),
level, branch, trunk. -/
structure RmwReport where
  leaf : Nat
  pair : Nat
  level : Nat
  branch : Nat
  trunk : Nat
  deriving DecidableEq, Repr

/-- The tree island (05 R101 to R138). -/
structure Tree where
  labels : Tbl Nat := []
  leaves : Tbl Leaf := []
  branches : Tbl Branch := []
  trunks : Tbl Trunk := []
  /-- Reclaimed leaves, whose counts and samples stay until the next allocation (R127). -/
  ghosts : Tbl Leaf := []
  /-- Dropped charges, 1/65,536 unit. -/
  dropped : Nat := 0
  /-- Room in use per pseudo-channel: read, write. -/
  readRoom : Tbl Nat := []
  writeRoom : Tbl Nat := []
  /-- Credits that returned on the beat `now` named, by pseudo-channel × 4 + queue (1 read, 2 write): they cross into the tree and
  are of use from the next beat on (R117). -/
  back : Tbl (Nat × Nat) := []
  tags : Nat := 0
  slots : Nat := 0
  /-- `now` of the latest regulation update (R125). -/
  regAt : Nat := 0
  /-- Dispatch held: power entry, thermal trip, commanded reset. -/
  holdPower : Bool := false
  holdTrip : Bool := false
  holdReset : Bool := false
  rmw : List RmwReport := []
  /-- Requests in the crossing to the home, oldest first. -/
  crossing : List Nat := []
  /-- Counted windows' rates, newest first, at most TRE_MODEL_DEPTH; E_p per pseudo-channel; windows counted. -/
  rates : List Nat := []
  windows : Nat := 0
  eff : Tbl Nat := []
  /-- Pool time at which windows begin to count (R129), fixed at first service. -/
  countFrom : Option Nat := none
  deriving DecidableEq, Repr

/-- A snoop-filter entry (Table HOM-1) with its line (pool address bits [51:6]) in full; `holders` is the precise list,
`cells` the coarse mask; `used` orders the ways of a set by use. -/
structure FilterEntry where
  line : Nat
  excl : Bool
  coarse : Bool
  holders : List Nat
  cells : Nat
  used : Nat
  deriving DecidableEq, Repr

/-- What a home transaction serves (06 R145). -/
inductive Origin where
  | request (uid : Nat)
  | victim
  | commitWalk
  /-- Poisoning of a line for a falling cell. -/
  | fall (cell : Nat)
  /-- Poisoning of a line after a timeout. -/
  | poison
  /-- The walk that removes leaving agents; of no line. -/
  | leave
  deriving DecidableEq, Repr

/-- An unanswered snoop or hint: agent, opcode of Table LNK-9, whether it has left (a possession window holds it back
before), and whether the agent was the EXCL holder (06 R147 to R152). -/
structure Snoop where
  agent : Nat
  op : Nat
  sent : Bool
  excl : Bool
  deriving DecidableEq, Repr

/-- A line the transaction must place in its engine: data, poison, whether it goes through a home-write slot (`own`),
whether it is the flow's own line, whose acceptance completes the request (`main`), the byte mask of a partial write, and
the WB_DIRTY requests that CMP answers when it is placed (06 R146 to R155). -/
structure HomeWrite where
  data : Line
  poison : Bool
  own : Bool
  main : Bool
  mask : Option (BitVec 64)
  wb : List Nat
  deriving DecidableEq, Repr

/-- The entry a transaction found at its start: none, shared or exclusive (06 Table HOM-2). -/
inductive Found where
  | none | shared | exclusive
  deriving DecidableEq, Repr

/-- A home transaction (06 R145 to R163). -/
structure Txn where
  gen : Nat
  line : Nat
  origin : Origin
  /-- The line decodes to a place: pseudo-channel and logical position (04 R91). -/
  placed : Bool := false
  pc : Nat := 0
  key : Nat := 0
  active : Bool := false
  /-- Entry taken from the filter for a back-invalidation. -/
  entry : Option FilterEntry := none
  /-- Requester, coherence of its function, and the cell revision followed (13 R372). -/
  agent : Nat := 0xFFFF
  coh : Bool := false
  rev : Nat := 2
  found : Found := .none
  exclHolder : Option Nat := none
  /-- The way of a grant is taken, or the atomics buffer line of an ATOM. -/
  taken : Bool := false
  /-- Waiting in a set retry queue, or for a line of the atomics buffer. -/
  retry : Bool := false
  waitBuf : Bool := false
  /-- The snoops of the flow have been decided. -/
  snooped : Bool := false
  snoops : List Snoop := []
  /-- Agents that answered RSP_WB_IN_FLIGHT with the writeback still to come. -/
  wbWait : List Nat := []
  /-- WB_DIRTY requests taken into the transaction before their answer: agent and request. -/
  wbHeld : List (Nat × Nat) := []
  /-- WB_DIRTY requests paired with a snoop. -/
  paired : List Nat := []
  /-- Memory read: 0 none, 1 to be sent to the engine, 2 at the engine, 3 answered. -/
  mem : Nat := 0
  /-- Line data from memory, and data that came from a cache. -/
  data : Option Line := none
  dirty : Option Line := none
  /-- The dirty data lost its parity on a crossing (01 R17). -/
  dirtyBad : Bool := false
  /-- Response code to send in place of a result (4 BUS_ERROR, 5 POISONED), 0 none. -/
  err : Nat := 0
  /-- The EXCL holder kept a shared copy. -/
  kept : Bool := false
  writes : List HomeWrite := []
  /-- Lines that a crossing lost on their way to the engine: their requests wait for the response timeout (01 R17). -/
  lost : List HomeWrite := []
  /-- The flow has run to its end but for writes, acknowledgement and hint. -/
  finished : Bool := false
  responded : Bool := false
  waitAck : Bool := false
  granted : Bool := false
  /-- Hint push: 0 none, 1 to send once the line is placed, 2 sent and unanswered, 3 accepted, 4 over. -/
  hint : Nat := 0
  deriving DecidableEq, Repr

/-- An open possession window (06 R152). -/
structure Possession where
  line : Nat
  agent : Nat
  /-- `now` of its start. -/
  from_ : Nat
  deriving DecidableEq, Repr

/-- A line of the atomics buffer (06 R159). -/
structure AtomLine where
  line : Nat
  data : Line
  busy : Bool
  used : Nat
  deriving DecidableEq, Repr

/-- The home island (06), the commit walk (04 R98) and the translation in progress (04 R100). -/
structure Home where
  txns : Tbl Txn := []
  gens : Tbl Nat := []
  order : List Nat := []
  /-- `now` at which each wait of a transaction began: transaction × 16,384 + wait (R154, R161). -/
  waits : Tbl Nat := []
  filter : Tbl FilterEntry := []
  useNo : Nat := 0
  windows : List Possession := []
  atomics : List AtomLine := []
  /-- Set retry queues, oldest first (R157). -/
  retryQ : List Nat := []
  /-- Requests held by the commit walk, oldest first (04 R98). -/
  held : List Nat := []
  /-- Lines still to poison for a falling cell, victims still to back-invalidate, and lines of the commit walk, each
  waiting for a reserved entry (R145). -/
  poisonTodo : List (Nat × Nat) := []
  victimTodo : List FilterEntry := []
  walkTodo : List Nat := []
  walking : Bool := false
  walkDone : Bool := false
  /-- The walk ended after the commit time. -/
  walkLate : Bool := false
  /-- Cells whose fall has poisoned a line. -/
  poisonedCells : Nat := 0
  probe : Option Nat := none
  /-- Result of the translation in progress, which MAP_XLATE_RESULT shows once it is done. -/
  xlate : Option Nat := none
  deriving DecidableEq, Repr

/-- The stored region record (04 R90): the committed table's control, base and row values by key, generation, count. -/
structure RegionRecord where
  regs : Tbl Nat := []
  gen : Nat := 0
  valid : Nat := 0
  deriving DecidableEq, Repr

/-- Where an engine entry stands (Table ENG-1). -/
inductive Hold where
  | read | write | merge | homeSlot | internal
  /-- A command of a qualification's row under test: its lines pass through the test buffer. -/
  | test
  deriving DecidableEq, Repr

/-- What an internal slot's entry is for (07 R168, 10 R265 to R285, 11 R306). -/
inductive Purpose where
  | host
  | writeback
  | poisonWrite
  | scrub
  | suspect
  | sapling
  | copyRead
  | copyWrite
  | mirror
  | profile
  /-- A row under test: its reads, the write of its line 0; and what restores that line and reads it back (07 R186, R187). -/
  | qualRead
  | qualWrite
  | qualRestore
  | qualCheck
  deriving DecidableEq, Repr

/-- One request held by a pseudo-channel of an engine. `key` is the location in the pseudo-channel:
((SID × 32 + physical bank) × 16,384 + row) × 16 + column (07 R168 to R174). -/
structure Held where
  hold : Hold
  purpose : Purpose := .host
  txn : Option Nat := none
  key : Nat
  /-- The number its newest data came under, which orders the writes of a line. -/
  seq : Nat := 0
  /-- Places a line with more than one destination has been written to (10 R284). -/
  done : List Nat := []
  /-- Logical SID, bank and row before the repair tables, and what those did, for the log (10 R278). -/
  lsid : Nat := 0
  lbank : Nat := 0
  lrow : Nat := 0
  grafted : Bool := false
  replaced : Bool := false
  data : Line := 0
  mask : BitVec 64 := 0
  /-- Read-modify-write: enabled bytes are gathered, the rest comes from the die. -/
  rmw : Bool := false
  /-- The die's line has been read for this entry. -/
  rmwRead : Bool := false
  poison : Bool := false
  timing : Bool := false
  /-- Age start, and whether aged. -/
  from_ : Nat := 0
  aged : Bool := false
  /-- The column command has issued, at nCK; the read of a read-modify-write entry has issued. -/
  issued : Option Nat := none
  reading : Option Nat := none
  /-- The slice ignored the column command (08 R204). -/
  unheard : Bool := false
  page : Nat := 0
  cls : Nat := 0
  /-- A write of the line was accepted since the read behind this block-generated write (10 R266). -/
  stale : Bool := false
  /-- Copy job: the line was overwritten at the destination (10 R285). -/
  marked : Bool := false
  /-- Pseudo-channel whose tree room credit it holds (R169). -/
  credit : Option Nat := none
  uid : Option Nat := none
  /-- What the tree charged for the request, for a read-modify-write report (05 R111). -/
  charge : Option RmwReport := none
  deriving DecidableEq, Repr

/-- A SAG (Table ENG-3): its open row. -/
structure Sag where
  row : Option Nat := none
  /-- The row latched by the latest ACT since the die's reset or SRX (08 R210). -/
  latch : Option Nat := none
  /-- Targeted refresh pending for a row, and the nCK of the ACT that triggered it. -/
  reft : Option Nat := none
  reftAt : Nat := 0
  /-- Class at which the open row was activated (07 R189). -/
  cls : Nat := 0
  deriving DecidableEq, Repr

/-- A bank's timing class state (07 R184 to R192). -/
structure BankClass where
  cls : Nat := 0
  /-- Test class under way, 0 none, and whether it is a re-test. -/
  test : Nat := 0
  retest : Bool := false
  /-- `now` of the grant or latest passing re-test; of the latest failed test per band × 8 + test class, with class 0 for any
  raising test. -/
  since : Nat := 0
  failedAt : Tbl Nat := []
  deriving DecidableEq, Repr

/-- Where a row under test stands (07 R186). -/
inductive QualStage where
  /-- Not opened yet. -/
  | next
  /-- Opened at class 0: its lines are captured. -/
  | capture
  /-- Line 0 goes back from the capture. -/
  | restore
  /-- Closed at the test class's write-to-precharge time, to be opened again. -/
  | reopen
  /-- Opened at the test class: its lines are compared. -/
  | compare
  /-- To be closed at class 0. -/
  | close
  deriving DecidableEq, Repr

/-- The qualification test of a pseudo-channel (07 R186, R187), with its test buffer (Table ENG-1). -/
structure QualRun where
  /-- SID × 32 + bank, and the test class. -/
  bank : Nat
  cls : Nat
  /-- Rows still to test, the present one first; the qualifier's further choices, which replace dropped rows; rows chosen. -/
  rows : List Nat
  spare : List Nat
  chosen : List Nat
  stage : QualStage := .next
  /-- Captured lines of the present row by column, with their poison. -/
  buf : Tbl (Line × Bool) := []
  /-- The present row differs; it is dropped from the test; a row of the test has failed. -/
  differs : Bool := false
  dropped : Bool := false
  failed : Bool := false
  deriving DecidableEq, Repr

/-- A command in a channel's history (08 R224): nCK, command code of the model, PC, SID, bank, SAG, detail. -/
structure Issued where
  nck : Nat
  cmd : Nat
  pc : Nat
  sid : Nat
  bank : Nat
  sag : Nat
  arg : Nat
  cls : Nat
  deriving DecidableEq, Repr

/-- A pending refresh passed to the engine (07 R181, 09 R235). -/
structure Refresh where
  group : Nat
  urgent : Bool
  /-- Its deadline (09 R235). -/
  deadline : Nat
  /-- A cover refresh went before it; it is itself one (09 R236). -/
  cover : Bool := false
  extra : Bool := false
  /-- The step it belongs to: pass × 512 + step. -/
  step : Nat := 0
  deriving DecidableEq, Repr

/-- A pseudo-channel of a channel engine (07 R168 to R199). -/
structure Pch where
  held : Tbl Held := []
  next : Nat := 0
  sags : Tbl Sag := []
  /-- Activation trackers per bank: entries {row, count}, count order by position (R194). -/
  trackers : Tbl (List (Option Nat × Nat)) := []
  saturated : Tbl Bool := []
  classes : Tbl BankClass := []
  qual : Option QualRun := none
  drain : Bool := false
  flush : Bool := false
  /-- Writebacks and poison writes the codec holds, oldest first (10 R265), and internal requests that wait for a slot. -/
  store : List Held := []
  work : List Held := []
  /-- Refreshes at the engine per (SID × 32 + bank) × 2 + SAG, and REFab per SID, oldest first. -/
  refresh : Tbl (List Refresh) := []
  refab : Tbl (List Refresh) := []
  /-- Retraining hold, and `now` at its beginning; SIDs that asked for a preamble gap; SID retrained next. -/
  hold : Bool := false
  holdAt : Nat := 0
  gaps : Nat := 0
  sid : Nat := 0
  /-- `now` at which a retrain fell due that could not start; the retrain period last served; `now` from which a retrain is due
  out of turn (08 R217, R219). -/
  late : Option Nat := none
  turn : Nat := 0
  due : Option Nat := none
  /-- The latest burst on the data lanes, by physical lane: 16 unit intervals, the first in bit 0; whether it came with the
  preamble (08 R201, R202). -/
  lanes : Tbl Nat := []
  preamble : Bool := false
  /-- `now` of the latest preamble of each SID (08 R214). -/
  heardAt : Tbl Nat := []
  /-- Column commands issued in the 64-nCK period numbered `period`. -/
  period : Nat := 0
  used : Nat := 0
  deriving DecidableEq, Repr

/-- A mode-register read under way: SID, MA, the SID's count at its issue, the value at the slice, and whether the slice heard it
(08 R207). -/
structure MrRead where
  sid : Nat
  ma : Nat
  count : Nat
  value : Nat
  heard : Bool
  deriving DecidableEq, Repr

/-- Where a retraining of a channel's command buses stands (08 R227). -/
inductive CbtStage where
  | none | planned | held
  deriving DecidableEq, Repr

/-- A channel of the core-die interface (08 R202 to R230). -/
structure Chan where
  /-- Commands issued, newest first, at most 4,096. -/
  hist : List Issued := []
  /-- Issued counts per SID modulo 65,536; the count up to which each history is proven, and `now` of the proof (08 R224). -/
  counts : Tbl Nat := []
  proven : Tbl Nat := []
  provenAt : Tbl Nat := []
  /-- Commands that a slice named by them did not execute, newest first, each with the slice's SID (08 R204, R225). -/
  lost : List (Nat × Issued) := []
  /-- A burst was missing, or a poll returned error bits: recovery is to start (08 R225). -/
  trouble : Bool := false
  /-- The clocks run; `now` at which CK started. -/
  ck : Bool := false
  ckFrom : Nat := 0
  wck : Bool := false
  selfRef : Bool := false
  srx : Bool := false
  sreConfirmed : Bool := false
  sreNow : Nat := 0
  /-- Counted time of the SRE, and from it to the latest SR_COUNT read, ns (11 R308). -/
  sreAt : Nat := 0
  slept : Nat := 0
  sreNck : Nat := 0
  /-- `now` of the latest recoveries. -/
  recoveries : List Nat := []
  /-- A command-bus retraining planned or under way, and `now` from and until which its hold lasts (08 R227, 09 R236). -/
  cbt : CbtStage := .none
  coverFrom : Nat := 0
  coverUntil : Nat := 0
  /-- Mode-register reads whose value has not come back, oldest first. -/
  mrrs : List MrRead := []
  /-- Levels of the row and of the column lanes in each nCK of the latest command there, at the rising and at the falling edge
  (08 R203), and the nCK from which the dies' loopback of it is valid (08 Table CDI-4). -/
  rowLanes : List (Nat × Nat) := []
  colLanes : List (Nat × Nat) := []
  loopAt : Nat := 0
  deriving DecidableEq, Repr

/-- A core-die slice (08 R209): mode registers that differ from reset, the command-error state among them (MR3), REFab pointer,
training FIFO, repairs, and the commands it has executed (R205). -/
structure Slice where
  mr : Tbl Nat := []
  pointer : Nat := 0
  fifo : Tbl (BitVec 608) := []
  /-- Rows remapped by soft and hard repair: bank × 16,384 + row. -/
  soft : List Nat := []
  hard : List Nat := []
  exec : Nat := 0
  /-- Pseudo-channels whose WCK dividers are aligned. -/
  synced : Nat := 0
  deriving DecidableEq, Repr

/-- The refresh planner's view of a slice (09 R234 to R244). -/
structure Plan where
  /-- `now` at which the present step began, and the scale code in force in it. -/
  begin_ : Nat := 0
  scale : Nat := 0
  /-- The next step begins a catch-up pass (R238). -/
  fresh : Bool := true
  catchNext : Bool := false
  started : Bool := false
  /-- What the steps before the present one used up of refresh windows, in 1/32,000,000 of a bin-0 window (R244). -/
  used : Nat := 0
  deriving DecidableEq, Repr

/-- A temperature sensor (09 R242): last reading, its validity, consecutive invalid readings. -/
structure Sensor where
  last : Option Int := none
  invalid : Nat := 0
  deriving DecidableEq, Repr

/-- A row group under retention test (09 R246): bin tested, pass, kind of test, the pass's outcome, its spare rows, and
whether the pass was abandoned and the group waits to be unparked (R248). -/
structure Park where
  bin : Nat
  pass : Nat
  candidate : Bool
  failed : Option Bool := none
  spareSid : Nat
  block : Nat
  idle : Bool := false
  /-- Windows that the slice had used up when the hold began, as in `Plan.used`. -/
  usedFrom : Nat := 0
  deriving DecidableEq, Repr

/-- A recurrence word (Table INT-3): column, half, symbol position, state (1 Pending, 2 Written, 3 Hard), nCK at which
its latest rewrite ended. -/
structure Word3 where
  col : Nat
  half : Nat
  pos : Nat
  state : Nat
  ended : Nat
  order : Nat
  deriving DecidableEq, Repr

/-- A recurrence entry (10 R274), keyed by the row's logical location. -/
structure Recur where
  count : Nat
  words : List Word3
  deriving DecidableEq, Repr

/-- A repair job (10 R283 to R286). -/
structure Job where
  bank : Bool
  lbank : Nat
  row : Nat
  rows : Nat
  dest : List (Nat × Nat)
  spare : Nat
  copied : Nat := 0
  deriving DecidableEq, Repr

/-- Integrity, repair and refresh tables of the stack manager (07 R185, 09, 10). -/
structure Stack where
  bins : Tbl Nat := []
  plans : Tbl Plan := []
  sensors : Tbl Sensor := []
  trip : Bool := false
  /-- What the model's window needs of its own past: earlier allowances of each channel with the pool time each held until, the
  pool time the trip began, the trips that ended, and when each pseudo-channel failed (05 R128, 09 R255). -/
  allowed : Tbl (List (Nat × Nat)) := []
  tripFrom : Nat := 0
  trips : List (Nat × Nat) := []
  failedAt : Tbl Nat := []
  /-- The loosest bin sampled for each bank's refresh window (09 R240). -/
  windowK : Tbl Nat := []
  /-- The bin still in effect of each group loosened in its bank's running window (09 R240). -/
  heldBins : Tbl Nat := []
  /-- Parked groups by pseudo-channel × 131,072 + (SID × 32 + bank) × 1,024 + group, and the next group of each retention
  walk in progress. -/
  parks : Tbl Park := []
  /-- Groups whose candidate test failed and whose verification is still to come (09 R247). -/
  verify : List Nat := []
  walkAt : Tbl Nat := []
  recur : Tbl Recur := []
  order : Nat := 0
  /-- Grafts: pseudo-channel and location to (spare SID, spare row); bank replacements live in regs. -/
  grafts : Tbl (Nat × Nat) := []
  retiredSpare : Tbl Bool := []
  jobs : Tbl Job := []
  suspects : Tbl (List Nat) := []
  suspectRow : Tbl Nat := []
  /-- Lane error reports per pseudo-channel × 64 + lane: their beats and banks (08 R220). -/
  laneErrs : Tbl (List (Nat × Nat)) := []
  /-- Error-sampler counts per pseudo-channel × 64 + lane: bits, disagreements above and below (08 R215). -/
  vrefs : Tbl (Nat × Nat × Nat) := []
  preambles : Tbl Int := []
  /-- `now` at which what each hold of the temperature rules counts was last not so: a slice's readings below the threshold of its
  scale's fall, θ of a channel below its row, every sensor and flag below the end of a trip (09 R243, R251, R253). -/
  hotAt : Tbl Nat := []
  warmAt : Tbl Nat := []
  tripHotAt : Nat := 0
  /-- Band of the hottest die, 5 before the first reading, and `now` at which it entered it (07 R185). -/
  bandSeen : Nat := 5
  bandAt : Nat := 0
  /-- `now` of the latest start of a slice's temperature poll, of a pseudo-channel's retention walk and of its scrubbed row
  (09 R241, R245; 10 R272, R273). -/
  pollAt : Tbl Nat := []
  walkFrom : Tbl Nat := []
  scrubAt : Tbl Nat := []
  /-- Thresholds of the temperature rules as the latest reading found them (09 R257). -/
  limits : Tbl Nat := []
  /-- Read and write delay code of a lane for a SID at the latest retrain, where they have moved since, by
  (pseudo-channel × 4 + SID) × 64 + lane (08 R216). -/
  tracks : Tbl (Nat × Nat) := []
  /-- Checker command under way (10 R270), 0 none. -/
  testCmd : Nat := 0
  /-- Scrub walks of each pseudo-channel not yet counted in INT_SCRUB_PASSES. -/
  scrubWalks : Tbl Nat := []
  /-- The manager's mode-register read: channel and read (08 R230). -/
  mrRead : Option (Nat × MrRead) := none
  classLog : Tbl Nat := []
  deriving DecidableEq, Repr

/-- The core dies' stored lines: codewords by (pseudo-channel × 2^25 + key), and what an unlisted line holds: undefined
content (none), or a fill (16 R421). Keys rise strictly; no listed line that the fill reached equals the fill. -/
structure Array' where
  lines : Tbl Codeword := []
  fill : Option Codeword := none
  /-- Spare rows, by (pseudo-channel × 4 + SID) × 16,384 + row, and whole spare banks, by pseudo-channel × 4 + SID, that
  the fill reached through the repair tables. -/
  fillRows : Tbl Bool := []
  fillBanks : Tbl Bool := []
  /-- Written on a filled stack: lines whose content became undefined. -/
  lost : Tbl Bool := []
  deriving DecidableEq, Repr

/-- A power-state entry or exit (11 R291 to R305). -/
structure Entering where
  /-- Target: 0 S1, 1 S2, 2 group S1. -/
  st : Nat
  groups : Nat
  /-- Commands to answer: sender, tag, GROUPS. -/
  sources : List (Sender × Nat × Nat)
  /-- Identity of the first of them (Table SLP-3). -/
  who : Nat
  start : Nat
  abort : Option Nat := none
  undoing : Bool := false
  deriving DecidableEq, Repr

/-- Sleep (11 R289 to R319). -/
structure Sleep where
  entry : Option Entering := none
  /-- Exit in progress: groups (0 whole block), `now` of its wake, and whether from S2. -/
  exit : Option (Nat × Nat × Bool) := none
  /-- Commands answered at the exit's end: sender, tag, GROUPS. -/
  exitFor : List (Sender × Nat × Nat) := []
  /-- The whole block is past E4 and dispatch has not resumed. -/
  pastE4 : Bool := false
  /-- Steps of Table SLP-5 done. -/
  step : Nat := 0
  /-- Latched wake: its identity (Table SLP-3) and `now`. -/
  wake : Option Nat := none
  wakeNow : Nat := 0
  /-- Groups asleep with a wake latched, and `now` of the first. -/
  groupWake : Nat := 0
  groupNow : Nat := 0
  groupWho : Nat := 0
  /-- Who began the exit in progress (Table SLP-3). -/
  exitWho : Nat := 0
  /-- Replay queue: requests, oldest first (R300). -/
  queue : List Nat := []
  /-- Ports that discarded a flit while the queue was full (R301). -/
  nakOwed : Nat := 0
  /-- Pool time in ns and beats at E4, and per channel group SLP_ENTRY_SEQ of the last entry that passed E4. -/
  e4Time : Nat := 0
  e4Beats : Nat := 0
  e4Seqs : Tbl Nat := []
  /-- Slice temperatures captured at E3 (R306). -/
  temps : Tbl Int := []
  /-- Gated islands: bit of the observation unit (R290). -/
  gated : Nat := 0
  deriving DecidableEq, Repr

/-- Stores outside the parameter entries (12 R354, R426). -/
structure Mram where
  params : Tbl Copies := []
  /-- Counted ns of the latest store of each entry by its key (12 R330, R426). -/
  storedAt : Tbl Nat := []
  erased : Bool := false
  leaves : Tbl LeafDesc := []
  /-- The two copies of the region record, the newer first (12 R330). -/
  regions : RegionRecord := {}
  regionsOld : RegionRecord := {}
  pending : Option RegionRecord := none
  bins : Tbl Nat := []
  binTime : Option Nat := none
  /-- `now` of the latest save (09 R233). -/
  binSavedAt : Nat := 0
  /-- Stored training results: the entries' values, the slices whose MR1 was not their die's, the hottest slice (08 R212). -/
  training : Bool := false
  trainRegs : Tbl Nat := []
  trainMr1 : Tbl Nat := []
  trainTemp : Option Int := none
  /-- Deadwood records by slot (Table INT-4 as a number). -/
  log : Tbl Nat := []
  /-- By slot: the rows of the record, from bit 0, that have been retired since it was written (Table INT-4 bit 152). -/
  logRows : Tbl Nat := []
  /-- Fuse-repair shadow of the repair map: fuse words by address (16 R419, R420). -/
  shadows : Tbl Nat := []
  classLog : Tbl Nat := []
  classNext : Nat := 0
  deriving DecidableEq, Repr

/-- Dictionary state beside the entries' values (12 R326 to R329). -/
structure Dict where
  /-- Selection entries per master: master × 64 + which. -/
  sel : Tbl Nat := []
  staging : Tbl Staging := []
  snaps : Tbl Staging := []
  descReq : Tbl Nat := []
  desc : Tbl Nat := []
  blobs : Tbl (List Nat) := []
  deriving DecidableEq, Repr

/-- What left the block, newest first: the model's own record of its outputs. -/
inductive Out where
  | flit (port : Nat) (flit : Flit)
  /-- A management response: sender, tag, request opcode (1 read, 2 write, 3 power), status, value, data bytes. -/
  | answer (dst : Sender) (mtag op status value : Nat) (data : List Nat)
  /-- A frame read from the outbound FIFO, and an in-band interrupt's byte. -/
  | frame (bytes : List Nat)
  /-- What left of a frame that an uncorrectable word ended: the controller sees a packet with a failing PEC (12 R342, R343). -/
  | frameCut (bytes : List Nat)
  | ibi (byte : Nat)
  | trace (word : Nat)
  /-- The answer to ENTDAA: 48-bit provisional ID, BCR, DCR (02 R49). -/
  | daa (provisionalId bcr dcr : Nat)
  deriving DecidableEq, Repr

/-- The block. -/
structure State where
  /-- Build variant PLY-16 (00 R3); fixed at integration. -/
  ply16 : Bool := false
  /-- Values of scalar dictionary entries and of windowed descriptors by key; unlisted = Default. -/
  regs : Tbl Nat := []
  dict : Dict := {}
  mram : Mram := {}
  pins : Pins := {}
  start : StartUp := {}
  fuses : Fuses := {}
  time : TimeBase := {}
  avs : Avs := {}
  links : Tbl Link := []
  agents : Tbl Agent := []
  flights : Tbl Flight := []
  tree : Tree := {}
  home : Home := {}
  pchs : Tbl Pch := []
  chans : Tbl Chan := []
  slices : Tbl Slice := []
  array : Array' := {}
  stack : Stack := {}
  sleep : Sleep := {}
  mbx : Tbl Mbx := []
  /-- Master states as last watched (12 R348, R349). -/
  masters : Tbl Nat := []
  side : Sideband := {}
  ump : Umpires := {}
  images : Tbl ImageSlot := []
  ev : Events := {}
  funs : Tbl FunReset := []
  ledgers : Tbl Nat := []
  obs : Obs := {}
  out : List Out := []
  /-- The model's own counters: beats since power-on, next request number, free values read. -/
  now : Nat := 0
  uid : Nat := 0
  free : Nat := 0
  pending : List Instr := []
  deriving DecidableEq, Repr

/-- The block held in power-on reset: every entry at its Default, every buffer empty, outputs at the reset values of
Table BND-1, inputs low, pool time 0 and unknown. -/
def State.reset : State := {}

end Sys2Proof.Machine
end

