-- ==== Sys2Proof/Machine/Ops.lean ====
section
/-!
DEFINITION. The named operations over the block's registers, counters, stores, time base and outputs.
-/
namespace Sys2Proof.Machine

/-- Largest value of a saturating U32 count. -/
def satMax : Nat := 0xFFFFFFFF

/-- Sources defined per event group (14 R376), one mask per group from group 0. -/
def definedMask (g : Nat) : Nat :=
  [0x3F, 0x7FF, 0xF, 0xFF, 0xFFF, 0x7F, 0x1FFF, 0x1FFF, 0x1FFF, 0x7FF, 0x7FFF, 0x1F, 0x1F, 0x1FF, 0xFFFFFFFF,
    0xFFFFFFFF].getD g 0

/-- Default fault mask of Table FLT-1. -/
def faultMaskDefault (g : Nat) : Nat :=
  [0x1D, 0x52E, 0x2, 0x81, 0xE1D, 0x60, 0x197C, 0x1AD0, 0x198A, 0x470, 0x757C, 0x1, 0x18, 0x1E2, 0xFFFF0000, 0].getD g 0

/-- Defaults that the dictionary tables give by name rather than by number: every defined source enabled, Table FLT-1's
masks (14 R395), and depths and limits of 1 in a profile never written (05 R104, log entry 21). -/
def namedDefault (key : Nat) : Option Nat :=
  if 0xB00000 ≤ key ∧ key < 0xB01000 then
    if key % 256 = 1 then some (definedMask (key / 256 - 0xB000))
    else if key % 256 = 8 then some (faultMaskDefault (key / 256 - 0xB000))
    else none
  else none

/-- Value of the register at `key` whose printed Default is `d`. -/
def val (s : State) (key d : Nat) : Nat := tget s.regs key ((namedDefault key).getD d)

/-- The register at `key` now holds `v`; only values that differ from the Default are listed. -/
def put (s : State) (key d v : Nat) : State := { s with regs := tput s.regs key v ((namedDefault key).getD d) }

/-- Default of `r` on this variant. -/
def Reg.default (r : Reg) (ply16 : Bool) : Nat := if ply16 then r.dflt16 else r.dflt

/-- Value of instance `i` of a register. -/
def rdi (s : State) (r : Reg) (i : Nat) : Nat := val s (r.key + i * r.stride) (r.default s.ply16)

/-- Value of a register with one instance. -/
def rd (s : State) (r : Reg) : Nat := rdi s r 0

/-- Instance `i` of a register now holds `v`. -/
def wri (s : State) (r : Reg) (i v : Nat) : State := put s (r.key + i * r.stride) (r.default s.ply16) v

/-- A register now holds `v`. -/
def wr (s : State) (r : Reg) (v : Nat) : State := wri s r 0 v

/-- A count rises by `n` and saturates at `m`. -/
def bumpTo (s : State) (r : Reg) (i n m : Nat) : State := wri s r i (min (rdi s r i + n) m)

/-- A saturating U32 count rises by one. -/
def bumpi (s : State) (r : Reg) (i : Nat) : State := bumpTo s r i 1 satMax

/-- The saturating count at `key` rises by one. -/
def bumpKey (s : State) (key : Nat) : State := put s key 0 (min (val s key 0 + 1) satMax)

/-- The count of a register with one instance rises by one. -/
def bump (s : State) (r : Reg) : State := bumpi s r 0

/-- A 64-bit or 32-bit count that wraps rises by `n`. -/
def bumpWrap (s : State) (r : Reg) (i n w : Nat) : State := wri s r i ((rdi s r i + n) % 2 ^ w)

/-- Instances `i`, …, `i + n - 1` of a register are zeroed. -/
def zeros (s : State) (r : Reg) (i : Nat) : Nat → State
  | 0 => s
  | n + 1 => zeros (wri s r i 0) r (i + 1) n

/-- Signed registers hold their 32-bit pattern. -/
def rdS (s : State) (r : Reg) (i : Nat) : Int := toSigned 32 (rdi s r i)
def wrS (s : State) (r : Reg) (i : Nat) (v : Int) : State := wri s r i (ofSigned 32 v)

/-- Quantities of Table SCP-1. -/
def nPorts (s : State) : Nat := if s.ply16 then 4 else 8
def nChannels (s : State) : Nat := if s.ply16 then 16 else 32
def nPcs (s : State) : Nat := if s.ply16 then 32 else 64
def nGroups (s : State) : Nat := if s.ply16 then 4 else 8

/-- Identity of Table SLP-3: kind and number. -/
def ident (kind number : Nat) : Nat := kind * 4096 + number

/-- Detail of an event (14 R378). -/
def detail (hi lo : Nat) : Nat := (hi % 65536) * 65536 + lo % 65536

/-- Bank index of (pseudo-channel, SID, bank): channel × 256 + PC × 128 + SID × 32 + bank (15 Table OBS-4). -/
def bankIndex (pc sid bank : Nat) : Nat := pc * 128 + sid * 32 + bank

/-- Pool time in whole ns. -/
def poolNs (s : State) : Nat := s.time.t / 64000000000

/-- A record of something that left the block. -/
def emit (s : State) (o : Out) : State := { s with out := o :: s.out }

/-- The next free value number. -/
def takeFree (s : State) : Nat × State := (s.free, { s with free := s.free + 1 })

/-- Fold a State operation over a list. -/
def forEach {α : Type} (l : List α) (s : State) (f : State → α → State) : State := l.foldl f s

/-- A link, and its update. -/
def linkOf (s : State) (n : Nat) : Link := tget s.links n {}
def setLink (s : State) (n : Nat) (l : Link) : State := { s with links := tset s.links n l }
def modLink (s : State) (n : Nat) (f : Link → Link) : State := setLink s n (f (linkOf s n))

/-- ply_pwr_req becomes `req`; a supply whose bit changes begins to wait for its acknowledgement (02 R39). -/
def Pins.order (p : Pins) (req now : Nat) : Pins :=
  let at' := fun (t : Tbl Nat) n => if bitOf req n = bitOf p.pwrReq n then t else tset t n now
  { p with pwrReq := req, pwrAt := at' (at' p.pwrAt 0) 1 }

/-- LNK_PORT_STATE codes (03 Table LNK-17). -/
def portDown : Nat := 0
def portNegotiating : Nat := 1
def portUp : Nat := 2
def portRetrain : Nat := 3
def portL1 : Nat := 4
def portDisabled : Nat := 5
def portError : Nat := 6
def portState (s : State) (n : Nat) : Nat := rdi s R.LNK_PORT_STATE n
def setPortState (s : State) (n v : Nat) : State := wri s R.LNK_PORT_STATE n v
def portRev (s : State) (n : Nat) : Nat := rdi s R.LNK_PORT_REVISION n
def portBound (s : State) (n fn : Nat) : Bool := bitOf (rdi s R.LNK_PORT_FUNCTIONS n) fn && fn < 16

/-- The bit of a port, channel group or unit that PLY-16 lacks reads zero (00 R4). -/
def portMask (s : State) : Nat := if s.ply16 then 0xF else 0xFF

/-- A function is in reset (14 R390). -/
def inReset (s : State) (fn : Nat) : Bool := ((tget? s.funs fn).map (·.started)) = some true

/-- CRC-32 of 03 R56 over bytes, least significant bit first. -/
def crcBit (c : Nat) : Nat := if c % 2 = 1 then (c / 2) ^^^ 0xEDB88320 else c / 2
def crcByte (c b : Nat) : Nat := (crcBit ∘ crcBit ∘ crcBit ∘ crcBit ∘ crcBit ∘ crcBit ∘ crcBit ∘ crcBit) (c ^^^ (b % 256))
def crc32 (bytes : List Nat) : Nat := (bytes.foldl crcByte 0xFFFFFFFF) ^^^ 0xFFFFFFFF

/-- Bytes of a line, and the line of bytes. -/
def lineBytes (l : Line) : List Nat := bytesLE l.toNat 64
def lineOfBytes (b : List Nat) : Line := BitVec.ofNat 512 (ofBytesLE b)

/-- The entry of an (index, subindex) pair (12 R320). -/
def findEntry (index sub : Nat) : Option Entry :=
  (entriesOf index).find? fun e =>
    e.index ≤ index && index < e.index + e.indices && e.sub ≤ sub && sub < e.sub + e.subs

/-- Units of Table OBS-1 that PLY-16 lacks. -/
def unitAbsent16 (u : Nat) : Bool := (4 ≤ u && u ≤ 7) || (26 ≤ u && u ≤ 41) || (46 ≤ u && u ≤ 49)

/-- Master identities of Table MGT-3. -/
def isIdentity (m : Nat) : Bool := (1 ≤ m && m ≤ 0x10) || m = 0x20 || m = 0x30 || m = 0x31 || m = 0x40

/-- The pair lies in an entry that PLY-16 keeps only as a position (00 R4): the last instances of its span, the
observation units of absent resources (15 R396), the block sensors of the absent half (09 R241). -/
def absent16 (e : Entry) (index sub : Nat) : Bool :=
  index ≥ e.index + e.indices16 || sub ≥ e.sub + e.subs16 ||
    (0xC000 ≤ index && index < 0xC200 && unitAbsent16 (index % 256)) ||
    (index = R.RFH_BLOCK_TEMP.key / 256 && 4 ≤ sub && sub ≤ 7)

/-- The pair exists: it is defined, and where the subindex is a master identity it is one (12 R320, R360). -/
def exists' (index sub : Nat) : Bool :=
  (findEntry index sub).isSome &&
    (!(0xA141 ≤ index && index ≤ 0xA143) || isIdentity sub)

/-- The register key of a dictionary entry. -/
def keyOf (index sub : Nat) : Nat := index * 256 + sub

/-- Whether the value at `key` persists (00 R14): by its entry, or a branch descriptor (05 R112). -/
def persistentKey (key : Nat) : Bool :=
  if key < 0x1000000 then ((findEntry (key / 256) (key % 256)).map (·.persistent)).getD false else true

/-- Keys of a branch's descriptor entries (05 Table TRE-5, 0x3300:00 to :04) and of the gate list entries (05 R120), which
the dictionary shows through windows. -/
def branchKey (b k : Nat) : Nat := 0x1000000 + b * 8 + k
def gateKey (trunk : Nat) (shadow : Bool) (e k : Nat) : Nat :=
  0x2000000 + ((trunk * 2 + (if shadow then 1 else 0)) * 256 + e) * 2 + k

/-- Defaults of windowed descriptors (05 Table TRE-5). -/
def windowDflt (key : Nat) : Nat :=
  if key < 0x2000000 then [0, 0, 64, 524288, 256].getD (key % 8) 0 else if key % 2 = 0 then 100 else 0

/-- Printed Default at `key` on this variant. -/
def dfltAt (s : State) (key : Nat) : Nat :=
  if 0x1000000 ≤ key then windowDflt key else
  match findEntry (key / 256) (key % 256) with
  | some e => (namedDefault key).getD (if s.ply16 then e.dflt16 else e.dflt)
  | none => 0

/-- A store of a value: the older copy takes it with the next sequence number (12 R330). -/
def Copies.store (c : Option Copies) (v : Nat) : Copies :=
  match c with
  | none => ⟨v, 0, none⟩
  | some c => ⟨v, (c.seq + 1) % 2 ^ 32, some (c.value, c.seq)⟩

/-- Key of a stored item's latest store. -/
def itemKey : PersistItem → Nat
  | .entry key => key
  | .classLog => 2 ^ 32
  | .pinnedLeaf leaf => 2 ^ 32 + 1 + leaf

/-- Time counted since power-on, by the beat and in holdover, ns (11 R308). -/
def countedNs (s : State) : Nat := s.time.beats + s.time.heldNs

/-- The present value of a persistent entry is written to MRAM, where it differs from the stored one; after
MGT_PERSIST_ERASE nothing is stored until the next block reset (12 R331). -/
def persistKey (s : State) (key : Nat) : State :=
  if s.mram.erased || !persistentKey key then s else
    let v := val s key (dfltAt s key)
    let old := tget? s.mram.params key
    if ((old.map (·.value)).getD (dfltAt s key)) = v then s
    else { s with mram := { s.mram with
      params := tset s.mram.params key (Copies.store old v), storedAt := tset s.mram.storedAt (itemKey (.entry key)) (countedNs s) } }

/-- The class log with its next index is stored as one unit, and the descriptors of the pinned leaves (12 R426, 05 R107). -/
def persistClassLog (s : State) : State :=
  if s.mram.erased || (s.mram.classLog = s.stack.classLog && s.mram.classNext = rd s R.ENG_CLASS_LOG_NEXT) then s else
    { s with mram := { s.mram with
      classLog := s.stack.classLog, classNext := rd s R.ENG_CLASS_LOG_NEXT
      storedAt := tset s.mram.storedAt (itemKey .classLog) (countedNs s) } }
def persistLeaf (s : State) (n : Nat) : State :=
  let now := ((tget? s.tree.leaves n).map (·.d)).filter (·.pinned)
  if s.mram.erased || tget? s.mram.leaves n = now then s else
    { s with mram := { s.mram with
      leaves := match now with
        | some d => tset s.mram.leaves n d
        | none => tdel s.mram.leaves n
      storedAt := tset s.mram.storedAt (itemKey (.pinnedLeaf n)) (countedNs s) } }

/-- Every pending persistent value is written (12 R330). -/
def persistAll (s : State) : State :=
  let s := forEach (s.regs.map (·.1) ++ s.mram.params.map (·.1)) s persistKey
  forEach (s.tree.leaves.map (·.1) ++ s.mram.leaves.map (·.1)) (persistClassLog s) persistLeaf

/-- A counter of the observation island, unit × 16 + counter (15 R397). -/
def obsVal (s : State) (u k : Nat) : Nat := tget s.obs.counts (u * 16 + k) 0
def setObs (s : State) (u k v : Nat) : State :=
  { s with obs := { s.obs with counts := tput s.obs.counts (u * 16 + k) v 0 } }
def setUnitStatus (s : State) (u v : Nat) : State :=
  { s with obs := { s.obs with status := tput s.obs.status u v 0 } }

/-- Control word of programmable counter `k` of unit `u` (Table OBS-2). -/
def obsCtrl (s : State) (u k : Nat) : Nat := val s (keyOf (0xC000 + u) (9 + k)) 0

/-- First observation unit of each kind (Table OBS-1). -/
def unitTree : Nat := 8
def unitHome : Nat := 9
def unitEngine (ch : Nat) : Nat := 10 + ch
def unitPhy (q : Nat) : Nat := 42 + q
def unitStack : Nat := 50
def unitMgmt : Nat := 51

/-- FIFO word of a frame (Table MGT-8), without its CHECK bits. -/
def fifoWord (sof eof telemetry : Bool) (valid : Nat) (data : Nat) : Nat :=
  (if sof then 2 ^ 263 else 0) + (if eof then 2 ^ 262 else 0) + (if telemetry then 2 ^ 261 else 0) +
    valid * 2 ^ 256 + data

/-- Occupancy, emptiness and fullness of a frame FIFO (12 R338). -/
def Fifo.occupancy (f : Fifo) : Nat := (f.w + 1024 - f.r) % 1024
def Fifo.isEmpty (f : Fifo) : Bool := f.r = f.c
def Fifo.isFull (f : Fifo) : Bool := f.w % 512 = f.r % 512 && f.w ≠ f.r

def modStack (s : State) (f : Stack → Stack) : State := { s with stack := f s.stack }

/-- Label-table position of a (function, label) pair (05 R103). -/
def pairNo (fn label : Nat) : Nat := fn * 16384 + label % 16384

end Sys2Proof.Machine
end

