-- ==== Sys2Proof/Machine/Frames.lean ====
section
/-!
DEFINITION. The sideband frame FIFOs and the MCTP packets they carry (12 R333 to R343).
-/
namespace Sys2Proof.Machine

/-- `l` cut into pieces of `n`, at most `fuel` of them. -/
def pieces {α : Type} (n : Nat) : Nat → List α → List (List α)
  | 0, _ => []
  | f + 1, l => if l.length ≤ n then [l] else l.take n :: pieces n f (l.drop n)

/-- The FIFO words of a frame: 32 bytes a word, SOF on the first, EOF and VALID on the last (12 R337). -/
def frameWords (telemetry : Bool) (bytes : List Nat) : List Nat :=
  let ps := pieces 32 512 bytes
  (ps.zip (nums 0 ps.length)).map fun (p, i) =>
    fifoWord (i = 0) (i + 1 = ps.length) (telemetry && i = 0) (p.length - 1) (ofBytesLE p)

/-- Words written at W; the frame is good and C takes W (12 R338). -/
def Fifo.write (f : Fifo) (words : List Nat) : Fifo :=
  let g := words.foldl (fun f w => { f with words := tset f.words (f.w % 512) w, w := (f.w + 1) % 1024 }) f
  { g with c := g.w }

def Fifo.free (f : Fifo) : Nat := 512 - f.occupancy

/-- The pointer past the frame at `r`, at most `fuel` words on, and its words. -/
def Fifo.frameAt (f : Fifo) (r : Nat) : Nat → List Nat × Nat
  | 0 => ([], r)
  | n + 1 =>
    let w := tget f.words (r % 512) 0
    let r' := (r + 1) % 1024
    if bitOf w 262 ∨ r' = f.c then ([w], r') else
      let (ws, e) := f.frameAt r' n
      (w :: ws, e)

/-- Bytes of a frame's words. -/
def wordsBytes (ws : List Nat) : List Nat :=
  ws.flatMap fun w => bytesLE (field w 0 256) (field w 256 5 + 1)

/-- The distance from `r` on to `p` around the pointers. -/
def ptrAhead (r p : Nat) : Nat := (p + 1024 - r) % 1024

/-- The read side skips discarded frames at the head of the outbound FIFO (12 R342); `fuel` frames at most. -/
def skipFrames (s : Sideband) : Nat → Sideband
  | 0 => s
  | n + 1 =>
    if s.outb.isEmpty then { s with skipTel := none, skipCtl := none } else
      let r := s.outb.r
      let w := tget s.outb.words (r % 512) 0
      let marked := fun (m : Option Nat) => match m with
        | some p => decide (0 < ptrAhead r p ∧ ptrAhead r p ≤ ptrAhead r s.outb.c)
        | none => false
      if (bitOf w 261 && marked s.skipTel) || (!bitOf w 261 && marked s.skipCtl) then
        skipFrames { s with outb := { s.outb with r := (s.outb.frameAt r 512).2 } } n
      else s

/-- Frames of one kind waiting in the outbound FIFO from `r`, at most `fuel`. -/
def countFrames (f : Fifo) (telemetry : Bool) (r : Nat) : Nat → Nat
  | 0 => 0
  | n + 1 => if r = f.c then 0 else
      let k := if bitOf (tget f.words (r % 512) 0) 261 = telemetry then 1 else 0
      k + countFrames f telemetry (f.frameAt r 512).2 n

/-- Frames that wait move into the FIFO while a whole frame fits (12 R340). -/
def settleOut (s : Sideband) : Nat → Sideband
  | 0 => s
  | n + 1 =>
    match s.outWait with
    | [] => s
    | (t, b) :: rest =>
      let ws := frameWords t b
      if ws.length ≤ s.outb.free then settleOut { s with outb := s.outb.write ws, outWait := rest } n else s

/-- In-band interrupt 0xAE while a packet waits and none has been sent for it (12 R335). -/
def pendingIbi (s : State) : State :=
  if s.side.outb.isEmpty || s.side.ibi || rd s R.MGT_I3C_ADDRESS = 0 then s
  else emit { s with side := { s.side with ibi := true, ibiAt := s.now } } (.ibi 0xAE)

/-- Flush action 1: every queued telemetry frame is skipped and counted (12 R342). -/
def flushTelemetry (s : State) : State :=
  let n := countFrames s.side.outb true s.side.outb.r 512
  let w := (s.side.outWait.filter (·.1)).length
  let s := bumpTo s R.MGT_SB_DISCARDS 0 (n + w) satMax
  { s with side := skipFrames { s.side with skipTel := some s.side.outb.c, outWait := s.side.outWait.filter (!·.1) } 512 }

/-- Flush action 2: every queued control frame is discarded and counted (12 R342). -/
def flushControl (s : State) : State :=
  let n := countFrames s.side.outb false s.side.outb.r 512
  let w := (s.side.outWait.filter (!·.1)).length
  let s := bumpTo s R.MGT_SB_DISCARDS 0 (n + w) satMax
  { s with side := skipFrames { s.side with skipCtl := some s.side.outb.c, outWait := s.side.outWait.filter (·.1) } 512 }

/-- A control frame goes out. -/
def queueControl (s : State) (bytes : List Nat) : State :=
  pendingIbi { s with side := settleOut { s.side with outWait := s.side.outWait ++ [(false, bytes)] } 512 }

/-- A telemetry frame goes out; where it would leave less than 4 KiB for control frames the umpires first flush
telemetry, and it is discarded if the room is still short (12 R342). -/
def queueTelemetry (s : State) (bytes : List Nat) : State :=
  let words := (frameWords true bytes).length
  let s := if s.side.outb.free < words + 128 then flushTelemetry s else s
  if s.side.outb.free < words + 128 then bump s R.MGT_SB_DISCARDS
  else pendingIbi { s with side := { s.side with outb := s.side.outb.write (frameWords true bytes) } }

/-- The packets of an MCTP message: 64-byte transmission units under a 4-byte header (12 R333). PRESUMED, log entry 12:
the header's layout is that of the MCTP base specification. -/
def mctpPackets (dst src tag : Nat) (owner : Bool) (msg : List Nat) : List (List Nat) :=
  let ps := pieces 64 128 msg
  (ps.zip (nums 0 ps.length)).map fun (p, i) =>
    [1, dst, src, (if i = 0 then 128 else 0) + (if i + 1 = ps.length then 64 else 0) + (i % 4) * 16 +
      (if owner then 8 else 0) + tag % 8] ++ p

/-- A control message to `eid`, answering the request being served. -/
def sendMctp (s : State) (eid : Nat) (msg : List Nat) : State :=
  forEach (mctpPackets eid (rd s R.MGT_EID) s.side.tag false msg) s queueControl

/-- Start of a vendor-defined body (Table MGT-7). -/
def vendorHead (s : State) (kind : Nat) : List Nat := [0x7F] ++ bytesBE (rd s R.MGT_IANA_PEN) 4 ++ [kind]

/-- An event message as a telemetry frame to the manager (12 R342, 14 R383). -/
def sendTelemetry (s : State) (slot : Slot) : State :=
  let m := rd s R.MGT_MANAGER_EID
  if m = 0 then s else
    let tag := s.side.outTag
    let s := { s with side := { s.side with outTag := (tag + 1) % 8 } }
    forEach (mctpPackets m (rd s R.MGT_EID) tag true (vendorHead s 2 ++ bytesLE slot.toNat 16)) s queueTelemetry

/-- Alert of a group: its number as the mandatory byte, at most once until the group's status is read (12 R335). -/
def sendAlert (s : State) (g : Nat) : State :=
  if bitOf s.side.alerts g || rd s R.MGT_I3C_ADDRESS = 0 then s
  else emit { s with side := { s.side with alerts := putBit s.side.alerts g true } } (.ibi g)

end Sys2Proof.Machine
end

