-- ==== Sys2Proof/Machine/LinkOps.lean ====
section
/-!
DEFINITION. CTP framing and message layouts (03 Tables LNK-1 to LNK-14), credits and transmission (03 R57 to R66), and the
counting of the observation units (15 R397 to R399).
-/
namespace Sys2Proof.Machine

/-- Counter `k` of unit `u` rises by `n`; a wrap sets its overflow bit and passes to a chained neighbour (15 R397).
`fuel` bounds the chain. -/
def obsBump (s : State) (u : Nat) : Nat → Nat → Nat → State
  | 0, _, _ => s
  | f + 1, k, n =>
    let v := obsVal s u k + n
    let s := setObs s u k (v % 2 ^ 48)
    if v < 2 ^ 48 then s else
      let s := setUnitStatus s u (putBit (tget s.obs.status u 0) k true)
      let s := { s with obs := { s.obs with wrapped := s.obs.wrapped ++ [(u, k)] } }
      if k < 7 && bitOf (obsCtrl s u (k + 1)) 30 then obsBump s u f (k + 1) 1 else s

/-- Whether counter `k` of unit `u` counts `code`, of pseudo-channel `pc` where one is named (15 R398, R399). -/
def obsMatches (s : State) (u code : Nat) (pc : Option Nat) (k : Nat) : Bool :=
  let c := obsCtrl s u k
  bitOf c 31 && (k = 0 || !bitOf c 30) && field c 0 10 = code &&
    (match pc with
     | none => true
     | some p => field c 28 2 = 0 || field c 28 2 = p % 2 + 1)

/-- `code` reports `n` on unit `u`: every programmable counter that selects it adds `n`, unless frozen (15 R399, R400). -/
def obsEventPc (s : State) (u code : Nat) (pc : Option Nat) (n : Nat) : State :=
  if s.obs.frozen then s
  else forEach ((nums 0 8).filter (obsMatches s u code pc)) s (fun s k => obsBump s u 8 k n)

def obsEvent (s : State) (u code n : Nat) : State := obsEventPc s u code none n

/-- A list of `n` entries, `f` applied at position `i`. -/
def modAt (l : List Nat) (i : Nat) (f : Nat → Nat) : List Nat := l.modify i f

/-- A flit: KIND, SEQ, ACK_SEQ, six credit totals, slots 1 on, and the CRC over all (Table LNK-1, R55, R56). -/
def flitBits (kind seq ack : Nat) (cr : List Nat) (slots : List Slot) : Nat :=
  let slot0 := kind * 2 ^ 126 + (seq % 1024) * 2 ^ 116 + (ack % 1024) * 2 ^ 106 +
    ((cr.zip (nums 0 6)).foldl (fun a (v, i) => a + (v % 4096) * 2 ^ (92 - 12 * i)) 0)
  ((slots.zip (nums 1 15)).foldl (fun a (v, i) => a + v.toNat * 2 ^ (128 * i)) slot0)

def withCrc (n : Nat) : Flit := BitVec.ofNat 2048 (n + crc32 (bytesLE n 256))

/-- ACK_SEQ the receiver of port `n` reports: the last flit accepted. -/
def ackSeq (l : Link) : Nat := (l.rxNext + 1023) % 1024

/-- A flit leaves port `n` carrying the present acknowledgement and credit totals, after the wake handshake (02 Table BND-2). -/
def sendFlit (s : State) (n : Nat) (kind seq : Nat) (slots : List Slot) : State :=
  let l := linkOf s n
  let (ack, cr) := l.frozen.getD (ackSeq l, l.rxRet)
  let f := withCrc (flitBits kind seq ack cr slots)
  let l := { l with dirty := false, wakeReq := true, wakeAck := true }
  let l := if kind = 0 then
      { l with txSeq := (seq + 1) % 1024, txBuf := l.txBuf ++ [(seq, f)] } else l
  emit (setLink s n l) (.flit n f)

/-- Credits a message takes: its class, and the data class of Table LNK-3 with data. -/
def creditsOf (m : TxMsg) : List Nat :=
  match m.cls with
  | some 0 => if m.data.isEmpty then [0] else [0, 1]
  | some 2 => if m.data.isEmpty then [2] else [2, 3]
  | some c => [c]
  | none => []

/-- A credit of class `c` is held: unlimited where the host advertised 0 (03 R64). -/
def hasCredit (l : Link) (c : Nat) : Bool :=
  l.txAdv.getD c 0 = 0 || decide (l.txUsed.getD c 0 < l.txRet.getD c 0 + l.txAdv.getD c 0)

/-- The link can send this message now: FDI Active, no stall, fewer than 64 flits unacknowledged, credits held. -/
def canSend (l : Link) (m : TxMsg) : Bool :=
  l.fdi = .active && !l.stallAck && !l.linkError && decide (l.txBuf.length < 64) && (creditsOf m).all (hasCredit l)

/-- A credit of receive class `c` returns to the host (Table LNK-2). -/
def returnCredit (s : State) (n c k : Nat) : State :=
  modLink s n fun l =>
    { l with rxUsed := modAt l.rxUsed c (· - k), rxRet := modAt l.rxRet c (· + k), dirty := true }

/-- The message leaves in a flit of its own and takes its credits; a management response returns the credit of its
request (Table LNK-2). -/
def sendNow (s : State) (n : Nat) (m : TxMsg) : State :=
  let s := modLink s n fun l =>
    { l with txUsed := (creditsOf m).foldl (fun u c => modAt u c (· + 1)) l.txUsed }
  let s := obsEvent s n 17 1
  let s := if m.cls = some 5 then returnCredit s n 4 1 else s
  sendFlit s n 0 (linkOf s n).txSeq (m.hdr :: m.data)

/-- Messages that wait leave in order; one that lacks credit holds back none of another class. -/
def drainTx (s : State) (n : Nat) : State :=
  let l := linkOf s n
  let s := setLink s n { l with txq := [], evq := [] }
  let s := forEach l.txq s fun s m =>
    if canSend (linkOf s n) m then sendNow s n m
    else modLink s n fun l => { l with txq := l.txq ++ [m] }
  forEach l.evq s fun s (g, m) =>
    if canSend (linkOf s n) m then sendNow s n m
    else modLink s n fun l => { l with evq := tset l.evq g m }

/-- The port can carry messages: negotiating, up, in Retrain, or in L1. -/
def carries (s : State) (n : Nat) : Bool :=
  let p := portState s n
  p = portNegotiating || p = portUp || p = portRetrain || p = portL1

/-- A message is sent, or waits for credit (03 R64); a port that is down carries none. -/
def sendMsg (s : State) (n : Nat) (m : TxMsg) : State :=
  if !carries s n then s
  else if canSend (linkOf s n) m then sendNow s n m
  else modLink s n fun l => { l with txq := l.txq ++ [m] }

/-- An event message waits per group: a newer one replaces it (03 R66). -/
def sendEvt (s : State) (n g : Nat) (m : TxMsg) : State :=
  if portState s n ≠ portUp then s
  else if canSend (linkOf s n) m then sendNow s n m
  else modLink s n fun l => { l with evq := tset l.evq g m }

/-- A received message takes `k` receive credits of class `c`. -/
def takeCredit (s : State) (n c k : Nat) : State :=
  modLink s n fun l => { l with rxUsed := modAt l.rxUsed c (· + k) }

/-- A snoop response or CMP_ACK slot, with data or without, is taken by the home at once: its credits are used and return
(Table LNK-2). -/
def takeSrs (s : State) (n : Nat) (data : Bool) : State :=
  let s := returnCredit (takeCredit s n 2 1) n 2 1
  if data then returnCredit (takeCredit s n 3 1) n 3 1 else s

/-- Receive credits the block advertises (Table LNK-2). -/
def rxAdvertised : List Nat := [1024, 1024, 512, 128, 16, 4]

/-- Class and opcode of a header slot. -/
def slotHead (cls op : Nat) : Nat := cls * 2 ^ 124 + op * 2 ^ 118

/-- The four data slots of a line (03 R55, Table LNK-5). -/
def lineSlots (l : Line) : List Slot := (nums 0 4).map fun k => BitVec.ofNat 128 (field l.toNat (128 * k) 128)

/-- Response header (Table LNK-7). -/
def rspSlot (op code fn agent tag : Nat) (ackReq : Bool) (state hint : Nat) : Slot :=
  BitVec.ofNat 128 (slotHead 2 op + code * 2 ^ 113 + fn * 2 ^ 109 + agent * 2 ^ 97 + tag * 2 ^ 81 +
    (if ackReq then 2 ^ 80 else 0) + state * 2 ^ 78 + hint)

/-- Snoop header (Table LNK-9). -/
def snpSlot (op agent id line : Nat) : Slot :=
  BitVec.ofNat 128 (slotHead 3 op + agent * 2 ^ 106 + id * 2 ^ 90 + line * 2 ^ 44)

/-- Management header (Table LNK-11). -/
def mgtSlot (op fn mtag index sub offset nslots status value : Nat) : Slot :=
  BitVec.ofNat 128 (slotHead 5 op + fn * 2 ^ 114 + mtag * 2 ^ 106 + index * 2 ^ 90 + sub * 2 ^ 82 + offset * 2 ^ 74 +
    nslots * 2 ^ 70 + status * 2 ^ 64 + value)

/-- Event message (Table LNK-13). -/
def evtSlot (g first : Nat) (valid overflow : Bool) (status time : Nat) : Slot :=
  BitVec.ofNat 128 (slotHead 6 1 + g * 2 ^ 114 + first * 2 ^ 105 + (if valid then 2 ^ 104 else 0) +
    (if overflow then 2 ^ 103 else 0) + status * 2 ^ 64 + time)

/-- Control messages (Table LNK-14). -/
def negOfferSlot (revs : Nat) (cr : List Nat) : Slot :=
  BitVec.ofNat 128 (slotHead 8 1 + revs * 2 ^ 102 +
    (cr.zip (nums 0 6)).foldl (fun a (v, i) => a + (v % 65536) * 2 ^ (80 - 16 * i)) 0)
def negSelectSlot (rev : Nat) : Slot := BitVec.ofNat 128 (slotHead 8 2 + rev * 2 ^ 110)
def ctlRspSlot (op agent result : Nat) : Slot := BitVec.ofNat 128 (slotHead 8 op + agent * 2 ^ 106 + result * 2 ^ 98)

/-- Response code on a revision-2 port: 6 and 7 travel as 4 (Table LNK-15). -/
def wireCode (rev code : Nat) : Nat := if rev = 2 ∧ (code = 6 ∨ code = 7) then 4 else code

end Sys2Proof.Machine
end

