-- ==== Sys2Proof/Machine/Flags.lean ====
section
/-!
DEFINITION. Event sources: status, first-source latch, fault state, delivery (14 R376 to R384), interrupts (02 R43) and
the trace records of events (15 R406 to R408).
-/
namespace Sys2Proof.Machine

def grpStatus (s : State) (g : Nat) : Nat := tget s.ev.status g 0
def grpEnable (s : State) (g : Nat) : Nat := rdi s R.FLT_GRP_ENABLE g
def grpFirst (s : State) (g : Nat) : Nat := tget s.ev.first g 0

/-- Status bit of EV.g.i. -/
def statusBit (s : State) (g i : Nat) : Bool := bitOf (grpStatus s g) i

/-- ply_irq as a bit per group: high while an enabled status bit is set; held while the beat is stopped (02 R43). -/
def irqLines (s : State) : Nat :=
  if s.time.run then
    (nums 0 16).foldl (fun a g => if grpStatus s g &&& grpEnable s g = 0 then a else a + 2 ^ g) 0
  else s.pins.irqHeld

/-- A group's event message as Table LNK-13 lays it out, for a port of revision `rev`. -/
def eventSlot (s : State) (g rev : Nat) : Slot :=
  let f := grpFirst s g
  evtSlot g (field f 0 9) (bitOf f 31) (bitOf f 30) (grpStatus s g &&& grpEnable s g)
    (if rev = 2 then 0 else tget s.ev.firstTime g 0)

/-- The message goes to one destination, 8 being the sideband (14 R383). -/
def deliverTo (s : State) (g d : Nat) : State :=
  let s := { s with ev := { s.ev with
    pace := tset s.ev.pace (g * 16 + d) (s.now + 1000), waiting := tdel s.ev.waiting (g * 16 + d) } }
  let s := obsEvent s unitMgmt 21 1
  if d = 8 then sendAlert (sendTelemetry s (eventSlot s g 3)) g
  else sendEvt s d g ⟨some 4, eventSlot s g (portRev s d), []⟩

/-- Destinations of a group: routed ports that are up, and the sideband (14 R383). -/
def destinations (s : State) (g : Nat) : List Nat :=
  (bitsSet (rdi s R.FLT_GRP_ROUTE g &&& (portMask s + 256)) 9).filter fun d => d = 8 || portState s d = portUp

/-- The umpires run: their firmware has been verified in this start and they are not in restart or halted (16 R412, 12 R352). -/
def umpiresServe (s : State) : Bool := s.start.done4 && rd s R.MGT_UMPIRE_STATE = 0

/-- A newly set, enabled status bit is delivered at once, or waits for the end of the pacing microsecond (14 R383). -/
def deliver (s : State) (g : Nat) : State :=
  forEach (destinations s g) s fun s d =>
    if s.now < tget s.ev.pace (g * 16 + d) 0 || (d = 8 && !umpiresServe s) then
      { s with ev := { s.ev with waiting := tset s.ev.waiting (g * 16 + d) true } }
    else deliverTo s g d

/-- Class of a source in Table SLP-8 (14 R379). -/
def evClass (g i : Nat) : Nat :=
  if g = 7 ∧ (i = 4 ∨ i = 6) then 2
  else if (g = 4 ∧ i = 0) ∨ (g = 6 ∧ (i = 4 ∨ i = 8)) ∨ (g = 8 ∧ i = 1) then 3
  else if g = 12 ∧ i = 0 then 7
  else 6

/-- Place of EV.g.i among the events of one beat: by class, then by event number (11 R316). -/
def evOrder (g i : Nat) : Nat := evClass g i * 512 + g * 32 + i

/-- The latch of group `g` stays with the source it names: one latched on an earlier beat, or on this beat by an event that
comes before EV.g.i (01 R18, 11 R316). -/
def latchStays (s : State) (g i : Nat) : Bool :=
  bitOf (grpFirst s g) 31 &&
    (tget? s.ev.firstAt g ≠ some s.now || decide (evOrder g (grpFirst s g % 32) ≤ evOrder g i))

/-- Effects of an enabled raising on latch and fault state (14 R381, R384). -/
def enabledEffects (s : State) (g i det : Nat) (forced : Bool) : State :=
  let f := grpFirst s g
  let s := if latchStays s g i then { s with ev := { s.ev with first := tset s.ev.first g (putBit f 30 true) } }
    else { s with ev := { s.ev with
      first := tset s.ev.first g (2 ^ 31 + (if bitOf f 31 then 2 ^ 30 else 0) + (if forced then 2 ^ 29 else 0) + g * 32 + i)
      firstAt := tset s.ev.firstAt g s.now
      firstTime := tput s.ev.firstTime g (poolNs s) 0
      firstDetail := tput s.ev.firstDetail g det 0 } }
  if bitOf (rdi s R.FLT_GRP_FAULT_MASK g) i then
    { s with ev := { s.ev with
      fault := putBit s.ev.fault g true
      quiet := putBit s.ev.quiet g (rdi s R.FLT_GRP_QUIET g ≠ 0)
      quietFrom := tset s.ev.quietFrom g (countedNs s) } }
  else s

/-- A raising of EV.g.i, without its trace record (14 R380). -/
def raiseUntraced (s : State) (g i det : Nat) (forced : Bool) : State :=
  if !bitOf (definedMask g) i then s else
    let isNew := !statusBit s g i
    let s := { s with ev := { s.ev with
      status := tset s.ev.status g (putBit (grpStatus s g) i true)
      detail := tset s.ev.detail (g * 32 + i) (det, forced)
      count := if forced then s.ev.count
        else tset s.ev.count (g * 32 + i) (min (tget s.ev.count (g * 32 + i) 0 + 1) satMax)
      forced := if forced then tset s.ev.forced g (min (tget s.ev.forced g 0 + 1) satMax) else s.ev.forced } }
    if bitOf (grpEnable s g) i then
      let s := enabledEffects s g i det forced
      if isNew then deliver s g else s
    else s

/-- Words the trace FIFO holds. -/
def traceWords (s : State) : Nat := s.obs.sending.length + (s.obs.fifo.map (·.length)).foldl (· + ·) 0

/-- SYNC record: count and pool time of the beat it is queued (Table OBS-5). -/
def syncRecord (s : State) : List Nat :=
  [0x12000000 + s.obs.syncNo % 2 ^ 24, poolNs s % 2 ^ 32, poolNs s / 2 ^ 32 % 2 ^ 32]

/-- A record joins the FIFO; after every OBS_TRACE_SYNC_PERIOD records a SYNC follows (15 R407). -/
def traceAppend (s : State) (r : List Nat) : State :=
  let s := { s with obs := { s.obs with fifo := s.obs.fifo ++ [r], records := s.obs.records + 1 } }
  if rd s R.OBS_TRACE_SYNC_PERIOD ≤ s.obs.records ∧ traceWords s + 3 ≤ 2048 then
    { s with obs := { s.obs with
      fifo := s.obs.fifo ++ [syncRecord s], records := 0, syncNo := s.obs.syncNo + 1, lastSync := poolNs s } }
  else s

/-- DROP and SYNC are queued as soon as 4 words are free, ahead of any later record (15 R408). -/
def traceDrop (s : State) : State :=
  if s.obs.dropped ≠ 0 ∧ traceWords s + 4 ≤ 2048 then
    { s with obs := { s.obs with
      fifo := s.obs.fifo ++ [[0x60000000 + min s.obs.dropped 0xFFFFFF], syncRecord s]
      dropped := 0, records := 0, syncNo := s.obs.syncNo + 1, lastSync := poolNs s } }
  else s

/-- Trace is on and its memory usable. -/
def tracing (s : State) : Bool := rd s R.OBS_TRACE_ENABLE = 1 && !s.obs.faulty

/-- The trace port starts: its clock runs, 16 idle cycles pass and a SYNC leads the stream (15 R408). -/
def startTrace (s : State) : State :=
  if tracing s then
    { s with
      pins := { s.pins with trcClk := true }
      obs := { s.obs with
        lead := 16, fifo := syncRecord s :: s.obs.fifo, syncNo := s.obs.syncNo + 1, lastSync := poolNs s } }
  else s

/-- The EVENT record of a raising (Table OBS-5). -/
def eventRecord (s : State) (g i det : Nat) (forced : Bool) : List Nat :=
  [0x22000000 + (g * 32 + i) * 2 ^ 15 + (if forced then 2 ^ 14 else 0), det, poolNs s % 2 ^ 32]

/-- A record that does not fit whole is dropped whole and counted (15 R408). -/
def countDrop (s : State) : State :=
  bump { s with obs := { s.obs with dropped := s.obs.dropped + 1 } } R.OBS_TRACE_DROPPED

def eventsTraced (s : State) (g : Nat) : Bool :=
  tracing s && bitOf (rd s R.OBS_TRACE_SOURCES) 0 && bitOf (rd s R.OBS_TRACE_GROUPS) g

/-- A record is queued or dropped; a drop raises EV.12.03, whose own record is queued where it fits (log entry 13). -/
def traceRecord (s : State) (r : List Nat) : State :=
  if !tracing s then s else
    let s := traceDrop s
    if s.obs.dropped = 0 ∧ traceWords s + r.length ≤ 2048 then traceAppend s r
    else
      let s := countDrop s
      let det := detail (min s.obs.dropped 0xFFFF) (ident 1 34)
      let s := raiseUntraced s 12 3 det false
      if eventsTraced s 12 then countDrop s else s

/-- EV.g.i is raised with detail bits [31:16] `hi` and [15:0] `lo` (14 R378, R380). While the beat is stopped it is
latched for the restart beat (11 R315). -/
def raiseDet (s : State) (g i det : Nat) (forced : Bool) : State :=
  let s := raiseUntraced s g i det forced
  if eventsTraced s g then traceRecord s (eventRecord s g i det forced) else s

def raiseEv (s : State) (g i hi lo : Nat) : State :=
  if s.time.run then raiseDet s g i (detail hi lo) false
  else { s with ev := { s.ev with latched := s.ev.latched ++ [(g, i, hi, lo)] } }

/-- A source described as "first since cleared" is raised only while its status bit is clear (14 R377). -/
def raiseFirst (s : State) (g i hi lo : Nat) : State := if statusBit s g i then s else raiseEv s g i hi lo

/-- Events of one beat in the order of 11 R316: by class, then by event number. -/
def byPrecedence (l : List (Nat × Nat × Nat × Nat)) : List (Nat × Nat × Nat × Nat) :=
  sortBy (fun x => evOrder x.1 x.2.1) l

/-- Latched events take effect together on the restart beat (11 R315). -/
def takeLatched (s : State) : State :=
  let l := byPrecedence s.ev.latched
  forEach l { s with ev := { s.ev with latched := [] } } fun s (g, i, hi, lo) => raiseEv s g i hi lo

/-- Forced raisings of the write's next beat, with detail 0xFFFF_FFFF (14 R382). -/
def takeForces (s : State) : State :=
  let l := byPrecedence (s.ev.forces.flatMap fun (g, m) => (bitsSet m 32).map fun i => (g, i, 0, 0))
  forEach l { s with ev := { s.ev with forces := [] } } fun s (g, i, _, _) => raiseDet s g i 0xFFFFFFFF true

/-- Overflow events of the beat, of the last class (15 R397, 11 R316). -/
def overflowIdent (u : Nat) : Nat :=
  if u < 8 then ident 1 u else if u = unitTree then ident 1 8 else if u = unitHome then ident 1 9
  else if u < 42 then ident 4 (u - 10) else if u < 50 then ident 1 (16 + (u - 42))
  else if u = unitStack then ident 1 32 else ident 1 33

def takeWrapped (s : State) : State :=
  forEach s.obs.wrapped { s with obs := { s.obs with wrapped := [] } } fun s (u, k) =>
    raiseFirst s 12 0 k (overflowIdent u)

/-- The fault state ends when no enabled fault-mask bit is left set, not counted (Table FLT-4). -/
def settleFault (s : State) (g : Nat) : State :=
  if bitOf s.ev.fault g && (grpStatus s g &&& grpEnable s g &&& rdi s R.FLT_GRP_FAULT_MASK g) = 0 then
    { s with ev := { s.ev with fault := putBit s.ev.fault g false, quiet := putBit s.ev.quiet g false } }
  else s

/-- A crossing parity error received by the island of observation unit `u`: counted, and raised in the receiver's group
(01 R17). The source numbers are those of the areas' tables. -/
def raiseParity (s : State) (g i u : Nat) : State :=
  raiseEv (obsEvent (bump s R.BLK_XING_PARITY_ERRORS) u 2 1) g i 0 (overflowIdent u)

end Sys2Proof.Machine
end

