-- ==== Sys2Proof/Machine/Operands.lean ====
section
/-!
DEFINITION. Dictionary accesses: masters and roles, the checks of Table MGT-4, value ranges, and responses (12 R321 to
R327, R332, R334).
-/
namespace Sys2Proof.Machine

/-- The management island runs: it has left reset and the block is not in S2 (01 Table BLK-1, 16 R412). -/
def mgmtUp (s : State) : Bool :=
  s.time.run && rd s R.SLP_STATE ≠ 3 &&
    (match s.start.phase with
     | .starting => !s.start.inStep1
     | .service | .stopped => true
     | _ => false)

/-- The four observer EIDs. -/
def observers (s : State) : List Nat := bytesLE (rd s R.MGT_OBSERVER_EIDS) 4

/-- Master identity of a sender, 0 for a sideband EID with no role (12 Table MGT-3). -/
def masterOf (s : State) : Sender → Nat
  | .inband _ fn => fn + 1
  | .sideband eid =>
    if eid ≠ 0 && eid = rd s R.MGT_MANAGER_EID then 0x20
    else if eid ≠ 0 && (observers s).contains eid then 0x40 else 0
  | .umpire id => id

def isOwner (m : Nat) : Bool := 1 ≤ m && m ≤ 0x10
def isUmpire (m : Nat) : Bool := m = 0x30 || m = 0x31

/-- Sender and receiver identities of a mailbox channel (12 R344). -/
def mbxSender (s : State) (ch : Nat) : Nat := rdi s R.MGT_MBX_BIND ch / 256
def mbxReceiver (s : State) (ch : Nat) : Nat := rdi s R.MGT_MBX_BIND ch % 256

/-- A master permitted to send on the channel; sender 0x00 makes it shared. -/
def maySend (s : State) (ch m : Nat) : Bool :=
  mbxReceiver s ch ≠ 0 &&
    (if mbxSender s ch = 0 then isIdentity m && m ≠ mbxReceiver s ch else m = mbxSender s ch)

/-- Rights that the Roles column words as Sender, Receiver or Self (12 R360). -/
def namedRight (s : State) (m index sub : Nat) (write : Bool) : Bool :=
  if 0xA100 ≤ index ∧ index < 0xA140 then
    let ch := index - 0xA100
    let snd := maySend s ch m
    let rcv := mbxReceiver s ch ≠ 0 && m = mbxReceiver s ch
    match sub with
    | 1 => if write then snd else rcv
    | 2 => snd || (rcv && !write)
    | 4 => snd || (rcv && !write)
    | _ => false
  else if index = 0xA141 then m = sub && !write
  else if index = 0xA143 then m = sub
  else false

/-- The role has the right (12 R324, R326 check 5); the umpires are never refused for want of one. -/
def hasRight (s : State) (m : Nat) (e : Entry) (index sub : Nat) (write : Bool) : Bool :=
  let b := if write then 0 else 1
  isUmpire m || namedRight s m index sub write ||
    (if m = 0x20 then bitOf e.rights (4 + b) else if m = 0x40 then bitOf e.rights b
     else isOwner m && bitOf e.rights (2 + b))

/-- The access kind allows the direction (12 Table MGT-2). -/
def kindAllows (e : Entry) (write : Bool) : Bool :=
  if write then e.acc ≠ 0 else e.acc ≠ 2 && e.acc ≠ 4

/-- The function an instance names, where its index or subindex does (12 R325). -/
def namedFunction (index sub : Nat) : Option Nat :=
  if 0xE000 ≤ index ∧ index < 0xE010 then some (index - 0xE000)
  else if 0x3800 ≤ index ∧ index < 0x3810 then some (index - 0x3800)
  else if 0x3100 ≤ index ∧ index < 0x3110 then some (index - 0x3100)
  else if index = 0x2010 then some sub
  else none

/-- An owner meets another function's instance (12 R325). -/
def foreign (m index sub : Nat) : Bool :=
  isOwner m && (match namedFunction index sub with
    | some f => f + 1 ≠ m
    | none => false)

/-- A value fits the type's width (12 R321, Table MGT-1). -/
def fitsType (ty v : Nat) : Bool :=
  match ty with
  | 0 => v < 2 ^ 8
  | 1 => v < 2 ^ 16
  | 2 => v < 2 ^ 32
  | 4 => v < 2 ^ 31 || (2 ^ 64 - 2 ^ 31 ≤ v && v < 2 ^ 64)
  | 6 => v < 2
  | 7 => v < 2 ^ 8
  | 8 => v < 2 ^ 32
  | _ => v < 2 ^ 64

/-- A value lies in the entry's range. -/
def inRange : Range → Nat → Bool
  | .any, _ => true
  | .span lo hi, v => lo ≤ v && v ≤ hi
  | .zeroOr lo hi, v => v = 0 || (lo ≤ v && v ≤ hi)
  | .mask m, v => v &&& m = v
  | .bits _, _ => true

/-- Rules of an entry's chapter that refuse a value with status 3 beyond its plain range (02 to 16). -/
def chapterRange (s : State) (index sub v : Nat) : Bool :=
  if index = 0x1004 then v &&& 0xC = v && v ≠ 0
  else if index = 0xA010 ∧ sub = 2 then v = 0 || !(observers s).contains v
  else if index = 0xA010 ∧ sub = 3 then
    (bytesLE v 4).all fun b => b = 0 || (8 ≤ b && b ≤ 254 && b ≠ rd s R.MGT_MANAGER_EID)
  else if index = 0xD001 ∧ sub = 2 then v = 0 || !s.ply16
  else true

/-- Bits of a value that the block keeps: bits named reserved are ignored (00 R12), as are those of resources PLY-16
lacks (00 R4); a 32-bit signed value keeps its pattern. -/
def keptBits (s : State) (e : Entry) (index sub v : Nat) : Nat :=
  let v := match e.range with
    | .bits m => v &&& m
    | _ => v
  let v := if e.ty = 4 then v % 2 ^ 32 else v
  let v := if 0xB000 ≤ index ∧ index < 0xB010 ∧ (sub = 1 ∨ sub = 2 ∨ sub = 8) then
      v &&& definedMask (index - 0xB000) else v
  if s.ply16 then
    if (index = 0x1000 ∧ sub = 0) ∨ (index = 0x1006 ∧ sub = 0) then v &&& 0xF
    else if 0xB000 ≤ index ∧ index < 0xB010 ∧ sub = 7 then v &&& 0x10F
    else if (index = 0xC801 ∧ sub = 0) ∨ (index = 0xCA00 ∧ sub = 3) then v &&& 0xC3C0003FFFF0F else v
  else v

/-- Checks 1 to 7 of Table MGT-4 as far as they follow from the entry's row; 0 passes. A sideband EID without a role has
every request refused with status 2 (Table MGT-3). -/
def accessStatus (s : State) (src : Sender) (write : Bool) (index sub value offset nslots : Nat) : Nat :=
  let m := masterOf s src
  let e? := if index < 0xF000 ∧ exists' index sub = true then findEntry index sub else none
  let malformed := nslots > 8 || (!write && nslots ≠ 0) ||
    (match e? with
     | some e => if e.ty = 10 then decide (e.length ≤ offset * 16) else nslots ≠ 0 || offset ≠ 0
     | none => false)
  let unbound := match src with
    | .inband p f => !portBound s p f
    | _ => false
  let resetting := match src with
    | .inband _ f => inReset s f
    | _ => false
  if m = 0 then 2
  else if malformed then 6
  else if unbound then 7
  else if resetting then 5
  else match e? with
    | none => 1
    | some e =>
      if write && s.ply16 && absent16 e index sub then 1
      else if !hasRight s m e index sub write || !kindAllows e write || (write && foreign m index sub) then 2
      else if write && ((e.acc = 3 && rd s R.MGT_DICT_LOCKED = 1) ||
          (0xA100 ≤ index && index < 0xA140 && sub = 0 && rd s R.MGT_MBX_TABLE_LOCKED = 1)) then 4
      else if write && e.ty ≠ 10 && !(fitsType e.ty value && inRange e.range value && chapterRange s index sub value) then 3
      else 0

/-- The response to a management request (Table LNK-11): on its port, in an outbound frame, or internal. -/
def respond (s : State) (src : Sender) (mtag op index sub offset status value : Nat) (data : List Nat) : State :=
  let s := emit s (.answer src mtag op status value data)
  let slots := (pieces 16 9 data).filter (· ≠ [])
  match src with
  | .inband p fn =>
    sendMsg s p ⟨some 5, mgtSlot op fn mtag index sub offset slots.length status value,
      slots.map fun b => BitVec.ofNat 128 (ofBytesLE b)⟩
  | .sideband eid =>
    sendMctp s eid (vendorHead s 1 ++
      bytesLE (mgtSlot op 0 mtag index sub offset slots.length status value).toNat 16 ++
      data ++ List.replicate (slots.length * 16 - data.length) 0)
  | .umpire _ => s

/-- An access is refused: nothing changes but its counts and the response (12 R326). -/
def refuse (s : State) (src : Sender) (mtag op index sub offset status : Nat) : State :=
  let s := obsEvent (bumpi s R.MGT_REFUSALS status) unitMgmt 17 1
  respond s src mtag op index sub offset status 0 []

/-- An access is answered with status 0. -/
def grant (s : State) (src : Sender) (mtag op index sub offset value : Nat) (data : List Nat) : State :=
  respond (obsEvent s unitMgmt 16 1) src mtag op index sub offset 0 value data

/-- An in-band management request takes its receive credit (Table LNK-2). -/
def takeMgtCredit (s : State) (src : Sender) : State :=
  match src with
  | .inband p _ => takeCredit s p 4 1
  | _ => s

/-- A message of a port reaches the block only while the port carries messages; a sideband message only while its
endpoint runs. -/
def reaches (s : State) (src : Sender) : Bool :=
  mgmtUp s && (match src with
    | .inband p fn => p < nPorts s && fn < 16 && portState s p = portUp
    | _ => true)

/-- A message that does not reach the block: on a port still negotiating it is discarded and counted (03 R83). -/
def turnAway (s : State) (src : Sender) : State :=
  match src with
  | .inband p _ => if mgmtUp s && p < nPorts s && portState s p = portNegotiating then bumpi s R.LNK_DISCARDS p else s
  | _ => s

/-- A write to an entry with an action of its own: the checks of Table MGT-4, then the action, which answers a status of
its chapter (0 done) and the state it leaves. -/
def accessWrite (a : Access) (index sub : Nat) (body : Nat → Nat → State → Nat × State) (s : State) : State :=
  if !reaches s a.src then turnAway s a.src else
    let s := takeMgtCredit s a.src
    let st := accessStatus s a.src true index sub a.value 0 0
    if st ≠ 0 then refuse s a.src a.mtag 0x22 index sub 0 st
    else
      let (st, s') := body (masterOf s a.src) a.value s
      if st ≠ 0 then refuse s' a.src a.mtag 0x22 index sub 0 st
      else grant s' a.src a.mtag 0x22 index sub 0 0 []

/-- An action that no rule of its chapter refuses. -/
def always (f : State → State) : Nat → Nat → State → Nat × State := fun _ _ s => (0, f s)

/-- Selection entries of each master (05 R138, 09 R233, 10 R278, 14 R395, 15 R410, 16 R424), by which window they
select for; the ledger of function `f` is window 16 + f. -/
def selDefault (w : Nat) : Nat := if w = 7 then 0x100 else 0
def selOf (s : State) (m w : Nat) : Nat := tget s.dict.sel (m * 64 + w) (selDefault w)
def setSel (s : State) (m w v : Nat) : State :=
  { s with dict := { s.dict with sel := tput s.dict.sel (m * 64 + w) v (selDefault w) } }
def selLeaf : Nat := 0
def selBranch : Nat := 1
def selGate : Nat := 2
def selLog : Nat := 3
def selRing : Nat := 4
def selBin : Nat := 5
def selFail : Nat := 6
def selFuse : Nat := 7
def selLedger (f : Nat) : Nat := 16 + f

end Sys2Proof.Machine
end

