-- ==== Sys2Proof/Machine/Time.lean ====
section
/-!
DEFINITION. The time base and its quality: one beat, holdover, restart, and the discipline of an edge (11 R311 to R315).
-/
namespace Sys2Proof.Machine

/-- One ns in the unit of the time base, 1/(64 × 10^9) ns. -/
def nsUnit : Nat := 64000000000

/-- The quality becomes `q`; EV.09.08 is raised on a change (11 R312). -/
def setQuality (s : State) (q : Nat) : State :=
  if s.time.quality = q then s
  else raiseEv { s with time := { s.time with quality := q } } 9 8 0 0

/-- Growth of the error bound per ns: 200 ppb on the reference, 5,000 ppb on the crystal (11 R312), in 10^-9 ns. -/
def errGrowth (q : Nat) : Nat := if q = 1 then 200 else if q = 2 then 5000 else 0

/-- What a beat adds: 1 + (f + s) × 10^-9 ns, the slew ending where its whole amount has been applied, and a forward step of
the edge before it (11 R311). -/
def beatSlew (t : TimeBase) : Int :=
  let d := 8 * t.slew8
  if d.natAbs ≤ t.slewLeft.natAbs then d else t.slewLeft

def beatTime (t : TimeBase) (f : Int) : TimeBase :=
  let d := beatSlew t
  let left := t.slewLeft - d
  { t with
    t := ((t.t : Int) + nsUnit + 64 * f + d + t.stepDue).toNat % (2 ^ 64 * nsUnit)
    stepDue := 0
    slewLeft := left
    slew8 := if left = 0 then 0 else t.slew8
    beats := t.beats + 1
    err := t.err + errGrowth t.quality }

/-- Holdover sum of the clock now counting: whole periods of 40 ns, or of 30,517.578125 ns, at their trims (11 R313). -/
def holdUnits (s : State) : Nat :=
  if s.time.onXtal then
    ((s.time.segNs * 64 / 1953125 : Nat) * (1953125 * ((1000000000 : Int) + rdS s R.SLP_HOLD_TRIM_XTAL 0))).toNat
  else ((s.time.segNs / 40 : Nat) * (2560 * ((1000000000 : Int) + rdS s R.SLP_HOLD_TRIM_25 0))).toNat

/-- The beat stops: t_e is latched, outputs of the interrupts hold, and the quality falls to holdover (11 R313, 02 R43).
With the 25 MHz reference absent the crystal counts from the start. -/
def stopBeat (s : State) : State :=
  if !s.time.run then s else
    let irq := irqLines s
    let onX := !s.pins.ref25
    let s := { s with
      pins := { s.pins with irqHeld := irq }
      time := { s.time with run := false, tE := s.time.t, held := 0, segNs := 0, onXtal := onX } }
    let s := if onX then { s with time := { s.time with err := s.time.err + 30518 * 1000000000 } } else s
    if s.time.quality ≤ 1 then setQuality s (if onX then 2 else 1) else s

/-- Holdover moves to the crystal, and stays there until the beat restarts (11 R312, R313). -/
def switchToCrystal (s : State) : State :=
  if s.time.run || s.time.onXtal then s else
    let h := holdUnits s
    let s := { s with time := { s.time with
      held := s.time.held + h, segNs := 0, onXtal := true, err := s.time.err + 30518 * 1000000000 } }
    if s.time.quality = 1 then setQuality s 2 else s

/-- Time counted in the holdover under way, in the unit of the time base (11 R313). -/
def heldUnits (s : State) : Nat := s.time.held + holdUnits s

/-- Pool time as the block counts it, through a holdover as well. -/
def countedPool (s : State) : Nat := if s.time.run then poolNs s else (s.time.tE + heldUnits s) / nsUnit

/-- That count at this moment, through a holdover under way (14 R384). -/
def elapsedNs (s : State) : Nat := countedNs s + if s.time.run then 0 else heldUnits s / nsUnit

/-- The restart beat: the time base becomes t_e plus the holdover sum, and never less than t_e + 1 ns; latched events
take effect (11 R313, R315). -/
def startBeat (s : State) : State :=
  if s.time.run then s else
    let t := max (s.time.tE + heldUnits s) (s.time.tE + nsUnit)
    takeLatched { s with time := { s.time with
      t := t % (2 ^ 64 * nsUnit), run := true, held := 0, segNs := 0, onXtal := false
      heldNs := s.time.heldNs + heldUnits s / nsUnit } }

/-- A missed edge (02 R50, 11 Table SLP-7). -/
def missEdge (s : State) : State :=
  let s := bump s R.BLK_TSYNC_MISSED
  let s := { s with time := { s.time with missed := s.time.missed + 1 } }
  if s.time.missed = rd s R.SLP_TSYNC_LOSS then
    raiseEv (if s.time.quality = 0 then setQuality s 1 else s) 9 9 0 0
  else s

/-- A learned trim moves 1/16 of the way to what the last second showed (11 R313). -/
def learnTrim (s : State) (r : Reg) (sample : Int) : State :=
  wrS s r 0 (rdS s r 0 + Int.tdiv (sample - rdS s r 0) 16)

/-- Deviation in ppb of a clock that gave `n` periods in one second, `num` being 10^18 over its nominal period in ns. -/
def trimSample (num n : Nat) : Int := (num / n : Nat) - 1000000000

/-- A valid edge whose named value exceeds the captured time by `o8` eighths of a ns; a forward error above 1 µs is stepped on
the beat after it (11 R311). -/
def disciplineEdge (s : State) (o8 : Int) : State :=
  let stepped := decide (o8 > 8000)
  let s := if stepped then
      raiseEv (bump { s with time := { s.time with stepDue := (o8 * 8000000000).toNat } } R.SLP_TIME_STEPS) 9 7 0 0
    else s
  let o := if stepped then 0 else o8
  let s := if o ≥ -8000 then
      wrS s R.SLP_TIME_FREQ 0 (clampInt (rdS s R.SLP_TIME_FREQ 0 + Int.tdiv o 64) (-200000) 200000)
    else s
  let s := { s with time := { s.time with
    slew8 := clampInt o (-800000) 800000, slewLeft := o * 8000000000, offset8 := o8, missed := 0 } }
  if o.natAbs ≤ 8 * rd s R.SLP_DISC_WINDOW then
    setQuality { s with time := { s.time with err := o.natAbs * 125000000 + 1000000000 } } 0
  else if s.time.quality = 0 then
    { s with time := { s.time with err := o.natAbs * 125000000 + 1000000000 } }
  else s

/-- A captured ply_tsync_beat edge: `eighths` of a ns past the beat, with the periods of the 25 MHz and crystal inputs
counted since the edge before (02 R50, 11 R311 to R313). -/
def captureEdge (s : State) (eighths c25 cx : Nat) : State :=
  let s := bump s R.BLK_TSYNC_EDGES
  if !s.time.run then
    missEdge { s with time := { s.time with named := none, conflict := false, lastEdge := some s.now } }
  else
    let cap8 := s.time.t / 8000000000 + eighths % 8
    let spaced := match s.time.lastEdge with
      | none => true
      | some l => decide (l + 999000000 ≤ s.now ∧ s.now ≤ l + 1001000000)
    let named := s.time.named
    let early := decide (s.time.namedAt + 10000000 ≤ s.now)
    let ok := spaced && early && !s.time.conflict
    let s := { s with time := { s.time with named := none, conflict := false, lastEdge := some s.now } }
    match named, ok with
    | some v, true =>
      let s := disciplineEdge s ((8 * v : Nat) - (cap8 : Nat) : Int)
      if s.time.quality = 0 then
        let s := if c25 = 0 then s else learnTrim s R.SLP_HOLD_TRIM_25 (trimSample 25000000000000000 c25)
        if cx = 0 then s else learnTrim s R.SLP_HOLD_TRIM_XTAL (trimSample 32768000000000 cx)
      else s
    | _, _ => missEdge s

/-- A time value names the next edge; copies that disagree leave the edge without one (03 R80). -/
def nameEdge (s : State) (v : Nat) : State :=
  match s.time.named with
  | none => if s.time.conflict then s
      else { s with time := { s.time with named := some v, namedAt := s.now } }
  | some w => if v = w then s
      else raiseEv (bump { s with time := { s.time with named := none, conflict := true } } R.LNK_TIME_CONFLICTS)
        1 9 0 0

/-- Time error in ns as SLP_TIME_ERROR shows it, rounded up. -/
def timeError (s : State) : Nat := (s.time.err + 999999999) / 1000000000

end Sys2Proof.Machine
end

