-- ==== Sys2Proof/Machine/Reset.lean ====
section
/-!
DEFINITION. Taking a block reset: what every island but the always-on loses, the start path, and what persists (02 R36 to
R38, 14 R388, 16 R411).
-/
namespace Sys2Proof.Machine

/-- Entries of the training results (08 R212), which have a store of their own. -/
def trainKey (key : Nat) : Bool :=
  let i := key / 256
  let b := key % 256
  (0x6100 ≤ i && i < 0x6140 && (b ≤ 3 || b = 8)) || (0x6300 ≤ i && i < 0x6400) ||
    (0x6440 ≤ i && i < 0x6460 && (b = 0 || b = 4))

/-- Entries stored with the training results, the repair map and the image slots, as their own rules state (12 R426); the present
values of the latter two are the stored ones. -/
def ownStore (key : Nat) : Bool :=
  let i := key / 256
  let b := key % 256
  trainKey key || key = 0x000202 || i = 0x2C00 || (0x8200 ≤ i && i < 0x8240) ||
    key = 0xA80000 || key = 0xA80004 || (0xA801 ≤ i && i ≤ 0xA802 && b = 3)

/-- The training results are stored: the entries' present values, and the temperature they were found at (08 R212). -/
def storeTraining (s : State) (temp : Option Int) : State :=
  { s with mram := { s.mram with training := true, trainRegs := s.regs.filter fun (k, _) => trainKey k, trainTemp := temp } }

/-- One entry of them is stored (08 R228). -/
def storeEntry (s : State) (key : Nat) : State :=
  { s with mram := { s.mram with trainRegs := tput s.mram.trainRegs key (val s key (dfltAt s key)) (dfltAt s key) } }

/-- Entry values from a block reset on: stored values of persistent entries and training results, Defaults elsewhere (00 R14); after
MGT_PERSIST_ERASE no parameter has a stored value (12 R331). -/
def reloadRegs (s : State) : Tbl Nat :=
  let own := s.regs.filter fun (k, _) => ownStore k && !trainKey k
  let own := s.mram.trainRegs.foldl (fun t (k, v) => if trainKey k then tput t k v (dfltAt s k) else t) own
  let params := if s.mram.erased then [] else s.mram.params
  params.foldl (fun t (k, c) => if ownStore k then t else tput t k c.value (dfltAt s k)) own

/-- Output pins of an island in reset (Table BND-1); inputs, and outputs of the always-on island, stay. The alarm follows the
temperature flags, the block's own trip having ended with the reset (02 R44). -/
def resetPins (p : Pins) : Pins :=
  { p with
    rstCmpl := false, avsReq := false, irqHeld := 0, trcClk := false, trcValid := false, trcData := 0
    fuseAddr := 0, fuseRd := false, fusePgm := false, fusePgmBit := 0, fuseVppReq := false
    i3cSdaO := false, i3cSdaOe := false, wso := false, wakeN := true
    thermAlarmN := p.dieCattrip = 0 }

/-- Every channel in service lies in self-refresh after E4 of an entry and no SRX has issued (16 R411). -/
def diesAsleep (s : State) : Bool :=
  let asleep := fun c => (tget s.chans c {}).selfRef && (s.sleep.pastE4 || bitOf (rd s R.SLP_GROUPS_ASLEEP) (c / 4))
  (s.sleep.pastE4 || rd s R.SLP_GROUPS_ASLEEP = portMask s) &&
    (nums 0 (nChannels s)).all fun c => rdi s R.CDI_CHANNEL_STATE c = 1 || asleep c

/-- Each channel's record of self-refresh, kept for the check of 11 R308. -/
def keepRefresh (c : Chan) : Chan :=
  { selfRef := c.selfRef, sreConfirmed := c.sreConfirmed, sreNow := c.sreNow, sreNck := c.sreNck, sreAt := c.sreAt }

/-- What every island but the always-on holds after a reset, apart from the registers that say how it came about: `path` is the
start path selected, `keep` whether the core dies keep their contents (ply_cdi_rst_n stays high). -/
def islandsCleared (s : State) (path : Nat) (keep : Bool) : State :=
  let params := if s.mram.erased then [] else s.mram.params
  { ({} : State) with
    ply16 := s.ply16
    regs := reloadRegs s
    mram := { s.mram with
      params := params, erased := false
      leaves := if s.mram.erased then [] else s.mram.leaves
      classLog := if s.mram.erased then [] else s.mram.classLog
      classNext := if s.mram.erased then 0 else s.mram.classNext }
    pins := { resetPins s.pins with cdiRstN := keep && s.pins.cdiRstN }
    start := { phase := .reset, path := path, ackSeenLow := !s.pins.rstCmplAck, wall0 := s.time.t,
               beats0 := s.time.beats, cold := false, resetAt := some s.now, refLost := s.start.refLost
               trial := s.start.trial || rd s R.UPG_STATE = 2 }
    fuses := s.fuses
    time := { s.time with named := none, conflict := false, slew8 := 0, slewLeft := 0 }
    slices := if keep then s.slices else s.slices.map fun (k, c) => (k, { ({} : Slice) with hard := c.hard })
    chans := if keep then s.chans.map fun (k, c) => (k, keepRefresh c) else []
    array := if keep then s.array else {}
    stack := { grafts := s.stack.grafts, retiredSpare := s.stack.retiredSpare,
               classLog := if s.mram.erased then [] else s.mram.classLog
               parks := s.stack.parks.map fun (k, p) => (k, { p with idle := true, failed := none }) }
    sleep := { pastE4 := path = 3, e4Time := s.sleep.e4Time, e4Beats := s.sleep.e4Beats,
               e4Seqs := s.sleep.e4Seqs }
    images := s.images
    ev := { latched := s.ev.latched }
    out := s.out, now := s.now, uid := s.uid, free := s.free, pending := s.pending }

/-- The cause recorded: of several causes on one beat the first in BLK_RESET_CAUSE's encoding order (02 R38). -/
def resetCause (s : State) (cause : Nat) : Nat :=
  if s.start.resetAt = some s.now then min cause (rd s R.BLK_RESET_CAUSE) else cause

/-- The block after a reset of every island but the always-on; a repair job in progress ends in state 5. -/
def islandsReset (s : State) (cause path : Nat) (keep : Bool) : State :=
  let cause := resetCause s cause
  let s' := islandsCleared s path keep
  let s' := wr s' R.ENG_CLASS_LOG_NEXT s'.mram.classNext
  let s' := wr s' R.BLK_RESET_CAUSE cause
  let s' := wr s' R.RFH_PROF_PARKED s'.stack.parks.length
  let jobs := (nums 0 (nPcs s)).filter fun pc => 1 ≤ rdi s R.INT_REPAIR_STATE pc && rdi s R.INT_REPAIR_STATE pc ≤ 2
  let s' := forEach jobs s' fun s' pc => wri s' R.INT_REPAIR_STATE pc 5
  wr s' R.BUP_START_PATH path

/-- A block reset other than ply_por_n (02 R38, 14 R388). Path 3 where the dies are asleep past E4; path 4 for a commanded
or escalated reset that ran its steps; path 2 otherwise. A beat stopped in S2 stays stopped until start-up. -/
def blockReset (s : State) (cause : Nat) (ranSteps : Bool) : State :=
  let path := if diesAsleep s then 3 else if ranSteps then 4 else 2
  let s := islandsReset { s with ev := { s.ev with latched := [] } } cause path (path ≠ 2)
  let asked := putBit (putBit s.pins.pwrReq 0 true) 1 (bitOf s.pins.pwrReq 1 || bitOf s.pins.pwrAck 0)
  { s with pins := s.pins.order (if s.pins.porN then asked else 0) s.now }

/-- Start-up begins: the later of ply_rst_n rising and both acknowledgements (02 R37, 16 R413). A start through ply_por_n is
counted (02 R54). -/
def beginStart (s : State) : State :=
  let s := if s.start.cold then bump s R.BLK_COLD_STARTS else s
  let s := { s with start := { s.start with phase := .starting, inStep1 := true, from_ := s.now, excluded := 0, cold := false } }
  wr (wr s R.BUP_START_STEP 1) R.BUP_START_RESULT 0

/-- Start-up stops short of service (16 R423). -/
def stopStart (s : State) (cause : Nat) : State :=
  let s := { s with start := { s.start with phase := .stopped } }
  raiseEv (wr (wr s R.BUP_START_RESULT 2) R.BUP_STOP_CAUSE cause) 13 1 cause 0

end Sys2Proof.Machine
end

