-- ==== Sys2Proof/Machine/Boundary.lean ====
section
/-!
DEFINITION. Meanings of the boundary's commands: resets, supplies, clocks, adaptive supply, conditioned inputs and time
(02, 11 R311 to R313, 14 R385 to R387).
-/
namespace Sys2Proof.Machine

/-- ply_therm_alarm_n from the flags and the block's own trip (02 R44). -/
def alarmPin (s : State) : State :=
  { s with pins := { s.pins with thermAlarmN := s.pins.dieCattrip = 0 && !s.stack.trip } }

/-- Power-on reset: the always-on island is reset as well, and the core dies with it (02 R36, 16 Table BUP-1). -/
def powerOnReset (s : State) : State :=
  let s := islandsReset { s with ev := { s.ev with latched := [] }, start := { s.start with refLost := false } } 0 0 false
  let s := { s with
    time := {}
    sleep := {}
    start := { ({} : StartUp) with
      phase := .por, ackSeenLow := !s.pins.rstCmplAck, trial := s.start.trial, resetAt := some s.now }
    pins := { s.pins with porN := false, pwrReq := 0, cdiRstN := false, wakeN := true } }
  let path := if rd s R.BUP_ARRAY_TEST = 1 then 0 else 1
  let s := { s with start := { s.start with path := path } }
  alarmPin (wr s R.BUP_START_PATH path)

/-- ply_por_n falls (02 R36, R38). -/
def doPorAssert (s : State) : State := powerOnReset s

def execPorAssert (s : State) : Host.Outcome State Fault Refusal := .next (doPorAssert s)

/-- ply_por_n rises; VDDL is requested, and VDDP where VDDL is already in regulation (02 R36, R39). -/
def doPorRelease (s : State) : State :=
  if s.pins.porN then s
  else { s with
    pins := Pins.order { s.pins with porN := true }
      (putBit (putBit s.pins.pwrReq 0 true) 1 (bitOf s.pins.pwrReq 1 || bitOf s.pins.pwrAck 0)) s.now
    start := { s.start with phase := .reset } }

def execPorRelease (s : State) : Host.Outcome State Fault Refusal := .next (doPorRelease s)

/-- ply_rst_n falls; ply_por_n low overrides it (02 R36, R38). -/
def doBlockResetAssert (s : State) : State :=
  if s.pins.porN then
    let s := blockReset s 1 false
    { s with pins := { s.pins with rstN := false } }
  else { s with pins := { s.pins with rstN := false } }

def execBlockResetAssert (s : State) : Host.Outcome State Fault Refusal := .next (doBlockResetAssert s)

/-- The later of ply_rst_n rising and both acknowledgements (02 R37). While a reference-clock loss lasts the islands stay in
reset, and start-up begins when the reference has returned (02 R35). -/
def doResetRelease (s : State) : State :=
  if s.pins.porN && s.pins.pwrAck = 3 && s.start.phase = .reset then
    let s := { s with pins := { s.pins with rstN := true } }
    if s.start.refLost then s else beginStart s
  else s

def execResetRelease (s : State) : Host.Outcome State Fault Refusal := .next (doResetRelease s)

/-- The acknowledgement rises: ply_cdi_rst_n rises on paths 0 to 2 and steps 3A and 3B start (02 R37, 16 Table BUP-2). The wait, and
a trip in force, count as excluded time (16 R413). -/
def doRstCmplAckRise (s : State) : State :=
  let s := { s with pins := { s.pins with rstCmplAck := true } }
  if s.start.phase = .starting && s.start.waitAck && s.pins.rstCmpl then
    let gone := s.now - s.start.exclFrom.getD s.now
    wr { s with
      start := { s.start with
        waitAck := false, exclFrom := if s.stack.trip then s.start.exclFrom else none
        excluded := if s.stack.trip then s.start.excluded else s.start.excluded + gone
        cdiAt := if s.pins.cdiRstN then s.start.cdiAt else s.now }
      pins := { s.pins with cdiRstN := true } } R.BUP_START_STEP 3
  else s

def execRstCmplAckRise (s : State) : Host.Outcome State Fault Refusal := .next (doRstCmplAckRise s)

/-- The acknowledgement falls; a ply_rst_cmpl that waited for it rises (02 R37). -/
def doRstCmplAckFall (s : State) : State :=
  { s with
    pins := { s.pins with rstCmplAck := false, rstCmpl := s.pins.rstCmpl || s.start.waitAck }
    start := { s.start with ackSeenLow := true } }

def execRstCmplAckFall (s : State) : Host.Outcome State Fault Refusal := .next (doRstCmplAckFall s)

/-- A supply acknowledgement changes (02 R39). VDDL's rise lets VDDP be requested, except in S2, and its fall withdraws that
request; a fall while the request stands is a power failure: what the islands held is lost and the block waits in reset (02 R40). -/
def doPwrAck (supply : Nat) (level : Bool) (s : State) : State :=
  if 2 ≤ supply then s else
    let failed := !level && bitOf s.pins.pwrReq supply && bitOf s.pins.pwrAck supply && s.pins.porN
    let p := { s.pins with pwrAck := putBit s.pins.pwrAck supply level }
    let s := { s with pins := p.order (if supply = 0 && !level then putBit p.pwrReq 1 false else p.pwrReq) s.now }
    if failed then
      let s := islandsReset s (rd s R.BLK_RESET_CAUSE) 2 false
      { s with pins := { s.pins with rstN := false } }
    else if level && supply = 0 && s.pins.porN && rd s R.SLP_STATE ≠ 3 then
      { s with pins := s.pins.order (putBit s.pins.pwrReq 1 true) s.now }
    else s

def execPwrAck (supply : Nat) (level : Bool) (s : State) : Host.Outcome State Fault Refusal :=
  .next (doPwrAck supply level s)

/-- An acknowledgement takes longer than BLK_PWR_ACK_LIMIT, which is counted once; the block keeps waiting (02 R39). -/
def doPwrAckTimeout (supply : Nat) (s : State) : State :=
  match tget? s.pins.pwrAt supply with
  | some t =>
    if supply < 2 && s.pins.porN && bitOf s.pins.pwrReq supply ≠ bitOf s.pins.pwrAck supply &&
        decide (t + rd s R.BLK_PWR_ACK_LIMIT * 1000 ≤ s.now) then
      let s := { s with pins := { s.pins with pwrAt := tdel s.pins.pwrAt supply } }
      raiseEv (bump s R.BLK_PWR_ACK_TIMEOUTS) 0 2 supply 0
    else s
  | none => s

def execPwrAckTimeout (supply : Nat) (s : State) : Host.Outcome State Fault Refusal := .next (doPwrAckTimeout supply s)

/-- Reference-clock loss outside S2 (02 R35): recorded, the beat stops, every island but the always-on is held in reset. -/
def doRefclkLoss (s : State) : State :=
  if s.pins.ref100 && s.pins.porN && rd s R.SLP_STATE ≠ 3 then
    let s := stopBeat s
    let later := s.ev.latched
    let s := bump (blockReset s 4 false) R.BLK_REFCLK_LOSSES
    { s with
      pins := { s.pins with ref100 := false }
      start := { s.start with refLost := true }
      ev := { s.ev with latched := (0, 0, 0, 0) :: later } }
  else s

def execRefclkLoss (s : State) : Host.Outcome State Fault Refusal := .next (doRefclkLoss s)

/-- The reference has run again for 100 µs: a warm start with cause reference-clock loss (02 R35). -/
def doRefclkReturn (s : State) : State :=
  if s.start.refLost then
    let s := { s with
      pins := { s.pins with ref100 := true }
      start := { s.start with refLost := false }
      ev := { s.ev with latched := s.ev.latched ++ [(0, 1, 0, 0)] } }
    if s.pins.rstN && s.pins.pwrAck = 3 then beginStart s else s
  else { s with pins := { s.pins with ref100 := true } }

def execRefclkReturn (s : State) : Host.Outcome State Fault Refusal := .next (doRefclkReturn s)

/-- No 25 MHz edge within one crystal period: holdover and the always-on timing move to the crystal (11 R313). -/
def doHoldoverClockSwitch (s : State) : State :=
  if s.pins.xtal32k then switchToCrystal { s with pins := { s.pins with ref25 := false } } else s

def execHoldoverClockSwitch (s : State) : Host.Outcome State Fault Refusal := .next (doHoldoverClockSwitch s)

/-- The clock counting holdover is lost with no other present: the time is unknown (11 Table SLP-7). -/
def doHoldoverClockLoss (s : State) : State :=
  let s := { s with pins := { s.pins with ref25 := false, xtal32k := false } }
  if !s.time.run && (s.time.quality = 1 || s.time.quality = 2) then setQuality s 3 else s

def execHoldoverClockLoss (s : State) : Host.Outcome State Fault Refusal := .next (doHoldoverClockLoss s)

/-- ply_refclk_25 starts again; a start-up waiting in step 1 may proceed (02 R35, R36). -/
def doRefclk25Return (s : State) : State := { s with pins := { s.pins with ref25 := true } }

def execRefclk25Return (s : State) : Host.Outcome State Fault Refusal := .next (doRefclk25Return s)

/-- A block PLL loses lock (14 Table FLT-2), as BLK_CLK_STATUS then reports (02 R34). -/
def doPllLockLoss (pll : Nat) (s : State) : State :=
  raiseEv { s with start := { s.start with pllLost := true } } 0 4 pll 0

def execPllLockLoss (pll : Nat) (s : State) : Host.Outcome State Fault Refusal := .next (doPllLockLoss pll s)

/-- A request for VDDL code `code` (02 R41). -/
def avsRequest (s : State) (code : Nat) : State :=
  wr { s with pins := { s.pins with avsReq := true }, avs := { s.avs with busy := true, reqAt := s.now } } R.BLK_AVS_CODE code

/-- The one request of an S2 entry or exit: at once, or when the handshake under way is complete (02 R41, R42). -/
def avsOrder (s : State) (code : Nat) : State :=
  if s.avs.busy then { s with avs := { s.avs with want := some code } } else avsRequest s code

/-- With adaptive control off the block climbs to code 200 in steps of 10 (02 R42). -/
def avsClimb (s : State) : State :=
  if !s.avs.busy && rd s R.BLK_AVS_ENABLE = 0 && rd s R.BLK_AVS_CODE < 200 && rd s R.SLP_STATE ≠ 3 then
    avsRequest s (min (rd s R.BLK_AVS_CODE + 10) 200)
  else s

/-- Adaptive control may move the code. -/
def avsFree (s : State) : Bool := mgmtUp s && rd s R.BLK_AVS_ENABLE = 1 && !s.avs.busy

/-- The margin falls below its lower threshold: a code up to 10 higher (02 R41). -/
def doAvsMarginLow (step : Nat) (s : State) : State :=
  let c := min (rd s R.BLK_AVS_CODE + min step 10) 200
  if avsFree s && rd s R.BLK_AVS_CODE < c then avsRequest s c else s

def execAvsMarginLow (step : Nat) (s : State) : Host.Outcome State Fault Refusal := .next (doAvsMarginLow step s)

/-- The margin has stayed above its upper threshold for 1 ms: a code up to 10 lower (02 R41). -/
def doAvsMarginHighHold (step : Nat) (s : State) : State :=
  let c := rd s R.BLK_AVS_CODE - min step 10
  if avsFree s && c < rd s R.BLK_AVS_CODE then avsRequest s c else s

def execAvsMarginHighHold (step : Nat) (s : State) : Host.Outcome State Fault Refusal :=
  .next (doAvsMarginHighHold step s)

/-- ply_avs_ack rises and a request that stands is dropped; the late acknowledgement of a request that failed is ignored
(02 R41, R42). -/
def doAvsAck (late : Bool) (s : State) : State :=
  { s with pins := { s.pins with avsAck := true, avsReq := s.pins.avsReq && late } }

def execAvsAck (late : Bool) (s : State) : Host.Outcome State Fault Refusal := .next (doAvsAck late s)

/-- ply_avs_ack falls and the handshake is complete; a request that waited for that is made (02 R41). -/
def doAvsAckDrop (s : State) : State :=
  let s := { s with pins := { s.pins with avsAck := false }, avs := { s.avs with busy := s.pins.avsReq } }
  match s.avs.want with
  | some c => if s.avs.busy then s else avsRequest { s with avs := { s.avs with want := none } } c
  | none => avsClimb s

def execAvsAckDrop (s : State) : Host.Outcome State Fault Refusal := .next (doAvsAckDrop s)

/-- A request stays unacknowledged for 20 µs (02 R42): counted and raised, adaptive control goes off and the block climbs to code
200; an S2 entry or exit that waited makes its request, the exit's being 200 with adaptive control off. -/
def doAvsAckTimeout (s : State) : State :=
  if s.pins.avsReq && !s.pins.avsAck && decide (s.avs.reqAt + 20000 ≤ s.now) then
    let s := raiseEv (bump s R.BLK_AVS_TIMEOUTS) 0 3 (rd s R.BLK_AVS_CODE) 0
    let s := wr { s with pins := { s.pins with avsReq := false }, avs := { s.avs with busy := false } } R.BLK_AVS_ENABLE 0
    match s.avs.want with
    | some c => avsRequest { s with avs := { s.avs with want := none } } (if c = 0 then 0 else 200)
    | none => avsClimb s
  else s

def execAvsAckTimeout (s : State) : Host.Outcome State Fault Refusal := .next (doAvsAckTimeout s)

/-- The input takes part in its rules (14 R386). -/
def inputArmed (s : State) (n : Nat) : Bool := rdi s R.FLT_INPUT_STATE n = 0

/-- The present time is noted of input `n` (14 R386). -/
def markInput (s : State) (n : Nat) : State := { s with ev := { s.ev with highAt := tset s.ev.highAt n s.now } }

/-- Input `n` was noted at least `ns` ago. -/
def inputSince (s : State) (n ns : Nat) : Bool := decide (tget s.ev.highAt n 0 + ns ≤ s.now)

/-- A sample that saw `edges` new edges: those past the first are coalesced (14 R385). -/
def sampleEdges (s : State) (n edges : Nat) : State :=
  let s := wri (markInput s n) R.FLT_INPUT_LEVEL n 1
  if edges ≤ 1 then s
  else raiseFirst (bumpTo s R.FLT_INPUT_COALESCED n ((edges - 1) % 16) satMax) 11 2 ((edges - 1) % 16) (ident 7 n)

/-- An edge of ply_tsync_beat is captured, or counts as missed (02 R50, 11 R311). -/
def doTsyncEdge (eighths edges c25 cx : Nat) (s : State) : State :=
  if inputArmed s 17 && s.pins.porN && s.start.phase ≠ .reset then captureEdge (sampleEdges s 17 edges) eighths c25 cx
  else s

def execTsyncEdge (eighths edges c25 cx : Nat) (s : State) : Host.Outcome State Fault Refusal :=
  .next (doTsyncEdge eighths edges c25 cx s)

/-- SLP_TIME_ERROR in holdover exceeds SLP_ERR_LIMIT (11 Table SLP-7). -/
def doTimeErrorLimit (s : State) : State :=
  if (s.time.quality = 1 || s.time.quality = 2) && rd s R.SLP_ERR_LIMIT < timeError s then setQuality s 3 else s

def execTimeErrorLimit (s : State) : Host.Outcome State Fault Refusal := .next (doTimeErrorLimit s)

/-- ENTDAA reads the provisional ID and DCR of the fuses with BCR 0x06, and assigns the dynamic address (02 R49). -/
def doDynamicAddressAssign (addr : Nat) (s : State) : State :=
  if mgmtUp s && 8 ≤ addr && addr ≤ 0x7D then
    emit (wr s R.MGT_I3C_ADDRESS addr) (.daa s.fuses.provisionalId 0x06 s.fuses.dcr)
  else s

def execDynamicAddressAssign (addr : Nat) (s : State) : Host.Outcome State Fault Refusal :=
  .next (doDynamicAddressAssign addr s)

/-- A conditioned input high for FLT_STUCK_LIMIT is masked (14 R386). -/
def doInputStuck (input : Nat) (s : State) : State :=
  if input < 18 && inputArmed s input && rdi s R.FLT_INPUT_LEVEL input = 1 &&
      inputSince s input (rd s R.FLT_STUCK_LIMIT * 1000000) then
    let s := if input < 16 && s.stack.trip then modStack s fun t => { t with tripHotAt := s.now } else s
    raiseEv (bumpi (wri (markInput s input) R.FLT_INPUT_STATE input 1) R.FLT_INPUT_STUCKS input) 11 0 0 (ident 7 input)
  else s

def execInputStuck (input : Nat) (s : State) : Host.Outcome State Fault Refusal := .next (doInputStuck input s)

/-- A masked input is sampled every 100 ms, and released when low (14 R386). -/
def doInputReleaseCheck (input : Nat) (level : Bool) (s : State) : State :=
  if input < 18 && !inputArmed s input && inputSince s input 100000000 then
    let s := wri (markInput s input) R.FLT_INPUT_LEVEL input (if level then 1 else 0)
    if level then s else raiseEv (wri s R.FLT_INPUT_STATE input 0) 11 1 0 (ident 7 input)
  else s

def execInputReleaseCheck (input : Nat) (level : Bool) (s : State) : Host.Outcome State Fault Refusal :=
  .next (doInputReleaseCheck input level s)

end Sys2Proof.Machine
end

