-- ==== Sys2Proof/Machine/Map.lean ====
section
/-!
DEFINITION. The canopy map: regions, decode, local orders, hash, repair tables and translation (04 R87 to R100, R429).
-/
namespace Sys2Proof.Machine

/-- A region entry's fields (04 Tables MAP-1, MAP-4). -/
structure Region where
  base : Nat
  rowBase : Nat
  rows : Nat
  valid : Bool
  fn : Nat
  ways : Nat
  gran : Nat
  pos : Nat
  order : Nat
  deriving DecidableEq, Repr

/-- A place in the stack: pseudo-channel (channel × 2 + PC), SID, bank, row and column. -/
structure Loc where
  pc : Nat
  sid : Nat
  bank : Nat
  row : Nat
  col : Nat
  deriving DecidableEq, Repr

/-- Stacks that a WAYS code names; a reserved code names none. -/
def waysOf (code : Nat) : Nat := [1, 2, 3, 4, 6, 8, 12, 16, 32, 64].getD code 0

/-- Region `r` of the active table, or of the shadow table. -/
def regionAt (s : State) (shadow : Bool) (r : Nat) : Region :=
  let c := rdi s (if shadow then R.MAP_RGN_CTRL else R.MAP_ACT_CTRL) r
  { base := rdi s (if shadow then R.MAP_RGN_POOL_BASE else R.MAP_ACT_POOL_BASE) r
    rowBase := rdi s (if shadow then R.MAP_RGN_ROW_BASE else R.MAP_ACT_ROW_BASE) r
    rows := rdi s (if shadow then R.MAP_RGN_ROWS else R.MAP_ACT_ROWS) r
    valid := bitOf c 31, fn := field c 24 4, ways := field c 20 4, gran := field c 16 4
    pos := field c 10 6, order := field c 8 2 }

/-- Numbers of the valid regions of a table, in rising order. -/
def validRegions (s : State) (shadow : Bool) : List Nat :=
  let k0 := if shadow then R.MAP_RGN_CTRL.key else R.MAP_ACT_CTRL.key
  s.regs.filterMap fun (k, v) =>
    if k0 ≤ k ∧ k < k0 + 1024 * 256 ∧ (k - k0) % 256 = 0 ∧ bitOf v 31 = true then some ((k - k0) / 256) else none

/-- Bytes of one row slab (04 R88). -/
def slabBytes (s : State) : Nat := (if s.ply16 then 3968 else 7936) * 1024

/-- A region's share of this stack, and its pool range's length (R88). -/
def shareOf (s : State) (g : Region) : Nat := g.rows * slabBytes s
def spanOf (s : State) (g : Region) : Nat := waysOf g.ways * shareOf s g

/-- Address `a` lies in the region's pool range. -/
def inRegion (s : State) (g : Region) (a : Nat) : Bool := g.base ≤ a && decide (a < g.base + spanOf s g)

/-- The active region whose pool range holds `a`. -/
def findRegion (s : State) (a : Nat) : Option Nat :=
  (validRegions s false).find? fun r => inRegion s (regionAt s false r) a

/-- Local offset of address `a` in the region's share, where the granule belongs to this stack's position. -/
def localOffset (g : Region) (a : Nat) : Option Nat :=
  let d := a - g.base
  let size := 256 * 2 ^ g.gran
  let n := d / size
  if n % waysOf g.ways ≠ g.pos then none else some (n / waysOf g.ways * size + d % size)

/-- The channels a stack has, as the radix of the channel digit (R93). -/
def channelRadix (s : State) : Nat := nChannels s

/-- Digits of Table MAP-2: column, PC, channel, logical bank, SID and absolute row. -/
def orderDigits (s : State) (g : Region) (u : Nat) : Loc :=
  let c := channelRadix s
  let col := u % 16
  let u := u / 16
  match g.order with
  | 1 => ⟨(u / 248 % c) * 2 + u / 124 % 2, u % 4, u / 4 % 31, g.rowBase + u / 248 / c % g.rows, col⟩
  | 2 => ⟨(u / 248 / g.rows % c) * 2 + u / 124 % 2, u / 31 % 4, u % 31, g.rowBase + u / 248 % g.rows, col⟩
  | _ => ⟨(u / 2 % c) * 2 + u % 2, u / (2 * c * 31) % 4, u / (2 * c) % 31, g.rowBase + u / (2 * c * 124) % g.rows, col⟩

/-- The hash of order 3 on the absolute row (R94). -/
def hashLoc (s : State) (l : Loc) : Loc :=
  let ch := (l.pc / 2) ^^^ (if s.ply16 then l.row % 16 else l.row % 32)
  let b := l.bank ^^^ (l.row / 32 % 32)
  { l with pc := ch * 2 + l.pc % 2, bank := if b = 31 then l.bank else b }

def orderLoc (s : State) (g : Region) (u : Nat) : Loc :=
  let l := orderDigits s g u
  if g.order = 3 then hashLoc s l else l

/-- The decode of pool address `a` for function `f`: a logical location, or a misroute (R91 to R94). -/
def mapDecode (s : State) (a f : Nat) : Option Loc :=
  match findRegion s a with
  | none => none
  | some r =>
    let g := regionAt s false r
    if g.fn ≠ f then none
    else match localOffset g a with
      | none => none
      | some o => some (orderLoc s g (o / 64))

/-- Position of a pseudo-channel's line in its engine: ((SID × 32 + physical bank) × 16,384 + row) × 16 + column. -/
def locKey (sid bank row col : Nat) : Nat := ((sid * 32 + bank) * 16384 + row) * 16 + col
def keySid (k : Nat) : Nat := k / 8388608
def keyBank (k : Nat) : Nat := k / 262144 % 32
def keyRow (k : Nat) : Nat := k / 16 % 16384
def keyCol (k : Nat) : Nat := k % 16

/-- Subarray group of a row: its bit [13]. -/
def sagOf (row : Nat) : Nat := row / 8192 % 2

/-- Graft table key of a physical place (R96). -/
def graftKey (pc sid bank row : Nat) : Nat := ((pc * 4 + sid) * 32 + bank) * 16384 + row

/-- The bank replacement in force for a SID of a pseudo-channel: logical bank and spare SID. -/
def replacement (s : State) (pc sid : Nat) : Option (Nat × Nat) :=
  let v := rdi s R.MAP_BANK_REPLACE (pc * 4 + sid)
  if bitOf v 15 then some (field v 8 5, field v 0 2) else none

/-- Both repair tables: the physical place of a logical location, and whether step 1 and step 2 moved it (R96). -/
def repaired (s : State) (l : Loc) : Loc × Bool × Bool :=
  match replacement s l.pc l.sid with
  | some (b, spare) =>
    if b = l.bank then ({ l with sid := spare, bank := 31 }, true, false) else
      match tget? s.stack.grafts (graftKey l.pc l.sid l.bank l.row) with
      | some (sp, row) => ({ l with sid := sp, bank := 31, row := row }, false, true)
      | none => (l, false, false)
  | none =>
    match tget? s.stack.grafts (graftKey l.pc l.sid l.bank l.row) with
    | some (sp, row) => ({ l with sid := sp, bank := 31, row := row }, false, true)
    | none => (l, false, false)

/-- Slot offset of a logical location (R87). -/
def slotOffset (s : State) (l : Loc) : Nat :=
  ((((((l.row * 4 + l.sid) * 31 + l.bank) * channelRadix s + l.pc / 2) * 2 + l.pc % 2) * 16 + l.col) * 64)

/-- The logical location a slot offset names. -/
def slotLoc (s : State) (d : Nat) : Loc :=
  let u := d / 64
  let c := channelRadix s
  ⟨(u / 32 % c) * 2 + u / 16 % 2, u / (32 * c * 31) % 4, u / (32 * c) % 31, u / (32 * c * 124), u % 16⟩

/-- Location fields of MAP_XLATE_RESULT after both repair tables. -/
def xlateLoc (s : State) (l : Loc) : Nat :=
  let (p, rep, gr) := repaired s l
  (if gr then 2 ^ 61 else 0) + (if rep then 2 ^ 60 else 0) + p.pc / 2 * 2 ^ 27 + p.pc % 2 * 2 ^ 26 + p.sid * 2 ^ 24 +
    p.bank * 2 ^ 19 + p.row * 2 ^ 5 + p.col

def xlateRegion : Option Nat → Nat
  | none => 0
  | some r => 2 ^ 59 + r * 2 ^ 48

/-- The result of MAP_XLATE_ADDR (R429). -/
def xlateAddr (s : State) (a f : Nat) : Nat :=
  2 ^ 63 + xlateRegion (findRegion s a) +
    (match mapDecode s a f with
     | none => 2 ^ 62
     | some l => xlateLoc s l)

/-- The result of MAP_XLATE_SLOT (R429): misroute for an offset naming no location. -/
def xlateSlot (s : State) (d : Nat) : Nat :=
  if rd s R.BLK_USABLE_CAPACITY ≤ d then 2 ^ 63 + 2 ^ 62 else
    let l := slotLoc s d
    2 ^ 63 + xlateLoc s l +
      xlateRegion ((validRegions s false).find? fun r =>
        let g := regionAt s false r
        g.rowBase ≤ l.row && decide (l.row < g.rowBase + g.rows))

/-- A translation begins: it decodes as a request arriving on this beat would be decoded, the beat of the write being read as that
beat (04 R100; DEDUCED, log entry 31), and the result entry is zeroed until it is done (12 R427). -/
def beginXlate (result : Nat) (s : State) : State :=
  { wr s R.MAP_XLATE_RESULT 0 with home := { s.home with xlate := some result } }

/-- MAP_XLATE_ADDR. -/
def doMapXlateAddr (a : Access) (s : State) : State :=
  accessWrite a 0x2003 0 (fun _ v s => (0, beginXlate (xlateAddr s v (rd s R.MAP_XLATE_FUNCTION)) s)) s

def execMapXlateAddr (a : Access) (s : State) : Host.Outcome State Fault Refusal := .next (doMapXlateAddr a s)

/-- MAP_XLATE_SLOT: an offset outside its range, not below the usable capacity, is refused (00 R15). -/
def actXlateSlot (_ v : Nat) (s : State) : Nat × State :=
  if rd s R.BLK_USABLE_CAPACITY ≤ v then (3, s) else (0, beginXlate (xlateSlot s v) s)
def doMapXlateSlot (a : Access) (s : State) : State := accessWrite a 0x2003 3 actXlateSlot s

def execMapXlateSlot (a : Access) (s : State) : Host.Outcome State Fault Refusal := .next (doMapXlateSlot a s)

/-- The result of a translation appears whole with DONE set (12 R427). -/
def doMapXlateDone (s : State) : State :=
  match s.home.xlate with
  | none => s
  | some result => { wr s R.MAP_XLATE_RESULT result with home := { s.home with xlate := none } }

def execMapXlateDone (s : State) : Host.Outcome State Fault Refusal := .next (doMapXlateDone s)

/-- Two ranges, each a start and a length, share a value; an empty range shares none. -/
def rangesMeet (a n b m : Nat) : Bool := decide (max a b < min (a + n) (b + m))

/-- A shadow entry's check of R89: 0 passes, else the status it gives. -/
def checkRegion (s : State) (r : Nat) : Nat :=
  let g := regionAt s true r
  let others := ((validRegions s true).filter (· ≠ r)).map (regionAt s true)
  if waysOf g.ways = 0 || 8 < g.gran || waysOf g.ways ≤ g.pos then 4
  else if g.rows = 0 || 16384 < g.rowBase + g.rows then 5
  else if g.base % 65536 ≠ 0 || 2 ^ 52 < g.base + spanOf s g then 6
  else if others.any fun h => rangesMeet g.base (spanOf s g) h.base (spanOf s h) then 7
  else if others.any fun h => rangesMeet g.rowBase g.rows h.rowBase h.rows then 8
  else 0

/-- The first failure in region order: status and region. -/
def checkTable (s : State) : Option (Nat × Nat) :=
  ((validRegions s true).map fun r => (checkRegion s r, r)).find? fun (st, _) => st ≠ 0

/-- Shadow and active entries of a table as keys relative to its start. -/
def tableRegs (s : State) (shadow : Bool) : Tbl Nat :=
  let k0 := if shadow then R.MAP_RGN_POOL_BASE.key else R.MAP_ACT_POOL_BASE.key
  s.regs.filterMap fun (k, v) => if k0 ≤ k ∧ k < k0 + 1024 * 256 then some (k - k0, v) else none

/-- A table's entries now hold `t`. -/
def putTable (s : State) (shadow : Bool) (t : Tbl Nat) : State :=
  let k0 := if shadow then R.MAP_RGN_POOL_BASE.key else R.MAP_ACT_POOL_BASE.key
  let regs := s.regs.filter fun (k, _) => !(k0 ≤ k && decide (k < k0 + 1024 * 256))
  { s with regs := t.foldr (fun (k, v) r => tset r (k0 + k) v) regs }

/-- Regions that a commit of the shadow table removes or changes (R98). -/
def changedRegions (s : State) : List Nat :=
  (validRegions s false).filter fun r => regionAt s true r ≠ regionAt s false r

/-- A pool address lies in a range that the commit in progress removes or changes. -/
def changedAddress (s : State) (a : Nat) : Bool :=
  (changedRegions s).any fun r => inRegion s (regionAt s false r) a

/-- The shadow table becomes active; the committed table is stored with its generation and count (R90, R97). -/
def applyCommit (s : State) (late : Bool) : State :=
  let t := tableRegs s true
  let s := putTable s false t
  let gen := (rd s R.MAP_GENERATION + 1) % 2 ^ 32
  let n := (validRegions s false).length
  let s := wr (wr (wr s R.MAP_GENERATION gen) R.MAP_REGIONS_VALID n) R.MAP_COMMIT_STATUS (if late then 3 else 2)
  { s with mram := { s.mram with pending := some ⟨t, gen, n⟩ } }

/-- The MRAM store of a committed table ends: the older of the record's two copies takes it (R90, 12 R330). -/
def doMapTableStoreDone (s : State) : State :=
  match s.mram.pending with
  | none => s
  | some r => { s with mram := { s.mram with regions := r, regionsOld := s.mram.regions, pending := none } }

def execMapTableStoreDone (s : State) : Host.Outcome State Fault Refusal := .next (doMapTableStoreDone s)

end Sys2Proof.Machine
end

