-- ==== Sys2Proof/Machine/Respond.lean ====
section
/-!
DEFINITION. Requests inside the block: their record from acceptance to response, credits they hold, the in-flight ledger
(14 R393), the latency-sampling ring (15 R404, R405) and the response itself (03 R73, R74).
-/
namespace Sys2Proof.Machine

/-- The request numbered `uid`, and its update. -/
def flightOf (s : State) (uid : Nat) : Option Flight := tget? s.flights uid
def modFlight (s : State) (uid : Nat) (f : Flight → Flight) : State :=
  match flightOf s uid with
  | some x => { s with flights := tset s.flights uid (f x) }
  | none => s

/-- The opcode carries a line of request data, or an operand (Table LNK-2, CR1). -/
def ReqOp.hasData : ReqOp → Bool
  | .wrFull | .wrPart | .wbDirty | .wrHint | .atom => true
  | _ => false

/-- Opcodes that need a read-return slot: those answered with DATA (01 R21, Table LNK-5). -/
def ReqOp.isRead : ReqOp → Bool
  | .rd | .rdShared | .rdOwn | .atom => true
  | _ => false

/-- Room a request takes at its target (05 R117): 1 read, 2 write, 0 none. -/
def ReqOp.room : ReqOp → Nat
  | .rd | .rdShared | .rdOwn | .atom => 1
  | .wrFull | .wrPart | .wbDirty | .wrHint => 2
  | _ => 0

/-- Needs a caching agent (Table LNK-5). -/
def ReqOp.needsCache : ReqOp → Bool
  | .rdShared | .rdOwn | .upgrade | .wbDirty => true
  | _ => false

/-- A CMP_ACK is owed for DATA or CMP (Table LNK-5). -/
def ReqOp.owesAck : ReqOp → Bool
  | .rd | .rdShared | .rdOwn | .upgrade => true
  | _ => false

/-- The request's receive credits return: REQ, and RDAT with its ingress line (Table LNK-2). -/
def freeCredits (s : State) (f : Flight) : State :=
  let s := returnCredit s f.h.port 0 1
  if f.op.hasData then
    modLink (returnCredit s f.h.port 1 1) f.h.port fun l => { l with ingress := l.ingress - 1 }
  else s

/-- Tag, read-return slot and outstanding count of a dispatched request are given up (01 R21, 05 R124). -/
def freeTag (s : State) (uid : Nat) : State :=
  match flightOf s uid with
  | none => s
  | some f =>
    if !f.tag then s else
      let leaves := match tget? s.tree.leaves f.leaf with
        | some l => tset s.tree.leaves f.leaf { l with outstanding := l.outstanding - 1 }
        | none => s.tree.leaves
      let s := { s with tree := { s.tree with
        tags := s.tree.tags - 1, slots := s.tree.slots - (if f.slot then 1 else 0), leaves := leaves } }
      modFlight s uid fun f => { f with tag := false, slot := false }

/-- A credit that returned on this beat is on its way into the tree (05 R117). -/
def crossBack (s : State) (kind pc : Nat) : Tbl (Nat × Nat) :=
  let k := pc * 4 + kind
  match tget? s.tree.back k with
  | some (at', n) => tset s.tree.back k (s.now, if at' = s.now then n + 1 else 1)
  | none => tset s.tree.back k (s.now, 1)

/-- A room credit of a pseudo-channel's queue (1 read, 2 write) returns (05 R117). -/
def giveRoom (s : State) (kind pc : Nat) : State :=
  let back := crossBack s kind pc
  let t := s.tree
  { s with tree :=
    if kind = 1 then { t with readRoom := tput t.readRoom pc (tget t.readRoom pc 0 - 1) 0, back := back }
    else if kind = 2 then { t with writeRoom := tput t.writeRoom pc (tget t.writeRoom pc 0 - 1) 0, back := back }
    else t }

/-- Room that the request holds returns. -/
def freeRoom (s : State) (uid : Nat) : State :=
  match flightOf s uid with
  | none => s
  | some f => modFlight (giveRoom s f.room f.roomPc) uid fun f => { f with room := 0 }

/-- Transaction that serves request `uid`. -/
def txnOfReq (s : State) (uid : Nat) : Option Nat :=
  (s.home.txns.find? fun (_, t) => t.origin = .request uid).map (·.1)

/-- The record of a request ends. -/
def dropFlight (s : State) (uid : Nat) : State := { s with flights := tdel s.flights uid }

/-- The request needs nothing more of the block but, perhaps, its transaction's close. -/
def retireFlight (s : State) (uid : Nat) : State :=
  if (txnOfReq s uid).isSome then modFlight s uid fun f => { f with stage := .done } else dropFlight s uid

/-- Ledger entry of a request (Table FLT-5). -/
def ledgerWord (f : Flight) (final sent : Bool) : Nat :=
  let code := (f.rsp.map (·.code)).getD 0
  2 ^ 63 + (if final then 2 ^ 62 else 0) + (if sent then 2 ^ 61 else 0) + f.h.port * 2 ^ 58 + f.h.tag * 2 ^ 42 +
    f.op.code * 2 ^ 36 + f.outcome * 2 ^ 33 + code * 2 ^ 28 + f.h.agent * 2 ^ 16

/-- The ledger follows the request, where it is recorded there. -/
def noteLedger (s : State) (uid : Nat) (final sent : Bool) : State :=
  match flightOf s uid with
  | some f =>
    match f.ledger with
    | some k => { s with ledgers := tset s.ledgers (f.h.fn * 4096 + k) (ledgerWord f final sent) }
    | none => s
  | none => s

/-- The response is decided (15 R405 stamps, Table FLT-5 outcome); one that is to be discarded never leaves (14 R389). -/
def decide' (s : State) (uid : Nat) (r : Rsp) (outcome : Nat) : State :=
  let s := modFlight s uid fun f =>
    { f with
      rsp := some r, outcome := outcome, stage := .ready
      t1 := some (f.t1.getD s.now), t2 := some (f.t2.getD s.now), t3 := some (f.t3.getD (f.t2.getD s.now)) }
  let s := noteLedger s uid true false
  match flightOf s uid with
  | some f => if f.dropRsp then retireFlight (freeTag s uid) uid else s
  | none => s

def dataRsp (state : Nat) (ack : Bool) (d : Line) : Rsp := ⟨1, 0, state, ack, 0, d⟩
def cmpRsp (state : Nat) (ack : Bool) : Rsp := ⟨2, 0, state, ack, 0, 0⟩
def errRsp (code hint : Nat) : Rsp := ⟨3, code, 0, false, hint, 0⟩

/-- A segment of the ring, saturating at 65,535 (15 R405). -/
def segment (a b : Nat) : Nat := min (b - a) 65535

/-- Ring record of a request whose response leaves now (Table OBS-4). -/
def ringRecord (s : State) (f : Flight) : Nat :=
  let t1 := f.t1.getD s.now
  let t2 := f.t2.getD s.now
  let t3 := f.t3.getD s.now
  let sat := decide (65535 < t1 - f.t0 ∨ 65535 < t2 - t1 ∨ 65535 < t3 - t2 ∨ 65535 < s.now - t3)
  let code := (f.rsp.map (·.code)).getD 0
  (f.t0Pool % 2 ^ 64) * 2 ^ 192 + segment f.t0 t1 * 2 ^ 176 + segment t1 t2 * 2 ^ 160 + segment t2 t3 * 2 ^ 144 +
    segment t3 s.now * 2 ^ 128 + f.h.line * 2 ^ 82 + f.leaf * 2 ^ 64 + f.h.tag * 2 ^ 48 + f.bank * 2 ^ 35 +
    f.op.code * 2 ^ 29 + code * 2 ^ 24 + f.h.fn * 2 ^ 20 + f.h.port * 2 ^ 17 + f.page * 2 ^ 15 + f.cls * 2 ^ 13 +
    (if f.snooped then 2 ^ 12 else 0) + (if f.replayed then 2 ^ 11 else 0) + (if sat then 2 ^ 10 else 0)

/-- Opcode class of OBS_RING_OPS: an ERR response is class 4 whatever its opcode. -/
def ringClass (f : Flight) : Nat :=
  if (f.rsp.map (·.opcode)) = some 3 then 4 else
    match f.op with
    | .rd | .rdShared | .rdOwn => 0
    | .wrFull | .wrPart | .wbDirty | .wrHint => 1
    | .atom => 2
    | .upgrade => 3
    | .other _ => 4

/-- A candidate under the ring's filters (15 R404). -/
def ringCandidate (s : State) (f : Flight) : Bool :=
  let lf := rd s R.OBS_RING_LEAF
  rd s R.OBS_RING_PERIOD ≠ 0 && bitOf (rd s R.OBS_RING_FUNCTIONS) f.h.fn && bitOf (rd s R.OBS_RING_OPS) (ringClass f) &&
    (!bitOf lf 18 || field lf 0 18 = f.leaf)

/-- A record is written to the ring, and traced (15 R404, R407). -/
def ringWrite (s : State) (r : Nat) : State :=
  let n := rd s R.OBS_RING_NEXT
  let s := { s with obs := { s.obs with ring := tset s.obs.ring n r
                                        beatAt := s.now
                                        beatWrites := (if s.obs.beatAt = s.now then s.obs.beatWrites else 0) + 1 } }
  let s := wr (bumpTo s R.OBS_RING_COUNT 0 1 4096) R.OBS_RING_NEXT ((n + 1) % 4096)
  let s := if n = 4095 && rd s R.OBS_RING_MODE = 0 then raiseEv (bump s R.OBS_RING_WRAPS) 12 2 0 (ident 1 34) else s
  if bitOf (rd s R.OBS_TRACE_SOURCES) 1 then
    traceRecord s (0x38000000 :: (nums 0 8).map fun j => field r (32 * j) 32)
  else s

/-- The ring takes every OBS_RING_PERIOD-th candidate; a third write of one beat, or one into a stopped full ring, is
dropped and counted (15 R404). -/
def ringSample (s : State) (f : Flight) : State :=
  if s.obs.faulty || !ringCandidate s f then s else
    let c := s.obs.candidates + 1
    if c < rd s R.OBS_RING_PERIOD then { s with obs := { s.obs with candidates := c } } else
      let s := { s with obs := { s.obs with candidates := 0 } }
      let full := rd s R.OBS_RING_MODE = 1 && rd s R.OBS_RING_COUNT = 4096
      if full || (s.obs.beatAt = s.now && 2 ≤ s.obs.beatWrites) then bump s R.OBS_RING_DROPPED
      else ringWrite s (ringRecord s f)

/-- The message of a response on a port of revision `rev` (Tables LNK-7, LNK-15). -/
def rspMsg (f : Flight) (r : Rsp) (rev : Nat) : TxMsg :=
  { cls := some 0
    hdr := rspSlot r.opcode (wireCode rev r.code) f.h.fn f.h.agent f.h.tag r.ackReq r.state (if rev = 2 then 0 else r.hint)
    data := if r.opcode = 1 then lineSlots r.data else [] }

/-- Class and credits of a response message: RSP, and RSPD with data. -/
def sendResponse (s : State) (uid : Nat) : State :=
  match flightOf s uid with
  | none => s
  | some f =>
    match f.rsp with
    | none => s
    | some r =>
      let s := sendNow s f.h.port (rspMsg f r (portRev s f.h.port))
      let s := obsEvent s f.h.port (if r.opcode = 1 then 23 else 24) 1
      let s := ringSample s f
      let s := noteLedger s uid true true
      retireFlight (freeTag s uid) uid

/-- The oldest ready response of a port that its credits let go. -/
def readyResponse (s : State) (port : Nat) : Option (Nat × Flight) :=
  s.flights.find? fun (_, f) =>
    f.h.port = port && f.stage = .ready &&
      (match f.rsp with
       | some r => canSend (linkOf s port) (rspMsg f r (portRev s port))
       | none => false)

/-- A ready response leaves its port once RSP and RSPD credit allow (R73). A crossing parity error on the way to the link
island poisons a line, or loses the response, which a BUS_ERROR replaces at the request's response timeout (01 R17). -/
def doResponseSend (port : Nat) (par : Parity) (s : State) : State :=
  if port ≥ nPorts s || portState s port ≠ portUp then s else
    match readyResponse s port with
    | none => s
    | some (uid, f) =>
      match par, f.rsp.map (·.opcode) with
      | .good, _ => sendResponse s uid
      | .badData, some 1 =>
        let s := raiseParity s 1 10 port
        sendResponse (modFlight s uid fun f => { f with rsp := some (errRsp 5 0) }) uid
      | .badData, _ => sendResponse s uid
      | .badHeader, _ =>
        let s := raiseParity s 1 10 port
        modFlight s uid fun f => { f with stage := .lost, lostAt := s.now }

/-- A request that a crossing lost, or whose response it lost: the item is gone, and the response timeout answers (01 R17). -/
def loseRequest (s : State) (uid : Nat) : State := modFlight (freeRoom s uid) uid fun f => { f with stage := .lost, lostAt := s.now }

/-- An ERR takes the place of a response that was decided and has not left; what the request did stays done (Table FLT-5). -/
def replaceRsp (s : State) (uid code : Nat) : State :=
  noteLedger (modFlight s uid fun f =>
    { f with stage := .ready, rsp := some (errRsp code 0), outcome := if f.outcome = 1 then 1 else 2 }) uid true false

/-- The response timeout of a request that a crossing lost: BUS_ERROR (01 R17). A response that was decided keeps what it did. -/
def answerLost (s : State) (uid : Nat) : State :=
  match flightOf s uid with
  | none => s
  | some f =>
    if f.stage ≠ .lost || s.now < f.lostAt + rd s R.HOM_RESPONSE_TIMEOUT * 1000 then s
    else if f.rsp.isSome then replaceRsp s uid 4
    else decide' s uid (errRsp 4 0) 2

def execResponseSend (port : Nat) (par : Parity) (s : State) : Host.Outcome State Fault Refusal :=
  .next (doResponseSend port par s)

end Sys2Proof.Machine
end

