-- ==== Sys2Proof/Machine/Wake.lean ====
section
/-!
DEFINITION. What disturbs a sleep: abort triggers before E4 and wakes after it (11 R296, R299, R300, R302; 02 R45).
-/
namespace Sys2Proof.Machine

def modSleep (s : State) (f : Sleep → Sleep) : State := { s with sleep := f s.sleep }

/-- The refuser is noted with the point reached (R310). -/
def noteRefuser (s : State) (st point refuser : Nat) : State :=
  wri s R.SLP_LAST_REFUSER st (point * 65536 + refuser)

/-- Sapling writes that have not issued are dropped (R297). -/
def dropSaplings (s : State) : State :=
  let out := fun (h : Held) => h.purpose = .sapling && h.issued.isNone
  { s with pchs := s.pchs.map fun (i, p) =>
    (i, { p with held := p.held.filter fun (_, h) => !out h, work := p.work.filter fun h => !out h }) }

/-- The entry in progress takes in channel `c`; and has passed E1 there (R295, R302). -/
def entryScope (s : State) (c : Nat) : Bool :=
  match s.sleep.entry with
  | some e => (e.st ≠ 2 || bitOf e.groups (c / 4)) && !bitOf (rd s R.SLP_GROUPS_ASLEEP) (c / 4)
  | none => false
def entryCovers (s : State) (c : Nat) : Bool := entryScope s c && decide (2 ≤ rd s R.SLP_ENTRY_POINT)

/-- An abort trigger: counted by target and kind; the first of an entry is recorded and abandons it (R296, R310). -/
def abortEntry (s : State) (refuser : Nat) : State :=
  match s.sleep.entry with
  | none => s
  | some e =>
    if s.sleep.pastE4 then s else
      let s := bumpKey s (R.SLP_ABORTS.key + e.st * 256 + refuser / 4096)
      match e.abort with
      | some _ => s
      | none =>
        let s := noteRefuser s e.st (rd s R.SLP_ENTRY_POINT) refuser
        dropSaplings (modSleep s fun z => { z with entry := some { e with abort := some refuser } })

/-- ply_wake_n while a wake waits in or on the way to S2 (02 R45). -/
def wakePin (s : State) : State :=
  if s.sleep.wake.isSome && (rd s R.SLP_STATE = 3 || rd s R.SLP_STATE = 5) then
    { s with pins := { s.pins with wakeN := false } }
  else s

/-- A wake of the whole block after E4 is latched (R299). -/
def latchWake (s : State) (who : Nat) : State :=
  if s.sleep.pastE4 && s.sleep.wake.isNone && s.sleep.exit.isNone then
    wakePin (modSleep s fun z => { z with wake := some who, wakeNow := s.now })
  else s

/-- A wake, or an abort trigger before E4 (R296, R317). -/
def disturb (s : State) (who : Nat) : State := if s.sleep.pastE4 then latchWake s who else abortEntry s who

/-- A request names a channel of a group that is asleep or entering: a wake for the group alone, or an abort trigger
(R302). -/
def groupTouch (s : State) (pc port : Nat) : State :=
  let g := pc / 8
  let entering := match s.sleep.entry with
    | some e => e.st = 2 && bitOf e.groups g
    | none => false
  if entering then abortEntry s (ident 2 port)
  else if bitOf (rd s R.SLP_GROUPS_ASLEEP) g && !bitOf s.sleep.groupWake g then
    modSleep s fun z => { z with
      groupWake := putBit z.groupWake g true
      groupNow := if z.groupWake = 0 then s.now else z.groupNow
      groupWho := if z.groupWake = 0 then ident 2 port else z.groupWho }
  else s

/-- An item reaches the crossing of the island of unit `u`, which ungates (R290). -/
def ungate (s : State) (u : Nat) : State := modSleep s fun z => { z with gated := putBit z.gated u false }

/-- Requests are not passed to the tree (R300). -/
def replaying (s : State) : Bool := s.sleep.pastE4

/-- The replay queue holds 256 headers (R301). -/
def replayFull (s : State) : Bool := decide (256 ≤ s.sleep.queue.length)

/-- With the queue full, flits carry the acknowledgement and credit totals of that moment (R301). -/
def freezeLinks (s : State) : State :=
  forEach (nums 0 (nPorts s)) s fun s n => modLink s n fun l => { l with frozen := some (ackSeq l, l.rxRet) }

/-- A header joins the replay queue; the first is a wake (R300, R301). -/
def joinReplay (s : State) (uid port : Nat) : State :=
  let s := modSleep s fun z => { z with queue := z.queue ++ [uid] }
  let n := s.sleep.queue.length
  let s := if n = 256 then freezeLinks s else s
  let s := wr s R.SLP_REPLAY_MAX (max (rd s R.SLP_REPLAY_MAX) n)
  let s := modFlight s uid fun f => { f with stage := .replay, replayed := true }
  let s := latchWake s (ident 2 port)
  if n = 256 then raiseEv (bump s R.SLP_REPLAY_FULL) 9 6 0 (ident 1 35) else s

end Sys2Proof.Machine
end

