-- ==== Sys2Proof/Machine/Tree.lean ====
section
/-!
DEFINITION. The traffic tree's operations: descriptors, gates, buckets, commitments and admission, leaf allocation, arrival,
dispatch, and the deliverable-rate model (05 R101 to R136).
-/
namespace Sys2Proof.Machine

/-- Tree state updates. -/
def modTree (s : State) (f : Tree → Tree) : State := { s with tree := f s.tree }
def leafOf (s : State) (n : Nat) : Option Leaf := tget? s.tree.leaves n
def setLeaf (s : State) (n : Nat) (l : Leaf) : State := modTree s fun t => { t with leaves := tset t.leaves n l }
def branchOf (s : State) (b : Nat) : Branch := tget s.tree.branches b {}
def setBranch (s : State) (b : Nat) (x : Branch) : State := modTree s fun t => { t with branches := tset t.branches b x }
def trunkOf (s : State) (n : Nat) : Trunk := tget s.tree.trunks n {}
def setTrunk (s : State) (n : Nat) (x : Trunk) : State := modTree s fun t => { t with trunks := tset t.trunks n x }

/-- Descriptor entries of a branch: 0 control, 1 MIN, 2 MIN_DEPTH, 3 MAX, 4 MAX_DEPTH (Table TRE-5). -/
def brDesc (s : State) (b k : Nat) : Nat := val s (branchKey b k) (windowDflt (branchKey b k))
def putBr (s : State) (b k v : Nat) : State := put s (branchKey b k) (windowDflt (branchKey b k)) v
def brTrunk (s : State) (b : Nat) : Nat := field (brDesc s b 0) 0 3
def brTier (s : State) (b : Nat) : Nat := field (brDesc s b 0) 4 2
/-- A branch attached to trunk 4 to 7 of a PLY-16 is treated as invalid (R101). -/
def brValid (s : State) (b : Nat) : Bool := bitOf (brDesc s b 0) 31 && !(s.ply16 && 4 ≤ brTrunk s b)

/-- Numbers of the valid branches. -/
def validBranches (s : State) : List Nat :=
  s.regs.filterMap fun (k, _) =>
    if 0x1000000 ≤ k ∧ k < 0x1008000 ∧ k % 8 = 0 ∧ brValid s ((k - 0x1000000) / 8) = true then some ((k - 0x1000000) / 8)
    else none

/-- Gate list entries (R120). -/
def gateDur (s : State) (n : Nat) (sh : Bool) (e : Nat) : Nat := val s (gateKey n sh e 0) 100
def gateMask (s : State) (n : Nat) (sh : Bool) (e : Nat) : Nat := val s (gateKey n sh e 1) 0
def gateCycle (s : State) (n : Nat) (sh : Bool) (len : Nat) : Nat :=
  ((nums 0 len).map (gateDur s n sh)).foldl (· + ·) 0

/-- Start of rally 0 of the active list, 0 for none (R121). -/
def gateBase (s : State) (n : Nat) : Nat :=
  let b := rdi s R.TRE_GATE_BASE n
  if b ≠ 0 then b else (trunkOf s n).autoBase

/-- The entry in force at `off` ns into a rally: number, start and duration. -/
def gateWalk (s : State) (n off e start : Nat) : Nat → Nat × Nat × Nat
  | 0 => (e, start, gateDur s n false e)
  | fuel + 1 =>
    let d := gateDur s n false e
    if off < start + d then (e, start, d) else gateWalk s n off (e + 1) (start + d) fuel

/-- The gate position from the time base (R123): rally, entry, its start in pool time, and ns left of it. -/
def gatePos (s : State) (n : Nat) : Option (Nat × Nat × Nat × Nat) :=
  let b := gateBase s n
  let len := rdi s R.TRE_GATE_ACTIVE_LEN n
  let c := gateCycle s n false len
  if rdi s R.TRE_GATE_ENABLE n = 0 || b = 0 || poolNs s < b || c = 0 then none else
    let off := (poolNs s - b) % c
    let (e, start, d) := gateWalk s n off 0 0 (len - 1)
    some ((poolNs s - b) / c, e, poolNs s - off + start, start + d - off)

/-- Branches the gate of trunk `n` leaves open: every one while none is stated (R120 to R122). -/
def gateOpen (s : State) (n : Nat) : Option Nat :=
  match gatePos s n with
  | none => none
  | some (_, e, _, left) =>
    let m := gateMask s n false e
    let len := rdi s R.TRE_GATE_ACTIVE_LEN n
    some (if left ≤ rd s R.TRE_GATE_GUARD then m &&& gateMask s n false ((e + 1) % len) else m)

/-- The gate of trunk `n` follows the time base; a list enabled without a base gets the next whole second (R121). -/
def settleGate (s : State) (n : Nat) : State :=
  let t := trunkOf s n
  let on := rdi s R.TRE_GATE_ENABLE n = 1
  let auto := if !on then 0 else if t.autoBase = 0 && rdi s R.TRE_GATE_BASE n = 0 then (poolNs s / 1000000000 + 1) * 1000000000
    else t.autoBase
  let s := setTrunk s n { t with autoBase := auto }
  setTrunk s n { trunkOf s n with open_ := gateOpen s n }

/-- A branch is open under time gates (R122). -/
def brOpen (s : State) (b : Nat) : Bool :=
  match (trunkOf s (brTrunk s b)).open_ with
  | none => true
  | some m => bitOf m b

/-- One unit of a bucket. -/
def tokenUnit : Int := 65536

/-- Full depth, and the floor, of a bucket. -/
def bucketFull (depth : Nat) : Int := (depth : Int) * tokenUnit

/-- A beat of refill (R108). -/
def refill (v : Int) (rate depth : Nat) : Int := min (v + rate) (bucketFull depth)

/-- One unit charged: the bucket's value and the part dropped at its floor (R110, R111). -/
def charge (v : Int) (depth : Nat) : Int × Nat :=
  let floor := -bucketFull depth
  if v < floor then (v, 65536)
  else if v - tokenUnit < floor then (floor, (floor - (v - tokenUnit)).toNat)
  else (v - tokenUnit, 0)

/-- Dropped parts join the accumulator (R111). -/
def noteDrop (s : State) (n : Nat) : State :=
  if n = 0 then s else raiseFirst (modTree s fun t => { t with dropped := t.dropped + n }) 3 4 0 (ident 1 8)

/-- A unit charged to the branch's N and X, where the branch is valid (R110, R133). -/
def chargeBranch (s : State) (b : Nat) : State :=
  if !brValid s b then s else
    let x := branchOf s b
    let (n, d1) := charge x.n (brDesc s b 2)
    let (xv, d2) := charge x.x (brDesc s b 4)
    noteDrop (setBranch s b { x with n := n, x := xv, units := (x.units + 1) % 2 ^ 64 }) (d1 + d2)

/-- A unit charged to the trunk's T. -/
def chargeTrunk (s : State) (n : Nat) : State :=
  let t := trunkOf s n
  let (v, d) := charge t.t (rdi s R.TRE_TRUNK_MAX_DEPTH n)
  noteDrop (bumpWrap (setTrunk s n { t with t := v }) R.TRE_TRUNK_UNITS n 1 64) d

/-- A unit charged to the leaf's C (levels 0 to 3) or E (level 5), and counted. -/
def chargeLeaf (s : State) (n level : Nat) : State :=
  match leafOf s n with
  | none => s
  | some l =>
    let l := { l with units := (l.units + 1) % 2 ^ 64, thisWindow := l.thisWindow + 1 }
    if level ≤ 3 then
      let (v, d) := charge l.c l.d.cbs
      noteDrop (setLeaf s n { l with c := v }) d
    else if level = 5 then
      let (v, d) := charge l.e l.d.ebs
      noteDrop (setLeaf s n { l with e := v }) d
    else setLeaf s n l

/-- Σ CIR of a branch's leaves, and K_b (R130); the MIN of a branch that is not valid counts nowhere (R132). -/
def cirSum (s : State) (b : Nat) : Nat :=
  (s.tree.leaves.map fun (_, l) => if l.d.branch = b then l.d.cir else 0).foldl (· + ·) 0
def brMin (s : State) (b : Nat) : Nat := if brValid s b then brDesc s b 1 else 0
def commitB (s : State) (b : Nat) : Nat := max (brMin s b) (cirSum s b)

/-- K_t: each leaf's CIR in its own tier, the branch excess in the branch's. -/
def commitT (s : State) (t : Nat) : Nat :=
  (s.tree.leaves.map fun (_, l) => if l.d.tier = t then l.d.cir else 0).foldl (· + ·) 0 +
    ((validBranches s).map fun b => if brTier s b = t then brMin s b - cirSum s b else 0).foldl (· + ·) 0

/-- TRE_COMMITTED. -/
def committed (s : State) : Nat := commitT s 0 + commitT s 1 + commitT s 2 + commitT s 3

/-- Σ K_b of a trunk's branches. -/
def commitTrunk (s : State) (n : Nat) : Nat :=
  ((validBranches s).map fun b => if brTrunk s b = n then commitB s b else 0).foldl (· + ·) 0

/-- A committed leaf's OL_MAX carries a microsecond of its rate (R131). -/
def olCarries (d : LeafDesc) : Bool := d.cir = 0 || decide ((d.cir * 1000 + 65535) / 65536 ≤ d.olMax)

/-- The tests of R131 on the state after a commitment. -/
def admits (s : State) (branches trunks : List Nat) : Bool :=
  decide (committed s ≤ rd s R.TRE_MODEL_FLOOR * rd s R.TRE_ADMIT_RATIO / 65536) &&
    branches.all (fun b => decide (commitB s b ≤ brDesc s b 3)) &&
    trunks.all fun n => decide (commitTrunk s n ≤ rdi s R.TRE_TRUNK_MAX n)

/-- A commitment that fails R131 is counted and reported (R132). -/
def commitFails (s : State) : State := raiseEv (bump s R.TRE_ADMIT_REFUSALS) 3 2 0 0

/-- `s'` is `s` after a commitment touching `branches` and `trunks`: taken, or refused with status 3 (R132). -/
def tryCommit (s s' : State) (branches trunks : List Nat) (carries : Bool) : Nat × State :=
  if carries && admits s' branches trunks then (0, s') else (3, commitFails s)

/-- Field of a leaf profile; depths and limits never written read 1 (R104). -/
def profileField (s : State) (p k : Nat) : Nat :=
  let v := val s (R.TRE_PROFILE.key + p * 256 + k) 0
  if v = 0 && (k = 1 || k = 3 || k = 5 || k = 7 || k = 8 || k = 9) then 1 else v

/-- Descriptor of a leaf allocated from profile `p`. -/
def profileDesc (s : State) (p branch fn label : Nat) (pinned : Bool) : LeafDesc :=
  { cir := profileField s p 0, cbs := profileField s p 1, eir := profileField s p 2, ebs := profileField s p 3
    pir := profileField s p 4, pbs := profileField s p 5, tier := profileField s p 6, olMax := profileField s p 7
    olMin := profileField s p 8, olInit := profileField s p 9, branch := branch, fn := fn, label := label
    pinned := pinned, closed := false }

/-- The outstanding limit a new leaf starts with (R124). -/
def startLimit (d : LeafDesc) : Nat := if d.cir > 0 then d.olMax else max d.olMin (min d.olInit d.olMax)

/-- A leaf with full buckets and cleared counts (R104, R107). -/
def freshLeaf (d : LeafDesc) : Leaf :=
  { d := d, c := bucketFull d.cbs, e := bucketFull d.ebs, p := bucketFull d.pbs, limit := startLimit d }

/-- The limit stays between OL_MIN and OL_MAX, and at OL_MAX with a committed rate (R124). A leaf whose CIR is written 0 goes on
from the limit it has: the rule gives OL_INIT for an allocation only (DESIGN CHOICE, log entry 24). -/
def settleLimit (l : Leaf) : Leaf :=
  { l with limit := if l.d.cir > 0 then l.d.olMax else max l.d.olMin (min l.limit l.d.olMax) }

/-- The lowest number not listed, from `n` on. -/
def firstGap {α : Type} : Tbl α → Nat → Nat
  | [], n => n
  | (k, _) :: t, n => if k = n then firstGap t (n + 1) else n

/-- The lowest-numbered free leaf (R104). -/
def freeLeaf (s : State) : Nat := firstGap s.tree.leaves 0

/-- Leaves function `f` holds. -/
def funLeaves (s : State) (f : Nat) : Nat := (s.tree.leaves.filter fun (_, l) => l.d.fn = f).length

/-- Leaf `n` now holds `d` and the label table names it; counts of an earlier use are cleared (R104, R127). -/
def placeLeaf (s : State) (n : Nat) (d : LeafDesc) : State :=
  modTree s fun t => { t with
    leaves := tset t.leaves n (freshLeaf d), labels := tset t.labels (pairNo d.fn d.label) n, ghosts := tdel t.ghosts n }

/-- Quota refusal (R104, R107). -/
def quotaFull (s : State) (f : Nat) : Bool := decide (rdi s R.TRE_FUN_LEAF_QUOTA f ≤ funLeaves s f)
def quotaEvent (s : State) (f : Nat) : State := raiseEv s 3 3 0 (ident 3 f)

/-- Leaves of the tree (R101). -/
def leafCount : Nat := 262144

/-- Allocation of a leaf with descriptor `d`: its number, or none where the quota, an empty free list or the tests refuse it. With
`fallback` a failed commitment gives a leaf of CIR 0 and tier 3 (R104). -/
def allocate (s : State) (d : LeafDesc) (fallback : Bool) : Option Nat × State :=
  let n := freeLeaf s
  if quotaFull s d.fn then (none, quotaEvent s d.fn)
  else if leafCount ≤ n then (none, s)
  else
    let s' := placeLeaf s n d
    if d.cir = 0 then (some n, s')
    else if olCarries d && admits s' [d.branch] [brTrunk s d.branch] then (some n, s')
    else if fallback then (some n, placeLeaf (commitFails s) n { d with cir := 0, tier := 3 })
    else (none, commitFails s)

/-- ADMISSION_REFUSED (R103). -/
def refuseAdmission (s : State) (uid : Nat) (f : Flight) : State :=
  let s := obsEvent (bumpi s R.TRE_FUN_ADMIT_REFUSALS f.h.fn) unitTree 18 1
  decide' (freeCredits s f) uid (errRsp 2 0) 0

/-- Room in use of a pseudo-channel queue as the tree sees it, and whether it may grant more: 64 each, and none in a channel
group asleep or entering (R117, 11 R302). A credit that returned on this beat still crosses. -/
def roomUsed (s : State) (kind pc : Nat) : Nat :=
  (if kind = 1 then tget s.tree.readRoom pc 0 else tget s.tree.writeRoom pc 0) +
    (match tget? s.tree.back (pc * 4 + kind) with
     | some (at', n) => if at' = s.now then n else 0
     | none => 0)
def groupOf (pc : Nat) : Nat := pc / 8
def groupHeld (s : State) (pc : Nat) : Bool :=
  bitOf (rd s R.SLP_GROUPS_ASLEEP) (groupOf pc) ||
    (match s.sleep.entry with
     | some e => e.st = 2 && bitOf e.groups (groupOf pc)
     | none => false)
def roomFor (s : State) (kind pc : Nat) : Bool := kind = 0 || (decide (roomUsed s kind pc < 64) && !groupHeld s pc)

/-- The request joins leaf `n` and is pre-decoded (R92, R103). -/
def joinLeaf (s : State) (uid n : Nat) (f : Flight) : State :=
  match leafOf s n with
  | none => s
  | some l =>
    let q := l.queue ++ [uid]
    let s := setLeaf s n { l with queue := q, depthMax := max l.depthMax q.length, busyAt := s.now }
    let dec := mapDecode s (f.h.line * 64) f.h.fn
    let s := match dec with
      | some l => if f.op.room = 0 then s else groupTouch s l.pc f.h.port
      | none => s
    modFlight s uid fun f =>
      { f with
        stage := .queued, leaf := n, joined := s.now, misrouted := dec.isNone
        roomPc := (dec.map (·.pc)).getD 0 }

/-- Nanoseconds until the policer holds one unit, saturating (R109, Table LNK-7). -/
def retryHint (l : Leaf) : Nat := min (((tokenUnit - l.p).toNat + l.d.pir - 1) / l.d.pir) satMax

/-- The policer of leaf `n`, then the leaf's queue (R107, R109). A request of another port than the leaf's trunk is counted,
whatever becomes of it (R101). -/
def meetPolicer (s : State) (uid n : Nat) (f : Flight) : State :=
  match leafOf s n with
  | none => s
  | some l =>
    let t := brTrunk s l.d.branch
    let s := if f.h.port ≠ t then bumpi s R.TRE_TRUNK_CROSSED t else s
    if l.d.closed then refuseAdmission (modFlight s uid fun f => { f with leaf := n }) uid f
    else if l.d.pir ≠ 0 && decide (l.p < tokenUnit) then
      let s := setLeaf s n { l with refusals := min (l.refusals + 1) satMax }
      let s := obsEvent (bumpi s R.TRE_FUN_RATE_REFUSALS f.h.fn) unitTree 17 1
      let s := modFlight s uid fun f => { f with leaf := n }
      decide' (freeCredits s f) uid (errRsp 1 (retryHint l)) 0
    else
      let s := if l.d.pir = 0 then s else setLeaf s n { l with p := l.p - tokenUnit }
      joinLeaf s uid n f

/-- The first valid rule of a function whose label range holds `label` (R103). -/
def findRule (s : State) (fn label : Nat) : Option Nat :=
  ((nums 0 64).map fun r => val s (R.TRE_RULE.key + fn * 256 + r) 0).find? fun v =>
    bitOf v 63 && field v 0 14 ≤ label && label ≤ field v 14 14

/-- A request reaches the tree: label table, rules and allocation, policer, leaf (R103, R104). -/
def treeArrive (s : State) (uid : Nat) : State :=
  match flightOf s uid with
  | none => s
  | some f =>
    let s := obsEvent s unitTree 16 1
    match tget? s.tree.labels (pairNo f.h.fn f.h.label) with
    | some n => meetPolicer s uid n f
    | none =>
      match findRule s f.h.fn f.h.label with
      | none => refuseAdmission s uid f
      | some v =>
        let b := field v 32 12
        if !brValid s b then refuseAdmission s uid f
        else match allocate s (profileDesc s (field v 48 8) b f.h.fn f.h.label false) (bitOf v 62) with
          | (none, s) => refuseAdmission s uid f
          | (some n, s) => meetPolicer (obsEvent s unitTree 19 1) uid n f

/-- The tree holds dispatch (R113, 09 R250, 11 R295, 14 R388). -/
def dispatchHeld (s : State) : Bool := s.tree.holdPower || s.tree.holdTrip || s.tree.holdReset

/-- Room kind of a request at its target: none for a misrouted one (R92, R117). -/
def roomKind (f : Flight) : Nat := if f.misrouted then 0 else f.op.room

/-- The request of a head window that a pick takes: the oldest whose target has room and that no older request of the
leaf shares its line with (R116). -/
def headPick (s : State) : List Nat → List Nat → Option Nat
  | [], _ => none
  | uid :: rest, lines =>
    match flightOf s uid with
    | none => headPick s rest lines
    | some f =>
      if roomFor s (roomKind f) f.roomPc && !lines.contains f.h.line then some uid
      else headPick s rest (f.h.line :: lines)

/-- Lowest level of Table TRE-2 that leaf `l` meets. -/
def leafLevel (s : State) (l : Leaf) : Option Nat :=
  let b := branchOf s l.d.branch
  if l.d.cir > 0 && decide (0 ≤ l.c) then some l.d.tier
  else if brDesc s l.d.branch 1 > 0 && decide (0 ≤ b.n) then some 4
  else if decide (0 ≤ l.e) && decide (0 ≤ b.x) && decide (0 ≤ (trunkOf s (brTrunk s l.d.branch)).t) then some 5
  else none

/-- A leaf that a pick of trunk `n` may take: level and request (R113, R114). -/
def eligible (s : State) (n : Nat) (l : Leaf) : Option (Nat × Nat) :=
  if l.queue.isEmpty || !brValid s l.d.branch || brTrunk s l.d.branch ≠ n || !brOpen s l.d.branch ||
      decide (l.limit ≤ l.outstanding) then none
  else match headPick s (l.queue.take 8) [] with
    | none => none
    | some uid => (leafLevel s l).map fun v => (v, uid)

/-- The smallest of `l` above `p`, else the smallest. -/
def nextAfter (l : List Nat) (p : Nat) : Option Nat :=
  match (l.filter (p < ·)).min? with
  | some x => some x
  | none => l.min?

/-- Eligible leaves of trunk `n`: leaf, its branch, level, request. -/
def candidates (s : State) (n : Nat) : List (Nat × Nat × Nat × Nat) :=
  s.tree.leaves.filterMap fun (k, l) => (eligible s n l).map fun (v, uid) => (k, l.d.branch, v, uid)

/-- The pick of trunk `n`: lowest level, next branch after the level's pointer, next leaf after the branch's (R115). -/
def pickOf (s : State) (n : Nat) : Option (Nat × Nat × Nat × Nat) :=
  let c := candidates s n
  match (c.map fun (_, _, v, _) => v).min? with
  | none => none
  | some v =>
    let c := c.filter fun (_, _, w, _) => w = v
    match nextAfter (c.map fun (_, b, _, _) => b) ((trunkOf s n).ptrs.getD v 0) with
    | none => none
    | some b =>
      let c := c.filter fun (_, x, _, _) => x = b
      match nextAfter (c.map fun (k, _, _, _) => k) (branchOf s b).ptr with
      | none => none
      | some k => c.find? fun (j, _, _, _) => j = k

/-- The first trunk in the order of the beat's tree cycles: it moves on by one each cycle, of which a beat has two (R118). The
model takes the first cycle of a beat, and trunk 0 first after reset (DESIGN CHOICE, log entry 24). -/
def firstTrunk (s : State) : Nat := 2 * s.now % nPorts s

/-- Place of trunk `n`'s pick at `level` among the picks of a cycle: levels 0 to 4 ahead of level 5, then the trunk order (R118). -/
def pickPlace (s : State) (n level : Nat) : Nat :=
  (if level ≤ 4 then 0 else 8) + (n + nPorts s - firstTrunk s) % nPorts s

/-- Room of a queue goes to the picks of the cycle in their order: the pick of trunk `n` has room where no more picks of other
trunks stand ahead of it than leave some (R118). -/
def roomGranted (s : State) (n level kind pc : Nat) : Bool :=
  kind = 0 || decide (roomUsed s kind pc + nPorts s ≤ 64) ||
    decide (roomUsed s kind pc + ((nums 0 (nPorts s)).filter fun m => m ≠ n &&
      (match pickOf s m with
       | some (_, _, v, uid) =>
         (match flightOf s uid with
          | some f => roomKind f = kind && f.roomPc = pc && decide (pickPlace s m v < pickPlace s n level)
          | none => false)
       | none => false)).length < 64)

/-- The pick of trunk `n`, where it finds room in its cycle (R115, R118). -/
def grantedPick (s : State) (n : Nat) : Option (Nat × Nat × Nat × Nat) :=
  (pickOf s n).filter fun (_, _, v, uid) =>
    match flightOf s uid with
    | some f => roomGranted s n v (roomKind f) f.roomPc
    | none => false

/-- Flags of regulation that a dispatch sets from its target queue's occupancy (R125): the room credits in use before the
dispatch takes its own, since the rule does not say what a queue's occupancy in the tree is (DESIGN CHOICE, log entry 24). -/
def regulate (s : State) (l : Leaf) (kind pc : Nat) : Leaf :=
  let l := { l with dispatched := true }
  if kind = 0 then l else
    let q := roomUsed s kind pc
    { l with
      congested := l.congested || decide (rd s R.TRE_REG_HIGH < q)
      belowLow := l.belowLow && decide (q < rd s R.TRE_REG_LOW) }

/-- A request leaves its leaf for the home: charges, tag, slot and room, pointers, credits (R110, R115, R117). -/
def dispatch (s : State) (n k b v uid : Nat) (f : Flight) : State :=
  match leafOf s k with
  | none => s
  | some l =>
    let kind := roomKind f
    let l := regulate s { l with queue := l.queue.erase uid, outstanding := l.outstanding + 1 } kind f.roomPc
    let s := setLeaf s k l
    let s := setTrunk s n { trunkOf s n with ptrs := (trunkOf s n).ptrs.set v b }
    let s := setBranch s b { branchOf s b with ptr := k }
    let s := chargeTrunk (chargeBranch (chargeLeaf s k v) b) n
    let s := modTree s fun t => { t with
      tags := t.tags + 1, slots := t.slots + (if f.op.isRead then 1 else 0), crossing := t.crossing ++ [uid]
      readRoom := if kind = 1 then tset t.readRoom f.roomPc (tget t.readRoom f.roomPc 0 + 1) else t.readRoom
      writeRoom := if kind = 2 then tset t.writeRoom f.roomPc (tget t.writeRoom f.roomPc 0 + 1) else t.writeRoom }
    let s := modFlight s uid fun f =>
      { f with stage := .crossing, branch := b, trunk := n, level := v, tag := true, slot := f.op.isRead, room := kind,
               t1 := some s.now }
    obsEvent (freeCredits s f) unitTree (20 + v) 1

/-- Tags and read-return slots (01 R21). -/
def tagFree (s : State) : Bool := decide (s.tree.tags < 65536)

/-- The leaf numbered `k` loses a queued request without charge (14 R389, R390). -/
def unqueue (s : State) (uid : Nat) : State :=
  match flightOf s uid with
  | none => s
  | some f =>
    match leafOf s f.leaf with
    | none => s
    | some l => setLeaf s f.leaf { l with queue := l.queue.erase uid }

/-- Bank replacements of a pseudo-channel (R128). -/
def replacedBanks (s : State) (pc : Nat) : Nat := ((nums 0 4).filter fun sid => (replacement s pc sid).isSome).length

/-- A failed pseudo-channel, or one of a failed channel (08 R228). -/
def pcFailed (s : State) (pc : Nat) : Bool :=
  rdi s R.CDI_PC_STATE pc = 3 || rdi s R.CDI_CHANNEL_STATE (pc / 2) = 1

/-- Pool time at which the window that ends now, or ended last, began (R128). -/
def windowStart (s : State) : Nat := poolNs s / 10000 * 10000 - 10000

/-- The allowance of channel `c` as T_p takes it: 32 in a trip, whose loss of service counts in A_p (09 R255). -/
def thermalAllowance (s : State) (c : Nat) : Nat := if s.stack.trip then 32 else rdi s R.RFH_ALLOWANCE c

/-- The allowance of channel `c` is about to change: the present one held until now. -/
def noteAllowance (s : State) (c : Nat) : State :=
  modStack s fun t => { t with allowed := tset t.allowed c (tget t.allowed c [] ++ [(poolNs s, thermalAllowance s c)]) }

/-- T_p: the allowance summed over the window's 250 periods of 64 nCK, which is 40 ns, by 8,000 (09 R255). -/
def thermalFactor (s : State) (p : Nat) : Nat :=
  let c := p / 2
  let cur := thermalAllowance s c
  let past := tget s.stack.allowed c []
  let at' := fun t => ((past.find? fun (u, _) => decide (t < u)).map (·.2)).getD cur
  let sum := if past.isEmpty then 250 * cur
    else ((nums 0 250).map fun k => at' (windowStart s + 40 * k)).foldl (· + ·) 0
  sum * 65536 / 8000

/-- Nanoseconds of the window for which pseudo-channel `p` was in a trip or had failed (R128, 09 R255). -/
def outNs (s : State) (p : Nat) : Nat :=
  let a := windowStart s
  let upTo := if pcFailed s p then max a (min (a + 10000) (tget s.stack.failedAt p 0)) else a + 10000
  let trips := s.stack.trips ++ (if s.stack.trip then [(s.stack.tripFrom, a + 10000)] else [])
  (a + 10000 - upTo) + (trips.map fun (x, y) => min y upTo - max x a).foldl (· + ·) 0

/-- A_p of a time in service, in nCK of 16,000, with the replaced banks (R128). -/
def serviceShare (s : State) (pc nck : Nat) : Nat := min nck 16000 * 65536 * (256 - replacedBanks s pc) / (16000 * 256)

/-- A_p from the nCK reported in service, of which none lies in a trip or after a failure. -/
def availability (s : State) (pc nck : Nat) : Nat := serviceShare s pc (min nck (16000 - outNs s pc * 8 / 5))

/-- A_p at block reset (R129). -/
def startAvailability (s : State) (pc : Nat) : Nat := if pcFailed s pc then 0 else serviceShare s pc 16000

/-- What of the past no later window needs goes. -/
def forgetWindow (s : State) : State :=
  let e := windowStart s + 10000
  modStack s fun t => { t with
    allowed := t.allowed.filterMap fun (c, l) =>
      let l := l.filter fun (u, _) => decide (e < u)
      if l.isEmpty then none else some (c, l)
    trips := t.trips.filter fun (_, y) => decide (e < y) }

/-- One pseudo-channel's term of R129 in 1/65,536 rate unit: 52,428.8 × E × (1 − R) × T × A. -/
def rateTerm (e r t a : Nat) : Nat := 524288 * e * (65536 - r) * t * a / (10 * 65536 ^ 3)

/-- Factors as TRE_MODEL_FACTORS shows them; one reads 0xFFFF. -/
def factorWord (e r t a : Nat) : Nat :=
  min e 0xFFFF * 2 ^ 48 + min r 0xFFFF * 2 ^ 32 + min t 0xFFFF * 2 ^ 16 + min a 0xFFFF

/-- The rate and factors at block reset (R129), once parameters, repair map and training results are read. -/
def startModel (s : State) : State :=
  let e := rd s R.TRE_MODEL_EFF_INIT
  let s := modTree s fun t => { t with eff := (nums 0 (nPcs s)).map fun p => (p, e), rates := [], windows := 0 }
  let s := forEach (nums 0 (nPcs s)) s fun s p => wri s R.TRE_MODEL_FACTORS p (factorWord e 0 65536 (startAvailability s p))
  let sum := ((nums 0 (nPcs s)).map fun p => rateTerm e 0 65536 (startAvailability s p)).foldl (· + ·) 0
  wr (wr s R.TRE_MODEL_RATE (sum / 65536)) R.TRE_MODEL_FLOOR (sum / 65536)

/-- Scales of the four tiers from the modelled rate (R135). -/
def tierScales (avail : Nat) : List Nat → List Nat
  | [] => []
  | k :: rest =>
    if k ≤ avail then 65536 :: tierScales (avail - k) rest
    else (if k = 0 then 65536 else avail * 65536 / k) :: tierScales 0 rest

/-- TRE_SHORTFALL (R136). -/
def shortfall (m total : Nat) : Nat := if total = 0 then 0 else (total - min m total) * 65536 / total

/-- Scales and shortfall of the next window, with EV.03.00 and EV.03.01 (R135, R136). -/
def publishScales (s : State) : State :=
  let m := rd s R.TRE_MODEL_RATE
  let sc := tierScales m [commitT s 0, commitT s 1, commitT s 2, commitT s 3]
  let s := forEach (nums 0 4) s fun s t => wri s R.TRE_TIER_SCALE t (sc.getD t 65536)
  let old := rd s R.TRE_SHORTFALL
  let new := shortfall m (committed s)
  let s := wr s R.TRE_SHORTFALL new
  if old = 0 ∧ new ≠ 0 then raiseEv s 3 0 0 0 else if old ≠ 0 ∧ new = 0 then raiseEv s 3 1 0 0 else s

/-- A leaf at a window end (Table TRE-3). -/
def leafWindow (s : State) (l : Leaf) : Leaf :=
  let delay := match l.queue.head? with
    | some uid => min (s.now - ((flightOf s uid).map (·.joined)).getD s.now) satMax
    | none => 0
  { l with delayMax := max l.delayMax delay, windowUnits := l.thisWindow, thisWindow := 0 }

/-- Pinned leaves as stored start again after a block reset (R107). -/
def restoreLeaves (s : State) : State := forEach s.mram.leaves s fun s (n, d) => placeLeaf s n d

/-- A leaf that may be reclaimed once idle long enough (R106). -/
def reclaimable (l : Leaf) : Bool :=
  l.queue.isEmpty && l.outstanding = 0 && l.p = bucketFull l.d.pbs && l.c = bucketFull l.d.cbs &&
    l.e = bucketFull l.d.ebs && !l.d.pinned

/-- One beat of refill of every bucket (R108, R122, R135). -/
def refillLeaf (s : State) (l : Leaf) : Leaf :=
  let l := { l with p := refill l.p l.d.pir l.d.pbs }
  let l := if !brOpen s l.d.branch then l else
    { l with
      c := refill l.c (l.d.cir * rdi s R.TRE_TIER_SCALE l.d.tier / 65536) l.d.cbs
      e := refill l.e l.d.eir l.d.ebs }
  if reclaimable l then l else { l with busyAt := s.now }

def refillBranch (s : State) (b : Nat) (x : Branch) : Branch :=
  let x := { x with x := refill x.x (brDesc s b 3) (brDesc s b 4) }
  if !brOpen s b then x
  else { x with n := refill x.n (brDesc s b 1 * rdi s R.TRE_TIER_SCALE (brTier s b) / 65536) (brDesc s b 2) }

/-- One beat of the tree: gates follow the time base, buckets refill. -/
def beatTree (s : State) : State :=
  let s := forEach (nums 0 (nPorts s)) s settleGate
  let s := modTree s fun t => { t with leaves := t.leaves.map fun (n, l) => (n, refillLeaf s l) }
  let s := forEach (validBranches s) s fun s b => setBranch s b (refillBranch s b (branchOf s b))
  forEach (nums 0 (nPorts s)) s fun s n =>
    setTrunk s n { trunkOf s n with t := refill (trunkOf s n).t (rdi s R.TRE_TRUNK_MAX n) (rdi s R.TRE_TRUNK_MAX_DEPTH n) }

end Sys2Proof.Machine
end

