-- ==== Sys2Proof/Machine/Requests.lean ====
section
/-!
DEFINITION. Requests at a host port: credits, the checks of 03 R71, and their way to the tree or the replay queue.
-/
namespace Sys2Proof.Machine

/-- The agent has joined on this port for this function, and caches where the opcode needs it. -/
def joinedHere (s : State) (h : ReqHdr) (needsCache : Bool) : Bool :=
  match tget? s.agents h.agent with
  | some a => a.port = h.port && a.fn = h.fn && (a.caching || !needsCache)
  | none => false

/-- A reserved AOP, or an OFFSET not aligned to SIZE (R70). -/
def atomBad (x : AtomSpec) : Bool := 10 ≤ x.aop || x.offset % (if x.size8 then 8 else 4) ≠ 0

/-- Check 1 of R71: opcode and fields in the port's revision (Table LNK-15). R70 does not say which check refuses a reserved AOP
or a misaligned OFFSET: the model refuses it here, before BINDING and NOT_JOINED, so it counts in LNK_LINK_REFUSALS (DESIGN
CHOICE, log entry 26). -/
def unsupported (s : State) (f : Flight) : Bool :=
  let rev2 := portRev s f.h.port = 2
  (rev2 && (1024 ≤ f.h.label || 1024 ≤ f.h.agent)) ||
    (match f.op with
     | .other _ => true
     | .wrHint => rev2
     | .atom => rev2 || atomBad f.atom
     | _ => false)

/-- The first check of R71 that fails, as its response code. -/
def linkRefusal (s : State) (f : Flight) : Option Nat :=
  if unsupported s f then some 10
  else if !portBound s f.h.port f.h.fn then some 8
  else if !joinedHere s f.h f.op.needsCache then some 9
  else if inReset s f.h.fn then some 7
  else none

/-- The request and its data take receive credits and ingress space (Table LNK-2). -/
def takeReqCredit (s : State) (f : Flight) : State :=
  let s := takeCredit s f.h.port 0 1
  if f.op.hasData then
    modLink (takeCredit s f.h.port 1 1) f.h.port fun l => { l with ingress := l.ingress + 1 }
  else s

/-- A request passes R71: it abandons an entry, waits in the replay queue, or goes to the tree (R72, 11 R296, R300). -/
def accepted (s : State) (uid port : Nat) : State :=
  let s := match s.sleep.entry with
    | some e => if e.st = 2 then s else abortEntry s (ident 2 port)
    | none => s
  if replaying s then joinReplay s uid port else treeArrive (ungate s unitTree) uid

/-- A request message arrives on its port. Before NEG_SELECT it is discarded and counted (R83); while the replay queue is
full its flit is not accepted (11 R301). -/
def arrive (s : State) (f : Flight) : State :=
  let p := f.h.port
  if nPorts s ≤ p then s
  else if portState s p = portNegotiating then bumpi s R.LNK_DISCARDS p
  else if portState s p ≠ portUp || (replaying s && replayFull s) then s
  else
    let s := obsEvent (ungate (takeReqCredit s f) p) p 21 1
    let uid := s.uid
    let f := { f with t0 := s.now, t0Pool := poolNs s }
    let s := { s with uid := uid + 1, flights := tset s.flights uid f }
    match linkRefusal s f with
    | some code =>
      decide' (freeCredits (obsEvent (bumpi s R.LNK_LINK_REFUSALS p) p 22 1) f) uid (errRsp code 0) 0
    | none => accepted s uid p

/-- RD. -/
def doRd (h : ReqHdr) (s : State) : State := arrive s { op := .rd, h := h }

def execRd (h : ReqHdr) (s : State) : Host.Outcome State Fault Refusal := .next (doRd h s)

/-- RD_SHARED. -/
def doRdShared (h : ReqHdr) (s : State) : State := arrive s { op := .rdShared, h := h }

def execRdShared (h : ReqHdr) (s : State) : Host.Outcome State Fault Refusal := .next (doRdShared h s)

/-- RD_OWN. -/
def doRdOwn (h : ReqHdr) (s : State) : State := arrive s { op := .rdOwn, h := h }

def execRdOwn (h : ReqHdr) (s : State) : Host.Outcome State Fault Refusal := .next (doRdOwn h s)

/-- UPGRADE. -/
def doUpgrade (h : ReqHdr) (s : State) : State := arrive s { op := .upgrade, h := h }

def execUpgrade (h : ReqHdr) (s : State) : Host.Outcome State Fault Refusal := .next (doUpgrade h s)

/-- WR_FULL. -/
def doWrFull (h : ReqHdr) (data : Line) (s : State) : State := arrive s { op := .wrFull, h := h, data := data }

def execWrFull (h : ReqHdr) (data : Line) (s : State) : Host.Outcome State Fault Refusal := .next (doWrFull h data s)

/-- WR_PART. -/
def doWrPart (h : ReqHdr) (mask : BitVec 64) (data : Line) (s : State) : State :=
  arrive s { op := .wrPart, h := h, data := data, mask := mask }

def execWrPart (h : ReqHdr) (mask : BitVec 64) (data : Line) (s : State) : Host.Outcome State Fault Refusal :=
  .next (doWrPart h mask data s)

/-- WB_DIRTY. -/
def doWbDirty (h : ReqHdr) (data : Line) (s : State) : State := arrive s { op := .wbDirty, h := h, data := data }

def execWbDirty (h : ReqHdr) (data : Line) (s : State) : Host.Outcome State Fault Refusal := .next (doWbDirty h data s)

/-- WR_HINT. -/
def doWrHint (h : ReqHdr) (target : Nat) (data : Line) (s : State) : State :=
  arrive s { op := .wrHint, h := h, data := data, target := target }

def execWrHint (h : ReqHdr) (target : Nat) (data : Line) (s : State) : Host.Outcome State Fault Refusal :=
  .next (doWrHint h target data s)

/-- ATOM. -/
def doAtom (h : ReqHdr) (x : AtomSpec) (s : State) : State := arrive s { op := .atom, h := h, atom := x }

def execAtom (h : ReqHdr) (x : AtomSpec) (s : State) : Host.Outcome State Fault Refusal := .next (doAtom h x s)

/-- A request of an opcode from 0x0A to 0x3F (Table LNK-5). -/
def doUnsupportedOpcode (h : ReqHdr) (opcode : Nat) (s : State) : State :=
  if 10 ≤ opcode && opcode < 64 then arrive s { op := .other opcode, h := h } else s

def execUnsupportedOpcode (h : ReqHdr) (opcode : Nat) (s : State) : Host.Outcome State Fault Refusal :=
  .next (doUnsupportedOpcode h opcode s)

end Sys2Proof.Machine
end

