-- ==== Sys2Proof/Machine/Filter.lean ====
section
/-!
DEFINITION. The snoop filter, possession windows, the atomics buffer and the transaction table (06 R139 to R160).
-/
namespace Sys2Proof.Machine

def modHome (s : State) (f : Home → Home) : State := { s with home := f s.home }
def txnOf (s : State) (id : Nat) : Option Txn := tget? s.home.txns id

/-- The waits of a transaction that R154 and R161 time: the snoop of an agent, the hint, the other half of an agent's
writeback pair, the CMP_ACK, and the channel engine. -/
def waitSnoop (a : Nat) : Nat := a
def waitHint : Nat := 4096
def waitPair (a : Nat) : Nat := 4097 + a
def waitCmpAck : Nat := 8193
def waitEngine : Nat := 8194

def txnWaits (t : Txn) : List Nat :=
  (t.snoops.filter (·.sent)).map (fun n => waitSnoop n.agent) ++ (if t.hint = 2 then [waitHint] else []) ++
    (t.wbWait ++ t.wbHeld.map (·.1)).map waitPair ++ (if t.waitAck then [waitCmpAck] else []) ++
    (if t.mem = 1 || t.mem = 2 || !t.writes.isEmpty || !t.lost.isEmpty then [waitEngine] else [])

/-- The waits of transaction `id` as it now stands: one that goes on keeps its start, another starts. -/
def settleWaits (w : Tbl Nat) (now id : Nat) (t : Txn) : Tbl Nat :=
  (txnWaits t).foldl (fun u k => tset u (id * 16384 + k) (tget w (id * 16384 + k) now)) (w.filter fun (k, _) => k / 16384 ≠ id)

/-- The wait `k` of transaction `id` has lasted `micros` µs. -/
def waitOver (s : State) (id k micros : Nat) : Bool := decide (tget s.home.waits (id * 16384 + k) 0 + micros * 1000 ≤ s.now)

def setTxn (s : State) (id : Nat) (t : Txn) : State :=
  modHome s fun h => { h with txns := tset h.txns id t, waits := settleWaits h.waits s.now id t }
def modTxn (s : State) (id : Nat) (f : Txn → Txn) : State :=
  match txnOf s id with
  | some t => setTxn s id (f t)
  | none => s

/-- The function is coherent (R140). -/
def coherent (s : State) (fn : Nat) : Bool := bitOf (rd s R.HOM_FUN_COHERENT) fn

/-- Filter set of a line: A[22:6] XOR A[39:23] (R141). -/
def lineSet (line : Nat) : Nat := (line % 131072) ^^^ (line / 131072 % 131072)

def findEntryOf (s : State) (line : Nat) : Option FilterEntry := tget? s.home.filter line
def delEntry (s : State) (line : Nat) : State := modHome s fun h => { h with filter := tdel h.filter line }

/-- An entry is written and becomes its set's most recently used. -/
def putEntry (s : State) (e : FilterEntry) : State :=
  modHome s fun h => { h with filter := tset h.filter e.line { e with used := h.useNo + 1 }, useNo := h.useNo + 1 }

/-- Reading an entry for a transaction makes it the most recently used. -/
def touchEntry (s : State) (line : Nat) : State :=
  match findEntryOf s line with
  | some e => putEntry s e
  | none => s

/-- Valid entries of a set. -/
def waysIn (s : State) (set : Nat) : List FilterEntry := (s.home.filter.map (·.2)).filter fun e => lineSet e.line = set

def agentOf (s : State) (a : Nat) : Option Agent := tget? s.agents a
def cellOf (s : State) (a : Nat) : Nat := ((agentOf s a).map (·.cell)).getD 0
def cellUp (s : State) (c : Nat) : Bool := rdi s R.HOM_CELL_STATE c = 0
def isFallen (s : State) (a : Nat) : Bool := ((agentOf s a).map (·.fallen)).getD false

/-- Agents that a snoop of the entry goes to: the listed holders, or every caching agent registered in a marked cell but
the requester (R142). A fallen agent holds nothing the home accepts and is not snooped (R164). -/
def entryAgents (s : State) (e : FilterEntry) (requester : Nat) (others : Bool) : List Nat :=
  if e.coarse then
    (s.agents.filter fun (a, x) => x.caching && !x.fallen && bitOf e.cells x.cell && a ≠ requester).map (·.1)
  else (e.holders.filter fun a => !(others && a = requester)).filter fun a => (agentOf s a).isSome && !isFallen s a

/-- The requester becomes a shared holder of an entry (R142). -/
def shareEntry (s : State) (e : FilterEntry) (a : Nat) : FilterEntry :=
  if e.coarse then { e with cells := putBit e.cells (cellOf s a) true }
  else if e.holders.contains a then { e with excl := false }
  else if e.holders.length < 4 then { e with excl := false, holders := e.holders ++ [a] }
  else { e with
    excl := false, coarse := true, holders := []
    cells := (e.holders ++ [a]).foldl (fun m h => putBit m (cellOf s h) true) 0 }

def exclEntry (line a : Nat) : FilterEntry := ⟨line, true, false, [a], 0, 0⟩
def sharedEntry (line a : Nat) : FilterEntry := ⟨line, false, false, [a], 0, 0⟩

/-- An agent leaves a precise entry; an entry with no holder is invalidated (R143). -/
def dropHolder (s : State) (line a : Nat) : State :=
  match findEntryOf s line with
  | none => s
  | some e =>
    if e.coarse || !e.holders.contains a then s
    else
      let h := e.holders.filter (· ≠ a)
      if h.isEmpty then delEntry s line
      else modHome s fun m => { m with filter := tset m.filter line { e with holders := h } }

/-- A line lies in an open possession window, of any agent or of `a` (R152). -/
def possessed (s : State) (line : Nat) : Bool := s.home.windows.any (·.line = line)
def possessedBy (s : State) (line a : Nat) : Bool := s.home.windows.any fun w => w.line = line && w.agent = a

/-- A transaction of the line is active. -/
def lineActive (s : State) (line : Nat) : Bool := s.home.txns.any fun (_, t) => t.line = line && t.active

/-- An earlier transaction of `id`'s line is open, or a home-started one waits for an entry (R146). -/
def lineBlocked (s : State) (id line : Nat) : Bool :=
  ((s.home.order.takeWhile (· ≠ id)).any fun j => ((txnOf s j).map (·.line)) = some line) ||
    s.home.victimTodo.any (·.line = line) || s.home.poisonTodo.any (·.2 = line)

/-- The victim of a full set: its least recently used unblocked way (R156). A true least-recently-used order stands for the
set's pseudo-LRU (log entry 22). -/
def victimOf (s : State) (set : Nat) : Option FilterEntry :=
  ((waysIn s set).filter fun e => !lineActive s e.line && !possessed s e.line).foldl
    (fun b e => match b with
      | none => some e
      | some x => if e.used < x.used then some e else some x) none

/-- A way for a new entry of `line`, its victim moved to a back-invalidation; none where every way is blocked. -/
def takeWay (s : State) (line : Nat) : Option State :=
  if (findEntryOf s line).isSome || (waysIn s (lineSet line)).length < 16 then some s
  else match victimOf s (lineSet line) with
    | none => none
    | some v =>
      let s := obsEvent (bumpWrap (delEntry s v.line) R.HOM_BACKINVALS 0 1 64) unitHome 21 1
      some (modHome s fun h => { h with victimTodo := h.victimTodo ++ [v] })

/-- Logical place of a line under the active table, whatever function owns it. -/
def linePlace (s : State) (line : Nat) : Option Loc :=
  match findRegion s (line * 64) with
  | none => none
  | some r => mapDecode s (line * 64) (regionAt s false r).fn

/-- Transaction entries: 7,936 serve requests, 256 the home itself (R145). -/
def requestEntries : Nat := 7936
def reservedEntries : Nat := 256

def freeIndex (s : State) (lo n : Nat) : Option Nat := (nums lo n).find? fun i => (txnOf s i).isNone

/-- A transaction opens in entry `id`; its generation advances with each use (R145). -/
def openTxn (s : State) (id : Nat) (t : Txn) (order : List Nat) : State :=
  let g := tget s.home.gens id 0
  let s := modHome s fun h => { h with
    txns := tset h.txns id { t with gen := g }, waits := settleWaits (h.waits.filter fun (k, _) => k / 16384 ≠ id) s.now id t, gens := tput h.gens id ((g + 1) % 8) 0, order := order }
  wr s R.HOM_OPEN_MAX (max (rd s R.HOM_OPEN_MAX) s.home.txns.length)

/-- Place fields of a transaction. -/
def atPlace (t : Txn) (l : Option Loc) : Txn :=
  match l with
  | none => t
  | some l => { t with placed := true, pc := l.pc, key := locKey l.sid l.bank l.row l.col }

/-- Acceptance order with a poisoning or a victim's back-invalidation put ahead of transactions of its line that are not
active: they find the line as already walked (R163 step 3), and blocked until the victim's holders have answered (R156). -/
def orderBefore (s : State) (line id : Nat) : List Nat :=
  let waiting := fun j => match txnOf s j with
    | some t => t.line = line && !t.active
    | none => false
  match s.home.order.findIdx? waiting with
  | some k => s.home.order.take k ++ id :: s.home.order.drop k
  | none => s.home.order ++ [id]

/-- One home-started transaction opens in a reserved entry: victims first, then poisonings, then the commit walk. -/
def openReserved (s : State) (id : Nat) : State :=
  match s.home.victimTodo, s.home.poisonTodo, s.home.walkTodo with
  | v :: vs, _, _ =>
    openTxn (modHome s fun h => { h with victimTodo := vs }) id
      (atPlace { gen := 0, line := v.line, origin := .victim, entry := some v } (linePlace s v.line)) (orderBefore s v.line id)
  | [], (c, l) :: ps, _ =>
    openTxn (modHome s fun h => { h with poisonTodo := ps }) id
      (atPlace { gen := 0, line := l, origin := .fall c } (linePlace s l)) (orderBefore s l id)
  | [], [], l :: ls =>
    match findEntryOf s l with
    | none => modHome s fun h => { h with walkTodo := ls }
    | some _ =>
      openTxn (modHome s fun h => { h with walkTodo := ls }) id
        (atPlace { gen := 0, line := l, origin := .commitWalk } (linePlace s l)) (s.home.order ++ [id])
  | [], [], [] => s

/-- The agent-leave walk: one transaction in a reserved entry, of no line, while any agent is leaving (R145, R165). -/
def settleLeave (s : State) : State :=
  let leaving := s.agents.any fun (_, x) => x.leaving
  match (s.home.txns.find? fun (_, t) => t.origin = .leave).map (·.1), leaving with
  | none, true =>
    match freeIndex s requestEntries reservedEntries with
    | some id => openTxn s id { gen := 0, line := 2 ^ 46, origin := .leave, active := true } s.home.order
    | none => s
  | some id, false => modHome s fun h => { h with txns := tdel h.txns id }
  | _, _ => s

/-- Home-started transactions of lines open while reserved entries are free; `fuel` bounds them. -/
def fillLines (s : State) : Nat → State
  | 0 => s
  | n + 1 =>
    if s.home.victimTodo.isEmpty && s.home.poisonTodo.isEmpty && s.home.walkTodo.isEmpty then s else
      match freeIndex s requestEntries reservedEntries with
      | none => s
      | some id => fillLines (openReserved s id) n

/-- Home-started transactions open while reserved entries are free. -/
def fillReserved (s : State) (fuel : Nat) : State := fillLines (settleLeave s) fuel

/-- SNOOP_ID of a transaction (R145). -/
def snoopId (id : Nat) (t : Txn) : Nat := t.gen * 8192 + id

/-- The open transaction that a SNOOP_ID or an engine entry names. -/
def txnNamed (s : State) (sid : Nat) : Option (Nat × Txn) :=
  match txnOf s (sid % 8192) with
  | some t => if snoopId (sid % 8192) t = sid then some (sid % 8192, t) else none
  | none => none

/-- Atomics buffer (R159). -/
def atomLine (s : State) (line : Nat) : Option AtomLine := s.home.atomics.find? (·.line = line)
def dropAtom (s : State) (line : Nat) : State :=
  modHome s fun h => { h with atomics := h.atomics.filter (·.line ≠ line) }
def putAtom (s : State) (line : Nat) (data : Line) (busy : Bool) : State :=
  modHome s fun h => { h with
    atomics := h.atomics.filter (·.line ≠ line) ++ [⟨line, data, busy, h.useNo + 1⟩], useNo := h.useNo + 1 }

/-- A buffer line for an ATOM: the line's own, a free one, or the least recently used with no ATOM in progress; none where
all 64 are busy (R159, R160). -/
def takeAtom (s : State) (line : Nat) : Option State :=
  if (atomLine s line).isSome || s.home.atomics.length < 64 then some s
  else
    match (s.home.atomics.filter (!·.busy)).foldl
        (fun b e => match b with
          | none => some e
          | some x => if e.used < x.used then some e else some x) (none : Option AtomLine) with
    | none => none
    | some v => some (dropAtom s v.line)

/-- Operation of Table LNK-6 on a `bits`-bit operand. -/
def atomResult (aop bits old v c : Nat) : Nat :=
  let m := 2 ^ bits
  let sgn := toSigned bits
  match aop with
  | 0 => (old + v) % m
  | 1 => v
  | 2 => if old = c then v else old
  | 3 => old &&& v
  | 4 => old ||| v
  | 5 => old ^^^ v
  | 6 => if sgn old < sgn v then v else old
  | 7 => if sgn v < sgn old then v else old
  | 8 => max old v
  | _ => min old v

/-- The line after an atomic (R159). -/
def atomApply (x : AtomSpec) (l : Line) : Line :=
  let bits := if x.size8 then 64 else 32
  let old := field l.toNat (8 * x.offset) bits
  BitVec.ofNat 512 (putField l.toNat (8 * x.offset) bits
    (atomResult x.aop bits old (x.operand.toNat % 2 ^ bits) (x.compare.toNat % 2 ^ bits)))

/-- Bytes of `new` whose mask bit is set, over `old`. -/
def mergeBytes (mask : BitVec 64) (new old : Line) : Line :=
  let z := (((lineBytes new).zip (lineBytes old)).zip (nums 0 64)).map fun ((n, o), i) =>
    if bitOf mask.toNat i then n else o
  lineOfBytes z

end Sys2Proof.Machine
end

