-- ==== Sys2Proof/Machine/Home.lean ====
section
/-!
DEFINITION. The course of a home transaction: snoops, memory access, filter update, response and close (06 R146 to R160).
-/
namespace Sys2Proof.Machine

def snpInv : Nat := 1
def snpShare : Nat := 2
def snpBackInv : Nat := 3
def hintPush : Nat := 4

/-- A snoop leaves for its agent's port (03 Table LNK-9). -/
def sendSnoop (s : State) (id : Nat) (t : Txn) (sn : Snoop) : State :=
  match agentOf s sn.agent with
  | none => s
  | some a =>
    sendMsg (obsEvent s unitHome 18 1) a.port ⟨some 2, snpSlot sn.op sn.agent (snoopId id t) t.line, []⟩

/-- Snoops that no possession window holds back leave (R152). -/
def pumpSnoops (s : State) (id : Nat) : State :=
  match txnOf s id with
  | none => s
  | some t =>
    let go := t.snoops.filter fun n => !n.sent && !possessedBy s t.line n.agent
    let t' := { t with snoops := t.snoops.map fun n => { n with sent := n.sent || !possessedBy s t.line n.agent } }
    forEach go (setTxn s id t') fun s n => sendSnoop s id t n

/-- The request a transaction serves. -/
def Origin.uid? : Origin → Option Nat
  | .request uid => some uid
  | _ => none

/-- The transaction waits for answers of `agents` to snoop `op`. -/
def beginSnoops (s : State) (id : Nat) (agents : List Nat) (op : Nat) : State :=
  let s := modTxn s id fun t => { t with
    snooped := true
    snoops := t.snoops ++ agents.map fun a => ⟨a, op, false, t.exclHolder = some a⟩ }
  let s := match agents, (txnOf s id).bind (fun t => t.origin.uid?) with
    | _ :: _, some uid => modFlight s uid fun f => { f with snooped := true }
    | _, _ => s
  pumpSnoops s id

/-- The request of a transaction. -/
def reqOf (s : State) (t : Txn) : Option (Nat × Flight) :=
  match t.origin with
  | .request uid => (flightOf s uid).map fun f => (uid, f)
  | _ => none

/-- The response of the transaction's request is decided, once; DATA and CMP of a read or UPGRADE are acknowledged by a
CMP_ACK, which a request of a reset port owes no more (R74, 14 R389). -/
def reply (s : State) (id : Nat) (r : Rsp) (outcome : Nat) (granted : Bool) : State :=
  match txnOf s id with
  | none => s
  | some t =>
    if t.responded then s else
      match reqOf s t with
      | none => setTxn s id { t with responded := true }
      | some (uid, f) =>
        let owes := f.op.owesAck && r.opcode ≠ 3
        let s := setTxn s id { t with responded := true, waitAck := owes && !f.dropRsp, granted := granted && !f.dropRsp }
        decide' s uid { r with ackReq := owes } outcome

/-- The request's room returns: its line needs no more of the engine's queues (05 R117). -/
def freeTxnRoom (s : State) (id : Nat) : State :=
  match (txnOf s id).bind (reqOf s) with
  | some (uid, _) => freeRoom s uid
  | none => s

/-- The transaction ends for its requester with an ERR; what it still has to collect or to write goes on. -/
def failTxn (s : State) (id code outcome : Nat) : State :=
  let s := freeTxnRoom (reply s id (errRsp code 0) outcome false) id
  modTxn s id fun t => { t with finished := true, mem := if t.mem = 1 then 0 else t.mem }

/-- Queue of a set, in order (R157). -/
def retryQueue (s : State) (set : Nat) : List Nat :=
  s.home.retryQ.filter fun i => (txnOf s i).map (fun t => lineSet t.line) = some set

/-- The transaction joins its set's retry queue (R157). -/
def enqueueRetry (s : State) (id : Nat) : State :=
  match txnOf s id with
  | none => s
  | some t =>
    if t.retry then s else
      let s := setTxn (modHome s fun h => { h with retryQ := h.retryQ ++ [id] }) id { t with retry := true }
      let s := obsEvent (bump s R.HOM_SET_RETRIES) unitHome 22 1
      let n := (retryQueue s (lineSet t.line)).length
      raiseEv (wr s R.HOM_SET_RETRY_MAX (max (rd s R.HOM_SET_RETRY_MAX) n)) 4 6 0 0

/-- `k` runs with a way for the transaction's line, or the transaction waits in the retry queue, whose head goes first
(R156, R157). -/
def withWay (s : State) (id line : Nat) (k : State → State) : State :=
  let first := match retryQueue s (lineSet line) with
    | [] => true
    | j :: _ => j = id
  match (if (findEntryOf s line).isSome then some s else if first then takeWay s line else none) with
  | none => enqueueRetry s id
  | some s =>
    k (modTxn (modHome s fun h => { h with retryQ := h.retryQ.filter (· ≠ id) }) id fun t => { t with retry := false })

/-- The line a read serves, and where it came from. -/
def lineOf (t : Txn) : Line := (t.dirty.orElse fun _ => t.data).getD 0

/-- A dirty line from a cache goes to memory, and completes the writebacks paired with it (R150, R154). -/
def writeDirty (s : State) (id : Nat) : State :=
  modTxn s id fun t =>
    match t.dirty with
    | none => t
    | some d => if !t.placed then t else
        { t with writes := t.writes ++ [⟨d, t.dirtyBad, true, false, none, t.paired⟩], paired := [] }

def finishTxn (s : State) (id : Nat) : State := modTxn s id fun t => { t with finished := true }

/-- A read's data goes to its requester with STATE `st`; dirty data is also written to memory and frees the read room. -/
def sendData (s : State) (id : Nat) (t : Txn) (st : Nat) : State :=
  let s := if t.dirty.isSome then freeTxnRoom (writeDirty s id) id else s
  finishTxn (reply s id (dataRsp st false (lineOf t)) 1 (st = 2)) id

/-- The entry after the EXCL holder's answer to a SNP_SHARE. -/
def settleHolder (s : State) (t : Txn) : State :=
  match t.exclHolder with
  | none => s
  | some h => if t.kept then putEntry s (sharedEntry t.line h) else dropHolder s t.line h

/-- The rows of Table HOM-2 that read: the entry afterwards and the response. -/
def finishRead (s : State) (id : Nat) (t : Txn) (f : Flight) : State :=
  match f.op with
  | .rd => sendData (if t.coh && t.found = .exclusive then settleHolder s t else s) id t 0
  | .rdShared =>
    match t.found, t.kept with
    | .exclusive, true =>
      withWay s id t.line fun s =>
        sendData (putEntry s (shareEntry s (sharedEntry t.line (t.exclHolder.getD 0)) t.agent)) id t 1
    | .shared, _ =>
      withWay s id t.line fun s =>
        let e := (findEntryOf s t.line).getD (sharedEntry t.line t.agent)
        sendData (putEntry s (shareEntry s e t.agent)) id t 1
    | _, _ => withWay s id t.line fun s => sendData (putEntry s (exclEntry t.line t.agent)) id t 2
  | _ => withWay s id t.line fun s => sendData (putEntry s (exclEntry t.line t.agent)) id t 2

/-- The entry after a flow that ends in an ERR: a grant taken is given up, and holders that answered an invalidation are
gone. -/
def failEntry (s : State) (t : Txn) (f : Flight) : State :=
  match f.op with
  | .rd => if t.coh && t.found = .exclusive then settleHolder s t else s
  | .rdShared => if t.found = .exclusive then settleHolder s t else if t.found = .none then delEntry s t.line else s
  | .rdOwn | .atom => delEntry s t.line
  | _ => s

/-- A poisoned line draws POISONED, an uncorrectable one BUS_ERROR (R160, R163, 10 R267); an ATOM gives up its buffer
line. -/
def finishError (s : State) (id : Nat) (t : Txn) (f : Flight) : State :=
  let s := failEntry s t f
  let s := if f.op = .atom then dropAtom s t.line else s
  let s := writeDirty s id
  failTxn s id t.err (if t.err = 5 && t.mem = 3 then 2 else 3)

/-- An ATOM executes: the line before it goes to the requester, the result to the buffer and to memory (R159). A result poisoned
for a lost operand is not kept in the buffer, which is written through (01 R17). -/
def finishAtom (s : State) (id : Nat) (t : Txn) (f : Flight) : State :=
  let old := lineOf t
  let new := atomApply f.atom old
  let s := delEntry s t.line
  let s := if f.poison then dropAtom s t.line else putAtom s t.line new true
  let s := obsEvent (bumpWrap s R.HOM_ATOMICS 0 1 64) unitHome 24 1
  let s := if t.dirty.isSome then freeTxnRoom s id else s
  let s := modTxn s id fun t => { t with
    writes := t.writes ++ [⟨new, f.poison, true, true, none, t.paired⟩], paired := [], finished := true }
  reply s id (dataRsp 0 false old) 0 false

/-- The flow's own line goes to the engine: merged over dirty data for a partial write of an exclusive line, as it is
otherwise (Table HOM-2, R151). -/
def ownWrite (t : Txn) (f : Flight) : HomeWrite :=
  let partial' := f.op = .wrPart && f.mask ≠ BitVec.allOnes 64
  match t.found, t.dirty with
  | .exclusive, some d =>
    if partial' then ⟨mergeBytes f.mask f.data d, f.poison || t.dirtyBad, true, true, none, t.paired⟩
    else ⟨f.data, f.poison, false, true, none, t.paired⟩
  | _, _ => ⟨f.data, f.poison, false, true, if partial' then some f.mask else none, t.paired⟩

/-- The rows that write: the entry is removed, or keeps a hint's target alone, and the line goes to the engine. -/
def finishWrite (s : State) (id : Nat) (t : Txn) (f : Flight) : State :=
  let s :=
    if !t.coh then s
    else match t.hint, findEntryOf s t.line with
      | 1, some _ => putEntry s (sharedEntry t.line f.target)
      | _, _ => delEntry s t.line
  modTxn s id fun u => { u with writes := u.writes ++ [ownWrite t f], paired := [], finished := true }

/-- The flow's end, once every answer and the data it needs are in. -/
def finishFlow (s : State) (id : Nat) (t : Txn) (f : Flight) : State :=
  if t.err ≠ 0 then finishError s id t f else
    match f.op with
    | .rd | .rdShared | .rdOwn => finishRead s id t f
    | .upgrade =>
      withWay s id t.line fun s =>
        finishTxn (writeDirty (reply (putEntry s (exclEntry t.line t.agent)) id (cmpRsp 2 false) 1 true) id) id
    | .atom => finishAtom s id t f
    | _ => finishWrite s id t f

/-- Data is needed of a cache or of memory. -/
def needsLine (op : ReqOp) : Bool := op.isRead

/-- Every answer is in. -/
def answered (t : Txn) : Bool := t.snooped && t.snoops.isEmpty && t.wbWait.isEmpty

/-- A grant of a line without an entry takes its way before memory is read (R156). -/
def wantsWay (t : Txn) (op : ReqOp) : Bool := t.found = .none && !t.taken && (op = .rdShared || op = .rdOwn)

/-- An ATOM takes its buffer line, drops the filter's holders and goes on; it waits where every line is busy (R159, R160). -/
def startAtom (s : State) (id : Nat) (t : Txn) : State :=
  match takeAtom s t.line with
  | none => setTxn s id { t with waitBuf := true }
  | some s =>
    let e := findEntryOf s t.line
    let every := match e with
      | some e => if t.found = .none then [] else entryAgents s e t.agent false
      | none => []
    match atomLine s t.line with
    | some b =>
      let s := putAtom s t.line b.data true
      let s := obsEvent (bumpWrap s R.HOM_ATOMIC_HITS 0 1 64) unitHome 25 1
      freeTxnRoom (setTxn s id { t with waitBuf := false, taken := true, snooped := true, data := some b.data, mem := 3 }) id
    | none =>
      beginSnoops (setTxn (putAtom s t.line 0 true) id { t with waitBuf := false, taken := true }) id every snpInv

/-- One advance of an active request. -/
def advanceReq (s : State) (id : Nat) (t : Txn) (f : Flight) : State :=
  if t.finished then s
  else if wantsWay t f.op then
    withWay s id t.line fun s =>
      modTxn (putEntry s (exclEntry t.line t.agent)) id fun t => { t with taken := true, snooped := true, mem := 1 }
  else if f.op = .atom && !t.taken then startAtom s id t
  else if !answered t then s
  else if t.err = 0 && needsLine f.op && t.dirty.isNone && t.data.isNone then
    if t.mem = 0 then setTxn s id { t with mem := 1 } else s
  else finishFlow s id t f

/-- A home-started transaction: its snoops answered, dirty data goes to memory, and an entry that the commit walk
back-invalidated is removed (R156, 04 R98). -/
def advanceOwn (s : State) (id : Nat) (t : Txn) : State :=
  if t.finished || !answered t then s
  else finishTxn (writeDirty (if t.origin = .commitWalk && t.entry.isSome then delEntry s t.line else s) id) id

/-- A hint accepted: the target becomes the EXCL holder, and the line is released (R158). -/
def advanceHint (s : State) (id : Nat) (t : Txn) (f : Flight) : State :=
  if t.hint = 3 then
    withWay s id t.line fun s =>
      modTxn (putEntry s (exclEntry t.line f.target)) id fun t => { t with hint := 4 }
  else s

/-- The transaction may close: nothing is awaited and nothing is left to write (Table HOM-2, R150). A push whose line was
never placed is over. -/
def closable (t : Txn) : Bool :=
  t.active && t.finished && !t.waitAck && t.snoops.isEmpty && t.wbWait.isEmpty && t.writes.isEmpty && t.lost.isEmpty &&
    t.hint ≠ 2 && t.hint ≠ 3 &&
    (match t.origin with
     | .request _ => t.responded
     | _ => true)

/-- The entry is freed and its line released; the request's record ends with its response. -/
def closeTxn (s : State) (id : Nat) (t : Txn) : State :=
  let s := freeTxnRoom s id
  let req := reqOf s t
  let s := modHome s fun h => { h with
    txns := tdel h.txns id, order := h.order.filter (· ≠ id), retryQ := h.retryQ.filter (· ≠ id)
    atomics := h.atomics.map fun a => if a.line = t.line then { a with busy := false } else a }
  match req with
  | some (uid, f) => if f.stage = .done then dropFlight s uid else s
  | none => s

/-- One transaction moves on as far as it can, and closes where it may. -/
def advance1 (s : State) (id : Nat) : State :=
  match txnOf s id with
  | none => s
  | some t =>
    if !t.active then s else
      let s := match reqOf s t with
        | some (_, f) =>
          let s := advanceReq s id t f
          match txnOf s id with
          | some t => if t.finished then advanceHint s id t f else advanceReq s id t f
          | none => s
        | none => advanceOwn s id t
      match txnOf s id with
      | some t => if closable t then closeTxn s id t else s
      | none => s

/-- Transactions that wait for a way or a buffer line, oldest first, are tried (R157, R160). -/
def serveWaiting (s : State) : State :=
  let waiting := s.home.retryQ ++ (s.home.order.filter fun i => ((txnOf s i).map (·.waitBuf)) = some true)
  forEach waiting s advance1

/-- One transaction moves on, then those that it may have let go, and home-started ones that wait for an entry. -/
def advance (s : State) (id : Nat) : State :=
  fillReserved (serveWaiting (serveWaiting (advance1 s id))) 512

/-- A WB_DIRTY is answered without effect (R155, R163). -/
def refuseWb (s : State) (uid : Nat) : State := decide' (freeRoom s uid) uid (errRsp 6 0) 2

/-- A line is to be poisoned for the fall of cell `c`; the first raises EV.04.05 (R163). -/
def poisonLine (s : State) (c line : Nat) : State :=
  let s := bumpi (modHome s fun h => { h with poisonTodo := h.poisonTodo ++ [(c, line)] }) R.HOM_CELL_POISONED c
  if bitOf s.home.poisonedCells c then s
  else raiseEv (modHome s fun h => { h with poisonedCells := putBit h.poisonedCells c true }) 4 5 0 (ident 8 c)

/-- The agent's answer is given up: the snoop of an EXCL holder leaves its line poisoned and its originator POISONED; any
other counts as RSP_INV_CLEAN, and a hint as declined (R163). -/
def fallenAnswer (s : State) (id a : Nat) : State :=
  match txnOf s id with
  | none => s
  | some t =>
    let mine := t.snoops.any (·.agent = a) || t.wbWait.contains a
    let lost := mine && t.exclHolder = some a
    let s := forEach (t.wbHeld.filter (·.1 = a)) s fun s (_, w) => refuseWb s w
    let target := ((reqOf s t).map fun (_, f) => f.target) = some a
    let declined := t.hint = 2 && target
    let s := if declined then bump (dropHolder s t.line a) R.HOM_HINTS_DECLINED else s
    let s := if lost then poisonLine (delEntry s t.line) (cellOf s a) t.line else s
    modTxn s id fun t => { t with
      snoops := t.snoops.filter (·.agent ≠ a), wbWait := t.wbWait.filter (· ≠ a), wbHeld := t.wbHeld.filter (·.1 ≠ a)
      err := if lost then 5 else t.err, hint := if declined then 4 else t.hint }

end Sys2Proof.Machine
end

