-- ==== Sys2Proof/Machine/Cells.lean ====
section
/-!
DEFINITION. Coherence cells: fall, restart, agents that join and leave, and the timeouts that fell a cell (06 R139 to R144,
R161 to R165; 03 R81, R82).
-/
namespace Sys2Proof.Machine

/-- Agent `a` is joined and belongs to cell `c`. -/
def inCell (s : State) (c a : Nat) : Bool := ((agentOf s a).map (·.cell)) = some c

/-- Step 2 of R163 for a transaction whose requester belongs to the cell: with its response not sent it draws CELL_DOWN, and a
line of its own not yet on its way is not written; in either case it waits for no CMP_ACK. Snoops that have left are still collected, since dirty data
they return must reach memory (R150). -/
def endRequester (s : State) (id : Nat) (t : Txn) : State :=
  if t.responded then
    let s := setTxn s id { t with waitAck := false }
    match reqOf s t with
    | some (uid, f) => if f.stage = .ready && (f.rsp.map (·.opcode)) ≠ some 3 then replaceRsp s uid 6 else s
    | none => s
  else
    let s := match reqOf s t with
      | some (_, f) =>
        let s := if f.op = .atom && t.taken then dropAtom s t.line else s
        if t.finished then s
        else if answered t || t.found = .none then failEntry s t f else s
      | none => s
    let s := if t.finished then s else writeDirty s id
    let s := failTxn s id 6 2
    modTxn s id fun t =>
      let own := t.writes.filter (·.main)
      let kept := match own, t.dirty with
        | w :: _, some d => [⟨d, t.dirtyBad, true, false, none, w.wb⟩]
        | _, _ => []
      { t with writes := t.writes.filter (!·.main) ++ kept, retry := false, waitBuf := false }

/-- The entry of a capacity victim that is still to be back-invalidated: what the cell held EXCL is poisoned (R163 step 3). -/
def fallVictim (s : State) (c id : Nat) (t : Txn) : State :=
  match t.entry with
  | some e =>
    if e.excl && e.holders.any (inCell s c) then
      poisonLine (setTxn s id { t with entry := some { e with holders := [] } }) c t.line
    else s
  | none => s

/-- The same for victims without an entry of their own yet. -/
def fallVictims (s : State) (c : Nat) : State :=
  let (gone, kept) := s.home.victimTodo.partition fun e => e.excl && e.holders.any (inCell s c)
  forEach gone (modHome s fun h => { h with victimTodo := kept }) fun s e => poisonLine s c e.line

/-- Step 2 of R163 for one transaction. -/
def fallTxn (s : State) (c id : Nat) : State :=
  match txnOf s id with
  | none => s
  | some t =>
    if !t.active then fallVictim s c id t else
      let s := if t.coh && inCell s c t.agent then endRequester s id t else s
      let target := match reqOf s t with
        | some (_, f) => if t.hint = 2 then [f.target] else []
        | none => []
      let asked := (t.snoops.map (·.agent) ++ t.wbWait ++ target).filter (inCell s c)
      advance1 (forEach asked s fun s a => fallenAnswer s id a) id

/-- Step 3 of R163 for one entry. -/
def fallEntry (s : State) (c : Nat) (e : FilterEntry) : State :=
  if e.coarse then
    let m := putBit e.cells c false
    if m = 0 then delEntry s e.line
    else modHome s fun h => { h with filter := tset h.filter e.line { e with cells := m } }
  else if e.excl then
    if e.holders.any (inCell s c) then poisonLine (delEntry s e.line) c e.line else s
  else
    let hs := e.holders.filter fun a => !inCell s c a
    if hs.isEmpty then delEntry s e.line
    else modHome s fun h => { h with filter := tset h.filter e.line { e with holders := hs } }

/-- The fall of an UP cell: its agents are fallen, their windows end, transactions and filter are settled (R153, R162 to
R164, Table HOM-4). The walk's removals take effect on the fall beat, as R163 has every request see them. -/
def beginFall (s : State) (c cause agent : Nat) : State :=
  let s := wri (wri (wri (bumpi s R.HOM_CELL_FALLS c) R.HOM_CELL_FALL_CAUSE c cause) R.HOM_CELL_FALL_AGENT c agent)
    R.HOM_CELL_STATE c 1
  let s := { s with agents := s.agents.map fun (a, x) => (a, { x with fallen := x.fallen || x.cell = c }) }
  let s := raiseEv s 4 0 0 (ident 8 c)
  let s := modHome s fun h => { h with
    windows := h.windows.filter fun w => !inCell s c w.agent, poisonedCells := putBit h.poisonedCells c false }
  let s := forEach s.home.order (fallVictims s c) fun s id => fallTxn s c id
  let s := forEach (s.home.filter.map (·.2)) s fun s e => fallEntry s c e
  fillReserved (serveWaiting s) 512

/-- A fall cause of cell `c` (Table HOM-4): a falling cell counts it, a DOWN cell ignores it. -/
def fallCell (s : State) (c cause agent : Nat) : State :=
  match rdi s R.HOM_CELL_STATE c with
  | 0 => beginFall s c cause agent
  | 1 => bumpi s R.HOM_CELL_FALLS c
  | _ => s

/-- An agent's cell falls, and an answer that the fall did not settle, of an agent whose cell fell before, is given up. -/
def fellAgent (s : State) (id a cause : Nat) : State :=
  let s := match agentOf s a with
    | some x => fallCell s x.cell cause a
    | none => s
  advance (fallenAnswer s id a) id

/-- Agent protocol error of an answering agent (R149). -/
def protocolError (s : State) (id a : Nat) : State := raiseEv (fellAgent s id a 3) 4 4 0 (ident 8 (cellOf s a))

/-- SNOOP_TIMEOUT: a snoop or hint that left has no answer in time (R161). -/
def doSnoopTimeout (txn agent : Nat) (s : State) : State :=
  match txnOf s txn with
  | none => s
  | some t =>
    let target := ((reqOf s t).map fun (_, f) => f.target) = some agent
    let limit := rd s R.HOM_SNOOP_TIMEOUT
    if (t.snoops.any (fun n => n.agent = agent && n.sent) && waitOver s txn (waitSnoop agent) limit) ||
        (t.hint = 2 && target && waitOver s txn waitHint limit) then
      raiseEv (fellAgent s txn agent 1) 4 2 0 (ident 8 (cellOf s agent))
    else s

def execSnoopTimeout (txn agent : Nat) (s : State) : Host.Outcome State Fault Refusal := .next (doSnoopTimeout txn agent s)

/-- WB_PAIRING_TIMEOUT: one half of a pair has not arrived in time (R154). -/
def doWbPairingTimeout (txn agent : Nat) (s : State) : State :=
  match txnOf s txn with
  | none => s
  | some t =>
    if (t.wbWait.contains agent || t.wbHeld.any (·.1 = agent)) && waitOver s txn (waitPair agent) (rd s R.HOM_SNOOP_TIMEOUT) then
      raiseEv (fellAgent s txn agent 1) 4 2 0 (ident 8 (cellOf s agent))
    else s

def execWbPairingTimeout (txn agent : Nat) (s : State) : Host.Outcome State Fault Refusal :=
  .next (doWbPairingTimeout txn agent s)

/-- ACK_TIMEOUT: the wait for a CMP_ACK ends; in a coherent function the requester's cell falls (R161). -/
def doAckTimeout (txn : Nat) (s : State) : State :=
  match txnOf s txn with
  | none => s
  | some t =>
    match t.waitAck && waitOver s txn waitCmpAck (rd s R.HOM_ACK_TIMEOUT), reqOf s t with
    | true, some (_, f) =>
      let s := raiseEv (bump (setTxn s txn { t with waitAck := false }) R.HOM_ACK_TIMEOUTS) 4 3 0 (ident 3 f.h.fn)
      let s := advance s txn
      if t.coh && (agentOf s t.agent).isSome then fallCell s (cellOf s t.agent) 2 t.agent else s
    | _, _ => s

def execAckTimeout (txn : Nat) (s : State) : Host.Outcome State Fault Refusal := .next (doAckTimeout txn s)

/-- The engine has not answered: the requester receives BUS_ERROR, and the line of a read is poisoned through a home-write
slot (R161). A write still to be accepted stays queued; what lost writes would have answered draws BUS_ERROR (01 R17). -/
def engineTimeout (s : State) (txn : Nat) : State :=
  match txnOf s txn with
  | none => s
  | some t =>
    let reading := t.mem = 1 || t.mem = 2
    if !t.active || !(reading || !t.writes.isEmpty || !t.lost.isEmpty) || !waitOver s txn waitEngine (rd s R.HOM_RESPONSE_TIMEOUT) then s
    else
      let s := raiseEv s 4 10 0 (ident 4 (t.pc / 2))
      let s := if t.lost.isEmpty then s else
        modTxn (forEach (t.lost.flatMap (·.wb)) s fun s u => decide' s u (errRsp 4 0) 2) txn fun t => { t with lost := [] }
      if reading && !t.responded then
        let s := match reqOf s t with
          | some (_, f) =>
            failEntry (if f.op = .atom then dropAtom s t.line else s) t f
          | none => s
        let s := modTxn s txn fun t => { t with mem := 0 }
        let s := failTxn s txn 4 3
        advance (modTxn s txn fun t => { t with writes := t.writes ++ [⟨0, true, true, false, none, []⟩] }) txn
      else if !t.responded && (t.writes.any (·.main) || t.lost.any (·.main)) then advance (failTxn s txn 4 3) txn
      else if t.lost.isEmpty then s else advance s txn

/-- RESPONSE_TIMEOUT, of home transaction `n` or of request `n` that a crossing lost. -/
def doResponseTimeout (lost : Bool) (n : Nat) (s : State) : State := if lost then answerLost s n else engineTimeout s n

def execResponseTimeout (lost : Bool) (n : Nat) (s : State) : Host.Outcome State Fault Refusal := .next (doResponseTimeout lost n s)

/-- A window ends and the snoops it held go (R152). -/
def endWindow (s : State) (line agent : Nat) : State :=
  let s := modHome s fun h => { h with windows := h.windows.filter fun w => !(w.line = line && w.agent = agent) }
  let waiting := (s.home.txns.filter fun (_, t) => t.line = line && t.active).map (·.1)
  fillReserved (serveWaiting (forEach waiting s pumpSnoops)) 512

/-- The window of `agent` for `line` has lasted HOM_POSSESSION_WINDOW of its cell, in ns (R152). -/
def windowOver (s : State) (line agent : Nat) : Bool :=
  s.home.windows.any fun w => w.line = line && w.agent = agent &&
    decide (w.from_ + rdi s R.HOM_POSSESSION_WINDOW (cellOf s agent) ≤ s.now)

/-- POSSESSION_WINDOW_END. -/
def doPossessionWindowEnd (line agent : Nat) (s : State) : State := if windowOver s line agent then endWindow s line agent else s

def execPossessionWindowEnd (line agent : Nat) (s : State) : Host.Outcome State Fault Refusal :=
  .next (doPossessionWindowEnd line agent s)

/-- A window opens; the oldest of a full table ends at once (R153). -/
def openWindow (s : State) (line agent : Nat) : State :=
  let s := modHome s fun h => { h with windows := h.windows.filter (·.line ≠ line) }
  let s := match s.home.windows with
    | w :: _ => if s.home.windows.length < 2048 then s
        else raiseEv (bump (endWindow s w.line w.agent) R.HOM_POSSESSION_OVERFLOWS) 4 7 0 0
    | [] => s
  modHome s fun h => { h with windows := h.windows ++ [⟨line, agent, s.now⟩] }

/-- Revision a cell runs at (13 R370). -/
def cellRevision (s : State) (c : Nat) : Nat := rdi s R.HOM_CELL_REVISION c

/-- The transaction whose CMP_ACK the port's TAG is. -/
def ackOwed (s : State) (port tag : Nat) : Option (Nat × Txn) :=
  s.home.txns.find? fun (_, t) => t.waitAck &&
    (match reqOf s t with
     | some (_, f) => f.h.port = port && f.h.tag = tag && f.stage = .done
     | none => false)

/-- One TAG of a CMP_ACK closes its transaction, and opens a possession window after a grant of STATE 2 (R76, R152). -/
def ackTag (s : State) (port tag : Nat) : State :=
  match ackOwed s port tag with
  | none => bumpi s R.LNK_DISCARDS port
  | some (id, t) =>
    let c := cellOf s t.agent
    let caching := ((agentOf s t.agent).map (·.caching)).getD false
    let window := t.granted && caching && t.rev = 3 && cellRevision s c = 3 && rdi s R.HOM_POSSESSION_WINDOW c ≠ 0
    let s := setTxn s id { t with waitAck := false }
    advance (if window then openWindow s t.line t.agent else s) id

/-- CMP_ACK. Messages other than those of Table LNK-14 are discarded before NEG_SELECT (R83). -/
def doCmpAck (port count : Nat) (tags : List Nat) (s : State) : State :=
  if nPorts s ≤ port then s
  else if portState s port = portNegotiating then bumpi s R.LNK_DISCARDS port
  else if portState s port ≠ portUp then s
  else
    let s := ungate (takeSrs s port false) unitHome
    if count = 0 || 7 < count then bumpi s R.LNK_DISCARDS port
    else forEach (tags.take count) s fun s tag => ackTag s port tag

def execCmpAck (port count : Nat) (tags : List Nat) (s : State) : Host.Outcome State Fault Refusal :=
  .next (doCmpAck port count tags s)

/-- CELL_FALL_COMPLETE: the walk has ended and every poison write is accepted (R163 step 4); agents of a reset port are
removed (14 R389). `ecc` is what the walk's reads of the sets found, at the entry of `line` (R144). -/
def cellFallen (cell : Nat) (s : State) : State :=
  let busy := s.home.poisonTodo.any (·.1 = cell) || s.home.txns.any fun (_, t) => t.origin = .fall cell
  if rdi s R.HOM_CELL_STATE cell = 1 && !busy then
    wri { s with agents := s.agents.filter fun (_, x) => !(x.cell = cell && x.doomed) } R.HOM_CELL_STATE cell 2
  else s

/-- A cell command: 1 takes the cell down, 2 restarts it (Table HOM-4). -/
def actCellCmd (c : Nat) (_ v : Nat) (s : State) : Nat × State :=
  if v = 1 then (0, fallCell s c 4 0xFFFF)
  else match rdi s R.HOM_CELL_STATE c with
    | 0 => (3, s)
    | 1 => (5, s)
    | _ => (0, raiseEv (wri s R.HOM_CELL_STATE c 0) 4 1 0 (ident 8 c))

/-- HOM_CELL_TAKE_DOWN: command 1 of HOM_CELL_CMD. -/
def doHomCellTakeDown (a : Access) (cell : Nat) (s : State) : State :=
  accessWrite a (0x4100 + cell) 1 (actCellCmd cell) s

def execHomCellTakeDown (a : Access) (cell : Nat) (s : State) : Host.Outcome State Fault Refusal :=
  .next (doHomCellTakeDown a cell s)

/-- HOM_CELL_RESTART: command 2 of HOM_CELL_CMD. -/
def doHomCellRestart (a : Access) (cell : Nat) (s : State) : State := accessWrite a (0x4100 + cell) 1 (actCellCmd cell) s

def execHomCellRestart (a : Access) (cell : Nat) (s : State) : Host.Outcome State Fault Refusal :=
  .next (doHomCellRestart a cell s)

/-- HOM_FUN_COHERENT: refused while a caching agent of a changed function is joined (R140). -/
def actFunCoherent (_ v : Nat) (s : State) : Nat × State :=
  let changed := rd s R.HOM_FUN_COHERENT ^^^ v
  if s.agents.any fun (_, x) => x.caching && bitOf changed x.fn then (5, s) else (0, wr s R.HOM_FUN_COHERENT v)

def doHomFunCoherent (a : Access) (s : State) : State := accessWrite a 0x4000 0 actFunCoherent s

def execHomFunCoherent (a : Access) (s : State) : Host.Outcome State Fault Refusal := .next (doHomFunCoherent a s)

/-- What reading a filter entry of `line` found: a corrected entry is counted; an uncorrectable one is invalidated and
takes every UP cell down (R144). A fall precedes the events of class 6 (11 R316, 14 R379). -/
def readFilter (s : State) (line : Nat) : Ecc → State
  | .ok => s
  | .corrected => raiseEv (bump s R.HOM_FILTER_CORRECTED) 4 8 0 0
  | .uncorrectable =>
    let s := bump (delEntry s line) R.HOM_FILTER_UNCORRECTABLE
    raiseEv (forEach ((nums 0 16).filter fun c => cellUp s c) s fun s c => fallCell s c 7 0xFFFF) 4 9 0 0

/-- CELL_FALL_COMPLETE: the walk has read every set, and its cell is DOWN where nothing is left to do. -/
def doCellFallComplete (cell : Nat) (ecc : Ecc) (line : Nat) (s : State) : State :=
  if rdi s R.HOM_CELL_STATE cell = 1 then cellFallen cell (readFilter s line ecc) else s

def execCellFallComplete (cell : Nat) (ecc : Ecc) (line : Nat) (s : State) : Host.Outcome State Fault Refusal :=
  .next (doCellFallComplete cell ecc line s)

/-- HOM_FILTER_PROBE_ADDR: the entry's line is read; the results read zero until DONE (12 R427). -/
def actFilterProbe (ecc : Ecc) (_ v : Nat) (s : State) : Nat × State :=
  let line := v / 64 % 2 ^ 46
  let s := wr (wr s R.HOM_FILTER_PROBE_STATE 0) R.HOM_FILTER_PROBE_HOLDERS 0
  (0, readFilter (modHome s fun h => { h with probe := some line }) line ecc)

def doHomFilterProbeAddr (a : Access) (ecc : Ecc) (s : State) : State := accessWrite a 0x4010 0 (actFilterProbe ecc) s

def execHomFilterProbeAddr (a : Access) (ecc : Ecc) (s : State) : Host.Outcome State Fault Refusal :=
  .next (doHomFilterProbeAddr a ecc s)

/-- The HOLDERS field of an entry (Table HOM-1). -/
def holdersField (e : FilterEntry) : Nat :=
  if e.coarse then e.cells
  else (e.holders.zip (nums 0 4)).foldl (fun m (a, k) => m + a * 2 ^ (36 - 12 * k)) 0

/-- HOM_FILTER_PROBE_DONE: the result appears whole with DONE set (R167, 12 R427). -/
def doHomFilterProbeDone (s : State) : State :=
  match s.home.probe with
  | none => s
  | some line =>
    let e := findEntryOf s line
    let v := 2 ^ 63 + lineSet line + (if (atomLine s line).isSome then 2 ^ 61 else 0) +
      (if possessed s line then 2 ^ 60 else 0) + (if lineActive s line then 2 ^ 59 else 0) +
      (match e with
       | some e => 2 ^ 62 + 2 ^ 50 + (if e.excl then 2 ^ 49 else 0) +
           (if e.coarse then 2 ^ 48 else (e.holders.length - 1) * 2 ^ 40)
       | none => 0)
    let s := wr (wr s R.HOM_FILTER_PROBE_STATE v) R.HOM_FILTER_PROBE_HOLDERS ((e.map holdersField).getD 0)
    modHome s fun h => { h with probe := none }

def execHomFilterProbeDone (s : State) : Host.Outcome State Fault Refusal := .next (doHomFilterProbeDone s)

/-- A control answer (Table LNK-14). -/
def ctlAnswer (s : State) (port op agent result : Nat) : State :=
  sendMsg s port ⟨none, ctlRspSlot op agent result, []⟩

/-- The result of an AGENT_JOIN (03 R81). Where several apply, the rule states no order: the model takes them as Table LNK-14
numbers them (log entry 26). -/
def joinResult (s : State) (port agent fn cell : Nat) (caching : Bool) : Nat :=
  if (agentOf s agent).isSome then 1
  else if !portBound s port fn then 2
  else if caching && !cellUp s cell then 3
  else if portRev s port = 2 && 1024 ≤ agent then 4
  else 0

/-- Control requests of a port that await an answer (R65). -/
def ctlPending (s : State) (port : Nat) : Nat :=
  (linkOf s port).ctl.length + ((linkOf s port).txq.filter fun m => m.cls.isNone).length +
    (s.agents.filter fun (_, x) => x.leaving && x.port = port).length

/-- An agent joins, or is refused (03 R81). -/
def joinAgent (s : State) (port agent fn cell : Nat) (caching : Bool) : State :=
  let r := joinResult s port agent fn cell caching
  let s := if r = 0 then
      { s with agents := tset s.agents agent { caching := caching, cell := cell, fn := fn, port := port } }
    else s
  ctlAnswer s port 4 agent r

/-- A control request is served, waits while dispatch is held past E4 (11 R300), or is a fifth one and discarded (R65). -/
def ctlArrive (s : State) (port : Nat) (c : CtlReq) (serve : State → State) : State :=
  if portState s port ≠ portNegotiating && portState s port ≠ portUp then s
  else if 4 ≤ ctlPending s port then bumpi s R.LNK_DISCARDS port
  else if replaying s then modLink s port fun l => { l with ctl := l.ctl ++ [c] }
  else serve s

/-- AGENT_JOIN. -/
def doAgentJoin (port agent fn cell : Nat) (caching : Bool) (s : State) : State :=
  if nPorts s ≤ port || 4096 ≤ agent || 16 ≤ fn || 16 ≤ cell then s
  else ctlArrive s port (.join agent fn cell caching) fun s => joinAgent s port agent fn cell caching

def execAgentJoin (port agent fn cell : Nat) (caching : Bool) (s : State) : Host.Outcome State Fault Refusal :=
  .next (doAgentJoin port agent fn cell caching s)

/-- The agent has a request queued or outstanding, or owes a CMP_ACK (03 R82). -/
def agentBusy (s : State) (agent : Nat) : Bool :=
  s.flights.any (fun (_, f) => f.h.agent = agent && f.stage ≠ .done) ||
    s.home.txns.any fun (_, t) => t.waitAck && t.agent = agent

/-- An agent's leave is refused, or its walk begins (03 R82, 06 R165). -/
def leaveAgent (s : State) (port agent : Nat) : State :=
  match agentOf s agent with
  | none => ctlAnswer s port 6 agent 1
  | some x =>
    if x.port ≠ port then ctlAnswer s port 6 agent 1
    else if agentBusy s agent || x.leaving then ctlAnswer s port 6 agent 2
    else fillReserved { s with agents := tset s.agents agent { x with leaving := true } } 512

/-- Control requests that waited are served in order once dispatch resumes (11 R300). -/
def serveCtl (s : State) (port : Nat) : State :=
  let l := (linkOf s port).ctl
  forEach l (modLink s port fun l => { l with ctl := [] }) fun s c =>
    match c with
    | .join agent fn cell caching => joinAgent s port agent fn cell caching
    | .leave agent => leaveAgent s port agent

/-- AGENT_LEAVE (03 R82). -/
def doAgentLeave (port agent : Nat) (s : State) : State :=
  if nPorts s ≤ port then s else ctlArrive s port (.leave agent) fun s => leaveAgent s port agent

def execAgentLeave (port agent : Nat) (s : State) : Host.Outcome State Fault Refusal := .next (doAgentLeave port agent s)

/-- An agent is removed from precise entries without poisoning, and from the block; snoops it has not answered count as
RSP_INV_CLEAN (R165). -/
def removeAgent (s : State) (a : Nat) : State :=
  let s := forEach (s.home.filter.map (·.1)) s fun s l => dropHolder s l a
  let s := modHome s fun h => { h with windows := h.windows.filter (·.agent ≠ a) }
  let s := { s with agents := tdel s.agents a }
  let s := forEach s.home.order s fun s id =>
    match txnOf s id with
    | some t =>
      if t.snoops.any (·.agent = a) || t.wbWait.contains a then
        advance (fallenAnswer (setTxn s id { t with exclHolder := t.exclHolder.filter (· ≠ a) }) id a) id
      else s
    | none => s
  fillReserved (serveWaiting s) 512

/-- The agent's leave has its transaction in a reserved entry, so that its walk runs (R145). -/
def leaveWalks (s : State) : Bool := s.home.txns.any fun (_, t) => t.origin = .leave

/-- AGENT_LEAVE_WALK_DONE: the walk has passed every set since the leave arrived (R165). `ecc` is what its reads found, at the
entry of `line` (R144). -/
def doAgentLeaveWalkDone (agent : Nat) (ecc : Ecc) (line : Nat) (s : State) : State :=
  match agentOf s agent with
  | some x =>
    if x.leaving && leaveWalks s then ctlAnswer (removeAgent (readFilter s line ecc) agent) x.port 6 agent 0 else s
  | none => s

def execAgentLeaveWalkDone (agent : Nat) (ecc : Ecc) (line : Nat) (s : State) : Host.Outcome State Fault Refusal :=
  .next (doAgentLeaveWalkDone agent ecc line s)

end Sys2Proof.Machine
end

