-- ==== Sys2Proof/Machine/HomeCmds.lean ====
section
/-!
DEFINITION. Meanings of the home's commands: taking requests, activation, snoop answers, the map commit's walk, and epoch
switches (06 R140 to R160, 04 R97, R98, 13 R370 to R372).
-/
namespace Sys2Proof.Machine

/-- An active transaction that has asked the agent about the line, or waits for its writeback (R154). -/
def askedOf (s : State) (line agent : Nat) : Option (Nat × Txn) :=
  s.home.txns.find? fun (_, t) =>
    t.active && t.line = line && (t.snoops.any (·.agent = agent) || t.wbWait.contains agent)

/-- Both halves of a pair are in: the writeback is the RSP_DIRTY data of its snoop (R154). -/
def pairWb (s : State) (id w : Nat) (f : Flight) : State :=
  let s := obsEvent (bump (freeRoom s w) R.HOM_WB_CROSSINGS) unitHome 23 1
  let reads := match (txnOf s id).bind (reqOf s) with
    | some (_, g) => g.op.isRead
    | none => false
  let s := modTxn s id fun t => { t with
    dirty := some f.data, dirtyBad := f.poison, paired := t.paired ++ [w]
    err := if f.poison && reads then 5 else t.err }
  match txnOf s id with
  | some t => if t.finished then writeDirty s id else s
  | none => s

/-- A request leaves the crossing for good. -/
def popCrossing (s : State) (uid : Nat) : State :=
  modTree s fun t => { t with crossing := t.crossing.filter (· ≠ uid) }

/-- An ERR from the home to a request without a transaction. -/
def homeRefuse (s : State) (uid code : Nat) : State := decide' (freeRoom s uid) uid (errRsp code 0) 2

/-- A misroute: the ERR is ready, and tag and read-return slot are released at once (04 R91). -/
def misroute (s : State) (uid fn : Nat) : State :=
  let s := raiseFirst (bumpi s R.MAP_MISROUTES fn) 2 3 0 (ident 3 fn)
  freeTag (homeRefuse (modFlight (obsEvent s unitHome 17 1) uid fun f => { f with misrouted := true }) uid 3) uid

/-- A WB_DIRTY that meets a snoop of its agent is taken into the transaction (R154). -/
def takeWb (s : State) (uid : Nat) (f : Flight) (id : Nat) (t : Txn) : State :=
  let s := modFlight s uid fun f => { f with stage := .home }
  if t.wbWait.contains f.h.agent then
    advance (pairWb (setTxn s id { t with wbWait := t.wbWait.filter (· ≠ f.h.agent) }) id uid f) id
  else setTxn s id { t with wbHeld := t.wbHeld ++ [(f.h.agent, uid)] }

/-- Coherent requests of a fallen agent, or of a cell that is not UP, draw CELL_DOWN (R163, R164). -/
def cellDown (s : State) (agent : Nat) : Bool := isFallen s agent || !cellUp s (cellOf s agent)

/-- A request out of the crossing is accepted: refused, or given a transaction (R145, R146). -/
def acceptRequest (s : State) (uid id : Nat) (f : Flight) : State :=
  match mapDecode s (f.h.line * 64) f.h.fn with
  | none => misroute s uid f.h.fn
  | some l =>
    if pcFailed s l.pc then homeRefuse s uid 4
    else if coherent s f.h.fn && cellDown s f.h.agent then homeRefuse s uid 6
    else
      openTxn (modFlight s uid fun f => { f with stage := .home }) id
        (atPlace { gen := 0, line := f.h.line, origin := .request uid, agent := f.h.agent } (some l)) (s.home.order ++ [id])

/-- HOME_ACCEPT: the oldest request of the crossing. While the commit walk runs, one to a range it changes waits (04 R98);
while every request entry is in use, none is taken (R145). -/
def doHomeAccept (par : Parity) (s : State) : State :=
  match s.tree.crossing with
  | [] => s
  | uid :: _ =>
    match flightOf s uid with
    | none => popCrossing s uid
    | some f =>
      match freeIndex s 0 requestEntries with
      | none => s
      | some id =>
        let s := obsEvent (ungate (popCrossing s uid) unitHome) unitHome 16 1
        if par = .badHeader then loseRequest (raiseParity s 4 11 unitHome) uid
        else
          let bad := par = .badData && f.op.hasData
          let s := if bad then modFlight (raiseParity s 4 11 unitHome) uid fun f => { f with poison := true } else s
          let f := { f with poison := f.poison || bad }
          match (if f.op = .wbDirty && coherent s f.h.fn then askedOf s f.h.line f.h.agent else none) with
          | some (j, t) => takeWb s uid f j t
          | none =>
            if s.home.walking && changedAddress s (f.h.line * 64) then
              modHome (modFlight s uid fun f => { f with stage := .home }) fun h => { h with held := h.held ++ [uid] }
            else acceptRequest s uid id f

def execHomeAccept (par : Parity) (s : State) : Host.Outcome State Fault Refusal := .next (doHomeAccept par s)

/-- Requests the walk held come first again, to be decoded under the table now active (04 R97, R98). -/
def releaseHeld (s : State) : State :=
  let s := modTree s fun t => { t with crossing := s.home.held ++ t.crossing }
  let s := forEach s.home.held s fun s uid => modFlight s uid fun f => { f with stage := .crossing }
  modHome s fun h => { h with held := [], walking := false, walkDone := false, walkLate := false, walkTodo := [] }

/-- A request of a non-coherent function (R140). -/
def startPlain (s : State) (id : Nat) (f : Flight) : State :=
  match f.op with
  | .rd => modTxn s id fun t => { t with snooped := true, mem := 1 }
  | .wrFull | .wrPart =>
    if f.op = .wrPart && f.mask = 0 then finishTxn (freeTxnRoom (reply s id (cmpRsp 0 false) 1 false) id) id
    else modTxn s id fun t => { t with snooped := true }
  | _ => failTxn s id 10 2

/-- The conditions of a hint push (R158; R84 and 13 R370 for revision 2). -/
def mayPush (s : State) (f : Flight) : Bool :=
  match agentOf s f.target with
  | some a => a.caching && !a.fallen && a.fn = f.h.fn && cellUp s a.cell && portRev s a.port = 3 && cellRevision s a.cell = 3
  | none => false

/-- The entry found at a transaction's start, for its requester (Table HOM-2). -/
def foundFor (s : State) (t : Txn) : Found × Option Nat :=
  match findEntryOf s t.line with
  | none => (.none, none)
  | some e =>
    if e.excl && !e.holders.contains t.agent then (.exclusive, e.holders.head?)
    else if (entryAgents s e t.agent true).isEmpty then (.none, none) else (.shared, none)

/-- The requester is listed, or its cell is marked (Table HOM-2, UPGRADE). -/
def listed (s : State) (t : Txn) : Bool :=
  match findEntryOf s t.line with
  | some e => if e.coarse then bitOf e.cells (cellOf s t.agent) else e.holders.contains t.agent
  | none => false

/-- The snoops and first memory access of a coherent request's row (Table HOM-2). -/
def startCoherent (s : State) (id : Nat) (t : Txn) (f : Flight) : State :=
  let others := match findEntryOf s t.line with
    | some e => entryAgents s e t.agent true
    | none => []
  let every := match findEntryOf s t.line with
    | some e => if t.found = .none then [] else entryAgents s e t.agent false
    | none => []
  let reading := fun (s : State) => modTxn s id fun t => { t with mem := 1 }
  match f.op with
  | .rd => if t.found = .exclusive then beginSnoops s id others snpShare else reading (beginSnoops s id [] snpShare)
  | .rdShared =>
    match t.found with
    | .none => s
    | .shared => reading (beginSnoops s id [] snpShare)
    | .exclusive => beginSnoops s id others snpShare
  | .rdOwn =>
    match t.found with
    | .none => s
    | .shared => reading (beginSnoops s id others snpInv)
    | .exclusive => beginSnoops s id others snpInv
  | .upgrade =>
    if listed s t then beginSnoops s id others snpInv
    else finishTxn (reply (bump s R.HOM_UPGRADE_FAILS) id (cmpRsp 0 false) 1 false) id
  | .wrFull => beginSnoops s id every snpInv
  | .wrPart =>
    if f.mask = 0 then finishTxn (freeTxnRoom (reply s id (cmpRsp 0 false) 1 false) id) id
    else beginSnoops s id every snpInv
  | .wbDirty =>
    match findEntryOf s t.line with
    | some e =>
      if e.excl && e.holders.contains t.agent then beginSnoops s id [] snpInv
      else raiseEv (fallCell (failTxn s id 6 2) (cellOf s t.agent) 3 t.agent) 4 4 0 (ident 8 (cellOf s t.agent))
    | none => raiseEv (fallCell (failTxn s id 6 2) (cellOf s t.agent) 3 t.agent) 4 4 0 (ident 8 (cellOf s t.agent))
  | .wrHint =>
    if mayPush s f then
      beginSnoops (modTxn s id fun t => { t with hint := 1 }) id (every.filter (· ≠ f.target)) snpInv
    else beginSnoops (bump s R.HOM_HINTS_DROPPED) id every snpInv
  | .atom => if t.rev = 2 then failTxn s id 10 2 else s
  | .other _ => s

/-- A request becomes active; any but an ATOM drops a buffered copy of its line (R148, R140, R160). -/
def startRequest (s : State) (id : Nat) (f : Flight) (ecc : Ecc) : State :=
  let s := if f.op = .atom then s else dropAtom s f.h.line
  if !coherent s f.h.fn then startPlain s id f
  else
    let s := modTxn s id fun t => { t with coh := true, rev := cellRevision s (cellOf s t.agent) }
    let s := readFilter s f.h.line ecc
    match txnOf s id with
    | none => s
    | some t =>
      if t.responded then s
      else if cellDown s t.agent then failTxn s id 6 2
      else
        let (k, h) := foundFor s t
        let t := { t with found := k, exclHolder := h }
        startCoherent (touchEntry (setTxn s id t) t.line) id t f

/-- A home-started transaction becomes active: back-invalidations of its entry's holders, or the poison write (R156,
R163). The commit walk's entry stays in the filter until its holders have answered (04 R98). -/
def startOwn (s : State) (id : Nat) (t : Txn) : State :=
  let walk := t.origin = .commitWalk
  let t := if walk then { t with entry := findEntryOf s t.line } else t
  match t.entry with
  | some e =>
    let s := setTxn s id { t with exclHolder := if e.excl then e.holders.head? else none }
    beginSnoops s id (entryAgents s e 0xFFFF false) snpBackInv
  | none =>
    let w := if t.placed && !walk then [⟨0, true, true, false, none, []⟩] else []
    setTxn (if walk then s else dropAtom s t.line) id { t with snooped := true, finished := true, writes := w }

/-- TRANSACTION_ACTIVATE: the line is free of earlier transactions (R146). -/
def doTransactionActivate (txn : Nat) (ecc : Ecc) (s : State) : State :=
  match txnOf s txn with
  | none => s
  | some t =>
    if t.active || lineBlocked s txn t.line then s
    else
      let s := setTxn s txn { t with active := true }
      match reqOf s t with
      | some (_, f) => advance (startRequest s txn f ecc) txn
      | none => advance (startOwn s txn { t with active := true }) txn

def execTransactionActivate (txn : Nat) (ecc : Ecc) (s : State) : Host.Outcome State Fault Refusal :=
  .next (doTransactionActivate txn ecc s)

/-- A waiting WB_DIRTY of the agent for the line, ordered behind the transaction that snooped it. -/
def waitingWb (s : State) (line agent : Nat) : Option (Nat × Nat × Flight) :=
  s.home.order.findSome? fun j =>
    match txnOf s j with
    | some t =>
      match reqOf s t with
      | some (w, f) => if !t.active && t.line = line && f.op = .wbDirty && f.h.agent = agent then some (j, w, f) else none
      | none => none
    | none => none

/-- A WB_DIRTY of the agent for the line that the commit walk holds (04 R98). -/
def walkHeldWb (s : State) (line agent : Nat) : Option (Nat × Flight) :=
  s.home.held.findSome? fun w =>
    (flightOf s w).bind fun f => if f.h.line = line && f.op = .wbDirty && f.h.agent = agent then some (w, f) else none

/-- RSP_WB_IN_FLIGHT: the writeback is here, waits behind, is held by the walk, or is still to come (R154). -/
def wbInFlight (s : State) (id : Nat) (t : Txn) (a : Nat) : State :=
  match t.wbHeld.find? (·.1 = a) with
  | some (_, w) =>
    match flightOf s w with
    | some f => pairWb (setTxn s id { t with wbHeld := t.wbHeld.filter (·.1 ≠ a) }) id w f
    | none => s
  | none =>
    match waitingWb s t.line a with
    | some (j, w, f) =>
      let s := modHome s fun h => { h with txns := tdel h.txns j, order := h.order.filter (· ≠ j) }
      pairWb s id w f
    | none =>
      match walkHeldWb s t.line a with
      | some (w, f) => pairWb (modHome s fun h => { h with held := h.held.filter (· ≠ w) }) id w f
      | none => setTxn s id { t with wbWait := t.wbWait ++ [a] }

/-- A holder that the answer leaves without a copy, after the flow ended early or in the commit walk. -/
def lateHolder (s : State) (t : Txn) (a : Nat) (kept : Bool) : State :=
  if (t.finished || t.origin = .commitWalk) && !kept then dropHolder s t.line a else s

/-- RSP_NOT_PRESENT prunes a precise entry (R143). -/
def prune (s : State) (t : Txn) (a : Nat) : State :=
  let s := obsEvent s unitHome 19 1
  match findEntryOf s t.line with
  | some e =>
    if !e.coarse && e.holders.contains a then bumpWrap (dropHolder s t.line a) R.HOM_PRUNES 0 1 64 else s
  | none => s

/-- Answers of Table LNK-10. -/
inductive Answer where
  | notPresent | invClean | shared
  | dirty (d : Line)
  | wbInFlight
  | accept | decline
  deriving DecidableEq, Repr

/-- The answer carries a line. -/
def Answer.hasData : Answer → Bool
  | .dirty _ => true
  | _ => false

/-- The answer is allowed for the snoop (Table HOM-3; an RSP_DIRTY only of the EXCL holder, R149). -/
def allowedAnswer (sn : Snoop) : Answer → Bool
  | .shared => sn.op = snpShare
  | .dirty _ => sn.excl
  | .accept | .decline => false
  | _ => true

/-- An allowed answer takes effect (R149 to R154). -/
def takeAnswer (s : State) (id : Nat) (t : Txn) (sn : Snoop) (x : Answer) : State :=
  let a := sn.agent
  let s := setTxn s id { t with snoops := t.snoops.filter (·.agent ≠ a) }
  let t := { t with snoops := t.snoops.filter (·.agent ≠ a) }
  match x with
  | .notPresent => prune s t a
  | .invClean => lateHolder s t a false
  | .shared => setTxn s id { t with kept := true }
  | .dirty d =>
    let keeps := sn.op = snpShare
    let s := obsEvent (setTxn s id { t with kept := keeps, dirty := some d }) unitHome 20 1
    let s := lateHolder s t a keeps
    if t.finished then writeDirty s id else s
  | .wbInFlight => wbInFlight (lateHolder s t a false) id t a
  | _ => s

/-- A WB_DIRTY taken in for a snoop that was answered otherwise pairs with nothing (R155). -/
def unpairedWb (s : State) (id a : Nat) : State :=
  match txnOf s id with
  | none => s
  | some t =>
    match t.wbHeld.find? (·.1 = a) with
    | none => s
    | some (_, w) =>
      let s := refuseWb (setTxn s id { t with wbHeld := t.wbHeld.filter (·.1 ≠ a) }) w
      protocolError s id a

/-- An answer to a hint push (R158). -/
def answerHint (s : State) (id : Nat) (t : Txn) (f : Flight) : Answer → State
  | .accept => advance (setTxn (bump s R.HOM_HINTS_ACCEPTED) id { t with hint := 3 }) id
  | .decline => advance (setTxn (bump (delEntry s t.line) R.HOM_HINTS_DECLINED) id { t with hint := 4 }) id
  | _ => protocolError s id f.target

/-- A snoop response is applied to its transaction, discarded as stale, or a protocol error (R147, R149). -/
def snoopAnswer (r : SnoopRsp) (x : Answer) (s : State) : State :=
  if nPorts s ≤ r.port then s
  else if portState s r.port = portNegotiating then bumpi s R.LNK_DISCARDS r.port
  else if portState s r.port ≠ portUp then s
  else
    let s := ungate (takeSrs s r.port x.hasData) unitHome
    let stale := bump s R.HOM_STALE_RESPONSES
    if ((agentOf s r.agent).map (·.port)) ≠ some r.port then stale
    else match txnNamed s r.snoopId with
      | none => stale
      | some (id, t) =>
        match t.snoops.find? (fun n => n.agent = r.agent && n.sent) with
        | some sn =>
          if allowedAnswer sn x then
            let s := takeAnswer s id t sn x
            let s := if x = .wbInFlight then s else unpairedWb s id r.agent
            advance s id
          else protocolError s id r.agent
        | none =>
          match reqOf s t with
          | some (_, f) => if t.hint = 2 && f.target = r.agent then answerHint s id t f x else stale
          | none => stale

/-- RSP_NOT_PRESENT. -/
def doRspNotPresent (r : SnoopRsp) (s : State) : State := snoopAnswer r .notPresent s

def execRspNotPresent (r : SnoopRsp) (s : State) : Host.Outcome State Fault Refusal := .next (doRspNotPresent r s)

/-- RSP_INV_CLEAN. -/
def doRspInvClean (r : SnoopRsp) (s : State) : State := snoopAnswer r .invClean s

def execRspInvClean (r : SnoopRsp) (s : State) : Host.Outcome State Fault Refusal := .next (doRspInvClean r s)

/-- RSP_SHARED. -/
def doRspShared (r : SnoopRsp) (s : State) : State := snoopAnswer r .shared s

def execRspShared (r : SnoopRsp) (s : State) : Host.Outcome State Fault Refusal := .next (doRspShared r s)

/-- RSP_DIRTY. -/
def doRspDirty (r : SnoopRsp) (data : Line) (s : State) : State := snoopAnswer r (.dirty data) s

def execRspDirty (r : SnoopRsp) (data : Line) (s : State) : Host.Outcome State Fault Refusal := .next (doRspDirty r data s)

/-- RSP_WB_IN_FLIGHT. -/
def doRspWbInFlight (r : SnoopRsp) (s : State) : State := snoopAnswer r .wbInFlight s

def execRspWbInFlight (r : SnoopRsp) (s : State) : Host.Outcome State Fault Refusal := .next (doRspWbInFlight r s)

/-- HINT_ACCEPT. -/
def doHintAccept (r : SnoopRsp) (s : State) : State := snoopAnswer r .accept s

def execHintAccept (r : SnoopRsp) (s : State) : Host.Outcome State Fault Refusal := .next (doHintAccept r s)

/-- HINT_DECLINE. -/
def doHintDecline (r : SnoopRsp) (s : State) : State := snoopAnswer r .decline s

def execHintDecline (r : SnoopRsp) (s : State) : Host.Outcome State Fault Refusal := .next (doHintDecline r s)

/-- A hint push leaves with its line, once the line is placed (R158); a target no longer there counts as declining. -/
def pushHint (s : State) (id : Nat) (t : Txn) (f : Flight) : State :=
  match agentOf s f.target with
  | some a =>
    if a.fallen then setTxn (bump (delEntry s t.line) R.HOM_HINTS_DECLINED) id { t with hint := 4 }
    else
      sendMsg (obsEvent (setTxn s id { t with hint := 2 }) unitHome 18 1) a.port
        ⟨some 2, snpSlot hintPush f.target (snoopId id t) t.line, lineSlots f.data⟩
  | none => setTxn (bump (delEntry s t.line) R.HOM_HINTS_DECLINED) id { t with hint := 4 }

/-- The flow's own line is accepted by its engine: the write completes, an ATOM has executed (R23, R159). -/
def mainPlaced (s : State) (id : Nat) (own : Bool) : State :=
  match txnOf s id with
  | none => s
  | some t =>
    match reqOf s t with
    | none => s
    | some (uid, f) =>
      if f.op = .atom then
        noteLedger (modFlight s uid fun f => { f with outcome := 1 }) uid true (f.stage = .done)
      else
        let s := if own then freeTxnRoom s id else s
        let s := reply s id (cmpRsp 0 false) 1 false
        if t.hint = 1 then pushHint s id { t with responded := true } f else s

/-- The engine has accepted the transaction's oldest line (07 R170). -/
def writePlaced (s : State) (id : Nat) : State :=
  match txnOf s id with
  | none => s
  | some t =>
    match t.writes with
    | [] => s
    | w :: ws =>
      let s := setTxn s id { t with writes := ws }
      let s := forEach w.wb s fun s u => decide' s u (cmpRsp 0 false) 1
      advance (if w.main then mainPlaced s id w.own else s) id

/-- The engine answers a read: data, or a poisoned (5) or uncorrectable (4) line. A transaction that no longer waits takes
nothing (R161). -/
def readAnswered (s : State) (sid err : Nat) (d : Line) : State :=
  match txnNamed s sid with
  | none => s
  | some (id, t) =>
    if t.mem ≠ 2 then s
    else advance (setTxn s id { t with mem := 3, err := if err = 0 then t.err else err
                                       data := if err = 0 then some d else none }) id

/-- The commit walk begins: entries of the changed ranges are back-invalidated, new requests to them wait (04 R98). -/
def beginWalk (s : State) : State :=
  let lines := (s.home.filter.map (·.1)).filter fun l => changedAddress s (l * 64)
  let s := modHome (wr s R.MAP_COMMIT_STATUS 1) fun h => { h with
    walking := true, walkDone := false, walkLate := false, walkTodo := lines }
  fillReserved s 512

/-- The commit beat is due within 100 µs. -/
def walkDue (s : State) : Bool := rd s R.MAP_COMMIT_TIME ≤ poolNs s + 100000

/-- MAP_COMMIT: the checks of R89, then the walk or a schedule (04 R97, R98). -/
def actMapCommit (_ _ : Nat) (s : State) : Nat × State :=
  if rd s R.MAP_COMMIT_STATUS = 1 || rd s R.MAP_COMMIT_STATUS = 9 then (5, s)
  else match checkTable s with
    | some (st, r) => (0, raiseEv (wr (wr s R.MAP_COMMIT_STATUS st) R.MAP_COMMIT_REGION r) 2 1 r 0)
    | none =>
      if rd s R.MAP_COMMIT_TIME = 0 || walkDue s then (0, beginWalk s) else (0, wr s R.MAP_COMMIT_STATUS 9)

def doMapCommit (a : Access) (s : State) : State := accessWrite a 0x2001 0 actMapCommit s

def execMapCommit (a : Access) (s : State) : Host.Outcome State Fault Refusal := .next (doMapCommit a s)

/-- COMMIT_WALK_START: pool time reaches MAP_COMMIT_TIME − 100 µs (04 R97). -/
def doCommitWalkStart (ecc : Ecc) (s : State) : State :=
  if rd s R.MAP_COMMIT_STATUS = 9 && walkDue s then
    let s := beginWalk s
    match s.home.walkTodo ++ (s.home.txns.map fun (_, t) => t.line) with
    | l :: _ => readFilter s l ecc
    | [] => readFilter s 0 ecc
  else s

def execCommitWalkStart (ecc : Ecc) (s : State) : Host.Outcome State Fault Refusal := .next (doCommitWalkStart ecc s)

/-- COMMIT_WALK_DONE: every set has been read and the walk's snoops are answered; an entry made meanwhile for a request
taken before the walk is back-invalidated first (04 R98). -/
def doCommitWalkDone (s : State) : State :=
  if !s.home.walking || s.home.walkDone then s else
    let left := (s.home.filter.map (·.1)).filter fun l => changedAddress s (l * 64)
    let open_ := (s.home.txns.any fun (_, t) => changedAddress s (t.line * 64)) ||
      (s.home.victimTodo.any fun e => changedAddress s (e.line * 64)) ||
      s.home.poisonTodo.any fun (_, l) => changedAddress s (l * 64)
    if open_ then s
    else if !left.isEmpty then fillReserved (modHome s fun h => { h with walkTodo := left }) 512
    else
      let t := rd s R.MAP_COMMIT_TIME
      modHome s fun h => { h with walkDone := true, walkLate := t ≠ 0 && decide (t < poolNs s) }

def execCommitWalkDone (s : State) : Host.Outcome State Fault Refusal := .next (doCommitWalkDone s)

/-- COMMIT_APPLY: on the commit beat the shadow table becomes active (04 R97). -/
def doCommitApply (s : State) : State :=
  if s.home.walking && s.home.walkDone && rd s R.MAP_COMMIT_TIME ≤ poolNs s then
    let late := s.home.walkLate
    let s := releaseHeld (applyCommit s late)
    let s := raiseEv s 2 0 (rd s R.MAP_COMMIT_STATUS) 0
    if late then raiseEv s 2 2 0 0 else s
  else s

def execCommitApply (s : State) : Host.Outcome State Fault Refusal := .next (doCommitApply s)

/-- A cancelled walk sends no further back-invalidation: one that has not begun goes, one that has begun completes with the
snoops already sent, and leaves what its entry still lists (04 R97). -/
def stopWalk (s : State) : State :=
  forEach s.home.txns s fun s (id, t) =>
    if t.origin ≠ .commitWalk then s
    else if !t.active then modHome s fun h => { h with txns := tdel h.txns id, order := h.order.filter (· ≠ id) }
    else advance (modTxn s id fun t => { t with entry := none, snoops := t.snoops.filter (·.sent) }) id

/-- MAP_COMMIT_CANCEL (04 R97). -/
def actCommitCancel (_ _ : Nat) (s : State) : Nat × State :=
  if rd s R.MAP_COMMIT_STATUS = 1 || rd s R.MAP_COMMIT_STATUS = 9 then
    (0, stopWalk (releaseHeld (wr s R.MAP_COMMIT_STATUS 0)))
  else (3, s)

def doMapCommitCancel (a : Access) (s : State) : State := accessWrite a 0x2001 5 actCommitCancel s

def execMapCommitCancel (a : Access) (s : State) : Host.Outcome State Fault Refusal := .next (doMapCommitCancel a s)

/-- Writes to the shadow table and to MAP_COMMIT_TIME while a commit is under way are refused (04 R98); `v` holds only the bits
that the entry keeps (00 R12). -/
def mapWrite (index sub v : Nat) (s : State) : Option (Nat × State) :=
  let busy := rd s R.MAP_COMMIT_STATUS = 1 || rd s R.MAP_COMMIT_STATUS = 9
  if (0x2400 ≤ index ∧ index < 0x2800) ∨ (index = 0x2001 ∧ sub = 4) then
    some (if busy then (5, s) else (0, put s (keyOf index sub) 0 v))
  else none

/-- Revision cap of the active image (13 R371). -/
def activeCap (s : State) : Nat := rdi s R.UPG_IMAGE_CAP (rd s R.UPG_ACTIVE_SLOT)

/-- Epoch command 1 arms a switch, 2 cancels it (13 R371). -/
def actEpoch (c : Nat) (_ v : Nat) (s : State) : Nat × State :=
  let armed := rdi s R.HOM_CELL_EPOCH_STATUS c = 1
  if v = 1 then
    let rev := rdi s R.HOM_CELL_EPOCH_REV c
    if rev = cellRevision s c || activeCap s < rev then (3, s)
    else if rdi s R.HOM_CELL_EPOCH_TIME c < poolNs s + 1000000 then (3, s)
    else if rd s R.UPG_STATE = 2 || armed then (5, s)
    else (0, wri s R.HOM_CELL_EPOCH_STATUS c 1)
  else (0, if armed then wri s R.HOM_CELL_EPOCH_STATUS c 4 else s)

/-- HOM_CELL_EPOCH_ARM. -/
def doHomCellEpochArm (a : Access) (cell : Nat) (s : State) : State := accessWrite a (0x4100 + cell) 11 (actEpoch cell) s

def execHomCellEpochArm (a : Access) (cell : Nat) (s : State) : Host.Outcome State Fault Refusal :=
  .next (doHomCellEpochArm a cell s)

/-- HOM_CELL_EPOCH_CANCEL. -/
def doHomCellEpochCancel (a : Access) (cell : Nat) (s : State) : State :=
  accessWrite a (0x4100 + cell) 11 (actEpoch cell) s

def execHomCellEpochCancel (a : Access) (cell : Nat) (s : State) : Host.Outcome State Fault Refusal :=
  .next (doHomCellEpochCancel a cell s)

/-- Writes of the next revision and time while a switch is armed are refused (13 R371). -/
def epochWrite (index sub v : Nat) (s : State) : Option (Nat × State) :=
  if 0x4100 ≤ index ∧ index < 0x4110 ∧ (sub = 9 ∨ sub = 10) then
    some (if rdi s R.HOM_CELL_EPOCH_STATUS (index - 0x4100) = 1 then (5, s)
      else (0, put s (keyOf index sub) (dfltAt s (keyOf index sub)) v))
  else none

/-- The cell takes the armed revision (13 R372). -/
def switchEpoch (s : State) (c st : Nat) : State :=
  wri (wri s R.HOM_CELL_REVISION c (rdi s R.HOM_CELL_EPOCH_REV c)) R.HOM_CELL_EPOCH_STATUS c st

/-- EPOCH_SWITCH: the time base reaches the armed time (13 R372). -/
def doEpochSwitch (cell : Nat) (s : State) : State :=
  if rdi s R.HOM_CELL_EPOCH_STATUS cell = 1 && rdi s R.HOM_CELL_EPOCH_TIME cell ≤ poolNs s && mgmtUp s &&
      s.start.phase ≠ .starting && cell < 16 then
    switchEpoch s cell 2
  else s

def execEpochSwitch (cell : Nat) (s : State) : Host.Outcome State Fault Refusal := .next (doEpochSwitch cell s)

/-- Switches whose time passed during a block reset apply on the first beat after start-up (13 R372). -/
def lateEpochs (s : State) : State :=
  forEach ((nums 0 16).filter fun c => rdi s R.HOM_CELL_EPOCH_STATUS c = 1 && rdi s R.HOM_CELL_EPOCH_TIME c ≤ poolNs s) s
    fun s c => switchEpoch s c 3

/-- A cell whose stored revision exceeds the cap of the image that starts runs at that cap (13 R372). -/
def capEpochs (s : State) : State :=
  if activeCap s = 0 then s else
    forEach ((nums 0 16).filter fun c => activeCap s < cellRevision s c) s fun s c =>
      wri (wri s R.HOM_CELL_REVISION c (activeCap s)) R.HOM_CELL_EPOCH_STATUS c 5

end Sys2Proof.Machine
end

