-- ==== Sys2Proof/Machine/Codec.lean ====
section
/-!
DEFINITION. The codec: GF(2^8), RS(36,32) half-codewords, poison, and decoding against marked lanes (10 R258 to R262).
-/
namespace Sys2Proof.Machine

/-- Multiplication by α modulo 0x11D (R259). -/
def gfDouble (a : Nat) : Nat := if a < 128 then 2 * a else (2 * a) ^^^ 0x11D

/-- Product of two field elements over the low `n` bits of `b`. -/
def gfMulBits (a b : Nat) : Nat → Nat
  | 0 => 0
  | n + 1 => (if b % 2 = 1 then a else 0) ^^^ gfMulBits (gfDouble a) (b / 2) n
def gfMul (a b : Nat) : Nat := gfMulBits a b 8

/-- α^n, and the inverse a^254. -/
def gfAlpha : Nat → Nat
  | 0 => 1
  | n + 1 => gfDouble (gfAlpha n)
def gfSquares (a : Nat) : Nat → Nat
  | 0 => 1
  | n + 1 => let b := gfMul a a; gfMul b (gfSquares b n)
def gfInv (a : Nat) : Nat := gfSquares a 7

/-- One division step by g(x) = x^4 + 0x0F x^3 + 0x36 x^2 + 0x78 x + 0x40 (R259). -/
def rsStep (r : Nat × Nat × Nat × Nat) (d : Nat) : Nat × Nat × Nat × Nat :=
  let f := d ^^^ r.1
  (r.2.1 ^^^ gfMul f 0x0F, r.2.2.1 ^^^ gfMul f 0x36, r.2.2.2 ^^^ gfMul f 0x78, gfMul f 0x40)

/-- Check symbols of 32 data symbols, positions 0 to 3. -/
def rsCheck (data : List Nat) : List Nat :=
  let r := data.reverse.foldl rsStep (0, 0, 0, 0)
  [r.2.2.2, r.2.2.1, r.2.1, r.1]

/-- Symbols of half `h` of a stored line by position: 4 check symbols, then 32 data symbols (Table INT-1). -/
def halfSymbols (c : Codeword) (h : Nat) : List Nat :=
  (nums 0 4).map (fun m => field c.toNat (512 + 8 * (4 * h + m)) 8) ++
    (nums 0 32).map fun i => field c.toNat (8 * (32 * h + i)) 8

/-- Syndrome S_j of symbols by position. -/
def syndrome (sym : List Nat) (j : Nat) : Nat := sym.reverse.foldl (fun a s => gfMul a (gfAlpha j) ^^^ s) 0
def syndromes (sym : List Nat) : List Nat := (nums 0 4).map (syndrome sym)

/-- The poison mask on check symbols 0 to 3, and its syndrome S_P (R260). -/
def poisonMask : List Nat := [0x5A, 0xC3, 0x96, 0x3C]
def poisonSyndrome : List Nat := syndromes poisonMask

/-- A line with its check symbols, poisoned where `poison` is set (R259, R260). -/
def encodeLine (l : Line) (poison : Bool) : Codeword :=
  let half := fun h =>
    let k := rsCheck ((nums 0 32).map fun i => field l.toNat (8 * (32 * h + i)) 8)
    if poison then (k.zip poisonMask).map fun (a, b) => a ^^^ b else k
  BitVec.ofNat 576 (l.toNat + 2 ^ 512 * ofBytesLE (half 0 ++ half 1))

/-- The syndromes with the error at `x` filtered out, one fewer. -/
def filterOut (x : Nat) : List Nat → List Nat
  | a :: b :: t => (b ^^^ gfMul x a) :: filterOut x (b :: t)
  | _ => []

/-- The filtered syndromes are those of a single error at `y`. -/
def geometric (y : Nat) : List Nat → Bool
  | a :: b :: t => gfMul y a = b && geometric y (b :: t)
  | _ => true

/-- Values at the marked positions from syndromes that nothing else disturbs. -/
def markedValues (marked : List Nat) (s : List Nat) : List (Nat × Nat) :=
  match marked with
  | [] => []
  | [p] => [(p, s.getD 0 0)]
  | p :: q :: _ =>
    let x := gfAlpha p
    let y := gfAlpha q
    let v := gfMul (s.getD 1 0 ^^^ gfMul y (s.getD 0 0)) (gfInv (x ^^^ y))
    [(p, v), (q, s.getD 0 0 ^^^ v)]

/-- A solution of R261: the symbols altered, marked lanes and at most one other; none where the syndromes fit none. -/
def solve (marked : List Nat) (s : List Nat) : Option (List (Nat × Nat)) :=
  let t := marked.foldl (fun t p => filterOut (gfAlpha p) t) s
  let altered := fun l => (l.filter fun (x : Nat × Nat) => x.2 ≠ 0)
  if t.all (· = 0) then some (altered (markedValues marked s))
  else
    match (nums 0 36).find? fun p => !marked.contains p && t.getD 0 0 ≠ 0 && geometric (gfAlpha p) t with
    | none => none
    | some p =>
      let y := gfAlpha p
      let w := marked.foldl (fun w q => gfMul w (gfInv (y ^^^ gfAlpha q))) (t.getD 0 0)
      let rest := (s.zip (nums 0 4)).map fun (a, j) => a ^^^ gfMul w (gfAlpha (p * j))
      some (altered ((p, w) :: markedValues marked rest))

/-- Outcomes of a decode, in the order of R262. -/
inductive Decoded where
  | uncorrectable | poisoned | corrected | filled | clean
  deriving DecidableEq, Repr

/-- Outcome of a half, the symbols its reading alters, and those on unmarked lanes (R261). -/
def decodeHalf (marked : List Nat) (sym : List Nat) : Decoded × List (Nat × Nat) × List (Nat × Nat) :=
  let s := syndromes sym
  let plain := solve marked s
  let poison := solve marked ((s.zip poisonSyndrome).map fun (a, b) => a ^^^ b)
  let out := fun (l : List (Nat × Nat)) => l.filter fun x => !marked.contains x.1
  let asData := fun (l : List (Nat × Nat)) =>
    (if !(out l).isEmpty then .corrected else if !l.isEmpty then .filled else .clean, l, out l)
  match plain, poison with
  | none, none => (.uncorrectable, [], [])
  | some p, none => asData p
  | none, some q => (.poisoned, q, out q)
  | some p, some q =>
    if p.length < q.length then asData p
    else if q.length < p.length then (.poisoned, q, out q) else (.uncorrectable, [], [])

/-- Position of a logical lane, and lane of a position (Table INT-1). -/
def lanePos (l : Nat) : Nat := if l < 32 then l + 4 else l - 32
def posLane (p : Nat) : Nat := if p < 4 then p + 32 else p - 4

/-- A corrected symbol: half, position and error value. -/
structure Corr where
  half : Nat
  pos : Nat
  value : Nat
  deriving DecidableEq, Repr

/-- A line's decode: outcome, data as the decoder delivers it (R260), the corrections on unmarked lanes of halves read as
data, and the number of marked lanes. -/
structure Decode where
  out : Decoded
  data : Line
  corrections : List Corr
  marked : Nat
  deriving DecidableEq, Repr

/-- The worse of two outcomes (R262). -/
def worse (a b : Decoded) : Decoded :=
  if a = .uncorrectable || b = .uncorrectable then .uncorrectable
  else if a = .poisoned || b = .poisoned then .poisoned
  else if a = .corrected || b = .corrected then .corrected
  else if a = .filled || b = .filled then .filled else .clean

/-- Data symbols of a half with the reading's changes made. -/
def applyFix (sym : List Nat) (fix : List (Nat × Nat)) : List Nat :=
  (fix.foldl (fun l (p, v) => l.modify p (· ^^^ v)) sym).drop 4

/-- Decode of a stored line against marked logical lanes (R261, R262). -/
def decodeLine (lanes : List Nat) (c : Codeword) : Decode :=
  let marked := lanes.map lanePos
  let h0 := halfSymbols c 0
  let h1 := halfSymbols c 1
  let d0 := decodeHalf marked h0
  let d1 := decodeHalf marked h1
  let corr := fun h (d : Decoded × List (Nat × Nat) × List (Nat × Nat)) =>
    if d.1 = .corrected then d.2.2.map fun (p, v) => (⟨h, p, v⟩ : Corr) else []
  { out := worse d0.1 d1.1
    data := lineOfBytes (applyFix h0 d0.2.1 ++ applyFix h1 d1.2.1)
    corrections := corr 0 d0 ++ corr 1 d1
    marked := lanes.length }

/-- Marked logical lanes of a pseudo-channel (08 R220). -/
def markedLanes (s : State) (pc : Nat) : List Nat := bitsSet (rdi s R.CDI_ERASURES pc) 36

/-- Key of a stored line. -/
def cellKey (pc key : Nat) : Nat := pc * 33554432 + key

/-- The fill at the line of key `k`, where it reached it; spare rows that hold no graft are not filled (16 R421). -/
def lineFill (a : Array') (k : Nat) : Option Codeword :=
  if k / 262144 % 32 ≠ 31 || (tget? a.fillBanks (k / 8388608)).isSome ||
      (tget? a.fillRows (k / 8388608 * 16384 + k / 16 % 16384)).isSome then a.fill else none

def fillAt (s : State) (pc key : Nat) : Option Codeword := lineFill s.array (cellKey pc key)

/-- The core dies' canonical form: keys strictly rising, and no listed line equal to what its place reads as unlisted. -/
def Memory.wf (a : Array') : Bool := tsorted a.lines && a.lines.all fun (k, c) => decide (lineFill a k ≠ some c)

/-- A line is written to a core die; one equal to the fill needs no listing. -/
def storeCell (s : State) (pc key : Nat) (c : Codeword) : State :=
  let lines := if fillAt s pc key = some c then tdel s.array.lines (cellKey pc key) else tset s.array.lines (cellKey pc key) c
  { s with array := { s.array with lines := lines, lost := tdel s.array.lost (cellKey pc key) } }

/-- The line a core die holds; content that nothing fixed is free, and stays once it has been read (16 R421). -/
def readCell (s : State) (pc key : Nat) : Codeword × State :=
  match tget? s.array.lines (cellKey pc key) with
  | some c => (c, s)
  | none =>
    match fillAt s pc key, tget? s.array.lost (cellKey pc key) with
    | some c, none => (c, s)
    | _, _ =>
      let c := Config.freeLine s.free
      (c, storeCell { s with free := s.free + 1 } pc key c)

end Sys2Proof.Machine
end

