-- ==== Sys2Proof/Machine/Timing.lean ====
section
/-!
DEFINITION. Command words and lanes, and the timing rules of Tables ENG-5 and CDI-4 over the command history (07 R183; 08 R202, R203,
R208).
-/
namespace Sys2Proof.Machine

/-- Codes of the commands in a channel's history. -/
def cAct : Nat := 0
def cPre : Nat := 1
def cRd : Nat := 2
def cWr : Nat := 3
def cRefpb : Nat := 4
def cReft : Nat := 5
def cRefab : Nat := 6
def cPrea : Nat := 7
def cMrw : Nat := 8
def cMrr : Nat := 9
def cSre : Nat := 10
def cSrx : Nat := 11
def cWrFifo : Nat := 12
def cRdFifo : Nat := 13
def cRdCal : Nat := 14
def cWckSync : Nat := 15
def cSoft : Nat := 16
def cHard : Nat := 17
/-- No command: an idle word. -/
def cNop : Nat := 18

/-- Commands of the row bus (Table CDI-1); the others use the column bus. -/
def onRowBus (c : Nat) : Bool := c ≤ 1 || (4 ≤ c && c ≤ 11)

/-- REFpb and REFT count as ACT for T3, T4 and T6 (R183). -/
def actLike (c : Nat) : Bool := c = cAct || c = cRefpb || c = cReft

/-- Commands that count as a read or a write of the data lanes; an MRR counts as a RD to bank group 0 (08 R207, R208). -/
def readLike (c : Nat) : Bool := c = cRd || c = cRdFifo || c = cRdCal || c = cMrr
def writeLike (c : Nat) : Bool := c = cWr || c = cWrFifo

/-- Commands of one SAG. -/
def sagScoped (c : Nat) : Bool := c ≤ 5

/-- Bank group: physical bank / 4 (04 R95); the FIFO commands and MRR use bank group 0. -/
def bankGroupOf (x : Issued) : Nat := if x.cmd = cRd || x.cmd = cWr || actLike x.cmd || x.cmd = cPre then x.bank / 4 else 0

/-- A single rule's separation where it applies. -/
def rule (applies : Bool) (gap : Nat) : Nat := if applies then gap else 0

/-- The separation Tables ENG-5 and CDI-4 ask for between `a` and a later `b`, with the classes of their banks. A PREA counts
as a PRE of every SAG of its (PC, SID) (08 R208); SRE and SRX reach every slice, and MRW and MRR name no (PC, SID). REFab and
SRE find no SAG of their scope refreshing. A static MRR, whose `sag` is 1, holds the data lanes for 64 nCK from RL, 14 nCK after
WL (R207). -/
def gap (a b : Issued) : Nat :=
  let k := b.cls
  let ps := a.pc = b.pc && a.sid = b.sid
  let bank := ps && a.bank = b.bank
  let sag := bank && a.sag = b.sag
  let twin := bank && a.sag ≠ b.sag
  let grp := bankGroupOf a = bankGroupOf b
  let preA := a.cmd = cPre || a.cmd = cPrea
  let inSag := sag || (ps && a.cmd = cPrea)
  let toSag := sag || (ps && b.cmd = cPrea)
  let ref := fun c => c = cRefpb || c = cReft
  let wide := b.cmd = cSre || b.cmd = cSrx
  [ rule (a.cmd = cAct && b.cmd = cAct && sag) (68 - k),
    rule (a.cmd = cAct && b.cmd = cAct && twin) 8,
    rule (actLike a.cmd && actLike b.cmd && ps && grp && a.bank ≠ b.bank) 6,
    rule (actLike a.cmd && actLike b.cmd && ps && !grp) 4,
    rule (a.cmd = cAct && (b.cmd = cRd || b.cmd = cWr) && sag) (23 - k),
    rule (a.cmd = cAct && (b.cmd = cPre || b.cmd = cPrea) && toSag) 45,
    rule (preA && actLike b.cmd && inSag) (23 - k),
    rule (readLike a.cmd && readLike b.cmd && a.pc = b.pc) (if a.sid ≠ b.sid then 3 else if grp then 4 else 2),
    rule (writeLike a.cmd && writeLike b.cmd && a.pc = b.pc) (if a.sid ≠ b.sid then 3 else if grp then 4 else 2),
    rule (readLike a.cmd && writeLike b.cmd && a.pc = b.pc) 18,
    rule (writeLike a.cmd && readLike b.cmd && a.pc = b.pc) (if a.sid ≠ b.sid then 3 else if grp then 24 else 16),
    rule (a.cmd = cRd && (b.cmd = cPre || b.cmd = cPrea) && toSag) 6,
    rule (a.cmd = cRd && b.cmd = cPre && ps && grp && a.bank ≠ b.bank) 4,
    rule (a.cmd = cWr && b.cmd = cPre && toSag) (38 - k),
    rule (a.cmd = cWr && b.cmd = cPrea && toSag) (38 - a.cls),
    rule (ref a.cmd && actLike b.cmd && sag) 224,
    rule (ref a.cmd && ref b.cmd && twin) 224,
    rule (ref a.cmd && b.cmd = cAct && twin) 8,
    rule (a.cmd = cAct && ref b.cmd && twin) 8,
    rule (preA && b.cmd = cRefab && ps) (23 - a.cls),
    rule (a.cmd = cRefab && (actLike b.cmd || b.cmd = cRefab) && ps) 560,
    rule (ref a.cmd && b.cmd = cRefab && ps) 224,
    rule (preA && b.cmd = cSre) (23 - a.cls),
    rule (ref a.cmd && b.cmd = cSre) 224,
    rule (a.cmd = cRefab && b.cmd = cSre) 560,
    rule (a.cmd = cSre && b.cmd = cSrx) 560,
    rule (a.cmd = cSrx) 576,
    rule (onRowBus a.cmd && onRowBus b.cmd) (if a.cmd = cAct then 2 else 1),
    rule (!onRowBus a.cmd && !onRowBus b.cmd) 1,
    rule (a.cmd = cMrw && (a.sid = b.sid || wide)) 8,
    rule (a.cmd = cMrr && b.cmd = cMrw && a.sid = b.sid) 4,
    rule (a.cmd = cPrea && onRowBus b.cmd && b.cmd ≤ cPrea && ps) 23,
    rule (a.cmd = cMrr && a.sag = 1 && readLike b.cmd && a.pc = b.pc) 65,
    rule (a.cmd = cMrr && a.sag = 1 && writeLike b.cmd && a.pc = b.pc) 79,
    rule (a.cmd = cSoft && ((bank && (sagScoped b.cmd || b.cmd = cSoft || b.cmd = cHard)) || (ps && (b.cmd = cRefab || b.cmd = cPrea)) || wide)) 1600,
    rule (a.cmd = cHard && (a.sid = b.sid || wide) && b.cmd ≠ cMrr) 320000000 ].foldl max 0

/-- Most activations in 20 nCK: the fifth waits for the first's tFAW (T6). -/
def fawMet (hist : List Issued) (b : Issued) : Bool :=
  !actLike b.cmd ||
    decide ((hist.filter fun a => actLike a.cmd && a.pc = b.pc && a.sid = b.sid && decide (b.nck < a.nck + 20)).length < 4)

def chanOf (s : State) (c : Nat) : Chan := tget s.chans c {}
def setChan (s : State) (c : Nat) (x : Chan) : State := { s with chans := tset s.chans c x }
def modChan (s : State) (c : Nat) (f : Chan → Chan) : State := setChan s c (f (chanOf s c))
def sliceOf (s : State) (c sid : Nat) : Slice := tget s.slices (c * 4 + sid) {}
def modSlice (s : State) (c sid : Nat) (f : Slice → Slice) : State :=
  { s with slices := tset s.slices (c * 4 + sid) (f (sliceOf s c sid)) }

/-- A recorded command with its bank's class as it is now: a fall-back lengthens what still runs (07 R189, R191). -/
def atClass (s : State) (c : Nat) (a : Issued) : Issued :=
  if sagScoped a.cmd then
    { a with cls := (tget (tget s.pchs (c * 2 + a.pc) {}).classes (a.sid * 32 + a.bank) {}).cls }
  else a

/-- The tables let `a` and `b` stand on their nCK. A command of the engine is never overtaken; the sequencer's may be planned
ahead of `now`, and what issues before one must keep its distance from it (08 R206). -/
def fits (a b : Issued) : Bool :=
  if a.nck ≤ b.nck then a.nck + gap a b ≤ b.nck && (a.nck < b.nck || onRowBus a.cmd ≠ onRowBus b.cmd)
  else cPrea ≤ a.cmd && b.nck + gap b a ≤ a.nck

/-- Every rule allows `b` on its nCK. -/
def timingMet (s : State) (c : Nat) (b : Issued) : Bool :=
  let h := (chanOf s c).hist
  h.all (fun a => fits (atClass s c a) b) && fawMet h b

/-- A word with its parity in bit 0: the ones of the whole word are even (08 R203). -/
def withParity (w : Nat) : Nat := w + (bitsSet w 20).length % 2

/-- The words of a command on its bus, in time order (08 R203, Tables CDI-1 to CDI-3). -/
def commandWords (x : Issued) : List Nat :=
  let row := fun op => 2 ^ 17 + x.pc * 2 ^ 16 + x.sid * 2 ^ 14 + op * 2 ^ 7
  let oneSag := x.bank * 2 ^ 9 + x.sag * 2 ^ 6
  let column := fun op => op * 2 ^ 14 + x.pc * 2 ^ 13 + x.sid * 2 ^ 11
  let line := x.bank * 2 ^ 6 + x.sag * 2 ^ 5 + x.arg % 16 * 2
  let mpc := fun code arg => column 3 + code * 2 ^ 6 + arg * 2
  let words :=
    if x.cmd = cAct then [2 ^ 18 + x.pc * 2 ^ 17 + x.sid * 2 ^ 15 + x.bank * 2 ^ 10 + x.arg / 32 * 2, x.arg % 32 * 2 ^ 15]
    else if x.cmd = cRefpb then [2 ^ 19 + x.pc * 2 ^ 18 + x.sid * 2 ^ 16 + x.bank * 2 ^ 11 + x.sag * 2 ^ 10 + x.arg * 2]
    else if x.cmd = cPre then [row 0 + oneSag]
    else if x.cmd = cReft then [row 1 + oneSag]
    else if x.cmd = cRefab then [row 2]
    else if x.cmd = cPrea then [row 3]
    else if x.cmd = cMrw then [2 ^ 16 + x.sid * 2 ^ 14 + x.arg * 2]
    else if x.cmd = cMrr then [2 ^ 15 + x.sid * 2 ^ 10 + x.arg * 2 ^ 5]
    else if x.cmd = cSre then [2 ^ 15 + 2 ^ 12]
    else if x.cmd = cSrx then [2 ^ 15 + 2 ^ 13]
    else if x.cmd = cRd then [column 1 + line]
    else if x.cmd = cWr then [column 2 + line]
    else if x.cmd = cWrFifo then [mpc 1 x.arg]
    else if x.cmd = cRdFifo then [mpc 2 x.arg]
    else if x.cmd = cRdCal then [mpc 3 x.arg]
    else if x.cmd = cWckSync then [mpc 4 0]
    else if x.cmd = cSoft then [mpc 5 0]
    else [mpc 6 0]
  words.map withParity

/-- Level of one of a word's lanes, and the lanes of a bus: `n` lanes, each with two bits of the word, and a spare that carries a
copy of the lane it replaces (08 R203). -/
def lanePair (n w : Nat) (spare : Option Nat) : Nat × Nat :=
  let half := fun v => v + (match spare with
    | some l => if bitOf v l then 2 ^ n else 0
    | none => 0)
  (half (w % 2 ^ n), half (w / 2 ^ n))

/-- Lane of the row bus, and of the column bus, that the bus's spare copies (CDI_CMD_SPARES). -/
def rowSpare (s : State) (c : Nat) : Option Nat :=
  let v := rdi s R.CDI_CMD_SPARES c
  if bitOf v 15 then some (field v 8 4) else none
def colSpare (s : State) (c : Nat) : Option Nat :=
  let v := rdi s R.CDI_CMD_SPARES c
  if bitOf v 7 then some (field v 0 3) else none

/-- What a command drives on its bus, in time order (08 R203). -/
def commandLanes (s : State) (c : Nat) (x : Issued) : List (Nat × Nat) :=
  (commandWords x).map fun w => if onRowBus x.cmd then lanePair 10 w (rowSpare s c) else lanePair 8 w (colSpare s c)

/-- Levels of a bus in an nCK: those of the command there, else of a NOP, all low (08 R203). -/
def busLevels (s : State) (c nck : Nat) (row : Bool) : Nat × Nat :=
  match (chanOf s c).hist.find? fun a => onRowBus a.cmd = row && a.nck ≤ nck && decide (nck < a.nck + (commandWords a).length) with
  | some a => (commandLanes s c a).getD (nck - a.nck) (0, 0)
  | none => (0, 0)

/-- A read burst comes with the preamble unless a burst of its SID filled the nCK before (08 R202). -/
def hasPreamble (s : State) (c : Nat) (x : Issued) : Bool :=
  !(chanOf s c).hist.any fun a => readLike a.cmd && a.pc = x.pc && a.sid = x.sid && a.nck + 2 = x.nck

/-- The channel's clocks run, it is not in self-refresh and its recovery does not hold it. -/
def chanReady (s : State) (c : Nat) : Bool :=
  let h := chanOf s c
  !h.selfRef && rdi s R.CDI_CHANNEL_STATE c = 0

/-- PHY quadrant of a channel. -/
def quadOf (c : Nat) : Nat := c / 4

/-- CK and WCK of the channels restart (11 R303 step 1, 09 R253). -/
def restartClocks (s : State) (sel : Nat → Bool) : State :=
  forEach ((nums 0 (nChannels s)).filter fun c => sel c && rdi s R.CDI_CHANNEL_STATE c ≠ 1) s fun s c =>
    modChan s c fun h => { h with ck := true, wck := true, ckFrom := if h.ck then h.ckFrom else s.now }

end Sys2Proof.Machine
end

