-- ==== Sys2Proof/Machine/Slices.lean ====
section
/-!
DEFINITION. The core-die slices as commands reach them: mode registers, words received with errors, the command-error state,
counts of executed commands, and issuing commands on a channel (08 R204 to R210, R224).
-/
namespace Sys2Proof.Machine

/-- Mode registers a MRW changes, and the bits of them that are not reserved (Table CDI-5). -/
def mrMask (ma : Nat) : Option Nat :=
  if ma = 2 then some 0xF0
  else if 16 ≤ ma && ma ≤ 19 then some 0xBF
  else if ma = 20 then some 0x8F
  else if ma = 21 then some 0x87
  else if ma = 22 || ma = 23 || ma = 25 then some 0xFF
  else if ma = 24 then some 0x9F
  else if ma = 26 then some 0x3F
  else none

/-- A mode register as last written, else at its reset value (Table CDI-5, R200). -/
def mrOf (s : State) (c sid ma : Nat) : Nat :=
  (tget? (sliceOf s c sid).mr ma).getD
    (if ma = 0 then 2 else if ma = 1 then sid * (nChannels s / 8) + c / 8 else if ma = 2 then 0x60
      else if ma = 22 || ma = 23 then 128 else 0)

/-- MRW at a slice: MR3 clears the bits written 1, and with its bit [7] or [6] the slice leaves the command-error state (R204,
R209). The block's record of a write reference follows (Table CDI-10). -/
def writeMr (s : State) (c sid ma v : Nat) : State :=
  if ma = 3 then modSlice s c sid fun d => { d with mr := tput d.mr 3 (tget d.mr 3 0 - (tget d.mr 3 0 &&& v &&& 0xE0)) 0 }
  else match mrMask ma with
    | none => s
    | some m =>
      let v := v &&& m
      let s := modSlice s c sid fun d => { d with mr := tset d.mr ma v }
      if ma = 22 || ma = 23 then put s (keyOf (0x63C0 + c * 2 + (ma - 22)) sid) 0 v else s

/-- The slice is in the command-error state. -/
def inError (d : Slice) : Bool := tget d.mr 3 0 &&& 0xC0 ≠ 0

/-- Commands that a slice executes in the command-error state (R204). -/
def heardInError (cmd : Nat) : Bool := cmd = cMrr || cmd = cMrw || cmd = cPrea || cmd = cSre || cmd = cSrx

/-- What a word of good parity asks for on the row bus (Table CDI-1), a NOP apart; none for a reserved word. -/
def rowAsks (w : Nat) : Option Issued :=
  let row := fun cmd => some ⟨0, cmd, field w 16 1, field w 14 2, field w 9 5, field w 6 1, 0, 0⟩
  if bitOf w 19 then some ⟨0, cRefpb, field w 18 1, field w 16 2, field w 11 5, field w 10 1, field w 1 9, 0⟩
  else if bitOf w 18 then some ⟨0, cAct, field w 17 1, field w 15 2, field w 10 5, field w 9 1, field w 1 9 * 32, 0⟩
  else if bitOf w 17 then
    let op := field w 7 2
    if field w 1 5 ≠ 0 || (2 ≤ op && (field w 9 5 ≠ 0 || bitOf w 6)) then none
    else row (if op = 0 then cPre else if op = 1 then cReft else if op = 2 then cRefab else cPrea)
  else if bitOf w 16 then row cMrw
  else if bitOf w 15 then
    if field w 12 3 = 0 then (if field w 1 4 = 0 then row cMrr else none)
    else if field w 12 3 = 1 && field w 1 11 = 0 then row cSre
    else if field w 12 3 = 2 && field w 1 11 = 0 then row cSrx
    else none
  else if w = 0 then row cNop else none

/-- The same on the column bus (Tables CDI-2 and CDI-3). -/
def colAsks (w : Nat) : Option Issued :=
  let col := fun cmd bank => some ⟨0, cmd, field w 13 1, field w 11 2, bank, field w 5 1, 0, 0⟩
  let code := field w 6 5
  let arg := field w 1 5
  if field w 14 2 = 1 then col cRd code
  else if field w 14 2 = 2 then col cWr code
  else if field w 14 2 = 0 then (if w = 0 then col cNop 0 else none)
  else if (code = 1 || code = 2) && arg < 8 then col (if code = 1 then cWrFifo else cRdFifo) 0
  else if code = 3 && arg < 4 then col cRdCal 0
  else if 4 ≤ code && code ≤ 6 && arg = 0 then col (cWckSync + (code - 4)) 0
  else none

/-- State of a SAG as its slice has it on an nCK: open, or refreshing (07 Table ENG-3). -/
def dieOpen (s : State) (c : Nat) (x : Issued) : Bool :=
  (tget (tget s.pchs (c * 2 + x.pc) {}).sags ((x.sid * 32 + x.bank) * 2 + x.sag) {}).row.isSome
def dieRefreshing (s : State) (c nck : Nat) (x : Issued) : Bool :=
  (chanOf s c).hist.any fun a => a.pc = x.pc && a.sid = x.sid &&
    (((a.cmd = cRefpb || a.cmd = cReft) && a.bank = x.bank && a.sag = x.sag && nck < a.nck + 224) ||
     (a.cmd = cRefab && nck < a.nck + 560))

/-- An illegal sequence of R204, for the slice of the SID named. -/
def illegal (s : State) (c nck : Nat) (x : Issued) : Bool :=
  if x.cmd = cRd || x.cmd = cWr then !dieOpen s c x
  else actLike x.cmd && (dieOpen s c x || dieRefreshing s c nck x)

/-- A word a slice received that puts it into the command-error state (R204). -/
structure BadWord where
  parity : Bool
  word : Nat
  row : Bool

/-- What is wrong with a word as received by the slice of `sid`: `flip` are the bits that differ from the word sent. -/
def badWord (s : State) (c sid nck : Nat) (row second : Bool) (word flip : Nat) : Option BadWord :=
  let w := word ^^^ flip
  let wrong : Bool := if second then decide (field w 1 14 ≠ 0)
    else match (if row then rowAsks w else colAsks w) with
      | none => true
      | some y => y.sid = sid && illegal s c nck y
  if flip = 0 then none
  else if (bitsSet w 20).length % 2 = 1 then some ⟨true, w, row⟩
  else if wrong then some ⟨false, w, row⟩ else none

/-- The first offending word of a command at the slice of `sid`. A word whose changed bits make another legal command of good
parity is taken as sent: R204 names no way to tell it (DESIGN CHOICE, log entry 36). -/
def received (s : State) (c : Nat) (x : Issued) (flips : Flips) (sid : Nat) : Option BadWord :=
  let m := ((flips.find? fun f => f.1 = sid).map (·.2)).getD 0
  let row := onRowBus x.cmd
  let w := commandWords x
  let width := if row then 2 ^ 20 else 2 ^ 16
  (badWord s c sid x.nck row false (w.getD 0 0) (m % width)).orElse fun _ =>
    if w.length = 2 then badWord s c sid x.nck row true (w.getD 1 0) (m / 2 ^ 20 % 2 ^ 20) else none

/-- A slice that a good copy of the command reaches executes it, in the command-error state only what R204 lets it. -/
def executes (s : State) (c : Nat) (x : Issued) (flips : Flips) (sid : Nat) : Bool :=
  (received s c x flips sid).isNone && (!inError (sliceOf s c sid) || heardInError x.cmd)

/-- The slice enters the command-error state (R204). -/
def enterError (d : Slice) (b : BadWord) : Slice :=
  let bit := if b.parity then 0x80 else 0x40
  let bus := if b.row then 0 else 0x80
  { d with
    mr := [(3, tget d.mr 3 0 ||| bit), (4, field b.word 0 8), (5, field b.word 8 8), (6, field b.word 16 4 + bus),
      (28, min 255 (tget d.mr 28 0 + 1))].foldl (fun t (i, v) => tset t i v) d.mr }

/-- SIDs whose count of executed commands the command raises (08 R205). -/
def countedBy (x : Issued) : List Nat := if x.cmd = cSre || x.cmd = cSrx then [0, 1, 2, 3] else [x.sid]

/-- One slice's part in a command (R204, R205). -/
def takeCommand (s : State) (c : Nat) (x : Issued) (flips : Flips) (sid : Nat) : State :=
  let d := match received s c x flips sid with
    | some b => if inError (sliceOf s c sid) then sliceOf s c sid else enterError (sliceOf s c sid) b
    | none => sliceOf s c sid
  modSlice s c sid fun _ =>
    if (countedBy x).contains sid && executes s c x flips sid then { d with exec := (d.exec + 1) % 65536 } else d

/-- The channel records a command it issues (R224): the history ring, the lanes driven, the block's counts, and what the slices
made of it. A read that its slice does not drive is noticed (R225). -/
def record (s : State) (c : Nat) (x : Issued) (flips : Flips) : State :=
  let deaf := (countedBy x).filter fun i => !executes s c x flips i
  let lanes := commandLanes s c x
  let s := forEach (nums 0 4) s fun s i => takeCommand s c x flips i
  modChan s c fun h => { h with
    hist := (x :: h.hist).take 4096
    rowLanes := if onRowBus x.cmd then lanes else h.rowLanes
    colLanes := if onRowBus x.cmd then h.colLanes else lanes
    loopAt := x.nck + 8
    counts := (countedBy x).foldl (fun t i => tset t i ((tget t i 0 + 1) % 65536)) h.counts
    lost := ((deaf.map fun i => (i, x)) ++ h.lost).take 4096
    trouble := h.trouble || (readLike x.cmd && !deaf.isEmpty) }

/-- Commands of a SID since its history was last proven (R224). -/
def unproven (s : State) (c sid : Nat) : Nat := (tget (chanOf s c).counts sid 0 + 65536 - tget (chanOf s c).proven sid 0) % 65536

/-- The SID's history is proven up to the command that came as number `n`. -/
def prove (s : State) (c sid n : Nat) : State :=
  modChan s c fun h => { h with proven := tset h.proven sid n, provenAt := tset h.provenAt sid s.now }

/-- The same up to the latest command. -/
def proveNow (s : State) (c sid : Nat) : State := prove s c sid (tget (chanOf s c).counts sid 0)

/-- Pseudo-channel that carries a slice's MRR data: MR2 bit [4] (R207). -/
def mrrPc (s : State) (c sid : Nat) : Nat := if bitOf (mrOf s c sid 2) 4 then 1 else 0

/-- An MRR as the channel records it: to bank group 0, static while MR2 bit [5] is set (R207). -/
def mrrCommand (s : State) (c sid ma nck : Nat) : Issued :=
  ⟨nck, cMrr, mrrPc s c sid, sid, 0, if bitOf (mrOf s c sid 2) 5 then 1 else 0, ma, 0⟩

/-- Other sequencer commands as the channel records them. -/
def seqIssued (nck cmd pc sid bank arg : Nat) : Issued := ⟨nck, cmd, pc % 2, sid, bank, 0, arg, 0⟩

/-- A soft repair of the slice, or a hard one, runs on nCK `nck` (Tables CDI-4 and CDI-5). -/
def repairBusy (s : State) (c sid nck : Nat) : Bool :=
  (chanOf s c).hist.any fun a => a.sid = sid &&
    ((a.cmd = cSoft && decide (nck < a.nck + 1600)) || (a.cmd = cHard && decide (nck < a.nck + 320000000)))

/-- Hard repairs (times 16) and soft repairs that a bank, pseudo-channel bit counted, has left: the die's own count less those
used. -/
def bankRepairs (s : State) (c sid bank : Nat) : Nat :=
  let d := sliceOf s c sid
  let left := fun n l => n - (l.filter fun r => r / 16384 = bank).length
  let own := Config.repairs (c * 4 + sid) bank
  left (own / 16 % 16) d.hard * 16 + left (own % 16) d.soft

/-- Repairs that the bank of MR24 has left (MR27). -/
def repairsLeft (s : State) (c sid : Nat) : Nat :=
  let v := mrOf s c sid 24
  bankRepairs s c sid (v / 128 * 32 + v % 32)

/-- Mode registers whose value is the die's own reading: temperature and self-refresh steps. -/
def dieOwn (ma : Nat) : Bool := 9 ≤ ma && ma ≤ 14

/-- The value a slice answers an MRR with on nCK `nck`, its own readings apart (R209). MR3 bit [4] is 1 on every start that lets an
MRR run: CK starts later after ply_cdi_rst_n than the first conversion ends (Tables CDI-4 to CDI-6). -/
def mrValue (s : State) (c sid ma nck : Nat) : Nat :=
  if ma = 3 then mrOf s c sid 3 + 16 + (if repairBusy s c sid nck then 8 else 0)
  else if ma = 7 then (sliceOf s c sid).exec % 256
  else if ma = 8 then (sliceOf s c sid).exec / 256
  else if ma = 27 then repairsLeft s c sid
  else mrOf s c sid ma

/-- A mode-register read as it starts. -/
def mrRead (s : State) (c : Nat) (x : Issued) (flips : Flips) : MrRead :=
  ⟨x.sid, x.arg, (tget (chanOf s c).counts x.sid 0 + 1) % 65536, mrValue s c x.sid x.arg x.nck, executes s c x flips x.sid⟩

/-- The lanes of an MRR burst, by logical lane: bit i of the value on lanes 8j + i, j = 0 to 3, in all 16 beats, the others low
(R207). -/
def mrrBurst (v : Nat) : List Nat := (nums 0 36).map fun l => if l < 32 && bitOf v (l % 8) then 0xFFFF else 0

/-- The PHY's value of a burst, each bit by majority over its 64 samples; none of 64 samples decides a tie, which takes a free
value (R207). -/
def majority (lanes : List Nat) (tie : Nat) : Nat :=
  ((nums 0 8).map fun i =>
    let ones := ((nums 0 4).map fun j => (bitsSet (lanes.getD (8 * j + i) 0) 16).length).foldl (· + ·) 0
    if 32 < ones || (ones = 32 && bitOf tie i) then 2 ^ i else 0).foldl (· + ·) 0

/-- The value of a read as it comes back: the die's own reading where it has one, `err` being what the lanes altered, 16 bits a
lane. -/
def readBack (r : MrRead) (own : Nat) (err : BitVec 576) (tie : Nat) : Nat :=
  let v := if dieOwn r.ma then own % 256 else r.value
  majority ((nums 0 36).map fun l => (mrrBurst v).getD l 0 ^^^ field err.toNat (16 * l) 16) tie

/-- The earliest nCK, from its own on, at which the tables would allow a command after a history. -/
def earliest (hist : List Issued) (x : Issued) : Nat :=
  let e := hist.foldl (fun e a => max e (a.nck + gap a x)) x.nck
  if !actLike x.cmd then e
  else match (hist.filter fun a => actLike a.cmd && a.pc = x.pc && a.sid = x.sid)[3]? with
    | some a => max e (a.nck + 20)
    | none => e

/-- Present nCK, rounded up. -/
def nckNow (s : State) : Nat := (s.now * 8 + 4) / 5

/-- What a sequencer command does at the slice that executes it. -/
def applySeq (s : State) (c : Nat) (x : Issued) : State :=
  if x.cmd = cMrw then writeMr s c x.sid (x.arg / 256) (x.arg % 256)
  else if x.cmd = cWckSync then modSlice s c x.sid fun d => { d with synced := putBit d.synced x.pc true }
  else if x.cmd = cWrFifo then modSlice s c x.sid fun d => { d with fifo := tset d.fifo x.arg (Config.freeValue (s.free + x.arg)) }
  else s

/-- A command of a sequence that the sequencer plans: it takes the first nCK that the tables allow, its own `nck` being what it
waits for after the one before it (R206). -/
def planSeq (s : State) (c start : Nat) (x : Issued) : Nat × State :=
  let hist := (chanOf s c).hist.map (atClass s c)
  let x := { x with nck := earliest hist { x with nck := start + x.nck } }
  let ok := executes s c x [] x.sid
  let s := obsEvent (record s c x []) (unitPhy (quadOf c)) 23 1
  (x.nck, if ok then applySeq s c x else s)

/-- The commands of a sequence in order, from nCK `start`: the nCK of the last, and the state after. -/
def planAll (s : State) (c start : Nat) (l : List Issued) : Nat × State :=
  l.foldl (fun (t, s) x => planSeq s c t x) (start, s)

/-- The channel takes command `x` on its nCK: tables met, then recorded; `k` learns whether the slice named executes it. A SID whose
unproven commands reach 3,584 is polled at once (R224). -/
def issue (s : State) (c : Nat) (x : Issued) (flips : Flips) (k : Bool → State → State) : State :=
  if c < nChannels s && chanReady s c && timingMet s c x then
    let s := k (executes s c x flips x.sid) (record s c x flips)
    if 3584 ≤ unproven s c x.sid && !((chanOf s c).mrrs.any fun r => r.sid = x.sid && r.ma = 3) then
      let y := mrrCommand s c x.sid 3 0
      let r := mrRead s c y []
      modChan (planAll s c (x.nck + 1) [y]).2 c fun h => { h with mrrs := h.mrrs ++ [r] }
    else s
  else s

/-- A sequencer command: counted by its PHY quadrant's unit (15 Table OBS-3). -/
def issueSeq (s : State) (c : Nat) (x : Issued) (flips : Flips) (k : Bool → State → State) : State :=
  issue s c x flips fun ok s => k ok (obsEvent s (unitPhy (quadOf c)) 23 1)

end Sys2Proof.Machine
end

