-- ==== Sys2Proof/Machine/Reports.lean ====
section
/-!
DEFINITION. What decodes and bursts report: lane tracking and marking (08 R213 to R222), timing-class fall-back (07 R189 to
R193), the deadwood log (10 R278 to R280), recurring corrections (10 R274 to R277) and bins tightened by errors (09 R249).
-/
namespace Sys2Proof.Machine

def pchOf (s : State) (pc : Nat) : Pch := tget s.pchs pc {}
def modPch (s : State) (pc : Nat) (f : Pch → Pch) : State := { s with pchs := tset s.pchs pc (f (pchOf s pc)) }

def isInternal (h : Held) : Bool := h.hold = .internal
def countHeld (s : State) (pc : Nat) (f : Held → Bool) : Nat := ((pchOf s pc).held.filter fun (_, h) => f h).length
def internalInUse (s : State) (pc : Nat) : Nat := countHeld s pc isInternal

/-- A request joins a pseudo-channel under the next number. -/
def addHeld (s : State) (pc : Nat) (h : Held) : State :=
  modPch s pc fun p => { p with held := tset p.held p.next { h with from_ := s.now, seq := p.next }, next := p.next + 1 }

/-- A request joins the internal slots, or waits for one. -/
def addInternal (s : State) (pc : Nat) (h : Held) : State :=
  if internalInUse s pc < 8 then addHeld s pc h else modPch s pc fun p => { p with work := p.work ++ [h] }

/-- A channel engine's event, raised where `first` holds only while its status bit is clear: its channel is noted beside it
(07 R180, R197, R198). -/
def raiseEng (s : State) (ch i hi : Nat) (first : Bool) : State :=
  if first && statusBit s 5 i then s else
    raiseEv (wri s R.ENG_EVENT_CHANNELS i (putBit (rdi s R.ENG_EVENT_CHANNELS i) ch true)) 5 i hi (ident 4 ch)

/-- A crossing parity error received by a channel engine (01 R17, 07 R198). -/
def engineParity (s : State) (ch : Nat) : State :=
  wri (raiseParity s 5 6 (unitEngine ch)) R.ENG_EVENT_CHANNELS 6 (putBit (rdi s R.ENG_EVENT_CHANNELS 6) ch true)

/-- Lane carried by a spare of a pseudo-channel (CDI_LANE_MAP), and the map with it changed. -/
def spareLane (s : State) (pc sp : Nat) : Option Nat :=
  let v := rdi s R.CDI_LANE_MAP pc
  if sp = 0 then (if bitOf v 15 then some (field v 8 6) else none) else if bitOf v 7 then some (field v 0 6) else none
def setSpare (s : State) (pc sp : Nat) (lane : Option Nat) : State :=
  let v := rdi s R.CDI_LANE_MAP pc
  let w := match lane with
    | some l => 128 + l
    | none => 0
  wri s R.CDI_LANE_MAP pc (if sp = 0 then putField v 8 8 w else putField v 0 8 w)

/-- The spare that carries a logical lane. -/
def carriedOn (s : State) (pc lane : Nat) : Option Nat :=
  if spareLane s pc 0 = some lane then some 0 else if spareLane s pc 1 = some lane then some 1 else none

/-- Logical lane that physical lane `p` carries, where it carries one (R201). -/
def logicalLane (s : State) (pc p : Nat) : Option Nat :=
  if p = 36 then spareLane s pc 0 else if p = 37 then spareLane s pc 1
  else if (carriedOn s pc p).isSome then none else some p

/-- A burst on the data lanes by physical lane, 16 unit intervals each, the first in bit 0 (R201, R202; 10 Table INT-1). An
unused spare toggles 0b1010…; what a lane that a spare has replaced carries, the spec does not say, and it is not listed. -/
def laneBurst (s : State) (pc : Nat) (c : Codeword) : Tbl Nat :=
  let unit := fun l =>
    if l < 32 then field c.toNat (8 * l) 8 + 256 * field c.toNat (8 * (32 + l)) 8
    else field c.toNat (512 + 8 * (l - 32)) 8 + 256 * field c.toNat (544 + 8 * (l - 32)) 8
  (nums 0 38).filterMap fun p =>
    match logicalLane s pc p with
    | some l => some (p, unit l)
    | none => if 36 ≤ p then some (p, 0x5555) else none

/-- A logical lane meets R220: it is marked, or with two lanes marked recorded as degraded; a spare that carried it is
retired, and goes on carrying it until the lane moves to the other spare (R220 to R222). -/
def markLane (s : State) (pc lane : Nat) : State :=
  let e := rdi s R.CDI_ERASURES pc
  if bitOf e lane then s
  else if (bitsSet e 36).length < 2 then
    let s := wri s R.CDI_ERASURES pc (putBit e lane true)
    let s := match carriedOn s pc lane with
      | some sp =>
        wri s R.CDI_SPARES_RETIRED pc (putBit (rdi s R.CDI_SPARES_RETIRED pc) sp true)
      | none => s
    raiseEv (obsEvent s (unitPhy (pc / 8)) 22 1) 6 0 lane (ident 4 (pc / 2))
  else
    raiseEv (wri (wri s R.CDI_PC_DEGRADED_LANE pc lane) R.CDI_PC_STATE pc 2) 6 2 lane (ident 4 (pc / 2))

/-- A corrected symbol is attributed to an unmarked lane; CDI_LANE_ERR_LIMIT of them within CDI_LANE_WINDOW, from 4 banks,
mark it (R220). -/
def laneError (s : State) (pc lane bank : Nat) : State :=
  let k := pc * 64 + lane
  let since := s.now - rd s R.CDI_LANE_WINDOW * 1000
  let l := (tget s.stack.laneErrs k []).filter (fun (t, _) => since ≤ t) ++ [(s.now, bank)]
  let banks := (l.map (·.2)).eraseDups.length
  if rd s R.CDI_LANE_ERR_LIMIT ≤ l.length ∧ 4 ≤ banks then
    markLane (modStack s fun t => { t with laneErrs := tdel t.laneErrs k }) pc lane
  else modStack s fun t => { t with laneErrs := tset t.laneErrs k l }

/-- Codes of a physical lane: read and write delays by SID, read Vref (Table CDI-10). -/
def delayKey (write : Bool) (pc lane : Nat) : Nat := keyOf ((if write then 0x6340 else 0x6300) + pc) lane
def vrefKey (pc lane : Nat) : Nat := keyOf (0x6380 + pc) lane
def delayCode (s : State) (write : Bool) (pc lane sid : Nat) : Nat := field (val s (delayKey write pc lane) 0) (16 * sid) 10
def setDelay (s : State) (write : Bool) (pc lane sid code : Nat) : State :=
  put s (delayKey write pc lane) 0 (putField (val s (delayKey write pc lane) 0) (16 * sid) 16 code)

/-- A code at its limit raises EV.06.09 and marks the lane it carries; of a physical lane that carries none the event names the
physical lane (R213, R220). -/
def codeLimit (s : State) (pc phys : Nat) : State :=
  match logicalLane s pc phys with
  | some l => raiseEv (markLane s pc l) 6 9 l (ident 4 (pc / 2))
  | none => raiseEv s 6 9 phys (ident 4 (pc / 2))

/-- A delay becomes `v`, held to 0 to 1,023; it may reach one of these limits (R213). -/
def moveDelay (s : State) (write : Bool) (pc lane sid : Nat) (v : Int) : State :=
  let old := delayCode s write pc lane sid
  let c := (clampInt v 0 1023).toNat
  let s := setDelay s write pc lane sid c
  if c ≠ old && (c = 0 || c = 1023) then codeLimit s pc lane else s

def trackKey (pc sid lane : Nat) : Nat := (pc * 4 + sid) * 64 + lane

/-- The read delay moves one step, and the write delay follows its change since the SID's latest retrain (R213, R216). -/
def trackLane (s : State) (pc sid lane : Nat) (d : Int) : State :=
  let k := trackKey pc sid lane
  let r := delayCode s false pc lane sid
  let (r0, w0) := tget s.stack.tracks k (r, delayCode s true pc lane sid)
  let s := moveDelay (modStack s fun t => { t with tracks := tset t.tracks k (r0, w0) }) false pc lane sid (r + d)
  moveDelay s true pc lane sid (w0 + ((delayCode s false pc lane sid : Int) - r0))

/-- One preamble sample: four net in one direction move the read delay, and the write delay with it (R213, R216). -/
def phaseSample (s : State) (pc sid lane : Nat) (late : Bool) : State :=
  let k := trackKey pc sid lane
  let n := tget s.stack.preambles k 0 + (if late then 1 else -1)
  if n.natAbs < 4 then modStack s fun t => { t with preambles := tput t.preambles k n 0 }
  else
    let d : Int := if n > 0 then 1 else -1
    let s := modStack s fun t => { t with preambles := tdel t.preambles k }
    obsEvent (trackLane s pc sid lane d) (unitPhy (pc / 8)) 17 1

/-- Error-sampler bits: after 256 the read Vref moves one step towards the side with fewer disagreements (R215). -/
def eyeSample (s : State) (pc : Nat) (e : EyeCount) : State :=
  let k := pc * 64 + e.lane
  let (b, a, u) := tget s.stack.vrefs k (0, 0, 0)
  let (b, a, u) := (b + e.bits, a + e.above, u + e.below)
  if b < 256 then modStack s fun t => { t with vrefs := tset t.vrefs k (b, a, u) }
  else
    let s := modStack s fun t => { t with vrefs := tdel t.vrefs k }
    if a = u then s
    else
      let old := val s (vrefKey pc e.lane) 0
      let v := (clampInt ((old : Int) + (if a < u then 1 else -1)) 300 700).toNat
      let s := obsEvent (put s (vrefKey pc e.lane) 0 v) (unitPhy (pc / 8)) 18 1
      if v ≠ old && (v = 300 || v = 700) then codeLimit s pc e.lane else s

/-- What the PHY saw with a burst; its lanes' phase only with a preamble, which ends a request for one (R202, R213 to R216). -/
def trackBurst (s : State) (pc sid : Nat) (preamble : Bool) (b : BurstReport) : State :=
  let s := modPch s pc fun p => { p with
    preamble := preamble
    gaps := putBit p.gaps sid (bitOf p.gaps sid && !preamble)
    heardAt := if preamble then tset p.heardAt sid s.now else p.heardAt }
  let phase := if preamble then b.phase.filter (·.1 < 38) else []
  let s := if phase.isEmpty then s else obsEvent s (unitPhy (pc / 8)) 16 phase.length
  let s := forEach phase s fun s (l, late) => phaseSample s pc sid l late
  forEach (b.eyes.filter (·.lane < 38)) s fun s e => eyeSample s pc e

/-- Timing class of a bank (07 R184). -/
def bankClass (s : State) (pc sid bank : Nat) : BankClass := tget (pchOf s pc).classes (sid * 32 + bank) {}
def setClass (s : State) (pc sid bank : Nat) (c : BankClass) : State :=
  modPch s pc fun p => { p with classes := tset p.classes (sid * 32 + bank) c }
def capKey (pc sid bank : Nat) : Nat := keyOf (0x5440 + pc / 2) (pc % 2 * 128 + sid * 32 + bank)
def bankCap (s : State) (pc sid bank : Nat) : Nat := val s (capKey pc sid bank) 3

/-- A record enters the class log ring (R193). -/
def logClass (s : State) (bank cls cap cause band row col : Nat) : State :=
  let r := (poolNs s % 2 ^ 64) * 2 ^ 64 + bank * 2 ^ 51 + cls * 2 ^ 49 + cap * 2 ^ 47 + cause * 2 ^ 44 + band * 2 ^ 41 +
    row * 2 ^ 27 + col * 2 ^ 23
  let n := rd s R.ENG_CLASS_LOG_NEXT
  wr (modStack s fun t => { t with classLog := tset t.classLog n r }) R.ENG_CLASS_LOG_NEXT ((n + 1) % 256)

/-- A line of a row under test, by its physical place: key of its row and column. -/
def qualHeld (q : QualRun) (row col : Nat) (hold : Hold) (purpose : Purpose) (line : Line × Bool) : Held :=
  { hold := hold, purpose := purpose, key := locKey (q.bank / 32) (q.bank % 32) row col, lsid := q.bank / 32, lbank := q.bank % 32
    lrow := row, data := line.1, mask := BitVec.allOnes 64, poison := line.2 }

/-- Line 0 of the present row is rewritten from the capture through an internal slot, where the test has written it (07 R187). -/
def restoreRow (s : State) (pc : Nat) (q : QualRun) (written : Bool) : State :=
  match tget? q.buf 0, q.rows with
  | some line, row :: _ => if written then addInternal s pc (qualHeld q row 0 .internal .qualRestore line) else s
  | _, _ => s

/-- The write of line 0 of the row under test has issued. -/
def lineWritten (s : State) (pc : Nat) (q : QualRun) : Bool :=
  match q.stage with
  | .next | .capture => false
  | .restore => (pchOf s pc).held.all fun (_, h) => h.hold ≠ .test || h.issued.isSome
  | .reopen | .compare | .close => !q.dropped

/-- The commands of a row under test that are left go. -/
def dropTestHeld (s : State) (pc : Nat) : State :=
  modPch s pc fun p => { p with held := p.held.filter fun (_, h) => h.hold ≠ .test }

/-- A test in progress in the bank is abandoned and its row restored (07 R191, Table ENG-8). -/
def abandonTest (s : State) (pc bank : Nat) : State :=
  let c := tget (pchOf s pc).classes bank {}
  let s := modPch s pc fun p => { p with classes := tset p.classes bank { c with test := 0, retest := false } }
  match (pchOf s pc).qual with
  | some q => if q.bank = bank then
        restoreRow (modPch (dropTestHeld s pc) pc fun p => { p with qual := none }) pc q (lineWritten s pc q)
      else s
  | none => s

/-- The bank returns to class 0; a test in progress is abandoned. -/
def dropClass (s : State) (pc sid bank : Nat) : State :=
  let s := abandonTest s pc (sid * 32 + bank)
  setClass s pc sid bank { bankClass s pc sid bank with cls := 0 }

/-- Every test under way in the pseudo-channels `sel` selects is abandoned. -/
def abandonTests (s : State) (sel : Nat → Bool) : State :=
  forEach (s.pchs.filter fun (i, _) => sel i) s fun s (i, p) =>
    match p.qual with
    | some q => abandonTest s i q.bank
    | none => s

/-- An error reported at class `cls` (R189): whether it caused a fall-back, and the state after. -/
def classReport (s : State) (pc sid bank row col cls : Nat) (uncorrectable : Bool) : Bool × State :=
  if cls = 0 || (bankClass s pc sid bank).cls = 0 then (false, s)
  else
    let s := put (dropClass s pc sid bank) (capKey pc sid bank) 3 (cls - 1)
    let s := logClass s (bankIndex pc sid bank) cls (cls - 1) (if uncorrectable then 1 else 0) (rd s R.ENG_QUAL_BAND) row col
    let s := obsEventPc (bump s R.ENG_CLASS_FALLBACKS) (unitEngine (pc / 2)) 38 (some pc) 1
    (true, raiseEng s (pc / 2) 0 (bankIndex pc sid bank) false)

/-- Key of a row group's bin: 16 rows of one bank (09 R245). -/
def binKey (pc sid bank row : Nat) : Nat := ((pc * 4 + sid) * 32 + bank) * 1024 + row / 16

/-- The bin that the schedule follows: a loosened one takes effect with its bank's next window (09 R240). -/
def binInForce (t : Stack) (k : Nat) : Nat := tget t.heldBins k (tget t.bins k 0)

/-- A group's bin changes: a tightening at once, and in the stored table as well (09 R233), a loosening in force later. -/
def setBin (s : State) (k b : Nat) : State :=
  let s' := modStack s fun t => { t with
    bins := tput t.bins k b 0
    heldBins := if b ≤ binInForce t k then tdel t.heldBins k else tset t.heldBins k (binInForce t k) }
  if b < tget s.stack.bins k 0 then
    { s' with mram := { s'.mram with bins := tput s'.mram.bins k (min b (tget s'.mram.bins k 0)) 0 } }
  else s'

/-- An error in a row whose group holds a bin above 0 sets it to bin 0 at once (09 R249). -/
def tightenGroup (s : State) (pc sid bank row : Nat) : State :=
  let k := binKey pc sid bank row
  if tget s.stack.bins k 0 = 0 then s
  else
    let s := setBin s k 0
    raiseEv (bump s R.RFH_PROF_TIGHTENED) 7 10 (row / 16) (ident 4 (pc / 2))

/-- Where an error was read: logical place, what the repair tables did, and the physical place (Table INT-4). -/
structure Place where
  pc : Nat
  sid : Nat
  lbank : Nat
  lrow : Nat
  col : Nat
  grafted : Bool
  replaced : Bool
  psid : Nat
  pbank : Nat
  prow : Nat
  deriving DecidableEq, Repr

/-- Fields of a deadwood record beside its place (Table INT-4). -/
structure Note where
  kind : Nat
  source : Nat
  timing : Bool := false
  half : Nat := 0
  symbol : Nat := 0x3F
  value : Nat := 0
  marked : Nat := 0
  rows : Nat := 1
  deriving DecidableEq, Repr

def recKind (r : Nat) : Nat := field r 156 4
def recRetired (r : Nat) : Bool := bitOf r 152
def recBank (r : Nat) : Nat := field r 136 13
def recRow (r : Nat) : Nat := field r 122 14
def recRows (r : Nat) : Nat := field r 96 5
def recSeq (r : Nat) : Nat := field r 160 32

/-- The record covers the row (R279): kinds 4 and 6 cover none by themselves. -/
def recCovers (r lbank row : Nat) : Bool :=
  recBank r = lbank && recRow r ≤ row && decide (row < recRow r + recRows r) && recKind r ≠ 4 && recKind r ≠ 6

/-- Rows of the record, from bit 0, that are among the `n` rows from `row`. -/
def recRowMask (r row n : Nat) : Nat :=
  ((nums 0 (recRows r)).filter fun i => row ≤ recRow r + i && decide (recRow r + i < row + n)).foldl (fun m i => m + 2 ^ i) 0

/-- Rows of the record in slot `k` retired so far, once `n` rows of a logical bank from `row` are. -/
def retiredMask (t : Mram) (lb row n k r : Nat) : Nat :=
  tget t.logRows k 0 ||| (if recBank r = lb then recRowMask r row n else 0)

/-- The record's rows are all retired: those of a row record, or the bank where `bank` is retired (Table INT-4, R279). -/
def allRetired (t : Mram) (lb row n : Nat) (bank : Bool) (k r : Nat) : Bool :=
  recBank r = lb && (bank || (recRows r ≠ 0 && retiredMask t lb row n k r = 2 ^ recRows r - 1))

/-- A row's hard count (R279). -/
def hardCount (s : State) (lbank row : Nat) : Nat :=
  (s.mram.log.filter fun (_, r) => recKind r ≤ 2 && !recRetired r && recCovers r lbank row).length

/-- Slot of the record that a full log overwrites: the oldest that is retired or of kind 7 (R280). -/
def overwritable (s : State) : Option Nat :=
  (s.mram.log.foldl (fun (b : Option (Nat × Nat)) (k, r) =>
    if recRetired r || recKind r = 7 then
      match b with
      | none => some (k, recSeq r)
      | some (_, q) => if recSeq r < q then some (k, recSeq r) else b
    else b) none).map (·.1)

/-- INT_LOG_NEXT follows the log (R280). -/
def settleLog (s : State) : State :=
  let n := s.mram.log.length
  wr (wr s R.INT_LOG_COUNT n) R.INT_LOG_NEXT (if n < 8192 then n else (overwritable s).getD 8192)

/-- `n` rows of a logical bank from `row` are retired, or the whole bank: a record all of whose rows have been retired since it
was written takes RETIRED (R286, Table INT-4 bit 152, 16 R419). -/
def retireRows (s : State) (lb row n : Nat) (bank : Bool) : State :=
  let t := s.mram
  settleLog { s with mram := { t with
    log := t.log.map fun (k, r) => (k, if allRetired t lb row n bank k r then putBit r 152 true else r)
    logRows := t.log.foldl (fun m (k, r) => tput m k (retiredMask t lb row n k r) 0) t.logRows } }

/-- One record is stored, or lost (R278, R280). -/
def storeRecord (s : State) (p : Place) (n : Note) : State :=
  let slot := rd s R.INT_LOG_NEXT
  if slot = 8192 then raiseEv (bump s R.INT_LOG_LOST) 8 8 (bankIndex p.pc p.sid p.lbank) (ident 4 (p.pc / 2))
  else
    let whole := n.kind = 4 || n.kind = 6
    let lb := bankIndex p.pc p.sid p.lbank
    let row := if whole then 0 else p.lrow
    let col := if 2 ≤ n.kind && n.kind ≤ 6 then 0 else p.col
    let hard := min 7 (hardCount s lb row + (if n.kind ≤ 2 then 1 else 0))
    let seq := rd s R.INT_LOG_SEQ
    let r := (poolNs s % 2 ^ 64) * 2 ^ 192 + seq * 2 ^ 160 + n.kind * 2 ^ 156 + n.source * 2 ^ 153 +
      (if p.grafted then 2 ^ 151 else 0) + (if p.replaced then 2 ^ 150 else 0) + (if n.timing then 2 ^ 149 else 0) +
      lb * 2 ^ 136 + row * 2 ^ 122 + col * 2 ^ 118 + n.half * 2 ^ 117 + n.symbol * 2 ^ 111 + n.value * 2 ^ 103 +
      n.marked * 2 ^ 101 + (if whole then 0 else n.rows) * 2 ^ 96 + hard * 2 ^ 93 + p.psid * 2 ^ 91 + p.pbank * 2 ^ 86 +
      p.prow * 2 ^ 72
    let s := { s with mram := { s.mram with log := tset s.mram.log slot r, logRows := tdel s.mram.logRows slot } }
    settleLog (obsEvent (wr s R.INT_LOG_SEQ ((seq + 1) % 2 ^ 32)) unitStack 23 1)

/-- Recommendation of a bank once enough of its rows are recommended (R279). -/
def recommendBank (s : State) (p : Place) (source : Nat) : State :=
  let lb := bankIndex p.pc p.sid p.lbank
  let rows := (s.mram.log.filter fun (_, r) => recKind r = 3 && !recRetired r && recBank r = lb).flatMap fun (_, r) =>
    nums (recRow r) (recRows r)
  let already := s.mram.log.any fun (_, r) => recKind r = 4 && !recRetired r && recBank r = lb
  if rd s R.INT_BANK_RECOMMEND ≤ rows.eraseDups.length ∧ already = false then
    storeRecord (raiseEv s 8 5 lb (ident 4 (p.pc / 2))) p { kind := 4, source := source }
  else s

/-- Recommendation of a row, or of a weak group's 16 rows (R279). -/
def recommendRow (s : State) (p : Place) (source rows : Nat) : State :=
  let lb := bankIndex p.pc p.sid p.lbank
  let covered := (nums p.lrow rows).all fun row =>
    s.mram.log.any fun (_, r) => recKind r = 3 && !recRetired r && recCovers r lb row
  if covered then s
  else storeRecord (raiseEv s 8 4 lb (ident 4 (p.pc / 2))) p { kind := 3, source := source, rows := rows }

/-- A record with the recommendations it brings, those of limits lowered since among them (R278, R279, R288). A record that is
lost counts toward nothing (R280). -/
def writeRecord (s : State) (p : Place) (n : Note) : State :=
  let lost := rd s R.INT_LOG_NEXT = 8192
  let s := storeRecord s p n
  if lost || (4 ≤ n.kind && n.kind ≤ 6) then s
  else
    let s := if n.kind = 2 then recommendRow s p n.source 16
      else if n.kind ≠ 3 && rd s R.INT_HARD_LIMIT ≤ hardCount s (bankIndex p.pc p.sid p.lbank) p.lrow then
        recommendRow s p n.source 1
      else s
    recommendBank s p n.source

/-- Recurrence entry of a row, by its logical place (R274). -/
def recurKey (p : Place) : Nat := bankIndex p.pc p.sid p.lbank * 16384 + p.lrow

/-- The entry that makes room: lowest count without a Hard word, else lowest count (R276). -/
def evictRecur (s : State) : State :=
  if s.stack.recur.length < 4096 then s
  else
    let lowest := fun (l : Tbl Recur) => l.foldl (fun (b : Option (Nat × Nat)) (k, r) =>
      match b with
      | none => some (k, r.count)
      | some (_, c) => if r.count < c then some (k, r.count) else b) none
    let soft := s.stack.recur.filter fun (_, r) => !r.words.any (·.state = 3)
    match (lowest soft).orElse fun _ => lowest s.stack.recur with
    | some (k, _) => modStack s fun t => { t with recur := tdel t.recur k }
    | none => s

/-- The word list with room for one more: the oldest Written word is dropped, else the oldest Pending; none where all four
are Hard (Table INT-3). -/
def roomForWord (l : List Word3) : Option (List Word3) :=
  if l.length < 4 then some l
  else
    let oldest := fun (st : Nat) => (l.filter (·.state = st)).foldl (fun (b : Option Word3) w =>
      match b with
      | none => some w
      | some x => if w.order < x.order then some w else b) none
    match (oldest 2).orElse fun _ => oldest 1 with
    | some w => some (l.filter (· ≠ w))
    | none => none

/-- One correction of an ordinary kind (R275, Table INT-3); `nck` is that of the read's column command. -/
def recurCorrection (s : State) (p : Place) (c : Corr) (source marked nck : Nat) : State :=
  let k := recurKey p
  let s := if (tget? s.stack.recur k).isSome then s else evictRecur s
  let e := tget s.stack.recur k ⟨0, []⟩
  let count := min 65535 (e.count + 1)
  let same := fun (w : Word3) => w.col = p.col && w.half = c.half && w.pos = c.pos
  let put := fun (s : State) (words : List Word3) =>
    modStack s fun t => { t with recur := tset t.recur k ⟨count, words⟩, order := t.order + 1 }
  let repeats := fun s => bumpi s R.INT_REPEATS p.pc
  let s := match e.words.find? same with
    | none =>
      match roomForWord e.words with
      | some l => put s (l ++ [⟨p.col, c.half, c.pos, 1, 0, s.stack.order⟩])
      | none => put s e.words
    | some w =>
      if w.state = 1 then repeats (put s e.words)
      else if w.state = 2 then
        if w.ended < nck then
          let s := put s (e.words.map fun x => if same x then { x with state := 3 } else x)
          let s := raiseEv (bumpi s R.INT_HARD p.pc) 8 3 (bankIndex p.pc p.sid p.lbank) (ident 4 (p.pc / 2))
          writeRecord s p
            { kind := 0, source := source, half := c.half, symbol := posLane c.pos, value := c.value, marked := marked }
        else repeats (put s e.words)
      else put s e.words
  if e.count < rd s R.INT_RECUR_ALERT ∧ count = rd s R.INT_RECUR_ALERT then
    raiseEv (writeRecord s p { kind := 7, source := source }) 8 9 (bankIndex p.pc p.sid p.lbank) (ident 4 (p.pc / 2))
  else s

/-- The write burst of any write to the line has ended at nCK `ended`: Pending words of it are Written (Table INT-3). -/
def lineRewritten (s : State) (pc sid lbank lrow col ended : Nat) : State :=
  let k := bankIndex pc sid lbank * 16384 + lrow
  match tget? s.stack.recur k with
  | none => s
  | some e =>
    let words := e.words.map fun w => if w.col = col && w.state = 1 then { w with state := 2, ended := ended } else w
    modStack s fun t => { t with recur := tset t.recur k { e with words := words } }

end Sys2Proof.Machine
end

