-- ==== Sys2Proof/Machine/EngineOps.lean ====
section
/-!
DEFINITION. The channel engine's operations: held requests, placement of writes, modes, internal slots, and what a decode
brings (07 R168 to R182, 10 R264 to R269).
-/
namespace Sys2Proof.Machine

def heldOf (s : State) (pc id : Nat) : Option Held := tget? (pchOf s pc).held id
def setHeld (s : State) (pc id : Nat) (h : Held) : State := modPch s pc fun p => { p with held := tset p.held id h }
def delHeld (s : State) (pc id : Nat) : State := modPch s pc fun p => { p with held := tdel p.held id }

/-- A WR of the entry has issued: it takes no arriving write (R170). -/
def wrIssued (h : Held) : Bool := h.issued.isSome || !h.done.isEmpty
/-- The entry holds a whole line (R171). -/
def isFull (h : Held) : Bool := h.mask = BitVec.allOnes 64 && (!h.rmw || h.rmwRead)

def isWriteQ (h : Held) : Bool := h.hold = .write
def isMerge (h : Held) : Bool := h.hold = .merge
def isSlot (h : Held) : Bool := h.hold = .homeSlot
/-- Internal requests that write. -/
def writesLine (p : Purpose) : Bool :=
  match p with
  | .writeback | .poisonWrite | .copyWrite | .mirror | .sapling | .qualWrite | .qualRestore => true
  | _ => false
/-- Block-generated writes of R266. -/
def blockWrite (p : Purpose) : Bool := p = .writeback || p = .poisonWrite

/-- Read-queue entries in use: those whose column command has not issued (Table ENG-1). -/
def readsInUse (s : State) (pc : Nat) : Nat := countHeld s pc fun h => h.hold = .read && h.issued.isNone
def writesInUse (s : State) (pc : Nat) : Nat := countHeld s pc isWriteQ
def mergesOpen (s : State) (pc : Nat) : Nat := countHeld s pc isMerge
def slotsInUse (s : State) (pc : Nat) : Nat := countHeld s pc isSlot

/-- Two requests of one line: of one logical place, wherever the repair tables sent each when it was enqueued (04 R99). -/
def sameLine (x h : Held) : Bool :=
  x.lsid = h.lsid && x.lbank = h.lbank && x.lrow = h.lrow && keyCol x.key = keyCol h.key

/-- The first entry of the line that satisfies `f`. -/
def heldLine (s : State) (pc : Nat) (h : Held) (f : Held → Bool) : Option (Nat × Held) :=
  (pchOf s pc).held.find? fun (_, x) => sameLine x h && f x

/-- An entry takes later data, which is then the newest of its line. -/
def renewHeld (s : State) (pc id : Nat) (h : Held) : State :=
  modPch s pc fun p => { p with held := tset p.held id { h with seq := p.next }, next := p.next + 1 }

/-- The tree room an entry holds returns (05 R117, R169). -/
def returnCreditOf (s : State) (kind : Nat) (h : Held) : State :=
  match h.credit with
  | some pc => giveRoom s kind pc
  | none => s

/-- Read mode and drain mode (R176); a flush ends when nothing is left to write. A flush ordered with nothing to write would enter and
leave drain mode on one nCK: the model enters none and ENG_DRAINS does not count (DESIGN CHOICE, log entry 35). -/
def settleMode (s : State) (pc : Nat) : State :=
  let p := pchOf s pc
  let w := writesInUse s pc
  let h := slotsInUse s pc
  let flush := p.flush && (0 < w || 0 < h || 0 < mergesOpen s pc)
  let s := modPch s pc fun p => { p with flush := flush }
  if !p.drain && (rd s R.ENG_DRAIN_HIGH ≤ w || h = 4 || flush) then
    bumpi (modPch s pc fun p => { p with drain := true }) R.ENG_DRAINS pc
  else if p.drain && w ≤ rd s R.ENG_DRAIN_LOW && h = 0 && !flush then modPch s pc fun p => { p with drain := false }
  else s

/-- Slots that free take the codec's writes, oldest first, then other internal requests (10 R265). -/
def settleSlots (s : State) (pc : Nat) : Nat → State
  | 0 => s
  | n + 1 =>
    if 8 ≤ internalInUse s pc then s
    else
      match (pchOf s pc).store, (pchOf s pc).work with
      | h :: t, _ => settleSlots (addHeld (modPch s pc fun p => { p with store := t }) pc h) pc n
      | [], h :: t => settleSlots (addHeld (modPch s pc fun p => { p with work := t }) pc h) pc n
      | [], [] => s

def settlePch (s : State) (pc : Nat) : State := settleMode (settleSlots s pc 16) pc

/-- A line becomes a read-modify-write entry: counted, and reported to the tree (R172, 05 R111). -/
def countRmw (s : State) (pc : Nat) (h : Held) : State :=
  let s := obsEventPc (bumpWrap s R.ENG_RMW pc 1 64) (unitEngine (pc / 2)) 33 (some pc) 1
  match h.charge with
  | some r => modTree s fun t => { t with rmw := t.rmw ++ [r] }
  | none => s

/-- A write accepted for the line makes block-generated writes that wait for it stale, and those that a read in flight may
yet cause (10 R266). -/
def staleLine (s : State) (pc : Nat) (line : Held) : State :=
  let mark := fun (h : Held) =>
    if sameLine h line && ((isInternal h && blockWrite h.purpose && h.issued.isNone) ||
        (h.issued.isSome && !writesLine h.purpose && (h.hold = .read || isInternal h)) || h.reading.isSome) then
      { h with stale := true } else h
  modPch s pc fun p => { p with held := p.held.map fun (i, h) => (i, mark h), store := p.store.map mark }

/-- An arriving line of the write queue, by Table ENG-2: whether it was absorbed, and the state. `h` carries its data and
mask. -/
def placeFull (s : State) (pc : Nat) (h : Held) : Bool × State :=
  match heldLine s pc h (fun x => isWriteQ x && !wrIssued x) with
  | some (i, x) =>
    (true, renewHeld s pc i { x with data := h.data, mask := BitVec.allOnes 64, rmw := false, poison := h.poison })
  | none =>
    match heldLine s pc h isMerge with
    | some (i, x) => (false, addHeld (returnCreditOf (delHeld s pc i) 2 x) pc h)
    | none => (false, addHeld s pc h)

/-- A partial line, by Table ENG-2. Writes that merge keep the charge of the one that opened the line: R111 speaks of one
dispatch and does not say which of several pays for the extra access (DESIGN CHOICE, log entry 24). -/
def placePartial (s : State) (pc : Nat) (h : Held) : Bool × State :=
  let merged := fun (x : Held) => { x with
    data := mergeBytes h.mask h.data x.data, mask := x.mask ||| h.mask, poison := x.poison || h.poison }
  match heldLine s pc h (fun x => isWriteQ x && !wrIssued x) with
  | some (i, x) =>
    let y := merged x
    (true, renewHeld s pc i { y with rmw := y.rmw && y.mask ≠ BitVec.allOnes 64 })
  | none =>
    match heldLine s pc h isMerge with
    | some (i, x) =>
      let y := merged x
      if y.mask = BitVec.allOnes 64 then
        (true, renewHeld (bumpWrap s R.ENG_MERGES_FULL pc 1 64) pc i { y with hold := .write })
      else (true, renewHeld s pc i y)
    | none =>
      if mergesOpen s pc < 32 ∧ rd s R.ENG_MERGE_TIMEOUT ≠ 0 then (false, addHeld s pc { h with hold := .merge })
      else (false, countRmw (addHeld s pc { h with rmw := true }) pc h)

/-- Every open merge line moves into the write queue as a read-modify-write entry (R172, R176). -/
def mergeToWrite (s : State) (pc id : Nat) (h : Held) : State :=
  countRmw (setHeld s pc id { h with hold := .write, rmw := true }) pc h

/-- A flush is ordered (R176). -/
def orderFlush (s : State) (pc : Nat) : State :=
  let merges := (pchOf s pc).held.filter fun (_, h) => isMerge h
  let s := forEach merges s fun s (i, h) => mergeToWrite s pc i h
  settleMode (modPch s pc fun p => { p with flush := true }) pc

/-- A mark of skipping (10 R265). -/
def skipWriteback (s : State) (pc : Nat) (h : Held) : State :=
  raiseEv (bumpi s R.INT_WB_SKIPPED pc) 8 11 (bankIndex pc h.lsid h.lbank) (ident 4 (pc / 2))

/-- A block-generated write queues for its line: one at a time per line, a poison write replacing a waiting writeback and
taking precedence over all of them (10 R265, R266). -/
def queueBlockWrite (s : State) (pc : Nat) (h : Held) : State :=
  let poison := h.purpose = .poisonWrite
  let waits := fun (x : Held) => x.key = h.key && blockWrite x.purpose && x.issued.isNone
  match (pchOf s pc).held.find? fun (_, x) => isInternal x && waits x with
  | some (i, x) => if poison && x.purpose = .writeback then setHeld s pc i { h with from_ := x.from_, aged := x.aged } else s
  | none =>
    let st := (pchOf s pc).store
    let firstWb := fun (l : List Held) => l.filter fun x => x.purpose = .poisonWrite
    let wbs := st.filter fun x => x.purpose ≠ .poisonWrite
    if st.any waits then
      if poison && wbs.any waits then
        modPch s pc fun p => { p with store := firstWb st ++ [h] ++ wbs.filter fun x => !waits x }
      else s
    else if internalInUse s pc < 8 then addHeld s pc h
    else
      if st.length < 8 then
        modPch s pc fun p => { p with store := if poison then firstWb st ++ [h] ++ wbs else st ++ [h] }
      else if !poison then skipWriteback s pc h
      else match wbs.getLast? with
        | some w => modPch (skipWriteback s pc w) pc fun p => { p with store := firstWb st ++ [h] ++ wbs.dropLast }
        | none => modPch s pc fun p => { p with store := st ++ [h] }

/-- No column read may issue while the codec's store holds only poison writes and every slot is busy (10 R265). -/
def readsBlocked (s : State) (pc : Nat) : Bool :=
  let p := pchOf s pc
  decide (8 ≤ internalInUse s pc) && decide (8 ≤ p.store.length) && p.store.all (·.purpose = .poisonWrite)

/-- Place of a held request for the log. -/
def placeOf (pc : Nat) (h : Held) : Place :=
  ⟨pc, h.lsid, h.lbank, h.lrow, keyCol h.key, h.grafted, h.replaced, keySid h.key, keyBank h.key, keyRow h.key⟩

/-- SOURCE of a record (Table INT-4). -/
def sourceOf (h : Held) : Nat :=
  if h.hold = .write then 2
  else match h.purpose with
    | .host => 0
    | .scrub | .suspect => 1
    | .profile => 3
    | _ => 6

/-- A request with its decode's results; `tgt` is the internal write it may need. -/
def internalFrom (h : Held) (p : Purpose) (d : Line) (poison timing : Bool) : Held :=
  { h with
    hold := .internal, purpose := p, txn := none, data := d, mask := BitVec.allOnes 64, rmw := false, rmwRead := false
    poison := poison, timing := timing, issued := none, reading := none, unheard := false, aged := false, credit := none, uid := none, done := []
    charge := none, page := 0 }

/-- What every decode that is not CLEAN reports (10 R264 to R269; 07 R189, R190): counts, lanes, timing class, bins, log and
recurrence. Answers the timing flag. -/
def reportDecode (s : State) (pc : Nat) (h : Held) (d : Decode) (nck : Nat) : Bool × State :=
  let p := placeOf pc h
  let bi := bankIndex pc h.lsid h.lbank
  let ch := ident 4 (pc / 2)
  let u := unitEngine (pc / 2)
  let s := forEach d.corrections s fun s c => laneError s pc (posLane c.pos) (keySid h.key * 32 + keyBank h.key)
  match d.out with
  | .clean => (false, s)
  | .filled => (false, bumpWrap s R.INT_ERASURE_FILLS pc 1 64)
  | .poisoned => (false, raiseFirst (bumpi s R.INT_POISON_READS pc) 8 2 bi ch)
  | .corrected =>
    let s := raiseFirst (obsEventPc (bumpWrap s R.INT_CORRECTED pc 1 64) u 34 (some pc) 1) 8 0 bi ch
    let (timing, s) := classReport s pc (keySid h.key) (keyBank h.key) (keyRow h.key) (keyCol h.key) h.cls false
    if timing then (true, s)
    else
      let s := tightenGroup s pc (keySid h.key) (keyBank h.key) (keyRow h.key)
      (false, forEach d.corrections s fun s c => recurCorrection s p c (sourceOf h) d.marked nck)
  | .uncorrectable =>
    let s := raiseEv (obsEventPc (bumpi s R.INT_UNCORRECTABLE pc) u 35 (some pc) 1) 8 1 bi ch
    let (timing, s) := classReport s pc (keySid h.key) (keyBank h.key) (keyRow h.key) (keyCol h.key) h.cls true
    let s := writeRecord s p { kind := 1, source := sourceOf h, timing := timing, marked := d.marked }
    (timing, if timing then s else tightenGroup s pc (keySid h.key) (keyBank h.key) (keyRow h.key))

/-- Writeback of a corrected line, poison write of an uncorrectable one (10 R265, R267). -/
def rewriteAfter (s : State) (pc : Nat) (h : Held) (d : Decode) (timing : Bool) : State :=
  match d.out with
  | .corrected => queueBlockWrite s pc (internalFrom h .writeback d.data false timing)
  | .uncorrectable => queueBlockWrite s pc (internalFrom h .poisonWrite d.data true timing)
  | _ => s

/-- Error code of a host read's decode: 5 POISONED, 4 BUS_ERROR, 0 data (10 R267, R268). -/
def decodeError (o : Decoded) : Nat :=
  match o with
  | .uncorrectable => 4
  | .poisoned => 5
  | _ => 0

/-- Bytes of an open merge line or read-modify-write entry laid over a decoded line, and the entry completed by it (R171). -/
def overlayHeld (s : State) (pc : Nat) (h : Held) (d : Line) (ok : Bool) : Line × Bool × State :=
  match heldLine s pc h (fun x => (isMerge x || isWriteQ x) && !wrIssued x && !isFull x) with
  | some (i, x) =>
    let l := mergeBytes x.mask x.data d
    if ok then (l, x.poison, setHeld s pc i { x with hold := .write, data := l, mask := BitVec.allOnes 64, rmw := false })
    else (l, x.poison, s)
  | none => (d, false, s)

/-- A read-modify-write entry takes its decoded line, or becomes poisoned (R172). -/
def completeRmw (s : State) (pc id : Nat) (h : Held) (d : Decode) : State :=
  let bad := d.out = .uncorrectable || d.out = .poisoned
  let h' := { h with reading := none }
  if !h.rmw then setHeld s pc id h'
  else
    let s := setHeld s pc id { h' with
      data := mergeBytes h.mask h.data d.data, mask := BitVec.allOnes 64, rmwRead := true, poison := h.poison || bad }
    if bad then raiseEng (bumpi s R.ENG_POISON_WRITES pc) (pc / 2) 5 (bankIndex pc h.lsid h.lbank) false else s

end Sys2Proof.Machine
end

