-- ==== Sys2Proof/Machine/Engine.lean ====
section
/-!
DEFINITION. Meanings of the channel engine's commands: enqueueing, forwarding, merging, ageing, and the row and column
commands it issues (07 R168 to R198).
-/
namespace Sys2Proof.Machine

/-- The logical location a home transaction works on. -/
def txnLoc (t : Txn) : Loc := ⟨t.pc, keySid t.key, keyBank t.key, keyRow t.key, keyCol t.key⟩

/-- An entry for a logical location, moved by the repair tables in force (04 R96). -/
def heldFor (s : State) (l : Loc) (hold : Hold) (purpose : Purpose) : Held :=
  let (p, rep, gr) := repaired s l
  { hold := hold, purpose := purpose, key := locKey p.sid p.bank p.row p.col
    lsid := l.sid, lbank := l.bank, lrow := l.row, grafted := gr, replaced := rep }

/-- An entry whose data answers a read by itself (R171): a full write-queue entry, a home-write slot or an internal
write. -/
def servesRead (h : Held) : Bool :=
  (isWriteQ h && isFull h) || isSlot h ||
    (isInternal h && writesLine h.purpose && h.purpose ≠ .copyWrite && !h.stale && !h.marked)

/-- The entry of the line with the newest data among those that satisfy `f`. -/
def newestHeld (s : State) (pc : Nat) (line : Held) (f : Held → Bool) : Option (Nat × Held) :=
  (pchOf s pc).held.foldl (fun a (i, h) =>
    if !(sameLine h line && f h) then a
    else match a with
      | none => some (i, h)
      | some (_, b) => if b.seq < h.seq then some (i, h) else a) none

/-- Held data of a line that answers a read: the newest such entry with the bytes of a newer partial entry laid over it
(R170, R171). -/
def forwardData (s : State) (pc : Nat) (line : Held) : Option (Line × Bool) :=
  match newestHeld s pc line servesRead with
  | none => none
  | some (_, h) =>
    match newestHeld s pc line (fun x => (isMerge x || isWriteQ x) && !isFull x) with
    | some (_, x) => if h.seq < x.seq then some (mergeBytes x.mask x.data h.data, h.poison || x.poison) else some (h.data, h.poison)
    | none => some (h.data, h.poison)

/-- What the tree charged for a request (05 R111). -/
def chargeOf (f : Flight) : RmwReport := ⟨f.leaf, pairNo f.h.fn f.h.label, f.level, f.branch, f.trunk⟩

/-- The request of a transaction gives its room credit to the entry made for it (R169). -/
def moveCredit (s : State) (t : Txn) (h : Held) : Held × State :=
  match reqOf s t with
  | some (uid, f) =>
    ({ h with uid := some uid, charge := some (chargeOf f), credit := if f.room = 0 then none else some f.roomPc },
      modFlight s uid fun f => { f with room := 0 })
  | none => (h, s)

/-- A read at its engine (R171): answered at once from held data or, for a failed pseudo-channel, with an error; else it
joins the read queue. -/
def enqueueRead (s : State) (id : Nat) (t : Txn) : State :=
  let h := heldFor s (txnLoc t) .read .host
  let s := setTxn s id { t with mem := 2 }
  let name := snoopId id t
  if pcFailed s t.pc then readAnswered (freeTxnRoom s id) name 4 0
  else match forwardData s t.pc h with
    | some (d, bad) =>
      let s := obsEventPc (bumpWrap (freeTxnRoom s id) R.ENG_FORWARDS t.pc 1 64) (unitEngine (t.pc / 2)) 32 (some t.pc) 1
      let s := if !bad then s else
        raiseFirst (bumpi s R.INT_POISON_READS t.pc) 8 2 (bankIndex t.pc h.lsid h.lbank) (ident 4 (t.pc / 2))
      readAnswered s name (if bad then 5 else 0) d
    | none =>
      let (h, s) := moveCredit s t { h with txn := some name }
      addHeld s t.pc h

/-- ENGINE_READ_ENQUEUE: the read of an active transaction reaches its engine. A parity error in it loses the read until the
response timeout (01 R17). -/
def doEngineReadEnqueue (txn : Nat) (par : Parity) (s : State) : State :=
  match txnOf s txn with
  | none => s
  | some t =>
    if t.active && t.mem = 1 && readsInUse s t.pc < 64 then
      let s := ungate s (unitEngine (t.pc / 2))
      if par = .badHeader then
        engineParity (freeTxnRoom (setTxn s txn { t with mem := 2 }) txn) (t.pc / 2)
      else enqueueRead s txn t
    else s

def execEngineReadEnqueue (txn : Nat) (par : Parity) (s : State) : Host.Outcome State Fault Refusal :=
  .next (doEngineReadEnqueue txn par s)

/-- A partial write meets an entry of its line while a home-write slot holds newer data: the entry takes those bytes first, a
merge line only where its own are enabled. -/
def refreshUnder (s : State) (pc : Nat) (line : Held) : State :=
  match heldLine s pc line (fun x => (isWriteQ x || isMerge x) && !wrIssued x), newestHeld s pc line isSlot with
  | some (i, x), some (_, y) =>
    if y.seq ≤ x.seq then s
    else if isMerge x then setHeld s pc i { x with data := mergeBytes x.mask y.data x.data, poison := y.poison }
    else setHeld s pc i { x with data := y.data, mask := BitVec.allOnes 64, rmw := false, poison := y.poison }
  | _, _ => s

/-- The write of a transaction enters its pseudo-channel: a home-write slot, or Table ENG-2. -/
def placeWrite (s : State) (t : Txn) (w : HomeWrite) : State :=
  let h := { heldFor s (txnLoc t) (if w.own then .homeSlot else .write) .host with data := w.data, poison := w.poison }
  let s := staleLine s t.pc h
  if w.own then addHeld s t.pc { h with mask := BitVec.allOnes 64 }
  else
    let mask := w.mask.getD (BitVec.allOnes 64)
    let s := if mask = BitVec.allOnes 64 then s else refreshUnder s t.pc h
    let (h, s) := if w.main then moveCredit s t { h with mask := mask } else ({ h with mask := mask }, s)
    let (absorbed, s) :=
      if mask = BitVec.allOnes 64 then placeFull s t.pc h else placePartial s t.pc h
    if absorbed then returnCreditOf s 2 h else s

/-- The engine has room for the write (Table ENG-1, R169). -/
def writeFits (s : State) (pc : Nat) (own : Bool) : Bool :=
  if own then slotsInUse s pc < 4 else writesInUse s pc + mergesOpen s pc < 64

/-- The beat the engine accepts the line is the write's t2 and t3 (15 R405). -/
def stampWrite (s : State) (t : Txn) (w : HomeWrite) : State :=
  match reqOf s t with
  | some (uid, _) => if w.main then modFlight s uid fun f => { f with t2 := some s.now, t3 := some s.now } else s
  | none => s

/-- A write that a crossing lost: what it answers waits for the response timeout (01 R17). -/
def dropWrite (s : State) (id : Nat) (w : HomeWrite) : State :=
  let kept := if w.main || !w.wb.isEmpty then [w] else []
  let s := if w.main then freeTxnRoom s id else s
  advance (modTxn s id fun t => { t with writes := t.writes.drop 1, lost := t.lost ++ kept }) id

/-- A write to a failed pseudo-channel: the request or its writebacks draw BUS_ERROR (08 R228). -/
def loseWrite (s : State) (id : Nat) (w : HomeWrite) : State :=
  let s := forEach w.wb s fun s u => decide' s u (errRsp 4 0) 2
  let s := modTxn s id fun t => { t with writes := t.writes.drop 1 }
  advance (if w.main then failTxn s id 4 2 else s) id

/-- ENGINE_WRITE_PLACE: the oldest write of a transaction reaches its engine (R170). -/
def doEngineWritePlace (txn : Nat) (par : Parity) (s : State) : State :=
  match txnOf s txn with
  | none => s
  | some t =>
    match t.writes with
    | [] => s
    | w :: _ =>
      if !(t.active && writeFits s t.pc w.own) then s
      else
        let s := ungate s (unitEngine (t.pc / 2))
        let s := if par = .good then s else engineParity s (t.pc / 2)
        if par = .badHeader then dropWrite s txn w
        else if pcFailed s t.pc then loseWrite s txn w
        else
          let s := stampWrite s t w
          let s := placeWrite s t { w with poison := w.poison || par = .badData }
          settlePch (writePlaced s txn) t.pc

def execEngineWritePlace (txn : Nat) (par : Parity) (s : State) : Host.Outcome State Fault Refusal :=
  .next (doEngineWritePlace txn par s)

/-- A time of `ns` has passed since `from_`: software's ns are whole nCK of 0.625 ns, rounded up (00 R6). -/
def nckPassed (s : State) (from_ ns : Nat) : Bool := decide ((ns * 8 + 4) / 5 * 5 ≤ (s.now - from_) * 8)

/-- MERGE_TIMEOUT: a merge line ENG_MERGE_TIMEOUT after it opened moves into the write queue as a read-modify-write entry
(R172). -/
def doMergeTimeout (pc id : Nat) (s : State) : State :=
  match heldOf s pc id with
  | none => s
  | some h => if isMerge h && nckPassed s h.from_ (rd s R.ENG_MERGE_TIMEOUT) then settlePch (mergeToWrite s pc id h) pc else s

def execMergeTimeout (pc id : Nat) (s : State) : Host.Outcome State Fault Refusal := .next (doMergeTimeout pc id s)

/-- REQUEST_AGED: ENG_AGE_CAP has passed since the request entered the engine (R180). -/
def doRequestAged (pc id : Nat) (s : State) : State :=
  match heldOf s pc id with
  | none => s
  | some h =>
    if h.aged || h.issued.isSome || h.hold = .test || !nckPassed s h.from_ (rd s R.ENG_AGE_CAP) then s
    else
      let s := bumpi (setHeld s pc id { h with aged := true }) R.ENG_AGED pc
      raiseEng (obsEventPc s (unitEngine (pc / 2)) 31 (some pc) 1) (pc / 2) 4 0 true

def execRequestAged (pc id : Nat) (s : State) : Host.Outcome State Fault Refusal := .next (doRequestAged pc id s)

/-- A lowered ENG_AGE_CAP ages at once what is older (R199). -/
def ageAll (s : State) : State :=
  forEach s.pchs s fun s (pc, p) => forEach p.held s fun s (id, _) => doRequestAged pc id s

/-- SAG number in a pseudo-channel: (SID × 32 + bank) × 2 + SAG; the SAG's state. -/
def sagNo (sid bank sag : Nat) : Nat := (sid * 32 + bank) * 2 + sag
def sagAt (s : State) (pc i : Nat) : Sag := tget (pchOf s pc).sags i {}
def setSag (s : State) (pc i : Nat) (g : Sag) : State := modPch s pc fun p => { p with sags := tset p.sags i g }
def keySag (k : Nat) : Nat := sagNo (keySid k) (keyBank k) (sagOf (keyRow k))

/-- An urgent refresh holds the SAG (R181). -/
def urgentSag (s : State) (pc i : Nat) : Bool :=
  (tget (pchOf s pc).refresh i []).any (·.urgent) || (tget (pchOf s pc).refab (i / 64) []).any (·.urgent)

/-- The pseudo-channel may be commanded: present, in service, not held for retraining, its channel ready. -/
def commandable (s : State) (pc : Nat) : Bool :=
  pc < nPcs s && !(pchOf s pc).hold && rdi s R.CDI_PC_STATE pc ≠ 3 && chanReady s (pc / 2)

/-- A held request still waits for its column command; a read-modify-write entry waits for its read, then its write. -/
def wantsColumn (h : Held) : Bool := h.issued.isNone && h.reading.isNone && !isMerge h
def needsRead (h : Held) : Bool :=
  h.hold = .read || ((isInternal h || h.hold = .test) && !writesLine h.purpose) || (isWriteQ h && !isFull h)
/-- The entry still has a column command to come on its row, be it after the read it awaits. -/
def hitsRow (h : Held) : Bool := h.issued.isNone && !isMerge h

/-- The SAG is refreshing, or the channel leaves self-refresh, at nCK `nck` (Table ENG-3). -/
def refreshing (s : State) (pc i nck : Nat) : Bool :=
  (chanOf s (pc / 2)).hist.any fun a =>
    (a.cmd = cSrx && nck < a.nck + 576) ||
    (a.pc = pc % 2 &&
      (((a.cmd = cRefpb || a.cmd = cReft) && sagNo a.sid a.bank a.sag = i && nck < a.nck + 224) ||
       (a.cmd = cRefab && a.sid = i / 64 && nck < a.nck + 560)))

/-- The latest activation of the SAG in the channel's history. -/
def lastAct (s : State) (pc i : Nat) : Option Issued :=
  (chanOf s (pc / 2)).hist.find? fun a => a.cmd = cAct && a.pc = pc % 2 && sagNo a.sid a.bank a.sag = i

/-- The row of the SAG has met tRAS (T8). -/
def rasMet (s : State) (pc i nck : Nat) : Bool :=
  match lastAct s pc i with
  | some a => a.nck + 45 ≤ nck
  | none => true

/-- R177: the request is eligible on this nCK. -/
def sagEligible (s : State) (pc : Nat) (h : Held) (nck : Nat) : Bool :=
  let i := keySag h.key
  let g := sagAt s pc i
  !urgentSag s pc i && !refreshing s pc i nck &&
    (g.reft.isNone || (g.row = some (keyRow h.key) && !rasMet s pc i nck))

/-- A read of the read queue is eligible (R177). -/
def readEligible (s : State) (pc nck : Nat) : Bool :=
  commandable s pc && (pchOf s pc).held.any fun (_, h) => h.hold = .read && h.issued.isNone && sagEligible s pc h nck

/-- A request of the current mode (R176, R179). -/
def currentMode (s : State) (pc nck : Nat) (h : Held) : Bool :=
  if (pchOf s pc).drain then h.hold = .write || h.hold = .homeSlot
  else h.hold = .read || ((h.hold = .write || h.hold = .homeSlot) && !readEligible s pc nck)

/-- The mode lets the request be commanded (R176, R180, Table ENG-4): aged requests and internal ones of level 3 always do;
scrubber and copy reads wait in drain mode with the other reads. -/
def modeAllows (s : State) (pc nck : Nat) (h : Held) : Bool :=
  h.aged || h.hold = .test || currentMode s pc nck h || (isInternal h && (writesLine h.purpose || !(pchOf s pc).drain))

/-- The qualification test of the bank (R186). -/
def qualOf (s : State) (pc sid bank : Nat) : Option QualRun :=
  (pchOf s pc).qual.bind fun q => if q.bank = sid * 32 + bank then some q else none

/-- From the first ACT of a row under test to its last PRE no command for other requests goes to the bank (R186). -/
def testOpen (s : State) (pc sid bank : Nat) : Bool :=
  match qualOf s pc sid bank with
  | some q => q.stage ≠ .next
  | none => false

/-- Stage of the bank's test if `row` is its present row. -/
def testStage (s : State) (pc sid bank row : Nat) : Option QualStage :=
  (qualOf s pc sid bank).bind fun q => if q.rows.head? = some row then some q.stage else none

/-- Class at which a command to the row is timed (R184, R186, R187): a row under test is at the test class from the PRE that
tests its write to the reads that test it, and at class 0 before and after; what restores a row is at class 0. -/
def timedClass (s : State) (pc sid bank row : Nat) : Nat :=
  match testStage s pc sid bank row, qualOf s pc sid bank with
  | some st, some q => match st with
      | .next => (bankClass s pc sid bank).cls
      | .restore | .reopen | .compare => q.cls
      | .capture | .close => 0
  | _, _ =>
    if (pchOf s pc).held.any fun (_, h) => (h.purpose = .qualRestore || h.purpose = .qualCheck) &&
        keySid h.key = sid && keyBank h.key = bank && keyRow h.key = row then 0
    else (bankClass s pc sid bank).cls

/-- The oldest waiting request of a row, and the oldest that conflicts with the row open in a SAG; none while a row of the bank
is under test. -/
def waitingRow (s : State) (pc sid bank row : Nat) (f : Held → Bool) : Option (Nat × Held) :=
  (pchOf s pc).held.find? fun (_, h) =>
    wantsColumn h && keySid h.key = sid && keyBank h.key = bank && keyRow h.key = row && f h &&
      (h.hold = .test || !testOpen s pc sid bank)
def conflicting (s : State) (pc i row : Nat) (f : Held → Bool) : Option (Nat × Held) :=
  (pchOf s pc).held.find? fun (_, h) =>
    wantsColumn h && keySag h.key = i && keyRow h.key ≠ row && f h && !testOpen s pc (keySid h.key) (keyBank h.key)

/-- A request's first command: its page outcome is fixed and counted, and its age and stamps noted (R174, R180, 15 R405).
Outcomes: 1 hit, 2 miss, 3 conflict. -/
def firstCommand (s : State) (pc id outcome : Nat) : State :=
  match heldOf s pc id with
  | none => s
  | some h =>
    if h.page ≠ 0 then s
    else
      let s := setHeld s pc id { h with page := outcome }
      let r := if outcome = 1 then R.ENG_PAGE_HITS else if outcome = 2 then R.ENG_PAGE_MISSES else R.ENG_PAGE_CONFLICTS
      let s := obsEventPc (bumpWrap s r pc 1 64) (unitEngine (pc / 2)) (22 + outcome) (some pc) 1
      let s := wri s R.ENG_AGE_MAX pc (min satMax (max (rdi s R.ENG_AGE_MAX pc) (s.now - h.from_)))
      match h.uid with
      | some uid =>
        if h.hold = .read then
          modFlight s uid fun f => { f with
            t2 := some s.now, page := outcome, bank := bankIndex pc (keySid h.key) (keyBank h.key) }
        else s
      | none => s

/-- An activation in a tracker of 32 entries (R194): the new tracker, whether REFT is triggered, and its lowest count. -/
def trackAct (t : List (Option Nat × Nat)) (row limit : Nat) : List (Option Nat × Nat) × Bool × Nat :=
  let low := (t.map (·.2)).foldl min ((t.map (·.2)).headD 0)
  let i := match t.findIdx? (fun e => e.1 = some row) with
    | some i => i
    | none => (t.findIdx? fun e => e.2 = low).getD 0
  let n := (t.getD i (none, 0)).2 + 1
  let others := (t.eraseIdx i).map (·.2)
  let n' := if limit ≤ n then others.foldl min (others.headD 0) else n
  let t := t.set i (some row, n')
  (t, decide (limit ≤ n), (t.map (·.2)).foldl min n')

/-- A row that a request of the current mode still hits stays open for a conflicting request that is not aged (R179). -/
def mayClose (s : State) (pc sid bank row nck : Nat) : Bool :=
  !(pchOf s pc).held.any fun (_, h) => hitsRow h && keySid h.key = sid && keyBank h.key = bank && keyRow h.key = row &&
    currentMode s pc nck h && !testOpen s pc sid bank

def emptyTracker : List (Option Nat × Nat) := List.replicate 32 (none, 0)

/-- The bank's tracker counts an activation (R194, R197). -/
def trackRow (s : State) (pc sid bank row nck : Nat) : State :=
  let b := sid * 32 + bank
  let limit := rd s R.ENG_RH_THRESHOLD
  let (t, hit, low) := trackAct (tget (pchOf s pc).trackers b emptyTracker) row limit
  let s := modPch s pc fun p => { p with trackers := tset p.trackers b t }
  let i := sagNo sid bank (sagOf row)
  let s := if hit then setSag s pc i { sagAt s pc i with reft := some row, reftAt := nck } else s
  if limit ≤ low && !tget (pchOf s pc).saturated b false then
    let s := bumpi (modPch s pc fun p => { p with saturated := tset p.saturated b true }) R.ENG_RH_SATURATIONS pc
    raiseEng s (pc / 2) 3 (bankIndex pc sid bank) true
  else s

/-- The thermal allowance leaves a column command in the 64-nCK period of `nck` (R182). -/
def withinAllowance (s : State) (pc nck : Nat) : Bool :=
  let p := pchOf s pc
  let a := rdi s R.RFH_ALLOWANCE (pc / 2)
  32 ≤ a || p.period ≠ nck / 64 || decide (p.used < a)
def useAllowance (s : State) (pc nck : Nat) : State :=
  modPch s pc fun p => if p.period = nck / 64 then { p with used := p.used + 1 } else { p with period := nck / 64, used := 1 }

/-- The entry writes its line, whole or in part. -/
def writer (x : Held) : Bool :=
  isSlot x || isWriteQ x || isMerge x || ((isInternal x || x.hold = .test) && writesLine x.purpose && !x.stale && !x.marked)

/-- Writers that a column command waits for (R170, Table ENG-4): a burst to its place that has not ended; older writes of its
line, for a read those that answer it alone; and block-generated writes of its place, which have a higher level. A row under test
waits for bursts only, since other writes of its bank wait for it. -/
def mustWait (s : State) (pc id : Nat) (h : Held) : Bool :=
  (pchOf s pc).held.any fun (j, x) =>
    let older := decide (x.seq < h.seq) && (x.key = h.key || (sameLine x h && !isInternal x && !isInternal h)) &&
      (!needsRead h || isSlot x || isInternal x || isFull x)
    j ≠ id && writer x &&
      ((x.key = h.key && x.issued.isSome) ||
        (h.hold ≠ .test && !(isInternal h && blockWrite h.purpose) &&
          (older || (x.key = h.key && isInternal x && blockWrite x.purpose))))

/-- The column command meets an open row of its SAG, its mode, the holds and the allowance. -/
def columnReady (s : State) (pc id : Nat) (h : Held) (nck : Nat) : Bool :=
  commandable s pc && (sagAt s pc (keySag h.key)).row = some (keyRow h.key) && sagEligible s pc h nck &&
    modeAllows s pc nck h && withinAllowance s pc nck && !mustWait s pc id h &&
    (h.hold = .test || !testOpen s pc (keySid h.key) (keyBank h.key))

/-- A column command as the channel records it. -/
def columnOf (s : State) (pc cmd : Nat) (h : Held) (nck : Nat) : Issued :=
  ⟨nck, cmd, pc % 2, keySid h.key, keyBank h.key, sagOf (keyRow h.key), keyRow h.key * 16 + keyCol h.key,
    timedClass s pc (keySid h.key) (keyBank h.key) (keyRow h.key)⟩

/-- A preamble gap asked for delays the next RD of its SID by one nCK (08 R214). -/
def gapMet (s : State) (pc : Nat) (h : Held) (nck : Nat) : Bool :=
  !bitOf (pchOf s pc).gaps (keySid h.key) || timingMet s (pc / 2) (columnOf s pc cRd h (nck - 1))

/-- An internal write that is discarded at issue (10 R266, R285). -/
def discarded (h : Held) : Bool :=
  isInternal h && ((blockWrite h.purpose && h.stale) || (h.purpose = .copyWrite && h.marked))

/-- The write has a whole line to send. -/
def readyToWrite (h : Held) : Bool :=
  (isWriteQ h && isFull h) || isSlot h || ((isInternal h || h.hold = .test) && writesLine h.purpose)

/-- The row that the qualifier has to open now (R186). -/
def qualOpens (s : State) (pc sid bank row : Nat) : Option QualRun :=
  (qualOf s pc sid bank).bind fun q =>
    if q.rows.head? = some row && (q.stage = .next || q.stage = .reopen) then some q else none

/-- The test's own PRE: line 0 is on its way, or the row is done with (R186). -/
def qualCloses (s : State) (pc : Nat) (q : QualRun) : Bool :=
  q.stage = .close || (q.stage = .restore && lineWritten s pc q)

/-- ACT and PRE as the channel records them; a row under test opens at class 0 first. -/
def actOf (s : State) (pc sid bank row nck : Nat) : Issued :=
  ⟨nck, cAct, pc % 2, sid, bank, sagOf row, row,
    if (qualOpens s pc sid bank row).any (·.stage = .next) then 0 else timedClass s pc sid bank row⟩
def preOf (s : State) (pc sid bank sag row nck : Nat) : Issued :=
  ⟨nck, cPre, pc % 2, sid, bank, sag, row, timedClass s pc sid bank row⟩

/-- A command that could issue for something the engine holds: its level in Table ENG-4, its place within the level, and what it
waits since, which is a refresh's deadline. -/
structure Candidate where
  level : Nat
  place : Nat
  since : Nat
  cmd : Issued
  deriving DecidableEq, Repr

/-- The next command of a held request on its way to its column command, whether or not timing allows it yet (R173, R175, R179);
`elig` says that its SAG is open to it (R177). -/
def nextCommand (s : State) (pc id : Nat) (h : Held) (nck : Nat) (elig : Bool) : Option Issued :=
  let sid := keySid h.key
  let bank := keyBank h.key
  let row := keyRow h.key
  let g := sagAt s pc (keySag h.key)
  if !(wantsColumn h && elig && (h.hold = .test || !testOpen s pc sid bank)) then none
  else match g.row with
    | none => if g.reft.isSome then none else some (actOf s pc sid bank row nck)
    | some r =>
      if r ≠ row then
        if h.aged || mayClose s pc sid bank r nck then some (preOf s pc sid bank (sagOf r) r nck) else none
      else if mustWait s pc id h || !withinAllowance s pc nck then none
      else if needsRead h then
        if readsBlocked s pc || !gapMet s pc h nck then none else some (columnOf s pc cRd h nck)
      else if readyToWrite h && !discarded h then some (columnOf s pc cWr h nck) else none

/-- Level and place of a held request's command (Table ENG-4); what restores a tested row goes with qualification, and copies and
saplings with scrubber reads. -/
def heldRank (s : State) (pc : Nat) (h : Held) (x : Issued) : Nat × Nat :=
  if h.aged then (2, 0)
  else if h.hold = .test || h.purpose = .qualRestore || h.purpose = .qualCheck then (3, 0)
  else if h.purpose = .poisonWrite then (3, 1)
  else if h.purpose = .writeback then (3, 2)
  else if isInternal h then (7, 0)
  else
    let kind := if onRowBus x.cmd then (if x.cmd = cAct then 1 else 2) else 0
    (if (pchOf s pc).drain || h.hold = .read then 4 else 5, kind * 2 + (if isSlot h then 0 else 1))

def heldCandidates (s : State) (pc nck : Nat) : List Candidate :=
  (pchOf s pc).held.filterMap fun (id, h) =>
    if !modeAllows s pc nck h then none
    else (nextCommand s pc id h nck (sagEligible s pc h nck)).map fun x =>
      let (l, p) := heldRank s pc h x
      ⟨l, p, h.from_, x⟩

/-- What a planner's refresh of one SAG needs next: its row closed, by a normal request only as R179 lets it, then REFpb (R181). -/
def refreshCandidates (s : State) (pc nck : Nat) : List Candidate :=
  (pchOf s pc).refresh.flatMap fun (i, l) => l.filterMap fun r =>
    let level := if r.urgent then 1 else 6
    let sid := i / 64
    let bank := i / 2 % 32
    match (sagAt s pc i).row with
    | some row =>
      if r.urgent || mayClose s pc sid bank row nck then some ⟨level, 0, r.deadline, preOf s pc sid bank (i % 2) row nck⟩ else none
    | none => some ⟨level, 0, r.deadline,
        ⟨nck, cRefpb, pc % 2, sid, bank, i % 2, r.group, (bankClass s pc sid bank).cls⟩⟩

/-- Open rows of a (pseudo-channel, SID): SAG and row. -/
def openRows (s : State) (pc sid : Nat) : List (Nat × Nat) :=
  (pchOf s pc).sags.filterMap fun (i, g) => if i / 64 = sid then g.row.map fun r => (i, r) else none

/-- The same for a refresh of every SAG of a SID. -/
def refabCandidates (s : State) (pc nck : Nat) : List Candidate :=
  (pchOf s pc).refab.flatMap fun (sid, l) => l.flatMap fun r =>
    let level := if r.urgent then 1 else 6
    let rows := openRows s pc sid
    if rows.isEmpty then [⟨level, 0, r.deadline, ⟨nck, cRefab, pc % 2, sid, 0, 0, 0, 0⟩⟩]
    else (rows.filter fun (i, row) => r.urgent || mayClose s pc sid (i / 2 % 32) row nck).map fun (i, row) =>
      ⟨level, 0, r.deadline, preOf s pc sid (i / 2 % 32) (i % 2) row nck⟩

/-- A pending targeted refresh closes its row, then issues, after urgent refreshes (R196). -/
def reftCandidates (s : State) (pc nck : Nat) : List Candidate :=
  (pchOf s pc).sags.filterMap fun (i, g) =>
    let sid := i / 64
    let bank := i / 2 % 32
    if g.reft.isNone then none
    else match g.row with
      | some row => some ⟨1, 1, g.reftAt, preOf s pc sid bank (i % 2) row nck⟩
      | none => some ⟨1, 1, g.reftAt, ⟨nck, cReft, pc % 2, sid, bank, i % 2, 0, (bankClass s pc sid bank).cls⟩⟩

/-- The qualification's own row commands: the ACT that starts a row under test at level 8, the others at level 3 (R186). -/
def qualCandidates (s : State) (pc nck : Nat) : List Candidate :=
  match (pchOf s pc).qual with
  | none => []
  | some q =>
    let sid := q.bank / 32
    let bank := q.bank % 32
    match q.rows, q.stage with
    | row :: _, .next => [⟨8, 0, 0, actOf s pc sid bank row nck⟩]
    | row :: _, .reopen => [⟨3, 0, 0, actOf s pc sid bank row nck⟩]
    | row :: _, _ => if qualCloses s pc q then [⟨3, 0, 0, preOf s pc sid bank (sagOf row) row nck⟩] else []
    | [], _ => []

/-- What the engine of a pseudo-channel could issue on one bus (R178). -/
def candidatesOf (s : State) (pc nck : Nat) (row : Bool) : List Candidate :=
  if !commandable s pc then []
  else (heldCandidates s pc nck ++ refreshCandidates s pc nck ++ refabCandidates s pc nck ++ reftCandidates s pc nck ++
    qualCandidates s pc nck).filter fun k => onRowBus k.cmd.cmd = row

/-- Order within a pseudo-channel, and a candidate's position within its level (R178). -/
def Candidate.before (a b : Candidate) : Bool :=
  decide (a.level < b.level) || (a.level = b.level &&
    (decide (a.place < b.place) || (a.place = b.place && decide (a.since < b.since))))
def Candidate.position (l : List Candidate) (a : Candidate) : Nat :=
  (l.filter fun b => b.level = a.level && b.before a).length

/-- The pseudo-channel was served on the bus in the previous nCK. -/
def servedLast (s : State) (pc nck : Nat) (row : Bool) : Bool :=
  (chanOf s (pc / 2)).hist.any fun a =>
    a.pc = pc % 2 && onRowBus a.cmd = row && decide (a.nck < nck) && decide (nck ≤ a.nck + if a.cmd = cAct then 2 else 1)

/-- R180: the command would hold back the next command of an aged request of its pseudo-channel. Older aged requests and level 1
are free to. -/
def delaysAged (s : State) (pc : Nat) (k : Candidate) : Bool :=
  let hist := (chanOf s (pc / 2)).hist.map (atClass s (pc / 2))
  k.level ≠ 1 && (pchOf s pc).held.any fun (id, h) =>
    h.aged && !(k.level = 2 && k.since ≤ h.from_) &&
      match nextCommand s pc id h k.cmd.nck
          (!urgentSag s pc (keySag h.key) && (sagAt s pc (keySag h.key)).reft.isNone) with
      | some y => decide (earliest hist y < earliest (k.cmd :: hist) y)
      | none => false

/-- The candidate that a command is: the first of its own that names it, or one past every level for the rows that an entry, a trip
or a reset closes. -/
def ownCandidate (l : List Candidate) (x : Issued) : Candidate :=
  (l.filter (·.cmd = x)).foldl (fun a b => if b.before a then b else a) ⟨9, 0, 0, x⟩

/-- R178, R180: the command is the first candidate of its bus that timing allows. Of two candidates at one level and position that of
the pseudo-channel not served last wins. -/
def chosen (s : State) (pc : Nat) (x : Issued) : Bool :=
  let row := onRowBus x.cmd
  let other := if pc % 2 = 0 then pc + 1 else pc - 1
  let mine := candidatesOf s pc x.nck row
  let theirs := candidatesOf s other x.nck row
  let k := ownCandidate mine x
  let pos := k.position mine
  let loses := fun (y : Candidate) => decide (y.level < k.level) || (y.level = k.level &&
    (decide (y.position theirs < pos) ||
      (y.position theirs = pos && servedLast s pc x.nck row && !servedLast s other x.nck row)))
  !(mine.any fun y => y.before k && timingMet s (pc / 2) y.cmd) &&
    !(theirs.any fun y => loses y && timingMet s (pc / 2) y.cmd) && !delaysAged s pc k

/-- An engine's command, counted by its unit (15 Table OBS-3). -/
def issueEng (s : State) (pc code : Nat) (x : Issued) (flips : Flips) (k : Bool → State → State) : State :=
  if chosen s pc x then issue s (pc / 2) x flips fun ok s => k ok (obsEventPc s (unitEngine (pc / 2)) code (some pc) 1) else s

/-- The bank's test moves on. -/
def modQual (s : State) (pc : Nat) (f : QualRun → QualRun) : State := modPch s pc fun p => { p with qual := p.qual.map f }

/-- A row under test has opened: its 16 lines are read (R186). -/
def readTestRow (s : State) (pc : Nat) (q : QualRun) (row : Nat) (stage : QualStage) : State :=
  forEach (nums 0 16) (modQual s pc fun q => { q with stage := stage }) fun s c =>
    addHeld s pc { qualHeld q row c .test .qualRead (0, false) with page := 1 }

/-- ACT: a closed SAG that no refresh holds opens the row of a waiting request, or of a qualification test (R173, R177,
R186, R194). -/
def doAct (pc sid bank row nck : Nat) (flips : Flips) (s : State) : State :=
  let i := sagNo sid bank (sagOf row)
  let g := sagAt s pc i
  let want := waitingRow s pc sid bank row (modeAllows s pc nck)
  let test := qualOpens s pc sid bank row
  if commandable s pc && sid < 4 && bank < 32 && row < 16384 && g.row.isNone && g.reft.isNone && !urgentSag s pc i &&
      (want.isSome || test.isSome) then
    let x := actOf s pc sid bank row nck
    issueEng s pc 18 x flips fun ok s =>
      let s := setSag s pc i { g with row := some row, latch := if ok then some row else g.latch, cls := x.cls }
      let s := if (sagAt s pc (sagNo sid bank (1 - sagOf row))).row.isSome then
          obsEventPc (bumpWrap s R.ENG_TWIN_OPENS pc 1 64) (unitEngine (pc / 2)) 26 (some pc) 1
        else s
      let s := match test, want with
        | some q, _ => readTestRow s pc q row (if q.stage = .next then .capture else .compare)
        | none, some (id, _) => firstCommand s pc id 2
        | none, none => s
      trackRow s pc sid bank row nck
  else s

def execAct (pc sid bank row nck : Nat) (flips : Flips) (s : State) : Host.Outcome State Fault Refusal :=
  .next (doAct pc sid bank row nck flips s)

/-- Every row is being closed for self-refresh: an entry past E1, a trip or a commanded reset (11 R299, 09 R253, 14
R388). -/
def closingAll (s : State) (c : Nat) : Bool := entryCovers s c || s.stack.trip || s.start.commanded.isSome

/-- The present row of a test has been closed for good: a row that differs is restored, and the test goes on with the next (R186,
R187). -/
def rowTested (s : State) (pc : Nat) (q : QualRun) : State :=
  let next := { q with stage := .next, buf := [], differs := false, dropped := false }
  if q.dropped then modQual s pc fun _ => next
  else restoreRow (modQual s pc fun _ => { next with rows := q.rows.drop 1, failed := q.failed || q.differs }) pc q q.differs

/-- A refresh, an entry, a trip or a reset has closed the row under test: its test starts over, once what was written is restored. -/
def rowInterrupted (s : State) (pc : Nat) (q : QualRun) : State :=
  let s' := modQual (dropTestHeld s pc) pc fun q => { q with stage := .next, buf := [], differs := false, dropped := false }
  restoreRow s' pc q (lineWritten s pc q)

/-- PRE of a row under test (R186). -/
def closeTested (s : State) (pc : Nat) (q : QualRun) (own : Bool) : State :=
  if !own then rowInterrupted s pc q
  else match q.stage with
    | .restore => modQual s pc fun q => { q with stage := .reopen }
    | _ => rowTested s pc q

/-- PRE: an open row closes for one of the causes of R175. -/
def doPre (pc sid bank sag nck : Nat) (flips : Flips) (s : State) : State :=
  let i := sagNo sid bank sag
  let g := sagAt s pc i
  match g.row with
  | none => s
  | some row =>
    let refresh := urgentSag s pc i || g.reft.isSome
    let asked := !(tget (pchOf s pc).refresh i []).isEmpty || !(tget (pchOf s pc).refab sid []).isEmpty
    let free := mayClose s pc sid bank row nck
    let want := if free then conflicting s pc i row (modeAllows s pc nck) else conflicting s pc i row (·.aged)
    let test := (qualOf s pc sid bank).bind fun q => if q.rows.head? = some row && q.stage ≠ .next then some q else none
    let own := (test.map (qualCloses s pc)).getD false
    let other := refresh || closingAll s (pc / 2) || (test.isNone && ((asked && free) || want.isSome))
    if commandable s pc && (own || other) then
      issueEng s pc 19 (preOf s pc sid bank sag row nck) flips fun _ s =>
        let s := setSag s pc i { g with row := none }
        match test, want with
        | some q, _ => closeTested s pc q own
        | none, some (id, _) => if refresh then s else firstCommand s pc id 3
        | none, none => s
    else s

def execPre (pc sid bank sag nck : Nat) (flips : Flips) (s : State) : Host.Outcome State Fault Refusal :=
  .next (doPre pc sid bank sag nck flips s)

/-- A burst that arrives proves its SID's history up to its command, and its lanes are tracked (08 R213 to R216, R224). -/
def takeBurst (s : State) (pc sid : Nat) (preamble : Bool) (b : BurstReport) : State :=
  proveNow (trackBurst s pc sid preamble b) (pc / 2) sid

/-- COLUMN_RD: a read, or the read of a read-modify-write entry; a queue entry's room returns (R169, R174). `b` is what the
PHY saw with the burst (08 R213 to R215); a slice that does not execute the command sends none (08 R204). -/
def doColumnRd (pc id nck : Nat) (b : BurstReport) (flips : Flips) (s : State) : State :=
  match heldOf s pc id with
  | none => s
  | some h =>
    if wantsColumn h && needsRead h && columnReady s pc id h nck && !readsBlocked s pc && gapMet s pc h nck then
      let preamble := hasPreamble s (pc / 2) (columnOf s pc cRd h nck)
      issueEng s pc 16 (columnOf s pc cRd h nck) flips fun ok s =>
        let s := firstCommand s pc id 1
        let s := useAllowance (bumpWrap s R.ENG_READS pc 1 64) pc nck
        let s := obsEventPc s (unitEngine (pc / 2)) 30 (some pc) 2
        let h := { (heldOf s pc id).getD h with cls := (sagAt s pc (keySag h.key)).cls, stale := false, unheard := !ok }
        let s := if isWriteQ h then setHeld s pc id { h with reading := some nck }
          else setHeld (if h.hold = .read then returnCreditOf s 1 h else s) pc id { h with issued := some nck, credit := none }
        let s := match h.uid with
          | some uid => if h.hold = .read then modFlight s uid fun f => { f with cls := h.cls } else s
          | none => s
        if ok then takeBurst s pc (keySid h.key) preamble b else s
    else s

def execColumnRd (pc id nck : Nat) (b : BurstReport) (flips : Flips) (s : State) : Host.Outcome State Fault Refusal :=
  .next (doColumnRd pc id nck b flips s)

/-- The repair job of a pseudo-channel that is mirroring (10 R284), and the place of a logical row at its destination. -/
def jobOf (s : State) (pc : Nat) : Option Job := tget? s.stack.jobs pc
def jobActive (s : State) (pc : Nat) : Bool := rdi s R.INT_REPAIR_STATE pc = 2
def jobDest (j : Job) (pc sid bank row : Nat) : Option (Nat × Nat) :=
  if j.lbank ≠ bankIndex pc sid bank then none
  else if j.bank then some (j.spare, row)
  else if j.row ≤ row && decide (row < j.row + j.rows) then j.dest[row - j.row]? else none

/-- Key of a held line at the destination of the job under way, where its row is a source row. -/
def mirrorKey (s : State) (pc : Nat) (h : Held) : Option Nat :=
  if !jobActive s pc then none
  else match jobOf s pc with
    | none => none
    | some j => (jobDest j pc h.lsid h.lbank h.lrow).bind fun (sid, row) =>
        let k := locKey sid 31 row (keyCol h.key)
        if k = h.key then none else some k

/-- Where a host or home write has still to go once it has been written to its own place: to the destination of a job that copies
its row, and to where the repair tables now have its line, if they changed while it was held (10 R284; 04 R99). -/
def furtherKeys (s : State) (pc : Nat) (h : Held) : List Nat :=
  let now := (heldFor s ⟨pc, h.lsid, h.lbank, h.lrow, keyCol h.key⟩ .write .host).key
  ((now :: (mirrorKey s pc h).toList).eraseDups).filter fun k => k ≠ h.key && !h.done.contains k

/-- A mirrored write's issue marks the line for a copy whose read has issued (10 R285). -/
def markCopy (s : State) (pc : Nat) (h : Held) : State :=
  if h.done.isEmpty then s
  else modPch s pc fun p => { p with held := p.held.map fun (i, x) =>
    (i, if isInternal x && ((x.purpose = .copyWrite && x.key = h.key) ||
        (x.purpose = .copyRead && x.issued.isSome && x.lsid = h.lsid && x.lbank = h.lbank && x.lrow = h.lrow &&
          keyCol x.key = keyCol h.key)) then { x with marked := true } else x) }

/-- The next line of a repair copy is read through the tables in force, line by line (10 R284). -/
def nextCopy (s : State) (pc : Nat) : State :=
  match jobOf s pc with
  | none => s
  | some j =>
    let total := (if j.bank then 16384 else j.rows) * 16
    if rdi s R.INT_REPAIR_STATE pc ≠ 2 || total ≤ j.copied then s
    else
      let l : Loc := ⟨pc, j.lbank / 32 % 4, j.lbank % 32, (if j.bank then 0 else j.row) + j.copied / 16, j.copied % 16⟩
      modPch s pc fun p => { p with work := p.work ++ [heldFor s l .internal .copyRead] }

/-- A line has been copied, or needs no copy (10 R284, R285). -/
def lineCopied (s : State) (pc : Nat) : State :=
  match jobOf s pc with
  | none => s
  | some j =>
    let s := modStack s fun t => { t with jobs := tset t.jobs pc { j with copied := j.copied + 1 } }
    nextCopy (wri s R.INT_REPAIR_PROGRESS pc (j.copied + 1)) pc

/-- WR: the line leaves on a write burst, which only a slice that executes the command takes (08 R204); a discarded write leaves its
slot instead (R170, 10 R266). -/
def doWr (pc id nck : Nat) (flips : Flips) (s : State) : State :=
  match heldOf s pc id with
  | none => s
  | some h =>
    if !(wantsColumn h && readyToWrite h) then s
    else if discarded h then
      let s := delHeld s pc id
      settlePch (if h.purpose = .copyWrite then lineCopied s pc else s) pc
    else if columnReady s pc id h nck then
      issueEng s pc 17 (columnOf s pc cWr h nck) flips fun ok s =>
        let s := firstCommand s pc id 1
        let s := if h.purpose = .writeback then bumpWrap s R.INT_WRITEBACKS pc 1 64 else s
        let s := useAllowance (bumpWrap s R.ENG_WRITES pc 1 64) pc nck
        let s := obsEventPc s (unitEngine (pc / 2)) 30 (some pc) 2
        let h := (heldOf s pc id).getD h
        let s := modPch s pc fun p => { p with lanes := laneBurst s pc (encodeLine h.data h.poison) }
        markCopy (setHeld s pc id { h with issued := some nck, unheard := !ok }) pc h
    else s

def execWr (pc id nck : Nat) (flips : Flips) (s : State) : Host.Outcome State Fault Refusal := .next (doWr pc id nck flips s)

/-- A burst has ended: a host or home write that has a further place to go to stays for it; else the entry or slot is freed, its
credit returns, a copy goes on, and a restored line is read back (R169, R187; 10 R284). -/
def writeEnded (s : State) (pc id : Nat) (h : Held) : State :=
  match (if isInternal h || h.hold = .test then [] else furtherKeys s pc h) with
  | k :: _ => setHeld s pc id { h with key := k, done := h.key :: h.done, issued := none, unheard := false, aged := false, page := 1 }
  | [] =>
    let s := returnCreditOf (delHeld s pc id) 2 h
    if h.purpose = .copyWrite then lineCopied s pc
    else if h.purpose = .qualRestore then addInternal s pc { h with purpose := .qualCheck, issued := none, unheard := false, aged := false }
    else s

/-- WRITE_BURST_END: the die holds the line, unless its slice ignored the command, and words of it that waited count as rewritten (R169, 10 Table INT-3). The last beat
leaves WL + 2 nCK after the command. -/
def doWriteBurstEnd (pc id : Nat) (s : State) : State :=
  match heldOf s pc id with
  | none => s
  | some h =>
    match h.issued with
    | none => s
    | some n =>
      if !readyToWrite h then s
      else
        let s := if h.unheard then s else storeCell s pc h.key (encodeLine h.data h.poison)
        let s := lineRewritten s pc h.lsid h.lbank h.lrow (keyCol h.key) (n + 12)
        settlePch (writeEnded s pc id h) pc

def execWriteBurstEnd (pc id : Nat) (s : State) : Host.Outcome State Fault Refusal := .next (doWriteBurstEnd pc id s)

/-- The decode of a read-modify-write entry's read (R172). -/
def decodeRmw (s : State) (pc id : Nat) (h : Held) (d : Decode) (par : Parity) (nck : Nat) : State :=
  let (_, s) := reportDecode s pc h d nck
  let d := if par = .good then d else { d with out := .poisoned }
  settlePch (completeRmw s pc id ((heldOf s pc id).getD h) d) pc

/-- The decode of a queued read (R171, 10 R265 to R269). A line that loses its parity on the way is poison, a lost answer
leaves the request to its response timeout (01 R17). -/
def decodeHost (s : State) (pc id : Nat) (h : Held) (d : Decode) (par : Parity) (nck : Nat) : State :=
  let s := delHeld s pc id
  let (timing, s) := reportDecode s pc h d nck
  let err := decodeError d.out
  let (l, bad, s) := overlayHeld s pc h d.data (err = 0)
  let s := if h.stale then s else rewriteAfter s pc h d timing
  let err := if err ≠ 0 then err else if bad || par = .badData then 5 else 0
  let s := match h.uid with
    | some uid => modFlight s uid fun f => { f with t3 := some s.now }
    | none => s
  let s := settlePch s pc
  match h.txn with
  | some t => if par = .badHeader then s else readAnswered s t err l
  | none => s

/-- The decode of a scrubber or copy read: the copy goes on to its destination (10 R265, R267, R285). -/
def decodeInternal (s : State) (pc id : Nat) (h : Held) (d : Decode) (par : Parity) (nck : Nat) : State :=
  let s := delHeld s pc id
  let (timing, s) := reportDecode s pc h d nck
  let s := if h.stale then s else rewriteAfter s pc h d timing
  let bad := d.out = .uncorrectable || d.out = .poisoned || par ≠ .good
  let s := if h.purpose ≠ .copyRead then s
    else if h.marked then lineCopied s pc
    else match mirrorKey s pc h with
      | some k => modPch s pc fun p => { p with
          work := p.work ++ [{ internalFrom h .copyWrite d.data bad false with key := k, stale := false }] }
      | none => s
  settlePch s pc

/-- The row under test goes on once the last of its commands has answered: its line 0 is written back from the capture, or it is
closed (R186). -/
def settleTest (s : State) (pc : Nat) : State :=
  match (pchOf s pc).qual with
  | none => s
  | some q =>
    if (pchOf s pc).held.any fun (_, h) => h.hold = .test then s
    else match q.stage, q.rows, tget? q.buf 0 with
      | .capture, row :: _, some line =>
        if q.dropped then modQual s pc fun q => { q with stage := .close }
        else addHeld (modQual s pc fun q => { q with stage := .restore }) pc
          { qualHeld q row 0 .test .qualWrite line with page := 1 }
      | .capture, _, _ | .compare, _, _ => modQual s pc fun q => { q with stage := .close }
      | _, _, _ => s

/-- The row that replaces a dropped one: the qualifier's next choice in its SAG, else the SAG's lowest row not chosen yet (R186). -/
def replaceRow (q : QualRun) (row : Nat) : QualRun :=
  let next := (q.spare.find? fun r => sagOf r = sagOf row).orElse fun _ =>
    (nums (sagOf row * 8192) 8192).find? fun r => !q.chosen.contains r
  { q with
    rows := next.toList ++ q.rows.drop 1, spare := q.spare.filter (some · ≠ next), chosen := next.toList ++ q.chosen, dropped := true }

/-- A read of a row under test (R186): captured when decoded the first time, where an uncorrectable line or a corrected symbol drops
the row and is handled as any read's; compared raw with the capture the second time. -/
def decodeTest (s : State) (pc id : Nat) (h : Held) (raw : Codeword) (d : Decode) (nck : Nat) : State :=
  match (pchOf s pc).qual with
  | none => s
  | some q =>
    let s := delHeld s pc id
    let s := if q.stage = .compare then
        let same := (tget? q.buf (keyCol h.key)).any fun (l, bad) => raw = encodeLine l bad
        modQual s pc fun q => { q with differs := q.differs || !same }
      else if d.out = .uncorrectable || d.out = .corrected then
        let s := dropTestHeld (modQual s pc fun q => if q.dropped then q else replaceRow q (keyRow h.key)) pc
        let (timing, s) := reportDecode s pc h d nck
        rewriteAfter s pc h d timing
      else modQual s pc fun q => { q with buf := tset q.buf (keyCol h.key) (d.data, d.out = .poisoned) }
    settlePch (settleTest s pc) pc

/-- The read-back of a restored line: only a difference from what was written is an error, and a read's like any other (R187). -/
def decodeCheck (s : State) (pc id : Nat) (h : Held) (raw : Codeword) (d : Decode) (par : Parity) (nck : Nat) : State :=
  if raw = encodeLine h.data h.poison then settlePch (delHeld s pc id) pc else decodeInternal s pc id h d par nck

/-- READ_DECODE: the codec decodes the stored line as read, `err` being what the lanes altered (10 R261 to R269). A read whose burst
was missing is not decoded (08 R225). -/
def doReadDecode (pc id : Nat) (err : BitVec 576) (par : Parity) (s : State) : State :=
  match heldOf s pc id with
  | none => s
  | some h =>
    match h.reading.orElse fun _ => if needsRead h then h.issued else none with
    | none => s
    | some nck => if h.unheard then s else
      let (c, s) := readCell s pc h.key
      let s := modPch s pc fun p => { p with lanes := laneBurst s pc (c ^^^ err) }
      let d := decodeLine (markedLanes s pc) (c ^^^ err)
      let s := if par = .good then s else raiseParity s 8 12 (unitEngine (pc / 2))
      if h.hold = .test then decodeTest s pc id h (c ^^^ err) d nck
      else if h.purpose = .qualCheck then decodeCheck s pc id h (c ^^^ err) d par nck
      else if isWriteQ h then decodeRmw s pc id h d par nck
      else if h.hold = .read then decodeHost s pc id h d par nck
      else decodeInternal s pc id h d par nck

def execReadDecode (pc id : Nat) (err : BitVec 576) (par : Parity) (s : State) : Host.Outcome State Fault Refusal :=
  .next (doReadDecode pc id err par s)

end Sys2Proof.Machine
end

