-- ==== Sys2Proof/Machine/Spare.lean ====
section
/-!
DEFINITION. The spare pool: roles, graft rows and entries, and moving rows between a bank and its spare rows (10 R281,
R282; 04 R96; 09 R246).
-/
namespace Sys2Proof.Machine

/-- INT_SPARE_STATE of the spare bank of a SID: role in [31:30]. -/
def spareKey (pc sid : Nat) : Nat := keyOf (0x8200 + pc) sid
def spareWord (s : State) (pc sid : Nat) : Nat := val s (spareKey pc sid) 0
def setSpareWord (s : State) (pc sid v : Nat) : State := put s (spareKey pc sid) 0 v
def spareRole (s : State) (pc sid : Nat) : Nat := field (spareWord s pc sid) 30 2

/-- FREE spare banks of a pseudo-channel, a preferred SID first, then by SID (R282). -/
def freeSpares (s : State) (pc : Nat) (first : Option Nat) : List Nat :=
  let taken := match jobOf s pc with
    | some j => if j.bank && jobActive s pc then some j.spare else none
    | none => none
  let l := (nums 0 4).filter fun i => spareRole s pc i = 0 && taken ≠ some i
  match first with
  | some f => if l.contains f then f :: l.filter (· ≠ f) else l
  | none => l

/-- Grafts of a pseudo-channel. -/
def pcGrafts (s : State) (pc : Nat) : Tbl (Nat × Nat) := s.stack.grafts.filter fun (k, _) => k / 2097152 = pc

/-- The logical row a physical row serves: its own unless that is grafted or its bank replaced, or for a spare bank what is
grafted or replaced onto it. -/
def servedRow (s : State) (pc sid bank row : Nat) : Option Loc :=
  if bank ≠ 31 then
    let replaced := match replacement s pc sid with
      | some (b, _) => decide (b = bank)
      | none => false
    if replaced || (tget? s.stack.grafts (graftKey pc sid bank row)).isSome then none else some ⟨pc, sid, bank, row, 0⟩
  else if spareRole s pc sid = 1 then
    some ⟨pc, field (spareWord s pc sid) 27 2, field (spareWord s pc sid) 22 5, row, 0⟩
  else ((pcGrafts s pc).find? fun (_, v) => v = (sid, row)).map fun (k, _) =>
    ⟨pc, k / 524288 % 4, k / 16384 % 32, k % 16384, 0⟩

/-- Retired graft rows, by (pseudo-channel × 4 + SID) × 16,384 + row. -/
def rowRetired (s : State) (pc sid row : Nat) : Bool := tget s.stack.retiredSpare ((pc * 4 + sid) * 16384 + row) false
def retireSpareRow (s : State) (pc sid row : Nat) : State :=
  modStack s fun t => { t with retiredSpare := tset t.retiredSpare ((pc * 4 + sid) * 16384 + row) true }

/-- Row key of a place. -/
def rowKey (sid bank row : Nat) : Nat := (sid * 32 + bank) * 16384 + row

/-- The engine holds a request whose target satisfies `f`, by row key: it keeps that target until it completes (04 R99). -/
def targeted (s : State) (pc : Nat) (f : Nat → Bool) : Bool :=
  let p := pchOf s pc
  (p.held.any fun (_, h) => f (h.key / 16)) || (p.store ++ p.work).any fun h => f (h.key / 16)

/-- A spare row holds no graft, is not retired, and no request still goes there. -/
def rowFree (s : State) (pc sid row : Nat) : Bool :=
  !rowRetired s pc sid row && !((pcGrafts s pc).any fun (_, v) => v = (sid, row)) &&
    !targeted s pc fun k => k = rowKey sid 31 row

/-- Graft rows that may take rows of a SAG, lowest first (Table INT-5). -/
def graftRows (sag : Nat) : List Nat := if sag = 0 then nums 0 0x2000 else nums 0x2000 0x1E00

/-- The lowest free graft rows of a SAG `n` of them, bank by bank: fewer where the pool is short (R282). -/
def allocRows (s : State) (pc sag n : Nat) (banks : List Nat) : List (Nat × Nat) :=
  (banks.flatMap fun b => ((graftRows sag).filter (rowFree s pc b)).map fun r => (b, r)).take n

/-- Test blocks in use in a spare bank, and the lowest free one. -/
def blocksUsed (s : State) (pc sid : Nat) : List Nat :=
  (s.stack.parks.filter fun (k, p) => k / 131072 = pc && p.spareSid = sid).map fun (_, p) => p.block
def freeBlock (s : State) (pc : Nat) (banks : List Nat) : Option (Nat × Nat) :=
  (banks.flatMap fun b => ((nums 0 16).filter fun k =>
    !(blocksUsed s pc b).contains k && !targeted s pc fun r => r / 16 = rowKey b 31 0x3E00 / 16 + k).map fun k => (b, k)).head?

/-- Free graft entries of a pseudo-channel's 512. -/
def freeEntries (s : State) (pc : Nat) : Nat := 512 - (pcGrafts s pc).length

/-- The counts that show the pool follow it (MAP_GRAFTS_USED, INT_SPARE_STATE). -/
def settleSpares (s : State) (pc : Nat) : State :=
  let s := wri s R.MAP_GRAFTS_USED pc (pcGrafts s pc).length
  forEach (nums 0 4) s fun s sid =>
    let rows := ((pcGrafts s pc).filter fun (_, v) => v.1 = sid && decide (v.2 < 0x3E00)).length
    setSpareWord s pc sid (putField (putField (spareWord s pc sid) 0 14 rows) 16 5 (blocksUsed s pc sid).length)

/-- A graft is set, or freed. -/
def setGraft (s : State) (pc sid bank row : Nat) (v : Nat × Nat) : State :=
  modStack s fun t => { t with grafts := tset t.grafts (graftKey pc sid bank row) v }
def delGraft (s : State) (pc sid bank row : Nat) : State :=
  modStack s fun t => { t with grafts := tdel t.grafts (graftKey pc sid bank row) }

/-- A line is copied through the codec: its decode is reported, and what is not data is written poisoned (R285). `l` is the
logical place the line serves. -/
def copyLine (s : State) (l : Loc) (purpose : Purpose) (from_ dst : Nat) : State :=
  let (c, s) := readCell s l.pc from_
  let d := decodeLine (markedLanes s l.pc) c
  let h : Held := { hold := .internal, purpose := purpose, key := from_, lsid := l.sid, lbank := l.bank, lrow := l.row }
  let (_, s) := reportDecode s l.pc h d 0
  storeCell s l.pc dst (encodeLine d.data (d.out = .uncorrectable || d.out = .poisoned))

/-- A row's 16 lines are copied; what waits for the row keeps its target (04 R99). `from_` and `dst` are row keys (key / 16). -/
def copyRow (s : State) (l : Loc) (purpose : Purpose) (from_ dst : Nat) : State :=
  forEach (nums 0 16) s fun s c => copyLine s { l with col := c } purpose (from_ * 16 + c) (dst * 16 + c)

/-- A line is written raw: every bit equal (09 R246). -/
def writeRaw (s : State) (pc from_ : Nat) (ones : Bool) : State :=
  forEach (nums 0 16) s fun s c => storeCell s pc (from_ * 16 + c) (if ones then BitVec.allOnes 576 else 0)

/-- Place of a parked group: SID, bank, first row. -/
def parkSid (k : Nat) : Nat := k % 131072 / 32768
def parkBank (k : Nat) : Nat := k / 1024 % 32
def parkRow (k : Nat) : Nat := k % 1024 * 16

/-- A group's data returns to its own rows, its grafts and spare rows are freed (09 R246 step 5). -/
def unpark (s : State) (k : Nat) : State :=
  match tget? s.stack.parks k with
  | none => s
  | some p =>
    let pc := k / 131072
    let s := forEach (nums 0 16) s fun s i =>
      let row := parkRow k + i
      let s := copyRow s ⟨pc, parkSid k, parkBank k, row, 0⟩ .profile (rowKey p.spareSid 31 (0x3E00 + p.block * 16 + i))
        (rowKey (parkSid k) (parkBank k) row)
      delGraft s pc (parkSid k) (parkBank k) row
    let s := modStack s fun t => { t with parks := tdel t.parks k }
    settleSpares (wr s R.RFH_PROF_PARKED (rd s R.RFH_PROF_PARKED - 1)) pc

/-- A test pass in progress is abandoned and counted; the group is unparked at once, or once its slice is back (09 R248). -/
def abandonPark (s : State) (k : Nat) (later : Bool) : State :=
  match tget? s.stack.parks k with
  | none => s
  | some p =>
    let s := if p.idle then s else bump s R.RFH_PROF_ABANDONED
    if later then modStack s fun t => { t with parks := tset t.parks k { p with idle := true } } else unpark s k

/-- Parks that satisfy `f`, by key. -/
def parksWhere (s : State) (f : Nat → Park → Bool) : List Nat := (s.stack.parks.filter fun (k, p) => f k p).map (·.1)

end Sys2Proof.Machine
end

