-- ==== Sys2Proof/Machine/Refresh.lean ====
section
/-!
DEFINITION. The refresh planner (09 R234 to R240), refresh commands (07 R181, R196), temperature, refresh scale, throttling
and trip (09 R241 to R254), and the timing-class band (07 R185, R191).
-/
namespace Sys2Proof.Machine

def planOf (s : State) (sl : Nat) : Plan := tget s.stack.plans sl {}
def setPlan (s : State) (sl : Nat) (p : Plan) : State := modStack s fun t => { t with plans := tset t.plans sl p }

/-- RFH_SLICE_PASS and RFH_SLICE_SCALE of a slice (channel × 4 + SID), and CDI_SLICE_TEMP's key. -/
def passKey (sl : Nat) : Nat := keyOf (0x7030 + sl / 4) (sl % 4)
def scaleKey (sl : Nat) : Nat := keyOf (0x7010 + sl / 4) (sl % 4)
def tempKey (sl : Nat) : Nat := keyOf (0x6400 + sl / 4) (sl % 4)
def passWord (s : State) (sl : Nat) : Nat := val s (passKey sl) 0
def sliceScale (s : State) (sl : Nat) : Nat := val s (scaleKey sl) 0
def catchUp (s : State) (sl : Nat) : Bool := bitOf (passWord s sl) 31
def passNo (s : State) (sl : Nat) : Nat := field (passWord s sl) 9 22
def stepNo (s : State) (sl : Nat) : Nat := field (passWord s sl) 0 9

/-- Step length in ns at a scale code; an eighth of it in a catch-up pass (R234, R238). -/
def stepLen (code : Nat) (catchup : Bool) : Nat := 62400 / 2 ^ code / (if catchup then 8 else 1)
def lenOf (s : State) (sl : Nat) : Nat := stepLen (planOf s sl).scale (catchUp s sl)

/-- Pseudo-channels of a slice's channel. -/
def slicePcs (sl : Nat) : List Nat := [sl / 4 * 2, sl / 4 * 2 + 1]

/-- Loosest bin in force of a bank's groups (R240). -/
def loosestBin (s : State) (pc sid bank : Nat) : Nat :=
  let k := binKey pc sid bank 0
  (s.stack.bins.filter fun (i, _) => k ≤ i && i < k + 1024).foldl (fun a (i, _) => max a (binInForce s.stack i)) 0

/-- A bank's refresh window begins with pass `n`: loosened bins whose own windows begin there take effect, K is sampled, the
tracker empties (R240, 07 R194). -/
def beginWindow (s : State) (pc sid bank n : Nat) : State :=
  let i := sid * 32 + bank
  let k := binKey pc sid bank 0
  let s := modStack s fun t => { t with
    heldBins := t.heldBins.filter fun (j, _) => !(k ≤ j && j < k + 1024 && n % 2 ^ tget t.bins j 0 = 0) }
  let s := modStack s fun t => { t with windowK := tput t.windowK (pc * 128 + i) (loosestBin s pc sid bank) 0 }
  modPch s pc fun p => { p with trackers := tdel p.trackers i, saturated := tdel p.saturated i }

/-- Windows that begin with pass `n` of a slice; every one after a catch-up pass (R240). -/
def beginWindows (s : State) (sl n : Nat) (all : Bool) : State :=
  forEach (slicePcs sl) s fun s pc => forEach (nums 0 32) s fun s bank =>
    let k := tget s.stack.windowK (pc * 128 + sl % 4 * 32 + bank) 0
    if all || n % 2 ^ k = 0 then beginWindow s pc (sl % 4) bank n else s

/-- A bank that a repair has put out of service once its last requests had drained: a replaced logical bank, or a spare bank
replaced in turn (01 R19, 10 R281, R286). -/
def bankOut (s : State) (pc sid bank : Nat) : Bool :=
  rdi s R.INT_REPAIR_STATE pc ≠ 3 &&
    (if bank = 31 then spareRole s pc sid = 2
     else match replacement s pc sid with
       | some (b, _) => b = bank
       | none => false)

/-- Group `g` of a SAG is due in pass `n` (R234, R237, R238); a parked group is not refreshed (R246), nor a bank out of service. -/
def groupDue (s : State) (pc sid bank sag g n : Nat) (catchup : Bool) : Bool :=
  let k := binInForce s.stack (binKey pc sid bank (sag * 8192 + g * 16))
  let parked := match tget? s.stack.parks (pc * 131072 + (sid * 32 + bank) * 1024 + sag * 512 + g) with
    | some p => !p.idle
    | none => false
  !parked && !bankOut s pc sid bank && (catchup || rd s R.RFH_MODE_ACTIVE = 1 || n % 2 ^ k = g % 2 ^ k)

/-- Nominal time of a slot after the start of its step (R234), and of an REFab (R237). -/
def slotOff (len sid bank sag pc : Nat) : Nat := (((bank * 2 + sag) * 2 + pc % 2) * 4 + sid) * len / 512
def abOff (len sid pc : Nat) : Nat := (sid * 2 + pc % 2) * len / 8

/-- A refresh whose deadline falls within a planned hold had a cover refresh before it (R236). -/
def covered (s : State) (pc deadline : Nat) : Bool :=
  let h := chanOf s (pc / 2)
  decide (h.coverFrom ≤ deadline) && decide (deadline ≤ h.coverUntil)

/-- A refresh joins those that wait at the engine for a SAG, or for a SID. -/
def addRefresh (p : Pch) (i : Nat) (r : Refresh) : Pch := { p with refresh := tset p.refresh i (tget p.refresh i [] ++ [r]) }
def addRefab (p : Pch) (sid : Nat) (r : Refresh) : Pch := { p with refab := tset p.refab sid (tget p.refab sid [] ++ [r]) }

/-- A due refresh of step `step` is passed to the engine as a normal request, once (R235); a failed pseudo-channel receives none (08
R228). -/
def passRefresh (s : State) (pc sid bank sag g d step : Nat) : State :=
  let r : Refresh := { group := g, urgent := false, deadline := d, cover := covered s pc d, step := step }
  let same := fun (l : List Refresh) => l.any fun x => x.step = step && !x.extra
  if pcFailed s pc then s
  else if rd s R.RFH_MODE_ACTIVE = 2 then
    if same (tget (pchOf s pc).refab sid []) then s
    else modPch (obsEvent s unitStack 16 1) pc fun p => addRefab p sid r
  else if same (tget (pchOf s pc).refresh (sagNo sid bank sag) []) then s
  else modPch (obsEvent s unitStack 16 1) pc fun p => addRefresh p (sagNo sid bank sag) r

/-- A change of every refresh that waits. -/
def mapRefresh (p : Pch) (f : Nat → Refresh → Refresh) (g : Nat → Refresh → Refresh) : Pch :=
  { p with
    refresh := p.refresh.map fun (i, l) => (i, l.map (f i))
    refab := p.refab.map fun (i, l) => (i, l.map (g i)) }

/-- The slots of a first step whose time to be passed lies before the step (R234, R235). -/
def passEarly (s : State) (sl n : Nat) (catchup : Bool) : State :=
  let len := lenOf s sl
  let sid := sl % 4
  forEach (slicePcs sl) s fun s pc =>
    if rd s R.RFH_MODE_ACTIVE = 2 then
      if abOff len sid pc < len / 4 then passRefresh s pc sid 0 0 0 (s.now + abOff len sid pc + len / 4) (n * 512) else s
    else
      forEach (nums 0 16) s fun s i =>
        let off := slotOff len sid (i / 2) (i % 2) pc
        if off < len / 4 && groupDue s pc sid (i / 2) (i % 2) 0 n catchup then
          passRefresh s pc sid (i / 2) (i % 2) 0 (s.now + off + len / 4) (n * 512)
        else s

/-- The pass of a slice enters: its number, kind and step 0, catch-ups counted, windows begun (R238, R240). -/
def beginPass (s : State) (sl n : Nat) (catchup afterCatch : Bool) : State :=
  let n := n % 2 ^ 22
  let s := put s (passKey sl) 0 ((if catchup then 2 ^ 31 else 0) + n * 512)
  let s := if catchup then forEach (slicePcs sl) s fun s pc => bumpi s R.RFH_CATCHUPS pc else s
  beginWindows s sl n afterCatch

/-- Parks that wait for their slice are unparked (R248). -/
def unparkIdle (s : State) (sl : Nat) : State :=
  forEach (parksWhere s fun k p => p.idle && (slicePcs sl).contains (k / 131072) && parkSid k = sl % 4) s unpark

/-- The channel is in service and its dies are not in self-refresh. -/
def channelServes (s : State) (c : Nat) : Bool :=
  c < nChannels s && rdi s R.CDI_CHANNEL_STATE c ≠ 1 && !(chanOf s c).selfRef && s.start.trained

/-- What a slice has used up of refresh windows: a ns at scale s uses s parts (R244). -/
def usedNow (s : State) (sl : Nat) : Nat :=
  let p := planOf s sl
  p.used + if p.started then (s.now - p.begin_) * 2 ^ p.scale else 0

/-- The slice's present step has lasted its length; a first step, and one that a new catch-up pass replaces, need not. -/
def stepOver (s : State) (sl : Nat) : Bool :=
  let p := planOf s sl
  p.fresh || !p.started || decide (p.begin_ + lenOf s sl ≤ s.now)

/-- REFRESH_STEP_START: the slice's next step begins at the scale last set; a pass ends after step 511 (R234, R238, R244). -/
def doRefreshStepStart (slice : Nat) (s : State) : State :=
  if !(channelServes s (slice / 4) && stepOver s slice) then s
  else
    let p := planOf s slice
    let q := { p with begin_ := s.now, scale := sliceScale s slice, started := true, fresh := false, used := usedNow s slice }
    let n := passNo s slice
    if p.fresh then
      let n := if p.started then n + 1 else n
      let s := beginPass (unparkIdle (setPlan s slice { q with catchNext := false }) slice) slice n true false
      passEarly s slice (passNo s slice) true
    else if stepNo s slice < 511 then put (setPlan s slice q) (passKey slice) 0 (passWord s slice + 1)
    else
      let was := catchUp s slice
      beginPass (setPlan s slice { q with catchNext := false }) slice (if was then (n / 8 + 1) * 8 else n + 1) p.catchNext was

def execRefreshStepStart (slice : Nat) (s : State) : Host.Outcome State Fault Refusal := .next (doRefreshStepStart slice s)

/-- Number of the pass that follows a slice's pass (R234, R238). -/
def nextPass (s : State) (sl : Nat) : Nat :=
  (if catchUp s sl then (passNo s sl / 8 + 1) * 8 else passNo s sl + 1) % 2 ^ 22

/-- Of two times, the first is the nearer to `now`. -/
def nearer (s : State) (a b : Nat) : Bool := decide (((a : Int) - s.now).natAbs < ((b : Int) - s.now).natAbs)

/-- The slot passed now, N − L/4 having come: the group of the step it is in, that step's pass and kind, its nominal time N and that step's length L. A
slot in the first quarter of a step is passed before the step begins, at the length the step will have, and where the step is
eight times as long as the one before it, possibly two steps before (R234, R235, R238, R244). -/
def releaseStep (s : State) (sl : Nat) (off : Nat → Nat) : Nat × Nat × Bool × Nat × Nat :=
  let j := stepNo s sl
  let c := catchUp s sl
  let b := (planOf s sl).begin_
  let len := lenOf s sl
  let next := stepLen (sliceScale s sl) (if j < 511 then c else (planOf s sl).catchNext)
  let long := stepLen (sliceScale s sl) false
  if len / 4 ≤ off len then (j, passNo s sl, c, b + off len, len)
  else if j = 510 && c && !(planOf s sl).catchNext &&
      nearer s (b + len + next + off long - long / 4) (b + len + off next - next / 4) then
    (0, nextPass s sl, false, b + len + next + off long, long)
  else if j < 511 then (j + 1, passNo s sl, c, b + len + off next, next)
  else (0, nextPass s sl, (planOf s sl).catchNext, b + len + off next, next)

/-- REFRESH_RELEASE (R235). In mode 2 the bank and SAG name nothing. -/
def doRefreshRelease (pc sid bank sag : Nat) (s : State) : State :=
  let sl := pc / 2 * 4 + sid
  if !(pc < nPcs s && sid < 4 && bank < 32 && sag < 2 && channelServes s (pc / 2) && (planOf s sl).started) then s
  else if rd s R.RFH_MODE_ACTIVE = 2 then
    let (g, n, _, at', len) := releaseStep s sl fun len => abOff len sid pc
    if s.now + len / 4 < at' then s else passRefresh s pc sid 0 0 0 (at' + len / 4) (n * 512 + g)
  else
    let (g, n, c, at', len) := releaseStep s sl fun len => slotOff len sid bank sag pc
    if groupDue s pc sid bank sag g n c && decide (at' ≤ s.now + len / 4) then
      passRefresh s pc sid bank sag g (at' + len / 4) (n * 512 + g)
    else s

def execRefreshRelease (pc sid bank sag : Nat) (s : State) : Host.Outcome State Fault Refusal :=
  .next (doRefreshRelease pc sid bank sag s)

/-- A refresh that becomes urgent is counted (R235). -/
def noteUrgent (s : State) (pc : Nat) : State := obsEvent (bumpi s R.RFH_REF_URGENT pc) unitStack 17 1

/-- A refresh that is not urgent is due to become so: L/8 past its nominal time, L/8 before its deadline (R235). -/
def urgentDue (s : State) (sl : Nat) (l : List Refresh) : Bool :=
  match l.find? (!·.urgent) with
  | some r => decide (r.deadline ≤ s.now + lenOf s sl / 8)
  | none => false

/-- The oldest refresh of a list that is not urgent becomes so. -/
def makeUrgent : List Refresh → List Refresh
  | [] => []
  | r :: l => if r.urgent then r :: makeUrgent l else { r with urgent := true } :: l

/-- REFRESH_URGENT: at N + L/8 (R235). -/
def doRefreshUrgent (pc sid bank sag : Nat) (s : State) : State :=
  if rd s R.RFH_MODE_ACTIVE = 2 then
    let l := tget (pchOf s pc).refab sid []
    if !urgentDue s (pc / 2 * 4 + sid) l then s
    else noteUrgent (modPch s pc fun p => { p with refab := tset p.refab sid (makeUrgent l) }) pc
  else
    let i := sagNo sid bank sag
    let l := tget (pchOf s pc).refresh i []
    if !urgentDue s (pc / 2 * 4 + sid) l then s
    else noteUrgent (modPch s pc fun p => { p with refresh := tset p.refresh i (makeUrgent l) }) pc

def execRefreshUrgent (pc sid bank sag : Nat) (s : State) : Host.Outcome State Fault Refusal :=
  .next (doRefreshUrgent pc sid bank sag s)

/-- A planner's refresh has issued: late past its deadline unless a cover refresh went before it; a cover refresh is no due one
(R235, R236). -/
def refreshIssued (s : State) (pc : Nat) (r : Refresh) : State :=
  if r.extra then s
  else if r.cover then bumpi s R.RFH_REF_COVER pc
  else if r.deadline < s.now then
    raiseEv (obsEvent (bumpi s R.RFH_REF_LATE pc) unitStack 18 1) 7 9 r.group (ident 4 (pc / 2))
  else s

/-- A list without its first element that is `r`; a key whose list is empty goes. -/
def takeRefresh (t : Tbl (List Refresh)) (i : Nat) (r : Refresh) : Tbl (List Refresh) := tput t i ((tget t i []).erase r) []

/-- REFPB: the pending refresh of a closed SAG issues (R181). -/
def doRefpb (pc sid bank sag group nck : Nat) (flips : Flips) (s : State) : State :=
  let i := sagNo sid bank sag
  match (tget (pchOf s pc).refresh i []).find? fun r => r.group = group with
  | none => s
  | some r =>
    if commandable s pc && (sagAt s pc i).row.isNone then
      issueEng s pc 20 ⟨nck, cRefpb, pc % 2, sid, bank, sag, group, (bankClass s pc sid bank).cls⟩ flips fun _ s =>
        let s := bumpWrap (modPch s pc fun p => { p with refresh := takeRefresh p.refresh i r }) R.RFH_REFPB pc 1 64
        refreshIssued s pc r
    else s

def execRefpb (pc sid bank sag group nck : Nat) (flips : Flips) (s : State) : Host.Outcome State Fault Refusal :=
  .next (doRefpb pc sid bank sag group nck flips s)

/-- Group key of a row for the profiler. -/
def groupKey (pc sid bank row : Nat) : Nat := pc * 131072 + (sid * 32 + bank) * 1024 + row / 16

/-- REFT refreshes rows at distance 1 and 2 of the latch within its SAG; a parked group among them has its pass abandoned
(R248, 08 Table CDI-6). -/
def reftAbandons (s : State) (pc sid bank row : Nat) : State :=
  let near := ([row - 2, row - 1, row + 1, row + 2].filter fun r => sagOf r = sagOf row && r ≠ row).map (groupKey pc sid bank)
  forEach near.eraseDups s fun s k =>
    match tget? s.stack.parks k with
    | some p => if p.idle then s else abandonPark s k false
    | none => s

/-- REFT: the pending targeted refresh of a closed SAG issues and is counted (07 R196). -/
def doReft (pc sid bank sag nck : Nat) (flips : Flips) (s : State) : State :=
  let i := sagNo sid bank sag
  let g := sagAt s pc i
  if commandable s pc && g.reft.isSome && g.row.isNone then
    issueEng s pc 21 ⟨nck, cReft, pc % 2, sid, bank, sag, 0, (bankClass s pc sid bank).cls⟩ flips fun ok s =>
      let s := setSag s pc i { g with reft := none, reftAt := 0 }
      let s := bumpKey s (keyOf (0x5480 + pc / 2) (pc % 2 * 128 + sid * 32 + bank))
      match g.latch with
      | some row => reftAbandons s pc sid bank row
      | none => if ok then modSlice s (pc / 2) sid fun d => { d with mr := tset d.mr 3 (tget d.mr 3 0 ||| 0x20) } else s
  else s

def execReft (pc sid bank sag nck : Nat) (flips : Flips) (s : State) : Host.Outcome State Fault Refusal :=
  .next (doReft pc sid bank sag nck flips s)

/-- Every SAG of a (pseudo-channel, SID) is closed. -/
def allClosed (s : State) (pc sid : Nat) : Bool :=
  (pchOf s pc).sags.all fun (i, g) => i / 64 ≠ sid || g.row.isNone

/-- REFAB: the pending all-bank refresh issues; the slice's pointer moves on (R237). -/
def doRefab (pc sid nck : Nat) (flips : Flips) (s : State) : State :=
  match (tget (pchOf s pc).refab sid []).head? with
  | none => s
  | some r =>
    if commandable s pc && allClosed s pc sid then
      issueEng s pc 22 ⟨nck, cRefab, pc % 2, sid, 0, 0, 0, 0⟩ flips fun ok s =>
        let s := bumpWrap (modPch s pc fun p => { p with refab := takeRefresh p.refab sid r }) R.RFH_REFAB pc 1 64
        let s := modSlice s (pc / 2) sid fun d => { d with pointer := if ok then (d.pointer + 1) % 512 else d.pointer }
        refreshIssued s pc r
    else s

def execRefab (pc sid nck : Nat) (flips : Flips) (s : State) : Host.Outcome State Fault Refusal :=
  .next (doRefab pc sid nck flips s)

/-- The slices of the channel are read: in service, in a trip in self-refresh too, and before that once step 3 of 08 Table CDI-7 has
ended, 225 µs after ply_cdi_rst_n has risen (R241, R253). -/
def slicesRead (s : State) (c : Nat) : Bool :=
  c < nChannels s && rdi s R.CDI_CHANNEL_STATE c ≠ 1 && (!(chanOf s c).selfRef || s.stack.trip) &&
    (s.start.trained || (s.start.phase = .starting && s.pins.cdiRstN && decide (s.start.cdiAt + 225000 ≤ s.now)))

/-- SLICE_TEMP_POLL: MR9 and MR10 are read (R241). -/
def doSliceTempPoll (slice : Nat) (s : State) : State :=
  let c := slice / 4
  let due := match tget? s.stack.pollAt slice with
    | some t => decide (t + rd s R.RFH_TEMP_POLL * 1000 ≤ s.now)
    | none => true
  if slicesRead s c && due then
    (planAll (modStack s fun t => { t with pollAt := tset t.pollAt slice s.now }) c (nckNow s)
      [mrrCommand s c (slice % 4) 9 0, mrrCommand s c (slice % 4) 10 0]).2
  else s

def execSliceTempPoll (slice : Nat) (s : State) : Host.Outcome State Fault Refusal := .next (doSliceTempPoll slice s)

/-- A sensor: slice number, or 0x100 + n for a block sensor; its reading in use, 100.0 C while it is taken as invalid
(R242). -/
def sensorOf (s : State) (k : Nat) : Sensor := tget s.stack.sensors k {}
def taken (s : State) (k : Nat) : Option Int := if 2 ≤ (sensorOf s k).invalid then some 1600 else (sensorOf s k).last

/-- Sensors that count: slices of channels in service, block sensors (R242). -/
def liveSensors (s : State) : List Nat :=
  (s.stack.sensors.map (·.1)).filter fun k => 0x100 ≤ k || rdi s R.CDI_CHANNEL_STATE (k / 4) ≠ 1

/-- The hottest reading of some sensors and the first that gives it. -/
def hottestOf (s : State) (l : List Nat) : Option (Int × Nat) :=
  l.foldl (fun b k =>
    match taken s k, b with
    | some t, some (u, _) => if u < t then some (t, k) else b
    | some t, none => some (t, k)
    | none, _ => b) none

/-- Classes and tests of the banks `sel` selects by pseudo-channel are dropped with no other effect; ENG_BANKS_TIGHTENED is
derived from the classes. -/
def dropClasses (s : State) (sel : Nat → Bool) : State :=
  let s := abandonTests s sel
  { s with pchs := s.pchs.map fun (i, p) => (i, if !sel i then p else { p with
      classes := p.classes.map fun (b, c) => (b, { c with cls := 0 }) }) }
def dropAllClasses (s : State) : State := dropClasses s fun _ => true

/-- Highest class held, and the channels that hold one. -/
def highestClass (s : State) : Nat := s.pchs.foldl (fun a (_, p) => p.classes.foldl (fun a (_, c) => max a c.cls) a) 0
def tightChannels (s : State) : List Nat :=
  ((s.pchs.filter fun (_, p) => p.classes.any fun (_, c) => 0 < c.cls).map fun (i, _) => i / 2).eraseDups

/-- The qualified band is left: every bank falls to class 0 (07 R191). -/
def leaveBand (s : State) (cause : Nat) : State :=
  let band := rd s R.ENG_QUAL_BAND
  let chs := tightChannels s
  let cls := highestClass s
  let s := dropAllClasses s
  let s := logClass s 0x1FFF cls 0 cause band 0 0
  let s := wri s R.ENG_EVENT_CHANNELS 1 (chs.foldl (fun a c => putBit a c true) (rdi s R.ENG_EVENT_CHANNELS 1))
  raiseEv (wr s R.ENG_QUAL_BAND 5) 5 1 0 0

/-- Band of a temperature, and the edges of a band, in 1/16 C (07 R185). -/
def bandOf (t : Int) : Nat := if t < 720 then 0 else if t < 1040 then 1 else if t < 1360 then 2 else if t < 1520 then 3 else 4
def bandLow (b : Nat) : Int := [-100000, 720, 1040, 1360, 1520].getD b 0
def bandHigh (b : Nat) : Int := [720, 1040, 1360, 1520, 100000].getD b 0

def settleBand (s : State) : State :=
  let b := rd s R.ENG_QUAL_BAND
  if b = 5 then s
  else match hottestOf s ((liveSensors s).filter (· < 0x100)) with
    | none => s
    | some (t, _) => if bandHigh b ≤ t then leaveBand s 2 else if t ≤ bandLow b - 32 then leaveBand s 3 else s

/-- The band of the hottest die is noted with the time it was entered (07 R185). -/
def noteBand (s : State) : State :=
  match hottestOf s ((liveSensors s).filter (· < 0x100)) with
  | some (t, _) => if bandOf t = s.stack.bandSeen then s else modStack s fun x => { x with bandSeen := bandOf t, bandAt := s.now }
  | none => s

/-- QUAL_BAND_SETTLE: the hottest die has stayed in its band for ENG_QUAL_SETTLE, in ms (07 R185). -/
def doQualBandSettle (s : State) : State :=
  if rd s R.ENG_QUAL_BAND ≠ 5 || s.now < s.stack.bandAt + rd s R.ENG_QUAL_SETTLE * 1000000 then s
  else match hottestOf s ((liveSensors s).filter (· < 0x100)) with
    | none => s
    | some (t, _) => wr s R.ENG_QUAL_BAND (bandOf t)

def execQualBandSettle (s : State) : Host.Outcome State Fault Refusal := .next (doQualBandSettle s)

/-- A threshold of the temperature rules: a write takes effect on the next reading (R257). -/
def limit (s : State) (r : Reg) : Int := (tget s.stack.limits r.key (rd s r) : Nat)

/-- The thresholds that a reading finds. -/
def takeLimits (s : State) : State :=
  modStack s fun t => { t with
    limits := [R.RFH_SCALE_UP_2, R.RFH_SCALE_UP_4, R.RFH_THROTTLE_START, R.RFH_TRIP_CLEAR].foldl (fun l r => tset l r.key (rd s r)) t.limits }

/-- Row of Table RFH-4, and its allowance. -/
def throttleRow (s : State) (t : Int) : Nat :=
  let d := t - limit s R.RFH_THROTTLE_START
  if d < 0 then 0 else min 5 (d.toNat / 16 + 1)
def rowAllowance (r : Nat) : Nat := [32, 16, 12, 8, 4, 2].getD r 2
def allowanceRow (a : Nat) : Nat := if 32 ≤ a then 0 else if 16 ≤ a then 1 else if 12 ≤ a then 2 else if 8 ≤ a then 3 else if 4 ≤ a then 4 else 5

/-- θ lies 0.5 C below the lower edge of the channel's row: the allowance may rise (R251). -/
def belowRow (s : State) (c : Nat) : Bool :=
  let r := allowanceRow (rdi s R.RFH_ALLOWANCE c)
  let edge : Int := limit s R.RFH_THROTTLE_START + 16 * (r - 1 : Nat)
  decide (0 < r) && decide (rdS s R.RFH_THETA c ≤ edge - 8)

/-- A channel's hold starts anew (R251). -/
def markWarm (s : State) (c : Nat) : State := modStack s fun t => { t with warmAt := tset t.warmAt c s.now }

/-- θ of a channel is published; the allowance falls at once to a lower row (R251). -/
def settleTheta (s : State) (c : Nat) : State :=
  match hottestOf s ((liveSensors s).filter fun k => (k < 0x100 && k / 4 = c) || k = 0x100 + c / 4) with
  | none => s
  | some (t, _) =>
    let s := wrS s R.RFH_THETA c t
    let a := rdi s R.RFH_ALLOWANCE c
    let n := rowAllowance (throttleRow s t)
    if n < a then
      let s := wri (noteAllowance s c) R.RFH_ALLOWANCE c n
      markWarm (if a = 32 then raiseEv s 7 2 0 (ident 4 c) else s) c
    else if belowRow s c then s
    else markWarm s c

/-- ALLOWANCE_RISE: θ has stayed 0.5 C below its row's lower edge for RFH_THROTTLE_HOLD, in ms, which each rise starts anew
(R251; DESIGN CHOICE, log entry 66). -/
def doAllowanceRise (channel : Nat) (s : State) : State :=
  let r := allowanceRow (rdi s R.RFH_ALLOWANCE channel)
  if channel < nChannels s && belowRow s channel &&
      decide (tget s.stack.warmAt channel 0 + rd s R.RFH_THROTTLE_HOLD * 1000000 ≤ s.now) then
    let s := markWarm (wri (noteAllowance s channel) R.RFH_ALLOWANCE channel (rowAllowance (r - 1))) channel
    if (nums 0 (nChannels s)).all fun c => rdi s R.RFH_ALLOWANCE c = 32 then raiseEv s 7 3 0 0 else s
  else s

def execAllowanceRise (channel : Nat) (s : State) : Host.Outcome State Fault Refusal := .next (doAllowanceRise channel s)

/-- Retraining, qualification and profiling stop; held and parked work stays where its rule keeps it (R248, R252). -/
def stopBackground (s : State) (sel : Nat → Bool) : State :=
  abandonTests (forEach (parksWhere s fun k p => !p.idle && sel (k / 131072)) s fun s k => abandonPark s k true) sel

/-- A thermal trip begins (R252). During start-up its time is excluded (16 R413). -/
def beginTrip (s : State) : State :=
  if s.stack.trip then s
  else
    let s := alarmPin (modStack (forEach (nums 0 (nChannels s)) s noteAllowance) fun t =>
      { t with trip := true, tripFrom := poolNs s, tripHotAt := s.now })
    let s := wr (bump (wr s R.RFH_TRIP_STATE 1) R.RFH_TRIPS) R.RFH_TRIP_LAST (poolNs s)
    let s := raiseEv s 7 4 0 0
    let s := modTree s fun t => { t with holdTrip := true }
    let s := if s.start.phase = .starting then
        { s with start := { s.start with exclFrom := some (s.start.exclFrom.getD s.now) } } else s
    let s := abortEntry s (ident 1 32)
    stopBackground (forEach (s.pchs.map (·.1)) s orderFlush) fun _ => true

/-- A conditioned temperature flag is high; a masked input counts as low (R252, R253; 14 R387). -/
def cattripHigh (s : State) : Bool := (nums 0 16).any fun d => bitOf s.pins.dieCattrip d && inputArmed s d

/-- Every sensor is below RFH_TRIP_CLEAR and every flag low (R253). -/
def tripCool (s : State) : Bool :=
  !cattripHigh s && (liveSensors s).all fun k =>
    match taken s k with
    | some t => decide (t < limit s R.RFH_TRIP_CLEAR)
    | none => true

/-- THERMAL_TRIP_END: all that has lasted for RFH_TRIP_HOLD, in ms (R253). The clocks of the channels that it put into
self-refresh restart; their SRX commands follow. -/
def doThermalTripEnd (s : State) : State :=
  if s.stack.trip && tripCool s && decide (s.stack.tripHotAt + rd s R.RFH_TRIP_HOLD * 1000000 ≤ s.now) then
    let s := forEach (nums 0 (nChannels s)) s noteAllowance
    let s := alarmPin (modStack (wr s R.RFH_TRIP_STATE 0) fun t =>
      { t with trip := false, trips := t.trips ++ [(t.tripFrom, poolNs s)] })
    let s := restartClocks (modTree s fun t => { t with holdTrip := false }) fun c =>
      (chanOf s c).selfRef && !s.sleep.pastE4 && !bitOf (rd s R.SLP_GROUPS_ASLEEP) (c / 4)
    let s := match s.start.phase, s.start.exclFrom with
      | .starting, some t =>
        if s.start.waitAck then s
        else { s with start := { s.start with exclFrom := none, excluded := s.start.excluded + (s.now - t) } }
      | _, _ => s
    raiseEv s 7 5 0 0
  else s

def execThermalTripEnd (s : State) : Host.Outcome State Fault Refusal := .next (doThermalTripEnd s)

/-- Effects of the readings in force on θ, RFH_HOTTEST, and the band (R241, R251; 07 R185). -/
def settleHeat (s : State) (chs : List Nat) : State :=
  let s := forEach chs s settleTheta
  let s := match hottestOf s (liveSensors s) with
    | some (t, k) => wr (wrS s R.RFH_HOTTEST 0 t) R.RFH_HOTTEST_SOURCE k
    | none => s
  let s := if s.stack.trip && !tripCool s then modStack s fun t => { t with tripHotAt := s.now } else s
  settleBand (noteBand s)

/-- Resource of a sensor in event details. -/
def sensorIdent (k : Nat) : Nat :=
  if k < 0x100 then ident 4 (k / 4) else if k < 0x108 then ident 1 (16 + (k - 0x100)) else
    [ident 1 8, ident 1 9, ident 1 32, ident 1 33].getD (k - 0x108) 0

/-- A reading that is valid and in range (R242). -/
def readingGood (v : Int) (valid : Bool) : Bool := valid && -320 ≤ v && v ≤ 2080

/-- What a reading is reported for (R242): a valid one too far from the last, or a second invalid one in a row. -/
def readingEvent (s : State) (k : Nat) (v : Int) (valid : Bool) : Option Nat :=
  let x := sensorOf s k
  if readingGood v valid then
    match x.last with
    | some l => if x.invalid = 0 && 16 < (v - l).natAbs then some 8 else none
    | none => none
  else if x.invalid = 1 then some 7 else none

/-- A sensor's new reading (R242): a valid one is kept, invalid ones are counted. -/
def noteReading (s : State) (k : Nat) (v : Int) (valid : Bool) : State :=
  let x := sensorOf s k
  modStack (obsEvent (takeLimits s) unitStack 22 1) fun t => { t with
    sensors := tset t.sensors k (if readingGood v valid then ⟨some v, 0⟩ else { x with invalid := x.invalid + 1 }) }

/-- The report of a reading, after what it brought about (11 R316). -/
def reportReading (s : State) (k : Nat) : Option Nat → State
  | some i => raiseEv (bump s (if i = 8 then R.RFH_SLEW_EXCEEDED else R.RFH_SENSOR_INVALID)) 7 i 0 (sensorIdent k)
  | none => s

/-- A threshold in effect: 1/16 C lower for each 15 µs, or part, by which the poll exceeds 100 µs (R243). -/
def scaleUp (s : State) (r : Reg) : Int := limit s r - ((rd s R.RFH_TEMP_POLL - 100 + 14) / 15 : Nat)

/-- The slice's refreshes already passed to the engine become urgent (R244). -/
def hastenSlice (s : State) (sl : Nat) : State :=
  forEach (slicePcs sl) s fun s pc =>
    let normal := fun (l : List Refresh) => (l.filter fun r => !r.urgent).length
    let n := (((pchOf s pc).refresh.filter fun (i, _) => i / 64 = sl % 4).map fun (_, l) => normal l).foldl (· + ·)
      (normal (tget (pchOf s pc).refab (sl % 4) []))
    let s := modPch s pc fun p => mapRefresh p
      (fun i r => if i / 64 = sl % 4 then { r with urgent := true } else r)
      (fun i r => if i = sl % 4 then { r with urgent := true } else r)
    obsEvent (bumpTo s R.RFH_REF_URGENT pc n satMax) unitStack 17 n

/-- Refreshes of a later step that were passed before it are re-timed from its start at its new length (R244). A change in a
catch-up pass makes the next pass one too (R238). -/
def retime (s : State) (sl code : Nat) : State :=
  let j := stepNo s sl
  let c := catchUp s sl
  let at1 := (planOf s sl).begin_ + lenOf s sl
  let len1 := stepLen code c
  let cur := passNo s sl * 512 + j
  let f := fun (off : Nat → Nat) (r : Refresh) =>
    if r.step = cur || r.extra then r
    else if j = 510 && r.step ≠ cur + 1 then { r with deadline := at1 + len1 + off (stepLen code c) + stepLen code c / 4 }
    else { r with deadline := at1 + off len1 + len1 / 4 }
  forEach (slicePcs sl) s fun s pc => modPch s pc fun p => mapRefresh p
    (fun i r => if i / 64 = sl % 4 then f (fun len => slotOff len (sl % 4) (i / 2 % 32) (i % 2) pc) r else r)
    (fun i r => if i = sl % 4 then f (fun len => abOff len (sl % 4) pc) r else r)

/-- The slice's scale becomes `code` (R243, R244). -/
def setScale (s : State) (sl code : Nat) : State :=
  let was := sliceScale s sl
  let s := retime (put s (scaleKey sl) 0 code) sl code
  let s := if catchUp s sl then setPlan s sl { planOf s sl with catchNext := true } else s
  let s := modStack s fun t => { t with hotAt := tset t.hotAt sl s.now }
  if was < code then raiseEv (hastenSlice s sl) 7 0 0 (ident 4 (sl / 4)) else raiseEv s 7 1 0 (ident 4 (sl / 4))

/-- A slice's scale rises with its reading (R243). -/
def settleScale (s : State) (sl : Nat) : State :=
  match taken s sl with
  | none => s
  | some t =>
    let want := if scaleUp s R.RFH_SCALE_UP_4 ≤ t then 2 else if scaleUp s R.RFH_SCALE_UP_2 ≤ t then 1 else 0
    if sliceScale s sl < want then setScale s sl want else s

/-- The slice's reading lies 2.0 C below the threshold of its scale: the scale may fall (R243). -/
def belowScale (s : State) (sl : Nat) : Bool :=
  let c := sliceScale s sl
  match taken s sl with
  | none => false
  | some t => decide (0 < c) && decide (t < scaleUp s (if c = 2 then R.RFH_SCALE_UP_4 else R.RFH_SCALE_UP_2) - 32)

/-- A reading that is not so starts the hold anew. -/
def markHot (s : State) (sl : Nat) : State :=
  if belowScale s sl then s else modStack s fun t => { t with hotAt := tset t.hotAt sl s.now }

/-- SCALE_FALL: every reading has stayed so for RFH_SCALE_HOLD, in ms, since the slice entered its scale (R243). -/
def doScaleFall (slice : Nat) (s : State) : State :=
  if slice < nChannels s * 4 && belowScale s slice &&
      decide (tget s.stack.hotAt slice 0 + rd s R.RFH_SCALE_HOLD * 1000000 ≤ s.now) then
    setScale s slice (sliceScale s slice - 1)
  else s

def execScaleFall (slice : Nat) (s : State) : Host.Outcome State Fault Refusal := .next (doScaleFall slice s)

/-- A reading of 105.0 C or more trips the block; a substituted value never does (R242, R252). -/
def tripsAt (v : Int) (valid : Bool) : Bool := valid && 1680 ≤ v && v ≤ 2080

/-- One slice's reading takes effect (R241 to R243). -/
def takeSlice (s : State) (sl : Nat) (v : Int) (valid : Bool) : State :=
  let e := readingEvent s sl v valid
  let s := noteReading s sl v valid
  reportReading (settleHeat (markHot (settleScale (put s (tempKey sl) 0 (ofSigned 32 v)) sl) sl) [sl / 4]) sl e

/-- SLICE_TEMP_READING. A trip goes before the events of class 6 (R252, 11 R316). -/
def doSliceTempReading (slice : Nat) (value : Int) (valid : Bool) (s : State) : State :=
  if slicesRead s (slice / 4) then
    takeSlice (if tripsAt value valid then beginTrip s else s) slice value valid
  else s

def execSliceTempReading (slice : Nat) (value : Int) (valid : Bool) (s : State) : Host.Outcome State Fault Refusal :=
  .next (doSliceTempReading slice value valid s)

/-- BLOCK_SENSOR_READ: the block's sensors 0 to 11, in order (R241). -/
def doBlockSensorRead (values : List (Int × Bool)) (s : State) : State :=
  if !mgmtUp s then s
  else
    let l := ((nums 0 12).zip values).filter fun (n, _) => !(s.ply16 && 4 ≤ n && n ≤ 7)
    let told := l.map fun (n, v, ok) => (n, readingEvent s (0x100 + n) v ok)
    let s := if l.any fun (_, v, ok) => tripsAt v ok then beginTrip s else s
    let s := forEach l s fun s (n, v, ok) =>
      wrS (noteReading s (0x100 + n) v ok) R.RFH_BLOCK_TEMP n v
    forEach told (settleHeat s (nums 0 (nChannels s))) fun s (n, e) => reportReading s (0x100 + n) e

def execBlockSensorRead (values : List (Int × Bool)) (s : State) : Host.Outcome State Fault Refusal :=
  .next (doBlockSensorRead values s)

/-- DIE_CATTRIP_RISE: the alarm falls at once; the conditioned edge trips the block, or is a wake in S2 (R252, R254; 02 R44,
R45). -/
def doDieCattripRise (die edges : Nat) (s : State) : State :=
  if 16 ≤ die || (s.ply16 && 8 ≤ die) then s
  else
    let s := alarmPin { s with pins := { s.pins with dieCattrip := putBit s.pins.dieCattrip die true } }
    if !(inputArmed s die && s.pins.porN) then s
    else
      let s := sampleEdges s die edges
      let s := if rd s R.SLP_STATE = 3 || !s.time.run then disturb s (ident 6 3)
        else if mgmtUp s then modStack (beginTrip s) fun t => { t with tripHotAt := s.now } else s
      raiseEv s 7 6 0 (ident 7 die)

def execDieCattripRise (die edges : Nat) (s : State) : Host.Outcome State Fault Refusal := .next (doDieCattripRise die edges s)

/-- DIE_CATTRIP_FALL (02 R44). -/
def doDieCattripFall (die : Nat) (s : State) : State :=
  if 16 ≤ die || (s.ply16 && 8 ≤ die) then s
  else
    let s := if s.stack.trip && cattripHigh s then modStack s fun t => { t with tripHotAt := s.now } else s
    let s := alarmPin { s with pins := { s.pins with dieCattrip := putBit s.pins.dieCattrip die false } }
    if s.pins.porN then wri s R.FLT_INPUT_LEVEL die 0 else s

def execDieCattripFall (die : Nat) (s : State) : Host.Outcome State Fault Refusal := .next (doDieCattripFall die s)

end Sys2Proof.Machine
end

