-- ==== Sys2Proof/Machine/Profile.lean ====
section
/-!
DEFINITION. Meanings of the margin qualifier (07 R184 to R192) and the retention profiler (09 R245 to R249).
-/
namespace Sys2Proof.Machine

/-- The block is in A0 or A1 and not in thermal trip (09 R245). -/
def awake (s : State) : Bool := mgmtUp s && rd s R.SLP_STATE ≤ 1 && !s.stack.trip

/-- The pseudo-channel is in service, its dies are out of self-refresh and no entry has stopped its background work. -/
def pcServes (s : State) (pc : Nat) : Bool :=
  pc < nPcs s && !pcFailed s pc && channelServes s (pc / 2) && !entryCovers s (pc / 2)

/-- ENG_QUAL_PERIOD in beats. -/
def qualPeriod (s : State) : Nat := rd s R.ENG_QUAL_PERIOD * 1000000000

/-- The rows of a test among the qualifier's choices: the first 16 of each SAG, in their order; the rest replace dropped ones
(R186). None where the choices are fewer. -/
def qualRows (rows : List Nat) : Option (List Nat × List Nat) :=
  let l := (rows.filter (· < 16384)).eraseDups
  let pick := fun g => (l.filter fun r => sagOf r = g).take 16
  let used := l.filter fun r => (pick 0).contains r || (pick 1).contains r
  if used.length = 32 then some (used, l.filter fun r => !used.contains r) else none

/-- A test of the bank at class `t` begins; the one test buffer of a pseudo-channel serves one test at a time (R186). -/
def beginTest (s : State) (pc sid bank t : Nat) (retest : Bool) (rows spare : List Nat) : State :=
  let s := setClass s pc sid bank { bankClass s pc sid bank with test := t, retest := retest }
  obsEvent (modPch s pc fun p => { p with qual := some ⟨sid * 32 + bank, t, rows, spare, rows, .next, [], false, false, false⟩ })
    unitStack 21 1

/-- A test of the bank failed within ENG_QUAL_PERIOD in the band, noted under a test class, or under 0 for any raising test. -/
def failedLately (s : State) (c : BankClass) (band t : Nat) : Bool :=
  match tget? c.failedAt (band * 8 + t) with
  | some at' => decide (s.now < at' + qualPeriod s)
  | none => false

/-- QUAL_TEST_START: a re-test that is due goes before a raising test, which needs room under the cap and no recent failure in
the band (R188, Table ENG-8). -/
def doQualTestStart (pc sid bank : Nat) (rows : List Nat) (s : State) : State :=
  let c := bankClass s pc sid bank
  let band := rd s R.ENG_QUAL_BAND
  match qualRows rows with
  | none => s
  | some (rows, spare) =>
    if !(awake s && pcServes s pc && sid < 4 && bank < 32 && !bankOut s pc sid bank && rd s R.ENG_QUAL_ENABLE = 1 && band < 4 &&
        c.test = 0 && (pchOf s pc).qual.isNone) then s
    else if 1 ≤ c.cls && c.since + qualPeriod s ≤ s.now then beginTest s pc sid bank (c.cls + 1) true rows spare
    else if c.cls ≤ 2 && c.cls + 1 ≤ bankCap s pc sid bank && !failedLately s c band 0 && !failedLately s c band (c.cls + 2) then
      beginTest s pc sid bank (c.cls + 2) false rows spare
    else s

def execQualTestStart (pc sid bank : Nat) (rows : List Nat) (s : State) : Host.Outcome State Fault Refusal :=
  .next (doQualTestStart pc sid bank rows s)

/-- QUAL_TEST_DONE: the last row has been tested; the test passes when every row did (R187, Table ENG-8). -/
def doQualTestDone (pc sid bank : Nat) (s : State) : State :=
  let c := bankClass s pc sid bank
  match qualOf s pc sid bank with
  | none => s
  | some q =>
    if c.test = 0 || !q.rows.isEmpty then s else
    let d := { c with test := 0, retest := false }
    let s := modPch s pc fun p => { p with qual := none }
    if !q.failed then
      let up := if c.retest then c.cls else min (c.cls + 1) (bankCap s pc sid bank)
      bump (setClass s pc sid bank { d with cls := up, since := s.now }) R.ENG_QUAL_PASSES
    else
      let band := rd s R.ENG_QUAL_BAND * 8
      let d := { d with failedAt := tset (if c.retest then d.failedAt else tset d.failedAt band s.now) (band + c.test) s.now }
      let d := if c.retest then { d with cls := 0 } else d
      raiseEng (bump (setClass s pc sid bank d) R.ENG_QUAL_FAILS) (pc / 2) 2 (bankIndex pc sid bank) false

def execQualTestDone (pc sid bank : Nat) (s : State) : Host.Outcome State Fault Refusal := .next (doQualTestDone pc sid bank s)

/-- ENG_QUAL_ENABLE (R188). -/
def actQualEnable (_ v : Nat) (s : State) : Nat × State :=
  (0, (if v = 0 then dropAllClasses else id) (wr s R.ENG_QUAL_ENABLE v))

def doEngQualEnable (a : Access) (s : State) : State := accessWrite a 0x5001 0 actQualEnable s

def execEngQualEnable (a : Access) (s : State) : Host.Outcome State Fault Refusal := .next (doEngQualEnable a s)

/-- ENG_BANK_CLASS_CAP: a cap below the bank's class lowers it, and abandons its test (R192). -/
def actClassCap (channel bank : Nat) (_ v : Nat) (s : State) : Nat × State :=
  let pc := channel * 2 + bank / 128 % 2
  let sid := bank / 32 % 4
  let s := put s (capKey pc sid (bank % 32)) 3 v
  let c := bankClass s pc sid (bank % 32)
  (0, if v < c.cls then
      let s := abandonTest s pc (sid * 32 + bank % 32)
      setClass s pc sid (bank % 32) { bankClass s pc sid (bank % 32) with cls := v }
    else s)

def doEngBankClassCap (a : Access) (channel bank : Nat) (s : State) : State :=
  accessWrite a (0x5440 + channel % 32) (bank % 256) (actClassCap (channel % 32) (bank % 256)) s

def execEngBankClassCap (a : Access) (channel bank : Nat) (s : State) : Host.Outcome State Fault Refusal :=
  .next (doEngBankClassCap a channel bank s)

/-- The whole bin table is saved with its time (R233). -/
def saveBins (s : State) : State :=
  if mgmtUp s then { s with mram := { s.mram with bins := s.stack.bins, binTime := some (poolNs s), binSavedAt := s.now } } else s

/-- BIN_TABLE_SAVE: RFH_BIN_SAVE_PERIOD, in s, has passed since the save before. -/
def doBinTableSave (s : State) : State :=
  if s.mram.binSavedAt + rd s R.RFH_BIN_SAVE_PERIOD * 1000000000 ≤ s.now then saveBins s else s

def execBinTableSave (s : State) : Host.Outcome State Fault Refusal := .next (doBinTableSave s)

/-- RFH_BIN_RESET: every group to bin 0 (R247). -/
def actBinReset (_ _ : Nat) (s : State) : Nat × State := (0, forEach (s.stack.bins.map (·.1)) s fun s k => setBin s k 0)

def doRfhBinReset (a : Access) (s : State) : State := accessWrite a 0x7102 1 actBinReset s

def execRfhBinReset (a : Access) (s : State) : Host.Outcome State Fault Refusal := .next (doRfhBinReset a s)

/-- RFH_BIN_MAX: every group above it is tightened at once (R247). -/
def actBinMax (_ v : Nat) (s : State) : Nat × State :=
  let high := (s.stack.bins.filter fun (_, b) => v < b).map (·.1)
  let s := forEach high (wr s R.RFH_BIN_MAX v) fun s k => setBin s k v
  (0, bumpTo s R.RFH_PROF_TIGHTENED 0 high.length satMax)

def doRfhBinMax (a : Access) (s : State) : State := accessWrite a 0x7102 0 actBinMax s

def execRfhBinMax (a : Access) (s : State) : Host.Outcome State Fault Refusal := .next (doRfhBinMax a s)

/-- RFH_PROF_ENABLE: 0 abandons every pass in progress (R248). -/
def actProfEnable (_ v : Nat) (s : State) : Nat × State :=
  let s := wr s R.RFH_PROF_ENABLE v
  (0, if v = 0 then forEach (parksWhere s fun _ p => !p.idle) s fun s k => abandonPark s k false else s)

def doRfhProfEnable (a : Access) (s : State) : State := accessWrite a 0x7103 0 actProfEnable s

def execRfhProfEnable (a : Access) (s : State) : Host.Outcome State Fault Refusal := .next (doRfhProfEnable a s)

/-- The profiler runs on the pseudo-channel (R245). -/
def profiles (s : State) (pc : Nat) : Bool :=
  awake s && pcServes s pc && rd s R.RFH_MODE_ACTIVE = 0 && rd s R.RFH_PROF_ENABLE = 1

/-- Groups found parked at start-up, with no test of theirs in progress, are unparked (R245). -/
def unparkStray (s : State) (pc : Nat) : State :=
  let stray := (pcGrafts s pc).filter fun (k, v) =>
    0x3E00 ≤ v.2 && v.2 < 0x3F00 && (tget? s.stack.parks (pc * 131072 + k % 2097152 / 16)).isNone
  let s := forEach stray s fun s (k, v) =>
    let sid := k / 524288 % 4
    let bank := k / 16384 % 32
    let row := k % 16384
    delGraft (copyRow s ⟨pc, sid, bank, row, 0⟩ .profile (rowKey v.1 31 v.2) (rowKey sid bank row)) pc sid bank row
  settleSpares s pc

/-- PROFILER_WALK_START: RFH_PROF_WALK_MIN, in h, has passed since the walk before started (R245). -/
def doProfilerWalkStart (pc : Nat) (s : State) : State :=
  let due := match tget? s.stack.walkFrom pc with
    | some t => decide (t + rd s R.RFH_PROF_WALK_MIN * 3600000000000 ≤ s.now)
    | none => true
  if profiles s pc && (tget? s.stack.walkAt pc).isNone && due then
    modStack (unparkStray s pc) fun t => { t with walkAt := tset t.walkAt pc 0, walkFrom := tset t.walkFrom pc s.now }
  else s

def execProfilerWalkStart (pc : Nat) (s : State) : Host.Outcome State Fault Refusal := .next (doProfilerWalkStart pc s)

/-- Group visited after `g`: spare banks are left out. -/
def groupAfter (g : Nat) : Nat := if (g + 1) / 1024 % 32 = 31 then g + 1 + 1024 else g + 1
/-- Past the last group of a walk. -/
def walkEnd : Nat := 131072

/-- A walk that has visited every group and tests none ends and is counted. -/
def settleWalk (s : State) (pc : Nat) : State :=
  match tget? s.stack.walkAt pc with
  | some n =>
    if walkEnd ≤ n && !(s.stack.verify.any fun k => k / 131072 = pc) && (parksWhere s fun k _ => k / 131072 = pc).isEmpty then
      bump (modStack s fun t => { t with walkAt := tdel t.walkAt pc }) R.RFH_PROF_WALKS
    else s
  | none => s

/-- Slice of a parked group. -/
def parkSlice (k : Nat) : Nat := k / 131072 / 2 * 4 + parkSid k

/-- A pass starts: the group's own rows are written raw, ones in pass 1 and zeros in pass 2 (R246). -/
def beginPassTest (s : State) (k : Nat) (p : Park) : State :=
  let s := modStack s fun t => { t with parks := tset t.parks k { p with failed := none, usedFrom := usedNow s (parkSlice k) } }
  let s := forEach (nums 0 16) s fun s i => writeRaw s (k / 131072) (rowKey (parkSid k) (parkBank k) (parkRow k + i)) (p.pass = 1)
  obsEvent s unitStack 20 1

/-- The group can be tested: its bank serves under its own address and none of its rows is grafted. -/
def testable (s : State) (pc k : Nat) : Bool :=
  (match replacement s pc (parkSid k) with
   | some (b, _) => b ≠ parkBank k
   | none => true) &&
  (nums 0 16).all fun i => (tget? s.stack.grafts (graftKey pc (parkSid k) (parkBank k) (parkRow k + i))).isNone

/-- The walk of a pseudo-channel has come to the group: every group before it that it has not visited cannot be tested (R245). -/
def walkReaches (s : State) (pc group : Nat) : Bool :=
  let n := tget s.stack.walkAt pc walkEnd
  n ≤ group && (nums n (group - n)).all fun g => g / 1024 % 32 = 31 || !testable s pc (pc * 131072 + g)

/-- The group is parked under test: none of its refreshes that the engine still holds issues (R246). -/
def dropRefresh (s : State) (pc group : Nat) : State :=
  let i := group / 1024 * 2 + group / 512 % 2
  modPch s pc fun p => { p with
    refresh := tput p.refresh i ((tget p.refresh i []).filter fun r => r.group ≠ group % 512) [] }

/-- GROUP_PARK: the walk's next group, or one whose verification is to come, is copied to a free test block, grafted onto it and
written raw, once no request goes to its own rows (R246, R247; 10 R282). A group that cannot be tested is passed over. -/
def doGroupPark (pc group : Nat) (s : State) : State :=
  let k := pc * 131072 + group
  let again := s.stack.verify.contains k
  let parked := (parksWhere s fun j _ => j / 131072 = pc).length
  if !(profiles s pc && group < walkEnd && group / 1024 % 32 ≠ 31 && (tget? s.stack.walkAt pc).isSome &&
      (again || walkReaches s pc group) && parked < rd s R.RFH_PROF_PARALLEL && !targeted s pc fun r => r / 16 = group) then s
  else
    let at' := fun (s : State) => modStack s fun t =>
      if again then { t with verify := t.verify.filter (· ≠ k) } else { t with walkAt := tset t.walkAt pc (groupAfter group) }
    if !testable s pc k then settleWalk (at' s) pc
    else match freeBlock s pc (freeSpares s pc (some (parkSid k))), decide (64 ≤ freeEntries s pc) with
      | some (sid, block), true =>
        let s := forEach (nums 0 16) (dropRefresh (at' s) pc group) fun s i =>
          let row := parkRow k + i
          let s := copyRow s ⟨pc, parkSid k, parkBank k, row, 0⟩ .profile (rowKey (parkSid k) (parkBank k) row)
            (rowKey sid 31 (0x3E00 + block * 16 + i))
          setGraft s pc (parkSid k) (parkBank k) row (sid, 0x3E00 + block * 16 + i)
        let bin := tget s.stack.bins k 0
        let cand := !again && decide (bin < rd s R.RFH_BIN_MAX)
        let s := beginPassTest s k ⟨if cand then bin + 1 else bin, 1, cand, none, sid, block, false, 0⟩
        settleSpares (wr s R.RFH_PROF_PARKED (rd s R.RFH_PROF_PARKED + 1)) pc
      | _, _ => s

def execGroupPark (pc group : Nat) (s : State) : Host.Outcome State Fault Refusal := .next (doGroupPark pc group s)

/-- The hold of a pass has lasted three windows of the tested bin, counted under R244 (R246). -/
def holdOver (s : State) (k : Nat) (p : Park) : Bool :=
  decide (p.usedFrom + 3 * 2 ^ p.bin * 32000000 ≤ usedNow s (parkSlice k))

/-- RETENTION_HOLD_END: the rows are read raw; `differs` says whether a bit had changed (R246 steps 3 and 4). -/
def doRetentionHoldEnd (pc group : Nat) (differs : Bool) (s : State) : State :=
  let k := pc * 131072 + group
  match tget? s.stack.parks k with
  | none => s
  | some p =>
    if p.idle || p.failed.isSome || !holdOver s k p then s
    else modStack s fun t => { t with parks := tset t.parks k { p with failed := some differs } }

def execRetentionHoldEnd (pc group : Nat) (differs : Bool) (s : State) : Host.Outcome State Fault Refusal :=
  .next (doRetentionHoldEnd pc group differs s)

/-- A test ends: the group returns, and the walk may end with it. -/
def endTest (s : State) (k : Nat) : State := settleWalk (unpark s k) (k / 131072)

/-- A weak group at bin 0 is reported with its 16 rows (R247, 10 R278). -/
def reportWeak (s : State) (k : Nat) : State :=
  let pc := k / 131072
  let s := raiseEv (bump s R.RFH_PROF_WEAK) 7 11 (k % 1024) (ident 4 (pc / 2))
  let p : Place := ⟨pc, parkSid k, parkBank k, parkRow k, 0, false, false, parkSid k, parkBank k, parkRow k⟩
  writeRecord s p { kind := 2, source := 3, rows := 16 }

/-- RETENTION_TEST_RESULT (R247). -/
def doRetentionTestResult (pc group : Nat) (s : State) : State :=
  let k := pc * 131072 + group
  match tget? s.stack.parks k with
  | none => s
  | some p =>
    let bin := tget s.stack.bins k 0
    match p.idle, p.failed with
    | false, some false =>
      if p.pass = 1 then beginPassTest s k { p with pass := 2 }
      else if p.candidate && bin < rd s R.RFH_BIN_MAX then bump (endTest (setBin s k (bin + 1)) k) R.RFH_PROF_LOOSENED
      else endTest s k
    | false, some true =>
      if p.candidate then unpark (modStack s fun t => { t with verify := t.verify ++ [k] }) k
      else if 0 < bin then bump (endTest (setBin s k (bin - 1)) k) R.RFH_PROF_TIGHTENED
      else endTest (reportWeak s k) k
    | _, _ => s

def execRetentionTestResult (pc group : Nat) (s : State) : Host.Outcome State Fault Refusal :=
  .next (doRetentionTestResult pc group s)

end Sys2Proof.Machine
end

