-- ==== Sys2Proof/Machine/Cdi.lean ====
section
/-!
DEFINITION. Meanings of the sequencer's commands on the core-die interface: mode registers, self-refresh, training commands,
tracking, retraining, polls and recovery (08 R205 to R230).
-/
namespace Sys2Proof.Machine

/-- Every SAG of a (pseudo-channel, SID) is closed. -/
def closeAll (s : State) (pc sid : Nat) : State :=
  modPch s pc fun p => { p with sags := p.sags.map fun (i, g) => (i, if i / 64 = sid then { g with row := none } else g) }

/-- A pseudo-channel that exists and has not failed: a failed one receives no command (R228). -/
def pcCommanded (s : State) (pc sid : Nat) : Bool := pc < nPcs s && sid < 4 && !pcFailed s pc

/-- PREA (R208). -/
def doPrea (pc sid nck : Nat) (flips : Flips) (s : State) : State :=
  if pcCommanded s pc sid then
    issueSeq s (pc / 2) (seqIssued nck cPrea pc sid 0 0) flips fun _ s => closeAll s pc sid
  else s

def execPrea (pc sid nck : Nat) (flips : Flips) (s : State) : Host.Outcome State Fault Refusal :=
  .next (doPrea pc sid nck flips s)

/-- MRW (R209). -/
def doMrw (channel sid ma data nck : Nat) (flips : Flips) (s : State) : State :=
  if sid < 4 && ma < 32 then
    issueSeq s channel (seqIssued nck cMrw 0 sid 0 (ma * 256 + data % 256)) flips fun ok s =>
      if ok then writeMr s channel sid ma (data % 256) else s
  else s

def execMrw (channel sid ma data nck : Nat) (flips : Flips) (s : State) : Host.Outcome State Fault Refusal :=
  .next (doMrw channel sid ma data nck flips s)

/-- A mode-register read starts: its value is awaited. A slice answers it in self-refresh while CK runs (R207). -/
def issueMrr (s : State) (c sid ma nck : Nat) (flips : Flips) : State :=
  let x := mrrCommand s c sid ma nck
  if c < nChannels s && rdi s R.CDI_CHANNEL_STATE c = 0 && timingMet s c x &&
      (!(chanOf s c).selfRef || (chanOf s c).ck) then
    let r := mrRead s c x flips
    modChan (obsEvent (record s c x flips) (unitPhy (quadOf c)) 23 1) c fun h => { h with mrrs := h.mrrs ++ [r] }
  else s

/-- MRR. -/
def doMrr (channel sid ma nck : Nat) (flips : Flips) (s : State) : State :=
  if sid < 4 && ma < 32 then issueMrr s channel sid ma nck flips else s

def execMrr (channel sid ma nck : Nat) (flips : Flips) (s : State) : Host.Outcome State Fault Refusal :=
  .next (doMrr channel sid ma nck flips s)

/-- A poll's value: bits [7:6] clear prove the SID up to the read, one of them set calls for recovery; bit [5] raises EV.06.10
(R224, R225). -/
def takePoll (s : State) (c : Nat) (r : MrRead) (v : Nat) : State :=
  let s := if bitOf v 5 then raiseEv s 6 10 0 (ident 4 c) else s
  if v &&& 0xC0 = 0 then prove s c r.sid r.count else modChan s c fun h => { h with trouble := true }

/-- MRR_RESULT: a value comes back, `own` where the register is the die's own reading, with what the lanes altered (R207). A slice
that did not execute the read sends none. -/
def doMrrResult (channel sid ma own : Nat) (err : BitVec 576) (s : State) : State :=
  match (chanOf s channel).mrrs.find? fun r => r.sid = sid && r.ma = ma with
  | none => s
  | some r =>
    let s := modChan s channel fun h => { h with mrrs := h.mrrs.erase r }
    if !r.heard then s
    else
      let v := readBack r own err (Config.freeValue s.free).toNat
      let s := { s with free := s.free + 1 }
      if ma = 3 then takePoll s channel r v else s

def execMrrResult (channel sid ma own : Nat) (err : BitVec 576) (s : State) : Host.Outcome State Fault Refusal :=
  .next (doMrrResult channel sid ma own err s)

/-- A SID is to be polled: not proven within CDI_STATUS_POLL, or 3,584 commands unproven (R224). -/
def pollDue (s : State) (c sid : Nat) : Bool :=
  decide (tget (chanOf s c).provenAt sid 0 + rd s R.CDI_STATUS_POLL ≤ s.now) || decide (3584 ≤ unproven s c sid)

/-- STATUS_POLL: MR3 of a SID not proven lately is read (R224). -/
def doStatusPoll (channel sid nck : Nat) (flips : Flips) (s : State) : State :=
  if sid < 4 && !(chanOf s channel).selfRef && pollDue s channel sid then issueMrr s channel sid 3 nck flips else s

def execStatusPoll (channel sid nck : Nat) (flips : Flips) (s : State) : Host.Outcome State Fault Refusal :=
  .next (doStatusPoll channel sid nck flips s)

/-- Every row of the channel is closed, no retrain holds it and nothing of its queues is left but internal requests that have not
issued; a commanded reset gives up after 100 µs what is still unwritten (14 R388). -/
def channelQuiet (s : State) (c : Nat) : Bool :=
  let givenUp := s.start.commanded.isSome && decide (s.start.commandedAt + 100000 ≤ s.now)
  [c * 2, c * 2 + 1].all fun pc =>
    (pchOf s pc).sags.all (fun (_, g) => g.row.isNone) && !(pchOf s pc).hold &&
      (givenUp || (pchOf s pc).held.all fun (_, h) => isInternal h && h.issued.isNone && h.purpose ≠ .qualRestore)

/-- A channel is to enter self-refresh: past E3 of an entry that stands, in a trip, or for a commanded reset (11 R295, 09
R252, 14 R388). -/
def entersRefresh (s : State) (c : Nat) : Bool :=
  let entry := match s.sleep.entry with
    | some e => entryScope s c && e.abort.isNone && rd s R.SLP_ENTRY_POINT = 4
    | none => false
  entry || s.stack.trip || s.start.commanded.isSome

/-- A channel in self-refresh is to stay there: asleep with no exit under way, or bound for sleep or reset. -/
def staysAsleep (s : State) (c : Nat) : Bool :=
  let exiting := match s.sleep.exit with
    | some (g, _, _) => g = 0 || bitOf g (c / 4)
    | none => false
  let undone := match s.sleep.entry with
    | some e => entryScope s c && e.abort.isNone
    | none => false
  ((s.sleep.pastE4 || bitOf (rd s R.SLP_GROUPS_ASLEEP) (c / 4)) && !exiting) || undone || s.start.commanded.isSome

/-- A hold from `h` to `h` + 20 µs is planned: what waits and falls due within it, or is yet to be passed and will, receives an extra
urgent REFpb first, and is itself issued after the hold (09 R236). A REFab's extra is a REFpb of every SAG. -/
def holdCovers (h d : Nat) : Bool := decide (h ≤ d) && decide (d ≤ h + 20000)

def extraRefresh (h g : Nat) : Refresh := { group := g, urgent := true, deadline := h, extra := true }

/-- What waits at an engine for one SAG, with the extras before it. -/
def withExtras (h : Nat) (l : List Refresh) : List Refresh :=
  let due := fun (r : Refresh) => !r.extra && !r.cover && holdCovers h r.deadline
  (l.filter due).map (fun r => extraRefresh h r.group) ++ l.map fun r => { r with cover := r.cover || due r }

/-- A step of a slice's schedule: pass, step, kind, start and length; and the step after it (09 R234, R238). -/
structure StepAt where
  n : Nat
  j : Nat
  catchup : Bool
  start : Nat
  len : Nat

def stepNow (s : State) (sl : Nat) : StepAt := ⟨passNo s sl, stepNo s sl, catchUp s sl, (planOf s sl).begin_, lenOf s sl⟩
def stepAfter (s : State) (sl : Nat) (x : StepAt) : StepAt :=
  let kind := if x.j < 511 then x.catchup else (planOf s sl).catchNext
  ⟨if x.j < 511 then x.n else nextPass s sl, if x.j < 511 then x.j + 1 else 0, kind, x.start + x.len, stepLen (sliceScale s sl) kind⟩

/-- The steps of a slice that may hold deadlines up to `until_`. -/
def stepsUntil (s : State) (sl until_ : Nat) : Nat → StepAt → List StepAt
  | 0, _ => []
  | k + 1, x => if until_ < x.start then [] else x :: stepsUntil s sl until_ k (stepAfter s sl x)

/-- Extras of a slice's refreshes that are still to be passed and fall due in a hold from `h` (09 R236). -/
def extrasAhead (s : State) (h sl : Nat) : List (Nat × Nat × Refresh) :=
  let sid := sl % 4
  (stepsUntil s sl (h + 20000) 32 (stepNow s sl)).flatMap fun x => (slicePcs sl).flatMap fun pc =>
    if rd s R.RFH_MODE_ACTIVE = 2 then
      if !((tget (pchOf s pc).refab sid []).any fun r => r.step = x.n * 512 + x.j) &&
          holdCovers h (x.start + abOff x.len sid pc + x.len / 4) then
        (nums 0 64).map fun i => (pc, sid * 64 + i, extraRefresh h x.j)
      else []
    else
      (nums 0 64).filterMap fun i =>
        let waits := (tget (pchOf s pc).refresh (sid * 64 + i) []).any fun r => r.step = x.n * 512 + x.j
        if !waits && holdCovers h (x.start + slotOff x.len sid (i / 2) (i % 2) pc + x.len / 4) &&
            groupDue s pc sid (i / 2) (i % 2) x.j x.n x.catchup && decide (s.now < x.start + slotOff x.len sid (i / 2) (i % 2) pc + x.len / 4) then
          some (pc, sid * 64 + i, extraRefresh h x.j)
        else none

/-- A hold of the channel of 20 µs is planned, 10 µs ahead, for a retraining of its command buses (R227, 09 R236). -/
def planHold (s : State) (c : Nat) : State :=
  let h := s.now + 10000
  let ahead := (nums (c * 4) 4).flatMap fun sl => if (planOf s sl).started then extrasAhead s h sl else []
  let s := forEach [c * 2, c * 2 + 1] s fun s pc =>
    if pcFailed s pc then s
    else modPch s pc fun p =>
      let due := (nums 0 4).flatMap fun sid => ((tget p.refab sid []).filter fun r => !r.cover && holdCovers h r.deadline).flatMap
        fun r => (nums 0 64).map fun i => (sid * 64 + i, extraRefresh h (r.step % 512))
      let p := { p with
        refresh := p.refresh.map fun (i, l) => (i, withExtras h l)
        refab := p.refab.map fun (i, l) => (i, l.map fun r => { r with cover := r.cover || holdCovers h r.deadline }) }
      due.foldl (fun p (i, r) => addRefresh p i r) p
  let s := forEach (ahead.filter fun (pc, _, _) => !pcFailed s pc) s fun s (pc, i, r) => modPch s pc fun p => addRefresh p i r
  modChan s c fun h' => { h' with cbt := .planned, coverFrom := h, coverUntil := h + 20000 }

/-- Write Vref of a (pseudo-channel, SID). -/
def wrVrefKey (pc sid : Nat) : Nat := keyOf (0x63C0 + pc) sid

/-- A recovery is counted and noted; CDI_CMD_ERR_LIMIT of them within a second plan a retraining of the command buses, 10 µs
ahead (R225, R227; the time is the model's, log entry 38). -/
def noteRecovery (s : State) (c : Nat) : State :=
  let s := bumpKey s (keyOf (0x6440 + c) 1)
  let s := modChan s c fun h => { h with recoveries := s.now :: h.recoveries.filter fun t => s.now < t + 1000000000 }
  let s := raiseEv (obsEvent s (unitPhy (quadOf c)) 24 1) 6 5 0 (ident 4 c)
  if rd s R.CDI_CMD_ERR_LIMIT ≤ (chanOf s c).recoveries.length && (chanOf s c).cbt = .none then planHold s c else s

/-- An ignored write's line is written poisoned (R225 step 4). -/
def poisonIgnored (s : State) (c : Nat) (x : Issued) : State :=
  let pc := c * 2 + x.pc
  let key := locKey x.sid x.bank (x.arg / 16) (x.arg % 16)
  let h := match (pchOf s pc).held.find? fun (_, h) => h.key = key && h.issued = some x.nck with
    | some (_, h) => h
    | none =>
      let l := (servedRow s pc x.sid x.bank (x.arg / 16)).getD ⟨pc, x.sid, x.bank, x.arg / 16, 0⟩
      { hold := .internal, key := key, lsid := l.sid, lbank := l.bank, lrow := l.row }
  bumpKey (queueBlockWrite s pc (internalFrom h .poisonWrite 0 true false)) (keyOf (0x6440 + c) 3)

/-- A refresh that a slice ignored is due again at once. -/
def urgentNow (s : State) (sl g : Nat) : Refresh :=
  { group := g, urgent := true, deadline := s.now + lenOf s sl / 4, step := passNo s sl * 512 + stepNo s sl }

/-- What recovery does with one ignored command (R225 steps 4 and 5). -/
def recoverOne (s : State) (c : Nat) (x : Issued) : State :=
  let pc := c * 2 + x.pc
  let s := bumpKey s (keyOf (0x6440 + c) 2)
  if x.cmd = cWr then poisonIgnored s c x
  else if x.cmd = cRd then
    modPch s pc fun p => { p with held := p.held.map fun (i, h) =>
      (i, if h.issued = some x.nck && needsRead h then { h with issued := none, unheard := false }
        else if h.reading = some x.nck then { h with reading := none, unheard := false } else h) }
  else if x.cmd = cRefpb then
    modPch s pc fun p => addRefresh p (sagNo x.sid x.bank x.sag) (urgentNow s (c * 4 + x.sid) x.arg)
  else if x.cmd = cReft then
    let i := sagNo x.sid x.bank x.sag
    setSag s pc i { sagAt s pc i with reft := (sagAt s pc i).latch, reftAt := x.nck }
  else if x.cmd = cRefab then modPch s pc fun p => addRefab p x.sid (urgentNow s (c * 4 + x.sid) 0)
  else if x.cmd = cMrw then (planAll s c (nckNow s) [{ x with nck := 0 }]).2
  else s

/-- Commands that a SID ignored, by its count against the channel's, oldest first (R225 step 3). What a slice in the command-error
state executes all the same is not among them, though it stands in the history after them (DEDUCED, log entry 36). -/
def ignored (s : State) (c sid : Nat) : List Issued :=
  let h := chanOf s c
  let n := (tget h.counts sid 0 + 65536 - (sliceOf s c sid).exec) % 65536
  (((h.lost.filter fun (i, x) => i = sid && h.hist.contains x).take n).map (·.2)).reverse

/-- The sequencer's commands of a recovery: the reads of every SID, MR3 cleared, PREA (R225 step 2). A failed pseudo-channel
receives none (R228). -/
def recoveryReads (s : State) (c : Nat) (sids : List Nat) : List Issued :=
  sids.flatMap fun i => [3, 4, 5, 6, 7, 8].map fun ma => mrrCommand s c i ma 0
def recoveryClears (s : State) (c : Nat) (sids : List Nat) : List Issued :=
  (sids.map fun i => seqIssued 0 cMrw 0 i 0 (3 * 256 + mrOf s c i 3 % 256)) ++
    (([c * 2, c * 2 + 1].filter fun pc => !pcFailed s pc).flatMap fun pc => sids.map fun i => seqIssued 0 cPrea pc i 0 0)

/-- A retrain in progress is abandoned: its Vref is restored, and it is due again (R219). -/
def abandonRetrain (s : State) (pc : Nat) : State :=
  let p := pchOf s pc
  if !p.hold then s
  else
    let v := val s (wrVrefKey pc p.sid) 0
    let s := (planAll s (pc / 2) (nckNow s) [seqIssued 0 cMrw pc p.sid 0 ((22 + pc % 2) * 256 + v)]).2
    modPch s pc fun p => { p with hold := false, due := some s.now }

/-- Recovery of the slices of some SIDs: what they ignored is found from their counts, the block's counts follow theirs, rows close
(R225). -/
def recoverSlices (s : State) (c : Nat) (sids : List Nat) : State :=
  let lost := sids.flatMap (ignored s c)
  let empty := sids.filter fun i => bitOf (mrOf s c i 3) 5
  let pcs := [c * 2, c * 2 + 1]
  let s := forEach pcs (noteRecovery s c) abandonRetrain
  let (t, s) := planAll s c (nckNow s) (recoveryReads s c sids)
  let s := (planAll s c t (recoveryClears s c sids)).2
  let s := forEach empty s fun s _ => raiseEv s 6 10 0 (ident 4 c)
  let s := forEach sids s fun s i =>
    prove (modChan s c fun h => { h with counts := tset h.counts i (sliceOf s c i).exec }) c i (sliceOf s c i).exec
  let s := forEach pcs s fun s pc => forEach sids s fun s i => closeAll s pc i
  let s := modChan s c fun h => { h with
    trouble := false, mrrs := h.mrrs.filter fun r => !sids.contains r.sid, lost := h.lost.filter fun l => !sids.contains l.1 }
  let s := forEach lost s fun s x => recoverOne s c x
  let s := if lost.any (·.cmd = cWr) then raiseEv s 6 6 0 (ident 4 c) else s
  forEach pcs s settlePch

/-- COMMAND_ERROR_RECOVERY: a missing burst or a poll that found error bits starts it (R219, R225); it waits for dies in loopback. -/
def doCommandErrorRecovery (channel : Nat) (s : State) : State :=
  if channelServes s channel && (chanOf s channel).trouble && (chanOf s channel).cbt ≠ .held then recoverSlices s channel [0, 1, 2, 3] else s

def execCommandErrorRecovery (channel : Nat) (s : State) : Host.Outcome State Fault Refusal :=
  .next (doCommandErrorRecovery channel s)

/-- SRE: the channel enters self-refresh (R226; 11 R299, 09 R252, 14 R388). What the planner had passed is dropped, and the
slices' next passes are catch-up passes (09 R238). A slice that executes it starts its step count (Table CDI-6). -/
def doSre (channel nck : Nat) (flips : Flips) (s : State) : State :=
  if entersRefresh s channel && channelQuiet s channel then
    issueSeq s channel (seqIssued nck cSre 0 0 0 0) flips fun _ s =>
      let s := modChan s channel fun h => { h with
        selfRef := true, sreConfirmed := false, srx := false, sreNow := s.now, sreNck := nck, sreAt := countedNs s }
      let s := forEach (nums 0 4) s fun s sid =>
        setPlan s (channel * 4 + sid) { planOf s (channel * 4 + sid) with fresh := true, catchNext := false }
      forEach [channel * 2, channel * 2 + 1] s fun s pc => modPch s pc fun p => { p with refresh := [], refab := [] }
  else s

def execSre (channel nck : Nat) (flips : Flips) (s : State) : Host.Outcome State Fault Refusal :=
  .next (doSre channel nck flips s)

/-- SIDs whose count differs from the channel's record (R226). -/
def missed (s : State) (c : Nat) : List Nat :=
  (nums 0 4).filter fun i => (sliceOf s c i).exec ≠ tget (chanOf s c).counts i 0

/-- The counts of every SID are read: SIDs that missed a command, the nCK, and the state after (R226). -/
def confirmCounts (s : State) (c start : Nat) : List Nat × Nat × State :=
  let (t, s) := planAll s c start ((nums 0 4).flatMap fun i => [mrrCommand s c i 7 0, mrrCommand s c i 8 0])
  (missed s c, t, s)

/-- Nothing runs on the channel's clocks: WCK dividers lose their alignment. -/
def stopClocks (s : State) (c : Nat) : State :=
  let s := modChan s c fun h => { h with sreConfirmed := true, ck := false, wck := false }
  forEach (nums 0 4) s fun s i => modSlice s c i fun d => { d with synced := 0 }

/-- SRE_CONFIRMED: from tCKSRE on the counts confirm the SRE and the clocks stop; a SID that missed it is recovered, and the SRE
is reissued and confirmed again (R226, Table CDI-4). -/
def doSreConfirmed (channel : Nat) (s : State) : State :=
  let h := chanOf s channel
  if !(channel < nChannels s && h.selfRef && !h.sreConfirmed && decide (h.sreNow + 10 ≤ s.now)) then s
  else
    let (l, _, s) := confirmCounts s channel (nckNow s)
    if l.isEmpty then stopClocks s channel
    else
      let (t, s) := planAll (recoverSlices s channel l) channel (nckNow s) [seqIssued 0 cSre 0 0 0 0]
      modChan s channel fun h => { h with sreNow := s.now, sreNck := t }

def execSreConfirmed (channel : Nat) (s : State) : Host.Outcome State Fault Refusal :=
  .next (doSreConfirmed channel s)

/-- After tXS the counts confirm an SRX; to a SID that missed it the SRX is issued again after its recovery, and confirmed (R226). -/
def exitConfirmed (s : State) (c nck : Nat) : Nat × State :=
  let r := confirmCounts s c nck
  if r.1.isEmpty then r.2
  else
    let q := planAll (recoverSlices r.2.2 c r.1) c r.2.1 [seqIssued 16 cSrx 0 0 0 0]
    (confirmCounts q.2 c q.1).2

/-- The counts are confirmed after tXS; SIDs that missed the SRX are recovered and it is reissued after tCKSRX; then WCK_SYNC runs
(R226, 11 R303). -/
def confirmExit (s : State) (c nck : Nat) : State :=
  let r := exitConfirmed s c nck
  let pcs := [c * 2, c * 2 + 1].filter fun pc => !pcFailed r.2 pc
  (planAll r.2 c r.1 (pcs.flatMap fun pc => (nums 0 4).map fun i => seqIssued 0 cWckSync pc i 0 0)).2

/-- SRX: tCKSRX after the clocks have restarted the dies leave self-refresh with empty activation latches, and the counts are
confirmed (R226, Tables CDI-4 and CDI-6). It waits for a trip in force (09 R254). -/
def doSrx (channel nck : Nat) (flips : Flips) (s : State) : State :=
  let h := chanOf s channel
  let x := seqIssued nck cSrx 0 0 0 0
  if channel < nChannels s && h.selfRef && h.sreConfirmed && h.ck && decide (h.ckFrom * 8 + 80 ≤ nck * 5) &&
      !s.stack.trip && !staysAsleep s channel && rdi s R.CDI_CHANNEL_STATE channel = 0 && timingMet s channel x then
    let s := obsEvent (record s channel x flips) (unitPhy (quadOf channel)) 23 1
    let s := modChan s channel fun h => { h with selfRef := false, sreConfirmed := false, srx := true }
    let s := forEach [channel * 2, channel * 2 + 1] s fun s pc => modPch s pc fun p =>
      { p with sags := p.sags.map fun (i, g) => (i, { g with latch := none }) }
    confirmExit s channel nck
  else s

def execSrx (channel nck : Nat) (flips : Flips) (s : State) : Host.Outcome State Fault Refusal :=
  .next (doSrx channel nck flips s)

/-- WR_FIFO: a training FIFO entry of the slice (Table CDI-3). -/
def doWrFifo (pc sid entry nck : Nat) (data : BitVec 608) (flips : Flips) (s : State) : State :=
  if pcCommanded s pc sid && entry < 8 then
    issueSeq s (pc / 2) (seqIssued nck cWrFifo pc sid 0 entry) flips fun ok s =>
      if ok then modSlice s (pc / 2) sid fun d => { d with fifo := tset d.fifo entry data } else s
  else s

def execWrFifo (pc sid entry nck : Nat) (data : BitVec 608) (flips : Flips) (s : State) : Host.Outcome State Fault Refusal :=
  .next (doWrFifo pc sid entry nck data flips s)

/-- RD_FIFO: the PHY alone uses the burst, which proves the SID's history (R224). -/
def doRdFifo (pc sid entry nck : Nat) (flips : Flips) (s : State) : State :=
  if pcCommanded s pc sid && entry < 8 then
    issueSeq s (pc / 2) (seqIssued nck cRdFifo pc sid 0 entry) flips fun ok s => if ok then proveNow s (pc / 2) sid else s
  else s

def execRdFifo (pc sid entry nck : Nat) (flips : Flips) (s : State) : Host.Outcome State Fault Refusal :=
  .next (doRdFifo pc sid entry nck flips s)

/-- RD_CAL: a calibration pattern; the PHY alone uses the burst. -/
def doRdCal (pc sid pattern nck : Nat) (flips : Flips) (s : State) : State :=
  if pcCommanded s pc sid && pattern < 4 then
    issueSeq s (pc / 2) (seqIssued nck cRdCal pc sid 0 pattern) flips fun ok s => if ok then proveNow s (pc / 2) sid else s
  else s

def execRdCal (pc sid pattern nck : Nat) (flips : Flips) (s : State) : Host.Outcome State Fault Refusal :=
  .next (doRdCal pc sid pattern nck flips s)

/-- WCK_SYNC: the slice's WCK dividers are aligned for the pseudo-channel. -/
def doWckSync (pc sid nck : Nat) (flips : Flips) (s : State) : State :=
  if pcCommanded s pc sid then
    issueSeq s (pc / 2) (seqIssued nck cWckSync pc sid 0 0) flips fun ok s =>
      let s := modChan s (pc / 2) fun h => { h with wck := true }
      if ok then modSlice s (pc / 2) sid fun d => { d with synced := putBit d.synced (pc % 2) true } else s
  else s

def execWckSync (pc sid nck : Nat) (flips : Flips) (s : State) : Host.Outcome State Fault Refusal :=
  .next (doWckSync pc sid nck flips s)

/-- Row that MR24 to MR26 name: pseudo-channel bit, bank, row. -/
def repairRow (s : State) (c sid : Nat) : Nat × Nat × Nat :=
  let x := mrOf s c sid 24
  (x / 128 % 2, x % 32, mrOf s c sid 26 % 64 * 256 + mrOf s c sid 25)

/-- A line whose content is no longer fixed (16 R421). -/
def loseLine (s : State) (pc key : Nat) : State :=
  { s with array := { s.array with
    lines := tdel s.array.lines (cellKey pc key), lost := tset s.array.lost (cellKey pc key) true } }

/-- The row of MR24 to MR26 is remapped; its contents are not kept (Table CDI-6). The bank is closed in both SAGs. -/
def remap (s : State) (c sid nck cmd : Nat) (flips : Flips) (note : Slice → Nat → Slice) : State :=
  let (p, bank, row) := repairRow s c sid
  let pc := c * 2 + p
  if pcCommanded s pc sid && (sagAt s pc (sagNo sid bank 0)).row.isNone && (sagAt s pc (sagNo sid bank 1)).row.isNone then
    issueSeq s c (seqIssued nck cmd p sid bank row) flips fun ok s =>
      if !ok then s
      else
        let s := modSlice s c sid fun d => note d ((p * 32 + bank) * 16384 + row)
        forEach (nums 0 16) s fun s i => loseLine s pc (locKey sid bank row i)
  else s

/-- SOFT_REPAIR. -/
def doSoftRepair (channel sid nck : Nat) (flips : Flips) (s : State) : State :=
  remap s channel sid nck cSoft flips fun d r => { d with soft := r :: d.soft }

def execSoftRepair (channel sid nck : Nat) (flips : Flips) (s : State) : Host.Outcome State Fault Refusal :=
  .next (doSoftRepair channel sid nck flips s)

/-- HARD_REPAIR. -/
def doHardRepair (channel sid nck : Nat) (flips : Flips) (s : State) : State :=
  remap s channel sid nck cHard flips fun d r => { d with hard := r :: d.hard }

def execHardRepair (channel sid nck : Nat) (flips : Flips) (s : State) : Host.Outcome State Fault Refusal :=
  .next (doHardRepair channel sid nck flips s)

/-- PREAMBLE_GAP_REQUEST: no preamble for CDI_TRACK_GAP (R214). -/
def doPreambleGapRequest (pc sid : Nat) (s : State) : State :=
  if pcServes s pc && sid < 4 && decide (tget (pchOf s pc).heardAt sid 0 + rd s R.CDI_TRACK_GAP ≤ s.now) then
    obsEvent (modPch s pc fun p => { p with gaps := putBit p.gaps sid true }) (unitPhy (pc / 8)) 21 1
  else s

def execPreambleGapRequest (pc sid : Nat) (s : State) : Host.Outcome State Fault Refusal :=
  .next (doPreambleGapRequest pc sid s)

/-- Index of the retrain period that the pool time has reached for a pseudo-channel, its offset p × period / 64 counted (R217). -/
def retrainTurn (s : State) (pc : Nat) : Nat :=
  let period := rd s R.CDI_RETRAIN_PERIOD * 1000
  let at' := pc * period / 64
  if poolNs s < at' then 0 else (poolNs s - at') / period + 1

/-- A retrain falls due: a period has begun that has had none, it is due out of turn, or it was deferred (R217, R219). -/
def retrainDue (s : State) (pc : Nat) : Bool :=
  let p := pchOf s pc
  retrainTurn s pc ≠ p.turn || p.due.any (fun t => decide (t ≤ s.now)) || p.late.isSome

/-- A retrain may start now (R217); after S2 the pseudo-channels of a channel follow each other (11 R304). -/
def retrainFree (s : State) (pc : Nat) : Bool :=
  let h := chanOf s (pc / 2)
  let calm := fun (l : List Refresh) => l.all fun r => !r.urgent
  let deep := rd s R.SLP_STATE = 7
  (rd s R.CDI_RETRAIN_ENABLE = 1 || deep) && !(h.mrrs.any (·.ma = 3)) && !h.trouble && h.cbt ≠ .held &&
    !entryCovers s (pc / 2) && !s.stack.trip && !(deep && (pchOf s (pc / 2 * 2 + (1 - pc % 2))).hold) &&
    (pchOf s pc).refresh.all (fun (_, l) => calm l) && (pchOf s pc).refab.all fun (_, l) => calm l

/-- The commands of a retrain's steps 1 to 3: FIFO entries 0 to 3 through the offset write delays, 4 and 5 at the raised write Vref,
6 and 7 at the lowered one, Vref restored, and all eight read back; an MRW waits for the data of the write before it (R218). -/
def retrainProbe (s : State) (pc sid : Nat) : List Issued :=
  let wrF := fun e => seqIssued 0 cWrFifo pc sid 0 e
  let v := val s (wrVrefKey pc sid) 0
  let vref := fun x => seqIssued 12 cMrw pc sid 0 ((22 + pc % 2) * 256 + x)
  [wrF 0, wrF 1, wrF 2, wrF 3, vref (min 255 (v + 30)), wrF 4, wrF 5, vref (v - 30), wrF 6, wrF 7, vref v] ++
    (nums 0 8).map fun e => seqIssued 0 cRdFifo pc sid 0 e

/-- A retrain begins: the pseudo-channel is held and probed; a deferral beyond 10 µs is counted (R217, R218). The retrain of an exit
from S2 was not deferred (11 R304). -/
def beginRetrain (s : State) (pc : Nat) : State :=
  let p := pchOf s pc
  let late := p.late.any fun t => decide (t + 10000 < s.now) && rd s R.SLP_STATE ≠ 7
  let turn := retrainTurn s pc
  let s := modPch s pc fun p => { p with hold := true, holdAt := s.now, late := none, turn := turn, due := none }
  let s := (planAll s (pc / 2) (nckNow s) (retrainProbe s pc p.sid)).2
  let s := proveNow { s with free := s.free + 8 } (pc / 2) p.sid
  if late then bumpi s R.CDI_RETRAIN_LATE pc else s

/-- PERIODIC_RETRAIN: a retrain falls due; where it may not start it is deferred (R217, R218). -/
def doPeriodicRetrain (pc : Nat) (s : State) : State :=
  if !pcServes s pc || (pchOf s pc).hold || !retrainDue s pc then s
  else if retrainFree s pc then beginRetrain s pc
  else modPch s pc fun p => { p with late := some (p.late.getD s.now) }

def execPeriodicRetrain (pc : Nat) (s : State) : Host.Outcome State Fault Refusal := .next (doPeriodicRetrain pc s)

/-- Deferred retrains start on the first beat on which they may (R217). -/
def startDeferred (s : State) : State :=
  forEach ((s.pchs.filter fun (_, p) => p.late.isSome).map (·.1)) s fun s pc =>
    if pcServes s pc && !(pchOf s pc).hold && retrainFree s pc then beginRetrain s pc else s

/-- Value of MR16 to MR19 for a spare: the lane it carries (R218). -/
def spareWordOf (s : State) (pc sp : Nat) : Nat :=
  match spareLane s pc sp with
  | some l => 128 + l
  | none => 0

/-- MRW of a spare's register to all four slices. -/
def spareWrites (s : State) (pc sp : Nat) : List Issued :=
  (nums 0 4).map fun sid => seqIssued 0 cMrw pc sid 0 ((16 + pc % 2 * 2 + sp) * 256 + spareWordOf s pc sp)

/-- Lowest spare of a pseudo-channel that is neither in use nor retired. -/
def freeSpare (s : State) (pc : Nat) : Option Nat :=
  [0, 1].find? fun sp => (spareLane s pc sp).isNone && !bitOf (rdi s R.CDI_SPARES_RETIRED pc) sp

/-- A marked lane is moved onto a free spare: the block and all four slices switch together, and the spare is verified through the FIFO
(R218, R222). A lane whose own spare failed leaves it; a spare that fails verification is given up again (the model's, log entry 38). -/
def spareMarked (s : State) (pc lane : Nat) (ok : Bool) : State :=
  match freeSpare s pc with
  | none => s
  | some sp =>
    let was := carriedOn s pc lane
    let sid := (pchOf s pc).sid
    let s' := setSpare s pc sp (some lane)
    let verify := [seqIssued 8 cWrFifo pc sid 0 0, seqIssued 0 cWrFifo pc sid 0 1, seqIssued 0 cRdFifo pc sid 0 0,
      seqIssued 0 cRdFifo pc sid 0 1]
    let (t, s') := planAll s' (pc / 2) (nckNow s) (spareWrites s' pc sp ++ verify)
    let s' := { s' with free := s'.free + 8 }
    if ok then
      let s' := match was with
        | some old => let s' := setSpare s' pc old none; (planAll s' (pc / 2) t (spareWrites s' pc old)).2
        | none => s'
      raiseEv (wri s' R.CDI_ERASURES pc (putBit (rdi s' R.CDI_ERASURES pc) lane false)) 6 1 lane (ident 4 (pc / 2))
    else
      let s' := setSpare s' pc sp none
      let s' := (planAll s' (pc / 2) t (spareWrites s' pc sp)).2
      wri s' R.CDI_SPARES_RETIRED pc (putBit (rdi s' R.CDI_SPARES_RETIRED pc) sp true)

/-- A lane that fails on both sides fails the retrain and keeps its settings (R218, R219). -/
def laneFails (l : LaneProbe) : Bool := (l.minus && l.plus) || (l.high && l.low)

/-- The step of the write Vref: away from a failing side when the other passes on every lane (R218). -/
def vrefStep (l : List LaneProbe) : Int :=
  let high := l.any (·.high)
  let low := l.any (·.low)
  if high && !low then -1 else if low && !high then 1 else 0

/-- A lane failed a retrain: its logical lane is marked; the event names the physical lane where it carries none (R219, R220). -/
def failLane (s : State) (pc phys : Nat) : State :=
  match logicalLane s pc phys with
  | some l => raiseEv (markLane s pc l) 6 3 l (ident 4 (pc / 2))
  | none => raiseEv s 6 3 phys (ident 4 (pc / 2))

/-- The lanes after the comparison: delays and Vref move; the SID's tracking starts anew (R216, R218). -/
def adjustLanes (s : State) (pc sid : Nat) (l : List LaneProbe) : State :=
  let move := fun (s : State) (x : LaneProbe) =>
    let d : Int := if x.minus && !x.plus then 4 else if x.plus && !x.minus then -4 else 0
    if d = 0 then s else moveDelay s true pc x.lane sid ((delayCode s true pc x.lane sid : Int) + d)
  let s := forEach (l.filter fun x => !laneFails x) s move
  let v := val s (wrVrefKey pc sid) 0
  let v' := (clampInt ((v : Int) + vrefStep l) 0 255).toNat
  let s := if v' = v then s
    else (planAll s (pc / 2) (nckNow s) [seqIssued 0 cMrw pc sid 0 ((22 + pc % 2) * 256 + v')]).2
  modStack s fun t => { t with tracks := t.tracks.filter fun (k, _) => k / 64 ≠ pc * 4 + sid }

/-- RETRAIN_COMPLETE (R218, R219, R222). -/
def doRetrainComplete (pc : Nat) (r : RetrainReport) (s : State) : State :=
  let p := pchOf s pc
  if !p.hold || (chanOf s (pc / 2)).cbt = .held then s
  else
    let kept := fun (s : State) => (rdi s R.CDI_LANE_MAP pc, rdi s R.CDI_ERASURES pc, rdi s R.CDI_SPARES_RETIRED pc)
    let before := kept s
    let lanes := r.lanes.filter (·.lane < 38)
    let s := adjustLanes s pc p.sid lanes
    let marked := bitsSet (rdi s R.CDI_ERASURES pc) 36
    let s := forEach (marked.zip r.verified) s fun s (l, ok) => spareMarked s pc l ok
    let failed := lanes.filter laneFails
    let s := if failed.isEmpty then s else bumpi s R.CDI_RETRAIN_FAILS pc
    let s := forEach failed s fun s x => failLane s pc x.lane
    let s := obsEvent (bumpi s R.CDI_RETRAINS pc) (unitPhy (pc / 8)) 19 1
    let s := wri s R.CDI_HOLD_MAX pc (min 65535 (max (rdi s R.CDI_HOLD_MAX pc) (s.now - p.holdAt)))
    let due := if failed.isEmpty then p.due else some s.now
    let s := modPch s pc fun p => { p with hold := false, sid := (p.sid + 1) % 4, due := due }
    if kept s = before then s else storeTraining s (hottestOf s ((liveSensors s).filter (· < 0x100)) |>.map (·.1))

def execRetrainComplete (pc : Nat) (r : RetrainReport) (s : State) : Host.Outcome State Fault Refusal :=
  .next (doRetrainComplete pc r s)

/-- A pseudo-channel's requests end: reads draw BUS_ERROR, credits return; a repair job is refused (R228, 10 R285). -/
def emptyPch (s : State) (pc : Nat) : State :=
  let l := (pchOf s pc).held
  let s := modPch s pc fun p => { p with held := [], store := [], work := [], refresh := [], refab := [], sags := [],
                                         qual := none, hold := false, drain := false, flush := false }
  let s := forEach l s fun s (_, h) =>
    let s := returnCreditOf s (if h.hold = .read then 1 else 2) h
    match h.txn with
    | some t => readAnswered s t 4 0
    | none => s
  let st := rdi s R.INT_REPAIR_STATE pc
  if 1 ≤ st && st ≤ 3 then
    let lb := ((jobOf s pc).map (·.lbank)).getD 0
    let s := modStack (wri s R.INT_REPAIR_STATE pc 11) fun t => { t with jobs := tdel t.jobs pc }
    raiseEv s 8 7 lb (ident 4 (pc / 2))
  else s

/-- A pseudo-channel fails, and its state is stored (R228); `alone` where its channel does not fail with it. -/
def failPc (s : State) (pc : Nat) (alone : Bool) : State :=
  if rdi s R.CDI_PC_STATE pc = 3 then s
  else
    let s := storeEntry (wri s R.CDI_PC_STATE pc 3) (keyOf (0x6100 + pc) 0)
    let s := modStack s fun t => { t with failedAt := tset t.failedAt pc (poolNs s) }
    let s := wr s R.BLK_BANKS_IN_SERVICE (rd s R.BLK_BANKS_IN_SERVICE - 128)
    let s := if alone then raiseEv s 6 4 0 (ident 4 (pc / 2)) else s
    emptyPch s pc

/-- A channel fails (R228). -/
def failChannel (s : State) (c : Nat) : State :=
  if rdi s R.CDI_CHANNEL_STATE c = 1 then s
  else
    let s := raiseEv (storeEntry (wri s R.CDI_CHANNEL_STATE c 1) (keyOf (0x6440 + c) 4)) 6 8 0 (ident 4 c)
    failPc (failPc s (c * 2) false) (c * 2 + 1) false

/-- Command lanes that failed on one bus: the first moves onto the bus's spare, a second fails the channel (R203, R223).
CDI_CMD_SPARES holds the row lane in [15:8] and the column lane in [7:0]. -/
def spareCommand (s : State) (c : Nat) (row : Bool) (lane : Nat) : State :=
  let v := rdi s R.CDI_CMD_SPARES c
  let at' := if row then 8 else 0
  if bitOf v (at' + 7) then (if field v at' 4 = lane then s else failChannel s c)
  else raiseEv (wri s R.CDI_CMD_SPARES c (putField v at' 8 (128 + lane))) 6 7 lane (ident 4 c)

/-- MRW of MR20 and MR21 to the four slices. -/
def cmdSpareWrites (s : State) (c : Nat) : List Issued :=
  let v := rdi s R.CDI_CMD_SPARES c
  (nums 0 4).flatMap fun sid =>
    [seqIssued 0 cMrw 0 sid 0 (20 * 256 + field v 8 8), seqIssued 0 cMrw 0 sid 0 (21 * 256 + field v 0 8)]

/-- MRW of MR2's loopback bit to the four slices. -/
def loopbackWrites (s : State) (c : Nat) (on : Bool) : List Issued :=
  (nums 0 4).map fun sid => seqIssued 0 cMrw 0 sid 0 (2 * 256 + putBit (mrOf s c sid 2) 6 on)

/-- Planned holds that begin: from its time on, once the extra refreshes have issued and no retrain runs, both pseudo-channels are held
and the dies put into loopback (R227, 09 R236). -/
def startHolds (s : State) : State :=
  forEach ((s.chans.filter fun (_, h) => h.cbt = .planned && decide (h.coverFrom ≤ s.now)).map (·.1)) s fun s c =>
    let ready := fun pc => !(pchOf s pc).hold && (pchOf s pc).refresh.all fun (_, l) => l.all fun r => !r.extra
    if channelServes s c && ready (c * 2) && ready (c * 2 + 1) && !entryCovers s c && !s.stack.trip then
      let s := modChan s c fun h => { h with cbt := .held, coverUntil := max h.coverUntil (s.now + 20000) }
      let s := forEach [c * 2, c * 2 + 1] s fun s pc => modPch s pc fun p => { p with hold := true, holdAt := s.now }
      (planAll s c (nckNow s) (loopbackWrites s c true)).2
    else s

/-- COMMAND_BUS_RETRAIN: the sweeps of a held channel's command lanes end. Failed lanes are spared, the loopback ends, PREA is
reapplied and the hold is over (R227). -/
def doCommandBusRetrain (channel : Nat) (rowFail colFail : List Nat) (s : State) : State :=
  if channelServes s channel && (chanOf s channel).cbt = .held then
    let s := forEach (rowFail.filter (· < 10)) s fun s l => spareCommand s channel true l
    let s := forEach (colFail.filter (· < 8)) s fun s l => spareCommand s channel false l
    let pcs := [channel * 2, channel * 2 + 1]
    let preas := (pcs.filter fun pc => !pcFailed s pc).flatMap fun pc => (nums 0 4).map fun i => seqIssued 0 cPrea pc i 0 0
    let s := if rdi s R.CDI_CHANNEL_STATE channel = 1 then s
      else (planAll s channel (nckNow s) (cmdSpareWrites s channel ++ loopbackWrites s channel false ++ preas)).2
    let s := forEach pcs s fun s pc => forEach (nums 0 4) s fun s sid => closeAll s pc sid
    let s := forEach pcs s fun s pc => modPch s pc fun p => { p with hold := false }
    modChan s channel fun h => { h with cbt := .none, recoveries := [] }
  else s

def execCommandBusRetrain (channel : Nat) (rowFail colFail : List Nat) (s : State) : Host.Outcome State Fault Refusal :=
  .next (doCommandBusRetrain channel rowFail colFail s)

/-- CDI_MR_READ: the sequencer reads the register; refused for a failed or held channel, with both result bits at once (R230, 12
R427). -/
def actMrRead (_ v : Nat) (s : State) : Nat × State :=
  let c := field v 11 5
  let held := (pchOf s (c * 2)).hold || (pchOf s (c * 2 + 1)).hold
  if nChannels s ≤ c then (3, s)
  else if rdi s R.CDI_CHANNEL_STATE c = 1 || held then (0, wr s R.CDI_MR_VALUE 0xC000)
  else
    let x := mrrCommand s c (field v 8 2) (field v 0 5) 0
    let r := mrRead s c { x with nck := nckNow s } []
    let s := (planAll (wr s R.CDI_MR_VALUE 0) c (nckNow s) [x]).2
    (0, modStack s fun t => { t with mrRead := some (c, r) })

def doCdiMrRead (a : Access) (s : State) : State := accessWrite a 0x6600 0 actMrRead s

def execCdiMrRead (a : Access) (s : State) : Host.Outcome State Fault Refusal := .next (doCdiMrRead a s)

/-- CDI_MR_READ_DONE: the value appears, `own` where the register is the die's own reading. -/
def doCdiMrReadDone (own : Nat) (s : State) : State :=
  match s.stack.mrRead with
  | none => s
  | some (_, r) => modStack (wr s R.CDI_MR_VALUE (0x8000 + readBack r own 0 0)) fun t => { t with mrRead := none }

def execCdiMrReadDone (own : Nat) (s : State) : Host.Outcome State Fault Refusal := .next (doCdiMrReadDone own s)

end Sys2Proof.Machine
end

