-- ==== Sys2Proof/Machine/Integrity.lean ====
section
/-!
DEFINITION. Meanings of the scrubber, of repair jobs and of the checker test mode (10 R270 to R273, R281 to R286).
-/
namespace Sys2Proof.Machine

/-- Reads of a row's 16 lines wait for internal slots. -/
def queueRow (s : State) (l : Loc) (purpose : Purpose) (physical : Option Loc) : State :=
  let h := fun c =>
    match physical with
    | none => heldFor s { l with col := c } .internal purpose
    | some p => { heldFor s { l with col := c } .internal purpose with key := locKey p.sid p.bank p.row c }
  let s := modPch s l.pc fun p => { p with work := p.work ++ (nums 0 16).map h }
  settlePch (obsEvent s unitStack 19 1) l.pc

/-- The pseudo-channel can be scrubbed now, and its previous row has gone to the slots (R271, R272). -/
def scrubFree (s : State) (pc : Nat) : Bool :=
  awake s && pcServes s pc && !(pchOf s pc).hold &&
    !((pchOf s pc).work.any fun h => h.purpose = .scrub || h.purpose = .suspect)

/-- A row's spacing of `ns` has passed since the pseudo-channel's row before (R272, R273). -/
def rowDue (s : State) (pc ns : Nat) : Bool :=
  match tget? s.stack.scrubAt pc with
  | some t => decide (t + ns ≤ s.now)
  | none => true

/-- The time of a row's start. -/
def markRow (s : State) (pc : Nat) : State := modStack s fun t => { t with scrubAt := tset t.scrubAt pc s.now }

/-- A pass is counted once every pseudo-channel in service has walked (R271). -/
def settlePasses (s : State) (pc : Nat) : State :=
  let s := modStack s fun t => { t with scrubWalks := tset t.scrubWalks pc (tget t.scrubWalks pc 0 + 1) }
  let live := (nums 0 (nPcs s)).filter fun p => !pcFailed s p
  if live.all fun p => 1 ≤ tget s.stack.scrubWalks p 0 then
    let walks := s.stack.scrubWalks.filterMap fun (k, n) => if n ≤ 1 then none else some (k, n - 1)
    bump (modStack s fun t => { t with scrubWalks := walks }) R.INT_SCRUB_PASSES
  else s

/-- SCRUB_ROW_START: the next row of the walk, through the repair tables (R271, R272). -/
def doScrubRowStart (pc : Nat) (s : State) : State :=
  if !(scrubFree s pc && rd s R.INT_SCRUB_ENABLE = 1 && (tget s.stack.suspects pc []).isEmpty &&
      rowDue s pc (rd s R.INT_SCRUB_PERIOD * 1000000000 / 2031616)) then s
  else
    let s := markRow s pc
    let w := rdi s R.INT_SCRUB_ROW pc
    let s := queueRow s ⟨pc, field w 21 2, field w 14 5, field w 0 14, 0⟩ .scrub none
    let next := if field w 0 14 < 16383 then w + 1
      else if field w 14 5 < 30 then putField (putField w 0 14 0) 14 5 (field w 14 5 + 1)
      else if field w 21 2 < 3 then (field w 21 2 + 1) * 2 ^ 21 else 0
    let s := wri s R.INT_SCRUB_ROW pc next
    if next = 0 then settlePasses s pc else s

def execScrubRowStart (pc : Nat) (s : State) : Host.Outcome State Fault Refusal := .next (doScrubRowStart pc s)

/-- SUSPECT_SCRUB_ROW: the oldest suspect bank, row by row; its last row ends it (R273). Rows that serve nothing are passed
over. -/
def doSuspectScrubRow (pc : Nat) (s : State) : State :=
  match tget s.stack.suspects pc [] with
  | [] => s
  | b :: rest =>
    if !(scrubFree s pc && rowDue s pc 2000) then s
    else
      let s := markRow s pc
      let row := tget s.stack.suspectRow pc 0
      let sid := b / 32 % 4
      let s := match servedRow s pc sid (b % 32) row with
        | some l => queueRow s l .suspect (some ⟨pc, sid, b % 32, row, 0⟩)
        | none => s
      if row < 16383 then modStack s fun t => { t with suspectRow := tset t.suspectRow pc (row + 1) }
      else
        let s := modStack s fun t => { t with suspects := tput t.suspects pc rest [], suspectRow := tdel t.suspectRow pc }
        raiseEv (wr s R.INT_LAST_SUSPECT b) 8 10 b (ident 4 (pc / 2))

def execSuspectScrubRow (pc : Nat) (s : State) : Host.Outcome State Fault Refusal := .next (doSuspectScrubRow pc s)

/-- A bank is marked suspect, up to 128 of a pseudo-channel (R273). -/
def addSuspect (s : State) (pc b : Nat) : State :=
  let l := tget s.stack.suspects pc []
  if l.contains b || 128 ≤ l.length then s
  else modStack s fun t => { t with suspects := tset t.suspects pc (l ++ [b]) }

/-- A repair command is refused with a cause (R283). -/
def refuseRepair (s : State) (lb st cause : Nat) : Nat × State :=
  let pc := lb / 128
  let s := wri s R.INT_REPAIR_REFUSAL pc cause
  let cur := rdi s R.INT_REPAIR_STATE pc
  let s := if 1 ≤ cur && cur ≤ 3 then s else wri s R.INT_REPAIR_STATE pc cause
  (st, raiseEv s 8 7 lb (ident 4 (pc / 2)))

/-- A job is accepted (Table INT-6). -/
def startJob (s : State) (j : Job) : Nat × State :=
  let pc := j.lbank / 128
  (0, modStack (wri (wri s R.INT_REPAIR_STATE pc 1) R.INT_REPAIR_PROGRESS pc 0) fun t => { t with jobs := tset t.jobs pc j })

/-- Checks 1 to 3 of R283: the cause, with its status. -/
def repairCheck (s : State) (lb : Nat) (fields : Bool) : Option (Nat × Nat) :=
  let pc := lb / 128
  let cur := rdi s R.INT_REPAIR_STATE pc
  if !(fields && pc < nPcs s && lb % 32 < 31) then some (3, 12)
  else if 1 ≤ cur && cur ≤ 3 then some (5, 6)
  else if pcFailed s pc then some (3, 11)
  else none

/-- INT_RETIRE_ROW: LBANK [63:51], first row [50:37], rows [36:32] (R283). -/
def actRetireRow (_ v : Nat) (s : State) : Nat × State :=
  let lb := field v 51 13
  let row := field v 37 14
  let n := field v 32 5
  let pc := lb / 128
  let sid := lb / 32 % 4
  let ok := v % 2 ^ 32 = 0 && 1 ≤ n && n ≤ 16 && row + n ≤ 16384 && sagOf row = sagOf (row + n - 1)
  let parked := (parksWhere s fun k _ => k / 131072 = pc).length * 16
  let replaced := match replacement s pc sid with
    | some (b, _) => decide (b = lb % 32)
    | none => false
  match repairCheck s lb ok with
  | some (st, c) => refuseRepair s lb st c
  | none =>
    if replaced then refuseRepair s lb 3 10
    else if freeEntries s pc + parked < n then refuseRepair s lb 3 7
    else if (allocRows s pc (sagOf row) n (freeSpares s pc (some sid))).length < n then refuseRepair s lb 3 8
    else startJob s ⟨false, lb, row, n, [], 0, 0⟩

def doIntRetireRow (a : Access) (s : State) : State := accessWrite a 0x8003 0 actRetireRow s

def execIntRetireRow (a : Access) (s : State) : Host.Outcome State Fault Refusal := .next (doIntRetireRow a s)

/-- INT_RETIRE_BANK (R283). -/
def actRetireBank (_ v : Nat) (s : State) : Nat × State :=
  let lb := v % 8192
  let pc := lb / 128
  let other := match replacement s pc (lb / 32 % 4) with
    | some (b, _) => decide (b ≠ lb % 32)
    | none => false
  match repairCheck s lb (v < 8192) with
  | some (st, c) => refuseRepair s lb st c
  | none =>
    if other then refuseRepair s lb 3 10
    else if (freeSpares s pc none).length ≤ 1 then refuseRepair s lb 3 9
    else startJob s ⟨true, lb, 0, 16384, [], 0, 0⟩

def doIntRetireBank (a : Access) (s : State) : State := accessWrite a 0x8003 1 actRetireBank s

def execIntRetireBank (a : Access) (s : State) : Host.Outcome State Fault Refusal := .next (doIntRetireBank a s)

/-- Parks are unparked, in order, until the graft entries suffice (R284 step 1). -/
def freeParks (s : State) (pc n : Nat) : List Nat → State
  | [] => s
  | k :: l => if n ≤ freeEntries s pc then s else freeParks (abandonPark s k false) pc n l

/-- A graft of a spare bank that is to replace another moves to a row of another FREE one (R284 step 1). -/
def moveGraft (s : State) (pc : Nat) (banks : List Nat) (g : Nat × (Nat × Nat)) : State :=
  let (k, v) := g
  let l : Loc := ⟨pc, k / 524288 % 4, k / 16384 % 32, k % 16384, 0⟩
  match allocRows s pc (sagOf v.2) 1 banks with
  | d :: _ =>
    let s := copyRow s l .copyRead (rowKey v.1 31 v.2) (rowKey d.1 31 d.2)
    retireSpareRow (setGraft s pc l.sid l.bank l.row d) pc v.1 v.2
  | [] => s

/-- The job enters mirroring and copying with its destination. -/
def beginCopy (s : State) (pc : Nat) (j : Job) : State :=
  let s := modStack (wri s R.INT_REPAIR_STATE pc 2) fun t => { t with jobs := tset t.jobs pc j }
  settlePch (nextCopy s pc) pc

/-- REPAIR_PREPARED: parks, entries and rows the job needs are freed; copying starts (R284). A spare bank is free for a bank once no
request goes there any more. -/
def doRepairPrepared (pc : Nat) (s : State) : State :=
  match jobOf s pc with
  | none => s
  | some j =>
    if rdi s R.INT_REPAIR_STATE pc ≠ 1 then s
    else
      let sid := j.lbank / 32 % 4
      if j.bank then
        match freeSpares s pc none with
        | b :: others =>
          if targeted s pc fun r => r / 16384 = b * 32 + 31 then s else
          let s := forEach (parksWhere s fun k p => k / 131072 = pc && (p.spareSid = b || (parkSid k = sid && parkBank k = j.lbank % 32)))
            s fun s k => abandonPark s k false
          let s := forEach ((pcGrafts s pc).filter fun (_, v) => v.1 = b) s fun s g => moveGraft s pc others g
          settleSpares (beginCopy s pc { j with spare := b }) pc
        | [] => s
      else
        let own := parksWhere s fun k _ => k / 131072 = pc && parkSid k = sid && parkBank k = j.lbank % 32 &&
          decide (parkRow k < j.row + j.rows) && decide (j.row < parkRow k + 16)
        let s := forEach own s fun s k => abandonPark s k false
        let s := freeParks s pc j.rows (parksWhere s fun k _ => k / 131072 = pc)
        let rows := allocRows s pc (sagOf j.row) j.rows (freeSpares s pc (some sid))
        if rows.length = j.rows then beginCopy s pc { j with dest := rows } else s

def execRepairPrepared (pc : Nat) (s : State) : Host.Outcome State Fault Refusal := .next (doRepairPrepared pc s)

/-- Lines of a job. -/
def jobLines (j : Job) : Nat := (if j.bank then 16384 else j.rows) * 16

/-- REPAIR_SWITCH: the new graft or replacement becomes valid (R284; 04 R99). -/
def doRepairSwitch (pc : Nat) (s : State) : State :=
  match jobOf s pc with
  | none => s
  | some j =>
    if rdi s R.INT_REPAIR_STATE pc ≠ 2 || j.copied < jobLines j then s
    else
      let sid := j.lbank / 32 % 4
      let bank := j.lbank % 32
      let s := wri s R.INT_REPAIR_STATE pc 3
      if j.bank then
        let s := match replacement s pc sid with
          | some (_, old) => setSpareWord s pc old (putField (spareWord s pc old) 30 2 2)
          | none => s
        let s := wri s R.MAP_BANK_REPLACE (pc * 4 + sid) (2 ^ 15 + bank * 256 + j.spare)
        let w := putField (putField (putField (spareWord s pc j.spare) 30 2 1) 27 2 sid) 22 5 bank
        settleSpares (setSpareWord s pc j.spare w) pc
      else
        let s := forEach (j.dest.zip (nums j.row j.rows)) s fun s (d, row) =>
          let s := match tget? s.stack.grafts (graftKey pc sid bank row) with
            | some (osid, orow) => retireSpareRow s pc osid orow
            | none => s
          setGraft s pc sid bank row d
        settleSpares s pc

def execRepairSwitch (pc : Nat) (s : State) : Host.Outcome State Fault Refusal := .next (doRepairSwitch pc s)

/-- Requests enqueued to the source that are still there. -/
def sourceBusy (s : State) (pc : Nat) (j : Job) : Bool :=
  (pchOf s pc).held.any fun (_, h) =>
    match jobDest j pc h.lsid h.lbank h.lrow with
    | some (sid, row) => h.key ≠ locKey sid 31 row (keyCol h.key)
    | none => false

/-- A bank has left service: no refresh of it waits, and it holds no timing class (01 R19). -/
def leaveService (s : State) (pc sid bank : Nat) : State :=
  dropClass (modPch s pc fun p => { p with
    refresh := p.refresh.filter fun (i, _) => i / 2 ≠ sid * 32 + bank }) pc sid bank

/-- The job's rows in the repair map, log and recurrence table are settled (R286). -/
def jobDone (s : State) (pc : Nat) (j : Job) : State :=
  let sid := j.lbank / 32 % 4
  let bank := j.lbank % 32
  let s := retireRows s j.lbank j.row j.rows j.bank
  let (psid, prow) := if j.bank then (j.spare, 0) else j.dest.headD (0, 0)
  let p : Place := ⟨pc, sid, bank, j.row, 0, !j.bank, j.bank, psid, 31, prow⟩
  let s := writeRecord s p { kind := if j.bank then 6 else 5, source := 6, rows := if j.bank then 0 else j.rows }
  let s := modStack s fun t => { t with recur := t.recur.filter fun (k, _) =>
    !(k / 16384 = j.lbank && (j.bank || (j.row ≤ k % 16384 && decide (k % 16384 < j.row + j.rows)))) }
  if j.bank then
    let s := leaveService (wr s R.BLK_BANKS_IN_SERVICE (rd s R.BLK_BANKS_IN_SERVICE - 1)) pc sid bank
    settleSpares (modStack s fun t => { t with grafts := t.grafts.filter fun (k, _) => k / 16384 ≠ graftKey pc sid bank 0 / 16384 }) pc
  else s

/-- REPAIR_DONE (R286). -/
def doRepairDone (pc : Nat) (s : State) : State :=
  match jobOf s pc with
  | none => s
  | some j =>
    if rdi s R.INT_REPAIR_STATE pc ≠ 3 || sourceBusy s pc j then s
    else
      let s := jobDone s pc j
      let s := modStack (bump (wri s R.INT_REPAIR_STATE pc 4) R.INT_REPAIRS_DONE) fun t => { t with jobs := tdel t.jobs pc }
      raiseEv s 8 6 j.lbank (ident 4 (pc / 2))

def execRepairDone (pc : Nat) (s : State) : Host.Outcome State Fault Refusal := .next (doRepairDone pc s)

/-- E1 of a power-state entry stops scrubbing and copying; what has not issued is dropped, and copies start again after the
exit (R285, 11 Table SLP-4). -/
def pauseWork (s : State) (sel : Nat → Bool) : State :=
  let bg := fun (h : Held) => isInternal h && h.issued.isNone &&
    (h.purpose = .scrub || h.purpose = .suspect || h.purpose = .copyRead || h.purpose = .copyWrite)
  let s := { s with pchs := s.pchs.map fun (i, p) => (i, if !sel i then p else { p with
    held := p.held.filter fun (_, h) => !bg h, work := p.work.filter fun h => !bg h }) }
  let s := modStack s fun t => { t with jobs := t.jobs.map fun (k, j) => (k, if sel k then { j with copied := 0 } else j) }
  forEach ((s.stack.jobs.map (·.1)).filter sel) s fun s pc => wri s R.INT_REPAIR_PROGRESS pc 0

def resumeWork (s : State) (sel : Nat → Bool) : State :=
  forEach ((s.stack.jobs.map (·.1)).filter sel) s fun s pc =>
    if rdi s R.INT_REPAIR_STATE pc = 2 then settlePch (nextCopy s pc) pc else s

/-- INT_TEST_LOC: [31:27] channel, [26] PC, [25:24] SID, [23:19] physical bank, [18:5] row, [3:0] column. -/
def testPc (v : Nat) : Nat := field v 27 5 * 2 + field v 26 1
def testKey (v : Nat) : Nat := locKey (field v 24 2) (field v 19 5) (field v 5 14) (field v 0 4)

/-- INT_TEST_CMD: accepted, or refused for a pseudo-channel not in service (R270, 12 R427). -/
def actTestCmd (_ v : Nat) (s : State) : Nat × State :=
  if s.stack.testCmd ≠ 0 then (5, s)
  else
    let s := wr (wr s R.INT_TEST_RESULT 0) R.INT_TEST_SYNDROME 0
    if pcServes s (testPc (rd s R.INT_TEST_LOC)) then (0, modStack s fun t => { t with testCmd := v })
    else (0, wr s R.INT_TEST_RESULT (2 ^ 63 + 2 ^ 62))

/-- TEST_WRITE_ENCODED: command 1. -/
def doTestWriteEncoded (a : Access) (s : State) : State := accessWrite a 0x8004 3 actTestCmd s
def execTestWriteEncoded (a : Access) (s : State) : Host.Outcome State Fault Refusal := .next (doTestWriteEncoded a s)

/-- TEST_WRITE_RAW: command 2. -/
def doTestWriteRaw (a : Access) (s : State) : State := accessWrite a 0x8004 3 actTestCmd s
def execTestWriteRaw (a : Access) (s : State) : Host.Outcome State Fault Refusal := .next (doTestWriteRaw a s)

/-- TEST_READ_RAW: command 3. -/
def doTestReadRaw (a : Access) (s : State) : State := accessWrite a 0x8004 3 actTestCmd s
def execTestReadRaw (a : Access) (s : State) : Host.Outcome State Fault Refusal := .next (doTestReadRaw a s)

/-- TEST_READ_DECODED: command 4. -/
def doTestReadDecoded (a : Access) (s : State) : State := accessWrite a 0x8004 3 actTestCmd s
def execTestReadDecoded (a : Access) (s : State) : Host.Outcome State Fault Refusal := .next (doTestReadDecoded a s)

/-- INT_TEST_DATA as a line, and its bytes set. -/
def testData (s : State) : Line := lineOfBytes ((tget s.dict.blobs (keyOf 0x8004 1) []) ++ List.replicate 64 0)
def setTestData (s : State) (l : Line) : State :=
  { s with dict := { s.dict with blobs := tset s.dict.blobs (keyOf 0x8004 1) (lineBytes l) } }

/-- Outcome code of INT_TEST_RESULT. -/
def outcomeCode (o : Decoded) : Nat :=
  match o with
  | .clean => 0 | .filled => 1 | .corrected => 2 | .poisoned => 3 | .uncorrectable => 4

/-- A checker's write of a whole codeword. -/
def testStore (s : State) (pc key : Nat) (c : Codeword) : State :=
  let nck := ((chanOf s (pc / 2)).hist.headD ⟨0, 0, 0, 0, 0, 0, 0, 0⟩).nck
  lineRewritten (storeCell s pc key c) pc (keySid key) (keyBank key) (keyRow key) (keyCol key) nck

/-- INT_TEST_DONE: the checker command takes effect below the codec, and its result appears whole (R270). `err` is what the
lanes altered in a read. -/
def doIntTestDone (err : BitVec 576) (s : State) : State :=
  let cmd := s.stack.testCmd
  if cmd = 0 then s
  else
    let s := modStack s fun t => { t with testCmd := 0 }
    let v := rd s R.INT_TEST_LOC
    let pc := testPc v
    let key := testKey v
    if cmd = 1 then wr (testStore s pc key (encodeLine (testData s) false)) R.INT_TEST_RESULT (2 ^ 63)
    else if cmd = 2 then
      wr (testStore s pc key (BitVec.ofNat 576 ((testData s).toNat + 2 ^ 512 * rd s R.INT_TEST_CHECK))) R.INT_TEST_RESULT (2 ^ 63)
    else
      let (c, s) := readCell s pc key
      let c := c ^^^ err
      if cmd = 3 then
        let half := fun h => ofBytesLE (syndromes (halfSymbols c h))
        let s := wr (setTestData s (BitVec.ofNat 512 c.toNat)) R.INT_TEST_CHECK (c.toNat / 2 ^ 512)
        wr (wr s R.INT_TEST_SYNDROME (half 0 + 2 ^ 32 * half 1)) R.INT_TEST_RESULT (2 ^ 63)
      else
        let d := decodeLine (markedLanes s pc) c
        let h : Held := { hold := .internal, purpose := .copyRead, key := key, lsid := keySid key, lbank := keyBank key, lrow := keyRow key }
        let nck := ((chanOf s (pc / 2)).hist.headD ⟨0, 0, 0, 0, 0, 0, 0, 0⟩).nck
        let (timing, s) := reportDecode s pc h d nck
        let s := settlePch (rewriteAfter s pc h d timing) pc
        wr (setTestData s d.data) R.INT_TEST_RESULT (2 ^ 63 + outcomeCode d.out * 2 ^ 56)

def execIntTestDone (err : BitVec 576) (s : State) : Host.Outcome State Fault Refusal := .next (doIntTestDone err s)

end Sys2Proof.Machine
end

