-- ==== Sys2Proof/Machine/Links.lean ====
section
/-!
DEFINITION. Meanings of the host ports' link commands: FDI states and handshakes (02 R29 to R33), flits, replay and
negotiation (03 R55 to R66, R83 to R85), the link reset (14 R389) and the in-flight ledger (14 R393).
-/
namespace Sys2Proof.Machine

/-- The ledger keeps its record while a reset that involves the function is in progress (14 R393, R394). -/
def ledgerBusy (s : State) (fn : Nat) : Bool :=
  inReset s fn || s.flights.any (fun (_, f) => f.dropRsp && f.h.fn = fn) || s.agents.any fun (_, a) => a.doomed && a.fn = fn

/-- The ledger of `fn` is emptied (14 R393, R394). -/
def clearLedger (s : State) (fn : Nat) : State :=
  let s := { s with
    ledgers := s.ledgers.filter fun (k, _) => k / 4096 ≠ fn
    flights := s.flights.map fun (u, f) => (u, if f.h.fn = fn then { f with ledger := none } else f) }
  wri (wri (wri s R.FUN_LEDGER_COUNT fn 0) R.FUN_LEDGER_OVERFLOW fn 0) R.FUN_LEDGER_CAUSE fn 0

/-- The link refused the request (R71). -/
def linkRefused (f : Flight) : Bool :=
  f.leaf = 0x3FFFF && !f.replayed && (match f.rsp with
    | some r => r.opcode = 3 && 7 ≤ r.code
    | none => false)

/-- A request of the function that has passed R71 and has not been answered (14 R393), and one not recorded yet. -/
def unanswered (fn : Nat) (f : Flight) : Bool := f.h.fn = fn && f.stage ≠ .done && !linkRefused f
def ledgered (fn : Nat) (f : Flight) : Bool := unanswered fn f && f.ledger.isNone

/-- One request is recorded, or counted past 4,096 entries. -/
def ledgerAdd (s : State) (uid : Nat) (f : Flight) : State :=
  let n := rdi s R.FUN_LEDGER_COUNT f.h.fn
  if n < 4096 then
    let s := { s with ledgers := tset s.ledgers (f.h.fn * 4096 + n) (ledgerWord f (f.stage = .ready) false) }
    wri (modFlight s uid fun f => { f with ledger := some n }) R.FUN_LEDGER_COUNT f.h.fn (n + 1)
  else bumpi s R.FUN_LEDGER_OVERFLOW f.h.fn

/-- A reset begins for `fn`: cause kind 1 or 2, with the ports of a link reset, and the requests `keep` selects, in the
order the link accepted them (14 R393). -/
def ledgerBegin (s : State) (fn kind ports : Nat) (keep : Flight → Bool) : State :=
  let s := if ledgerBusy s fn then
      wri s R.FUN_LEDGER_CAUSE fn (rdi s R.FUN_LEDGER_CAUSE fn ||| ports)
    else wri (clearLedger s fn) R.FUN_LEDGER_CAUSE fn (kind * 4096 + ports)
  let before := rdi s R.FUN_LEDGER_OVERFLOW fn
  let s := forEach (s.flights.filter fun (_, f) => ledgered fn f && keep f) s fun s (u, f) => ledgerAdd s u f
  if rdi s R.FUN_LEDGER_OVERFLOW fn = before then s else raiseEv s 14 (16 + fn) 0 (ident 3 fn)

/-- A request that has not been dispatched is discarded: unanswered, not executed. -/
def discardFlight (s : State) (uid : Nat) : State :=
  let s := noteLedger (modFlight s uid fun f => { f with outcome := 0 }) uid true false
  let s := unqueue (modSleep s fun z => { z with queue := z.queue.erase uid }) uid
  dropFlight s uid

/-- One request of a port under link reset (14 R389). -/
def resetFlight (s : State) (uid : Nat) (f : Flight) : State :=
  match f.stage with
  | .replay | .queued => discardFlight s uid
  | .crossing | .home => modFlight s uid fun f => { f with dropRsp := true }
  | .lost => if f.rsp.isSome then retireFlight (freeTag s uid) uid else modFlight s uid fun f => { f with dropRsp := true }
  | .ready => retireFlight (freeTag s uid) uid
  | .done => s

/-- Waits for a CMP_ACK that `sel` selects by request end at once (14 R389, R390). -/
def endAcks (s : State) (sel : Flight → Bool) : State :=
  forEach s.home.order s fun s id =>
    match txnOf s id with
    | some t =>
      match reqOf s t with
      | some (_, f) => if t.waitAck && sel f then advance (setTxn s id { t with waitAck := false }) id else s
      | none => s
    | none => s

/-- Cells with a caching agent among `l` fall; the lowest such agent is named. -/
def fallCellsOf (s : State) (l : List (Nat × Agent)) (cause : Nat) : State :=
  forEach (nums 0 16) s fun s c =>
    match l.find? fun (_, a) => a.caching && a.cell = c with
    | some (n, _) => fallCell s c cause n
    | none => s

/-- Agents are removed at once, or when their cells' falls are complete (14 R389). -/
def removeOrDoom (s : State) (l : List (Nat × Agent)) : State :=
  forEach l s fun s (n, a) =>
    if rdi s R.HOM_CELL_STATE a.cell = 1 then
      match tget? s.agents n with
      | some x => { s with agents := tset s.agents n { x with doomed := true } }
      | none => s
    else removeAgent s n

/-- What a link keeps across its reset: the adapter's side and the island's own state. -/
def freshLink (l : Link) : Link :=
  { ({} : Link) with
    fdi := l.fdi, req := l.req, linkError := l.linkError, stallAck := l.stallAck, clkAck := l.clkAck
    rxActive := l.rxActive, wakeReq := l.wakeReq, inband := l.inband, cfgRefused := l.cfgRefused, faulty := l.faulty
    powered := l.powered, retained := l.retained, rxWaits := l.rxWaits, errWaits := l.errWaits, wakeAck := l.wakeAck }

/-- The link reset of port `n` (14 R389). -/
def linkReset (s : State) (n : Nat) : State :=
  let s := bumpi s R.FLT_LINK_RESETS n
  let mine := s.flights.filter fun (_, f) => f.h.port = n
  let s := forEach (nums 0 16) s fun s fn =>
    if mine.any fun (_, f) => unanswered fn f then ledgerBegin s fn 2 (2 ^ n) (fun f => f.h.port = n) else s
  let s := forEach (s.flights.filter fun (_, f) => f.h.port = n) s fun s (u, f) => resetFlight s u f
  let s := wri (setLink s n (freshLink (linkOf s n))) R.LNK_PORT_REVISION n 0
  let s := modSleep s fun z => { z with nakOwed := putBit z.nakOwed n false }
  let s := { s with ev := { s.ev with waiting := s.ev.waiting.filter fun (k, _) => k % 16 ≠ n } }
  let agents := s.agents.filter fun (_, a) => a.port = n
  removeOrDoom (endAcks (fallCellsOf s agents 5) fun f => f.h.port = n) agents

/-- A port goes down to FDI state `dst`, shown as `code`, for row `row` of Table LNK-16 (02 R31, Table FLT-2). The link reset
comes before its events (11 R316). -/
def portDownTo (s : State) (n : Nat) (dst : Fdi) (code row : Nat) : State :=
  let up := carries s n
  let s := if up then linkReset s n else setLink s n (freshLink (linkOf s n))
  let s := setPortState (modLink s n fun l => { l with fdi := dst }) n code
  if up then raiseEv s 1 1 row (ident 2 n) else s

/-- Entry to LinkError: counted and reported with its row of Table LNK-16 (R85). -/
def enterLinkError (s : State) (n row : Nat) : State :=
  if (linkOf s n).fdi = .linkError then s else
    raiseEv (portDownTo (bumpi s R.LNK_LINK_ERRORS n) n .linkError portError row) 1 2 row (ident 2 n)

/-- The block forces LinkError through lp_linkerror. -/
def forceLinkError (s : State) (n row : Nat) : State :=
  enterLinkError (modLink s n fun l => { l with linkError := true }) n row

/-- The block requests LinkReset, from Active or Retrain (Table BND-3); in L1 once the port is back in Active. -/
def orderLinkReset (s : State) (n : Nat) : State :=
  if !carries s n then linkReset s n
  else if (linkOf s n).fdi = .l1 then modLink s n fun l => { l with resetWaits := true }
  else portDownTo (modLink s n fun l => { l with req := 3, resetWaits := false }) n .linkReset portDown 0

/-- The block requests L1 of a port in Active (Table BND-3). -/
def requestL1 (s : State) (n : Nat) : State :=
  if (linkOf s n).fdi = .active then modLink s n fun l => { l with req := 2 } else s

/-- Step 4 of Table SLP-5 runs: every port that is up is to reach L1. -/
def wantsL1 (s : State) : Bool :=
  s.sleep.pastE4 && rd s R.SLP_STATE = 5 && s.sleep.step = 4 && s.sleep.exit.isNone && s.sleep.wake.isNone

/-- The block requests Active from Reset once every condition of Table BND-3 holds. -/
def requestActive (s : State) (n : Nat) : State :=
  let l := linkOf s n
  if l.fdi = .reset && s.pins.rstCmplAck && l.inband && bitOf (rd s R.LNK_PORT_ENABLE) n && s.start.phase = .service &&
      !l.faulty && !l.cfgRefused && s.start.commanded.isNone && n < nPorts s then
    modLink s n fun l => { l with req := 1 }
  else s

/-- The link island of port `n` runs. -/
def linkRuns (s : State) (n : Nat) : Bool := n < nPorts s && mgmtUp s

/-- PL_PROTOCOL_VLD: the configuration is accepted, or the port stays down until the manager re-enables it (02 R30). -/
def configOk (c : FdiConfig) : Bool := c.streaming && c.raw && (c.gts = 32 || c.gts = 64) && (c.lanes = 64 || c.lanes = 32)

def doPlProtocolVld (port : Nat) (cfg : FdiConfig) (s : State) : State :=
  if !linkRuns s port || configOk cfg then s
  else
    let s := raiseEv (modLink s port fun l => { l with cfgRefused := true }) 1 3 (cfg.protocol % 8 * 16 + cfg.flitfmt % 16)
      (ident 2 port)
    forceLinkError s port 0

def execPlProtocolVld (port : Nat) (cfg : FdiConfig) (s : State) : Host.Outcome State Fault Refusal :=
  .next (doPlProtocolVld port cfg s)

/-- PL_INBAND_PRES (Table BND-3). -/
def doPlInbandPres (port : Nat) (s : State) : State :=
  if linkRuns s port then requestActive (modLink s port fun l => { l with inband := true }) port else s

def execPlInbandPres (port : Nat) (s : State) : Host.Outcome State Fault Refusal := .next (doPlInbandPres port s)

/-- A flit-level message that no credit class governs leaves, or waits for the link. -/
def sendCtl (s : State) (n : Nat) (slot : Slot) : State := sendMsg s n ⟨none, slot, []⟩

/-- FDI_ACTIVE: from Reset, as requested, negotiation starts with the block's offer (Table BND-3, R83). A transition that
Table BND-3 does not list is LinkError. -/
def doFdiActive (port : Nat) (s : State) : State :=
  if !linkRuns s port then s
  else
    let l := linkOf s port
    match l.fdi with
    | .reset =>
      if l.req = 1 then
        let revs := rd s R.LNK_REV_ALLOWED &&& rd s R.BLK_CTP_REVISIONS
        let s := setPortState (setLink s port { l with fdi := .active, offered := revs, up := false, negAt := s.now }) port portNegotiating
        sendCtl s port (negOfferSlot revs rxAdvertised)
      else enterLinkError s port 0
    | .active | .l1 | .retrain | .linkError => s
    | .linkReset | .disabled => enterLinkError s port 0

def execFdiActive (port : Nat) (s : State) : Host.Outcome State Fault Refusal := .next (doFdiActive port s)

/-- The adapter reports a state outside L1 while the link island is off in S2: a wake, and, Table BND-3 listing no such
transition, LinkError when the island is restored (02 R31, R45). -/
def leavesL1InS2 (s : State) (n : Nat) : State :=
  if rd s R.SLP_STATE = 3 && n < nPorts s && (linkOf s n).fdi = .l1 && bitOf (rd s R.LNK_PORT_ENABLE) n then
    latchWake (modLink s n fun l => { l with errWaits := true }) (ident 2 n)
  else s

/-- RETRAIN_ENTRY (Table BND-3): credits, tags and queued work stay. -/
def doRetrainEntry (port : Nat) (s : State) : State :=
  if !linkRuns s port then leavesL1InS2 s port
  else match (linkOf s port).fdi with
    | .active =>
      let s := setPortState (modLink s port fun l => { l with fdi := .retrain, retrainAt := s.now }) port portRetrain
      raiseEv (bumpi s R.LNK_RETRAINS port) 1 4 0 (ident 2 port)
    | .retrain | .linkError => s
    | _ => enterLinkError s port 0

def execRetrainEntry (port : Nat) (s : State) : Host.Outcome State Fault Refusal := .next (doRetrainEntry port s)

/-- Every unacknowledged flit is sent again, in order and unchanged (R61, R63). -/
def replayFlits (s : State) (n : Nat) : State :=
  let b := (linkOf s n).txBuf
  if b.isEmpty then s
  else forEach b (bumpi s R.LNK_REPLAYS n) fun s (_, f) => emit (obsEvent s n 17 1) (.flit n f)

/-- An idle flit with the present acknowledgement and totals (R58). -/
def sendIdle (s : State) (n : Nat) : State := sendFlit (obsEvent s n 18 1) n 1 0 []

/-- A NAK naming the last flit accepted (R60). -/
def sendNak (s : State) (n : Nat) : State :=
  sendFlit (obsEvent (modLink s n fun l => { l with nakAt := s.now }) n 19 1) n 2 0 []

/-- RETRAIN_EXIT (R63): an idle flit, then the replay. The replay starts at once from the last ACK_SEQ recorded of the peer:
R63 does not say that it waits for the peer's idle flit (DESIGN CHOICE, log entry 27). -/
def doRetrainExit (port : Nat) (s : State) : State :=
  if !linkRuns s port || (linkOf s port).fdi ≠ .retrain then s
  else
    let s := setPortState (modLink s port fun l => { l with fdi := .active }) port
      (if (linkOf s port).up then portUp else portNegotiating)
    let s := drainTx (replayFlits (sendIdle s port) port) port
    if wantsL1 s then requestL1 s port else s

def execRetrainExit (port : Nat) (s : State) : Host.Outcome State Fault Refusal := .next (doRetrainExit port s)

/-- RETRAIN_LIMIT_EXPIRY: the port goes to LinkReset (02 R32). -/
def doRetrainLimitExpiry (port : Nat) (s : State) : State :=
  let l := linkOf s port
  if !linkRuns s port || l.fdi ≠ .retrain || s.now < l.retrainAt + rd s R.BLK_FDI_RETRAIN_LIMIT * 1000 then s
  else raiseEv (orderLinkReset s port) 1 5 0 (ident 2 port)

def execRetrainLimitExpiry (port : Nat) (s : State) : Host.Outcome State Fault Refusal :=
  .next (doRetrainLimitExpiry port s)

/-- LINK_RESET_DONE (Table BND-3). -/
def doLinkResetDone (port : Nat) (s : State) : State :=
  if !linkRuns s port then s
  else match (linkOf s port).fdi with
    | .linkReset => requestActive (modLink s port fun l => { l with fdi := .reset, req := 0 }) port
    | .reset | .linkError | .disabled => s
    | _ => enterLinkError s port 0

def execLinkResetDone (port : Nat) (s : State) : Host.Outcome State Fault Refusal := .next (doLinkResetDone port s)

/-- ADAPTER_LINKERROR: pl_trainerror, or a transition not listed; no row of Table LNK-16 names it. -/
def doAdapterLinkerror (port : Nat) (s : State) : State :=
  if linkRuns s port then enterLinkError s port 0 else leavesL1InS2 s port

def execAdapterLinkerror (port : Nat) (s : State) : Host.Outcome State Fault Refusal := .next (doAdapterLinkerror port s)

/-- PL_STALLREQ: the flit in progress completes and lp_stallack rises (02 R32). -/
def doPlStallreq (port : Nat) (s : State) : State :=
  if linkRuns s port then modLink s port fun l => { l with stallAck := true } else s

def execPlStallreq (port : Nat) (s : State) : Host.Outcome State Fault Refusal := .next (doPlStallreq port s)

/-- PL_STALLREQ_RELEASE: lp_stallack falls with pl_stallreq, and what waited leaves. -/
def doPlStallreqRelease (port : Nat) (s : State) : State :=
  if linkRuns s port then drainTx (modLink s port fun l => { l with stallAck := false }) port else s

def execPlStallreqRelease (port : Nat) (s : State) : Host.Outcome State Fault Refusal :=
  .next (doPlStallreqRelease port s)

/-- PL_CLK_REQ (02 R32). -/
def doPlClkReq (port : Nat) (s : State) : State :=
  if linkRuns s port then modLink s port fun l => { l with clkAck := true } else s

def execPlClkReq (port : Nat) (s : State) : Host.Outcome State Fault Refusal := .next (doPlClkReq port s)

/-- The exit from S2 has begun and the link islands are not restored yet. -/
def s2Exiting (s : State) : Bool :=
  !s.time.run && (match s.sleep.exit with
    | some (_, _, deep) => deep
    | none => false)

/-- PL_RX_ACTIVE_REQ: answered, ignored by a disabled port, or in S2 latched as a wake and answered when the link island is
restored (02 R32, R45). -/
def doPlRxActiveReq (port : Nat) (s : State) : State :=
  if nPorts s ≤ port || (linkOf s port).fdi = .disabled then s
  else if rd s R.SLP_STATE = 3 then
    let s := modLink s port fun l => { l with rxWaits := true }
    if bitOf (rd s R.LNK_PORT_ENABLE) port then latchWake s (ident 2 port) else s
  else if s2Exiting s then modLink s port fun l => { l with rxWaits := true }
  else if linkRuns s port then modLink s port fun l => { l with rxActive := true }
  else s

def execPlRxActiveReq (port : Nat) (s : State) : Host.Outcome State Fault Refusal := .next (doPlRxActiveReq port s)

/-- PL_ERROR: counted and reported (02 R33). -/
def doPlError (port : Nat) (s : State) : State :=
  if linkRuns s port then raiseEv (bumpi s R.LNK_FDI_PL_ERROR port) 1 6 0 (ident 2 port) else s

def execPlError (port : Nat) (s : State) : Host.Outcome State Fault Refusal := .next (doPlError port s)

/-- PL_NFERROR: counted and reported. -/
def doPlNferror (port : Nat) (s : State) : State :=
  if linkRuns s port then raiseEv (bumpi s R.LNK_FDI_PL_NFERROR port) 1 7 0 (ident 2 port) else s

def execPlNferror (port : Nat) (s : State) : Host.Outcome State Fault Refusal := .next (doPlNferror port s)

/-- PL_CERROR: counted. -/
def doPlCerror (port : Nat) (s : State) : State := if linkRuns s port then bumpi s R.LNK_FDI_PL_CERROR port else s

def execPlCerror (port : Nat) (s : State) : Host.Outcome State Fault Refusal := .next (doPlCerror port s)

/-- PL_PHYINRECENTER: counted. -/
def doPlPhyinrecenter (port : Nat) (s : State) : State := if linkRuns s port then bumpi s R.LNK_FDI_RECENTER port else s

def execPlPhyinrecenter (port : Nat) (s : State) : Host.Outcome State Fault Refusal := .next (doPlPhyinrecenter port s)

/-- A port is disabled (Table BND-3). -/
def disablePort (s : State) (n : Nat) : State :=
  portDownTo (modLink s n fun l => { l with req := 4 }) n .disabled portDisabled 0

/-- A port is enabled again: from Disabled the block requests Active, the adapter moves to Reset (Table BND-3; no row of its own
reports that) and the port proceeds as from Reset, unless its memory failed the self-test. -/
def enablePort (s : State) (n : Nat) : State :=
  let l := linkOf s n
  if l.faulty then s
  else if l.fdi = .disabled then
    requestActive (setPortState (setLink s n { l with fdi := .reset, req := 0, linkError := false, cfgRefused := false })
      n portDown) n
  else requestActive s n

/-- LNK_PORT_ENABLE. -/
def actPortEnable (_ v : Nat) (s : State) : Nat × State :=
  let old := rd s R.LNK_PORT_ENABLE
  let v := v &&& portMask s
  let s := wr s R.LNK_PORT_ENABLE v
  (0, forEach (nums 0 (nPorts s)) s fun s n =>
    if bitOf old n && !bitOf v n then disablePort s n else if !bitOf old n && bitOf v n then enablePort s n else s)

def doLnkPortEnable (a : Access) (s : State) : State := accessWrite a 0x1000 0 actPortEnable s

def execLnkPortEnable (a : Access) (s : State) : Host.Outcome State Fault Refusal := .next (doLnkPortEnable a s)

/-- The peer's acknowledgement moves forward by 1 to 511 (R62): covered flits leave the replay buffer. -/
def adoptAck (l : Link) (ack : Nat) : Link :=
  let d := (ack + 1024 - l.peerAck) % 1024
  if 1 ≤ d && d ≤ 511 then
    { l with
      peerAck := ack, naks := 0
      txBuf := l.txBuf.filter fun (q, _) =>
        let e := (q + 1024 - l.peerAck) % 1024
        !(1 ≤ e && e ≤ d) }
  else l

/-- A credit total moves forward by 1 to 2,047 (R62). -/
def adoptCredit (l : Link) (c v : Nat) : Link :=
  let d := (v + 4096 - l.txRet.getD c 0 % 4096) % 4096
  if 1 ≤ d && d ≤ 2047 then { l with txRet := modAt l.txRet c (· + d) } else l

/-- The credit totals of a flit are adopted (R62). -/
def adoptCredits (l : Link) (flit : Nat) : Link :=
  (nums 0 6).foldl (fun l c => adoptCredit l c (field flit (92 - 12 * c) 12)) l

/-- Acknowledgement and credit totals of a flit are adopted, and what waited for them leaves. -/
def adoptFlit (s : State) (n flit : Nat) : State :=
  drainTx (modLink s n fun l => adoptCredits (adoptAck l (field flit 106 10)) flit) n

/-- Slots of a message and the receive credits it takes; none where it is malformed (R57, Tables LNK-2, LNK-16). -/
def messageShape (rev cls op nslots : Nat) : Option (Nat × List Nat) :=
  match cls with
  | 1 =>
    match op with
    | 2 | 7 | 8 => some (5, [0, 1])
    | 3 => some (6, [0, 1])
    | 9 => some (2, [0, 1])
    | _ => some (1, [0])
  | 4 =>
    match op with
    | 4 => some (5, [2, 3])
    | 1 | 2 | 3 | 5 | 6 | 7 | 8 => some (1, [2])
    | _ => none
  | 5 => if 1 ≤ op && op ≤ 3 then some (1 + nslots, [4]) else none
  | 7 => if op = 1 && rev ≠ 2 then some (1, [5]) else none
  | 8 => if op = 1 || op = 3 || op = 5 then some (1, []) else none
  | _ => none

/-- How a flit's messages end. -/
inductive Scan where
  | fine
  | malformed
  | credit (c : Nat)
  deriving DecidableEq, Repr

/-- Header slots of a flit's messages from `slot` on, in order, up to the first malformed or uncovered one, and how they end;
`used` is the receive credits used so far. Before NEG_SELECT only CTL counts. -/
def scanFlit (rev : Nat) (up : Bool) (flit : Nat) : Nat → Nat → List Nat → List Nat × Scan
  | 0, _, _ => ([], .fine)
  | fuel + 1, slot, used =>
    if 16 ≤ slot then ([], .fine) else
      let h := field flit (128 * slot) 128
      let cls := field h 124 4
      if cls = 0 then scanFlit rev up flit fuel (slot + 1) used
      else match messageShape rev cls (field h 118 6) (field h 70 4) with
        | none => ([], .malformed)
        | some (n, need) =>
          if 16 < slot + n then ([], .malformed)
          else
            let counted := up || cls = 8
            match if counted then need.find? fun c => decide (rxAdvertised.getD c 0 ≤ used.getD c 0) else none with
            | some c => ([], .credit c)
            | none =>
              let used := if counted then need.foldl (fun u c => modAt u c (· + 1)) used else used
              let (l, e) := scanFlit rev up flit fuel (slot + n) used
              (slot :: l, e)

/-- Requests of a flit (11 R301). -/
def reqCount (rev flit : Nat) : Nat :=
  ((scanFlit rev false flit 15 1 []).1.filter fun k => field flit (128 * k + 124) 4 = 1).length

/-- The receiver waits for the expected SEQ: the first discarded flit draws a NAK, unless the replay queue suspends it
(R60, 11 R301). -/
def discardFlit (s : State) (n : Nat) : State :=
  let s := bumpi s R.LNK_CRC_ERRORS n
  if (linkOf s n).waitSeq then s
  else
    let s := modLink s n fun l => { l with waitSeq := true }
    if (linkOf s n).frozen.isSome then s else sendNak s n

/-- NAK_RECEIVE: replay after ACK_SEQ; at the limit, or outside the replay buffer, LinkError (R61). -/
def doNakReceive (port ackSeq : Nat) (s : State) : State :=
  if !linkRuns s port || (linkOf s port).fdi ≠ .active then s
  else
    let l := linkOf s port
    if l.peerAck ≠ ackSeq && !(l.txBuf.any fun (q, _) => q = ackSeq) then forceLinkError s port 5
    else
      let l := adoptAck l ackSeq
      let n := (if l.nakSeq = ackSeq then l.naks else 0) + 1
      let s := setLink s port { l with nakSeq := ackSeq, naks := n }
      if rd s R.LNK_REPLAY_LIMIT ≤ n then forceLinkError s port 5 else drainTx (replayFlits s port) port

def execNakReceive (port ackSeq : Nat) (s : State) : Host.Outcome State Fault Refusal := .next (doNakReceive port ackSeq s)

/-- NAK_REPEAT: every 256 lclk cycles (128 ns) while the expected SEQ is awaited; suspended while the replay queue is full. -/
def doNakRepeat (port : Nat) (s : State) : State :=
  let l := linkOf s port
  if linkRuns s port && l.fdi = .active && l.waitSeq && l.frozen.isNone && decide (l.nakAt + 128 ≤ s.now) then sendNak s port else s

def execNakRepeat (port : Nat) (s : State) : Host.Outcome State Fault Refusal := .next (doNakRepeat port s)

/-- IDLE_FLIT_SEND (R58). -/
def doIdleFlitSend (port : Nat) (s : State) : State :=
  let l := linkOf s port
  if linkRuns s port && l.fdi = .active && !l.stallAck && l.dirty then sendIdle s port else s

def execIdleFlitSend (port : Nat) (s : State) : Host.Outcome State Fault Refusal := .next (doIdleFlitSend port s)

/-- The port is up at revision `rev` with the credits the host advertised; sequence numbers start from 0, and flits not yet
acknowledged stay in the replay buffer (R59, R83). -/
def portComesUp (s : State) (n rev : Nat) (credits : List Nat) : State :=
  let s := modLink s n fun l => { l with
    up := true, txAdv := (nums 0 6).map fun c => credits.getD c 0, txUsed := [0, 0, 0, 0, 0, 0], txRet := [0, 0, 0, 0, 0, 0]
    rxUsed := [0, 0, 0, 0, 0, 0], rxRet := [0, 0, 0, 0, 0, 0], txSeq := 0, peerAck := 1023, rxNext := 0
    naks := 0, waitSeq := false }
  let s := setPortState (wri s R.LNK_PORT_REVISION n rev) n portUp
  raiseEv s 1 0 rev (ident 2 n)

/-- NEG_OFFER: the highest common revision is selected, or the negotiation fails (R83). A second offer is discarded. -/
def doNegOffer (port revs : Nat) (credits : List Nat) (s : State) : State :=
  if !linkRuns s port || !carries s port then s
  else if portState s port ≠ portNegotiating then bumpi s R.LNK_DISCARDS port
  else
    let common := revs &&& (linkOf s port).offered
    if bitOf common 3 then portComesUp (sendCtl s port (negSelectSlot 3)) port 3 credits
    else if bitOf common 2 then portComesUp (sendCtl s port (negSelectSlot 2)) port 2 credits
    else forceLinkError (sendCtl s port (negSelectSlot 0)) port 8

def execNegOffer (port revs : Nat) (credits : List Nat) (s : State) : Host.Outcome State Fault Refusal :=
  .next (doNegOffer port revs credits s)

/-- NEG_TIMEOUT (R83). -/
def doNegTimeout (port : Nat) (s : State) : State :=
  if linkRuns s port && portState s port = portNegotiating &&
      decide ((linkOf s port).negAt + rd s R.LNK_NEG_TIMEOUT * 1000 ≤ s.now) then forceLinkError s port 8
  else s

def execNegTimeout (port : Nat) (s : State) : Host.Outcome State Fault Refusal := .next (doNegTimeout port s)

/-- FLT_LINK_RESET (14 R389). -/
def actLinkReset (_ v : Nat) (s : State) : Nat × State := if nPorts s ≤ v then (3, s) else (0, orderLinkReset s v)

def doFltLinkReset (a : Access) (s : State) : State := accessWrite a 0xB401 0 actLinkReset s

def execFltLinkReset (a : Access) (s : State) : Host.Outcome State Fault Refusal := .next (doFltLinkReset a s)

end Sys2Proof.Machine
end

