-- ==== Sys2Proof/Machine/Sleep.lean ====
section
/-!
DEFINITION. Power states: commands and their checks, the points of an entry, its abandoning, the descent, wakes and exits,
with the checks on wake; and the time messages (11 R289 to R310, 02 R45, 03 R78, R80).
-/
namespace Sys2Proof.Machine

/-- A command to answer: its sender, its tag and its GROUPS. A command of the dictionary has an umpire's name as sender. -/
abbrev PwrSource := Sender × Nat × Nat

/-- VALUE of PWR_RSP and the low part of SLP_PWR_RESULT (Table LNK-12). -/
def pwrWord (result groups refuser : Nat) : Nat := result * 2 ^ 56 + groups * 2 ^ 48 + refuser * 2 ^ 32

/-- A command's one answer (R291). -/
def answerPwr (s : State) (c : PwrSource) (result refuser : Nat) : State :=
  match c.1 with
  | .inband _ _ => respond s c.1 c.2.1 0x23 0 0 0 0 (pwrWord result c.2.2 refuser) []
  | _ => wr s R.SLP_PWR_RESULT (pwrWord result c.2.2 refuser)

def answerAll (s : State) (l : List PwrSource) (result refuser : Nat) : State :=
  forEach l s fun s c => answerPwr s c result refuser

/-- Check 1 of Table SLP-2 fails: a reserved STATE, STATE 3 without groups, or a group that PLY-16 lacks. -/
def pwrMalformed (s : State) (st groups : Nat) : Bool := 3 < st || (st = 3 && groups = 0) || (s.ply16 && 16 ≤ groups)

/-- An exit is in progress or its wake is latched: who began it. -/
def exitSource (s : State) : Option Nat :=
  match s.sleep.exit, s.sleep.wake with
  | some _, _ => some s.sleep.exitWho
  | none, some w => some w
  | none, none => if s.sleep.groupWake ≠ 0 then some s.sleep.groupWho else none

/-- The refuser that checks 2 to 7 of Table SLP-2 name for a command of STATE `st`, where one fails. A0 meets neither check
2 nor check 3. -/
def pwrRefuser (s : State) (st : Nat) : Option Nat :=
  let falling := (nums 0 64).any fun c => rdi s R.HOM_CELL_STATE c = 1
  let other := match s.sleep.entry with
    | some e => some e.who
    | none => exitSource s
  if st ≠ 0 && !bitOf (rd s R.SLP_STATE_ALLOW) (st - 1) then some (ident 5 0x20)
  else if st ≠ 0 && other.isSome then other
  else if s.start.phase ≠ .service || s.stack.trip then some (ident 1 32)
  else if rd s R.UPG_STATE = 1 then some (ident 1 33)
  else if rd s R.MAP_COMMIT_STATUS = 1 || falling then some (ident 1 9)
  else s.funs.head?.map fun (f, _) => ident 3 f

/-- A command is refused: counted by target and kind (R310), with EV.09.02. -/
def refusePwr (s : State) (c : PwrSource) (st refuser : Nat) : State :=
  let s := if st = 0 then s else
    noteRefuser (bumpKey s (R.SLP_REFUSALS.key + (st - 1) * 256 + refuser / 4096)) (st - 1) 7 refuser
  answerPwr (raiseEv s 9 2 0 refuser) c 1 refuser

/-- E0 passes (Table SLP-4). Groups already asleep are past E4 (R294). -/
def startEntry (s : State) (c : PwrSource) (who st groups : Nat) : State :=
  let s := bumpWrap s R.SLP_ENTRY_SEQ 0 1 64
  let s := wr s R.SLP_ENTRY_POINT 1
  let g := groups - (groups &&& rd s R.SLP_GROUPS_ASLEEP)
  let s := modSleep s fun z => { z with entry := some ⟨st - 1, g, [c], who, s.now, none, false⟩ }
  if st = 3 then s else modTree (wr s R.SLP_STATE (3 + st)) fun t => { t with holdPower := true }

/-- The S2 descent from S1, from its step 2 (R294, R299). -/
def descend (s : State) (c : PwrSource) (who : Nat) : State :=
  let s := wr (answerPwr s c 0 0) R.SLP_STATE 5
  saveBins (modSleep (bumpi s R.SLP_ENTRIES 1) fun z =>
    { z with entry := some ⟨1, 0, [], who, s.now, none, false⟩, step := 2 })

/-- An accepted A0 command: it abandons an entry before E4, begins the exit of the block or of groups asleep, joins one in
progress, or is done at once (R291, R294, R296). -/
def commandA0 (s : State) (c : PwrSource) (who groups : Nat) : State :=
  let asleep := rd s R.SLP_GROUPS_ASLEEP
  let g := if groups = 0 then asleep else groups &&& asleep
  let join := fun (s : State) => modSleep s fun z => { z with exitFor := z.exitFor ++ [c] }
  if s.sleep.pastE4 then latchWake (join s) who
  else if s.sleep.entry.isSome then abortEntry (join s) who
  else if g = 0 then answerPwr s c 0 0
  else
    let exiting := match s.sleep.exit with
      | some (e, _, _) => e
      | none => 0
    let fresh := g - (g &&& (exiting ||| s.sleep.groupWake))
    modSleep (join s) fun z => { z with
      groupWake := z.groupWake ||| fresh
      groupNow := if z.groupWake = 0 then s.now else z.groupNow
      groupWho := if z.groupWake = 0 then who else z.groupWho }

/-- The target of an entry in progress is the command's (R294). -/
def sameTarget (e : Entering) (asleep st groups : Nat) : Bool :=
  st ≠ 0 && e.st = st - 1 && (st ≠ 3 || e.groups = groups - (groups &&& asleep))

/-- A command for the state that its scope is already in (R294). -/
def targetReached (s : State) (st groups : Nat) : Bool :=
  let sleeping := rd s R.SLP_STATE = 2
  (st = 1 && sleeping) || (st = 3 && (sleeping || groups &&& rd s R.SLP_GROUPS_ASLEEP = groups))

/-- A power-state command that passed check 1 (R292, R294). -/
def powerCommand (s : State) (c : PwrSource) (who st groups : Nat) : State :=
  match s.sleep.entry with
  | some e =>
    if sameTarget e (rd s R.SLP_GROUPS_ASLEEP) st groups then
      if s.sleep.pastE4 then answerPwr s c 0 0
      else modSleep s fun z => { z with entry := some { e with sources := e.sources ++ [c] } }
    else match pwrRefuser s st with
      | some r => refusePwr s c st r
      | none => commandA0 s c who groups
  | none =>
    match pwrRefuser s st with
    | some r => refusePwr s c st r
    | none =>
      if st = 0 then commandA0 s c who groups
      else if targetReached s st groups then answerPwr s c 0 0
      else if s.sleep.pastE4 then descend s c who
      else startEntry s c who st groups

/-- SLP_PWR_CMD (R291): refused while the previous command is unanswered. -/
def actPwrCmd (m v : Nat) (s : State) : Nat × State :=
  let st := field v 56 8
  let g := field v 48 8
  if bitOf (rd s R.SLP_PWR_RESULT) 63 then (5, s)
  else if pwrMalformed s st g then (3, s)
  else (0, powerCommand (wr s R.SLP_PWR_RESULT (2 ^ 63 + g * 2 ^ 48)) (.umpire m, 0, g) (ident 5 m) st g)

/-- A PWR_CMD message of a port, or its dictionary form (R291, 03 R77, R78). An answer of STATUS 2, 3 or 7 carries RESULT 0
and no refuser: R78 does not say what those fields hold there (DESIGN CHOICE, log entry 54). -/
def pwrCmd (src : Sender) (mtag st groups : Nat) (s : State) : State :=
  match src with
  | .inband p fn =>
    if !reaches s src then turnAway s src
    else
      let s := takeMgtCredit s src
      let answer := fun status => respond s src mtag 0x23 0 0 0 status (pwrWord 0 groups 0) []
      if !portBound s p fn then answer 7
      else if !bitOf (rd s R.LNK_PWR_CMD_PORTS) p then answer 2
      else if pwrMalformed s st groups then answer 3
      else powerCommand s (src, mtag, groups) (ident 2 p) st groups
  | _ => accessWrite ⟨src, mtag, st * 2 ^ 56 + groups * 2 ^ 48⟩ 0x9001 0 actPwrCmd s

def doPwrCmdA0 (src : Sender) (mtag groups : Nat) (s : State) : State := pwrCmd src mtag 0 (groups % 256) s

def execPwrCmdA0 (src : Sender) (mtag groups : Nat) (s : State) : Host.Outcome State Fault Refusal :=
  .next (doPwrCmdA0 src mtag groups s)

def doPwrCmdS1 (src : Sender) (mtag groups : Nat) (s : State) : State := pwrCmd src mtag 1 (groups % 256) s

def execPwrCmdS1 (src : Sender) (mtag groups : Nat) (s : State) : Host.Outcome State Fault Refusal :=
  .next (doPwrCmdS1 src mtag groups s)

def doPwrCmdS2 (src : Sender) (mtag groups : Nat) (s : State) : State := pwrCmd src mtag 2 (groups % 256) s

def execPwrCmdS2 (src : Sender) (mtag groups : Nat) (s : State) : Host.Outcome State Fault Refusal :=
  .next (doPwrCmdS2 src mtag groups s)

def doPwrCmdGroupS1 (src : Sender) (mtag groups : Nat) (s : State) : State := pwrCmd src mtag 3 (groups % 256) s

def execPwrCmdGroupS1 (src : Sender) (mtag groups : Nat) (s : State) : Host.Outcome State Fault Refusal :=
  .next (doPwrCmdGroupS1 src mtag groups s)

/-- Channels in service that the entry takes in, and their pseudo-channels. -/
def entryChannels (s : State) : List Nat :=
  (nums 0 (nChannels s)).filter fun c => entryScope s c && rdi s R.CDI_CHANNEL_STATE c ≠ 1
def entryPcs (s : State) : List Nat := (entryChannels s).flatMap fun c => [c * 2, c * 2 + 1]

/-- A transaction has been accepted by its engine as far as it goes, and waits on no agent. -/
def txnAccepted (t : Txn) : Bool :=
  t.active && t.snoops.isEmpty && t.wbWait.isEmpty && !t.waitAck && t.hint ≠ 2 && t.mem ≠ 1 && t.writes.isEmpty &&
    !t.retry && !t.waitBuf

/-- Requests of a pseudo-channel that the entry takes in: every one, but for a group entry only those of its groups. -/
def entryTakes (s : State) (e : Entering) (pc : Nat) : Bool := e.st ≠ 2 || entryScope s (pc / 2)

/-- Every dispatched request has left the crossing (R295). -/
def crossingClear (s : State) (e : Entering) : Bool :=
  s.tree.crossing.all fun uid => match flightOf s uid with
    | some f => e.st = 2 && (f.room = 0 || !entryTakes s e f.roomPc)
    | none => true

/-- No home transaction waits on an agent, and each is complete or accepted by its engine (R295). -/
def homeClear (s : State) (e : Entering) : Bool :=
  (e.st = 2 || (s.home.poisonTodo.isEmpty && s.home.victimTodo.isEmpty && s.home.held.isEmpty)) &&
    s.home.txns.all fun (_, t) => (t.placed && !entryTakes s e t.pc) || txnAccepted t

/-- Physical banks in service of a (pseudo-channel, SID), each with the spare bank that holds its sapling row (R281, R282,
R306). -/
def saplingBanks (s : State) (pc sid : Nat) : List Nat :=
  (nums 0 32).filter fun b => if b = 31 then spareRole s pc sid ≤ 1 else (replacement s pc sid).map (·.1) ≠ some b
def saplingPlace (s : State) (pc sid : Nat) : Option Nat := (freeSpares s pc (some sid)).head?
def saplingRow (sid bank : Nat) : Nat := 0x3F00 + sid * 32 + bank

/-- Line of a sapling row (Table SLP-6). -/
def saplingLine (seq index : Nat) : Line :=
  let b0 := seq % 256
  let head := bytesLE seq 8 ++ bytesLE index 2 ++ [0, 0] ++
    (nums 12 48).map fun i => (if i % 2 = 0 then 0x55 else 0xAA) ^^^ b0
  lineOfBytes (head ++ bytesLE (crc32 head) 4)

/-- Sapling writes of a pseudo-channel: key, bank index. -/
def saplings (s : State) (pc : Nat) : List (Nat × Nat) :=
  (nums 0 4).flatMap fun sid => match saplingPlace s pc sid with
    | none => []
    | some sp => (saplingBanks s pc sid).map fun b => (locKey sp 31 (saplingRow sid b) 0, bankIndex pc sid b)

/-- Sapling writes wait for internal slots. -/
def queueSaplings (s : State) (pc : Nat) : State :=
  if pcFailed s pc then s
  else
    let seq := rd s R.SLP_ENTRY_SEQ
    let h := fun (x : Nat × Nat) =>
      ({ hold := .internal, purpose := .sapling, key := x.1, lsid := keySid x.1, lbank := 31, lrow := keyRow x.1
         data := saplingLine seq x.2, mask := BitVec.allOnes 64 } : Held)
    settlePch (modPch s pc fun p => { p with work := p.work ++ (saplings s pc).map h }) pc

/-- The next point passes; an abandoned entry stops there (R295, R297). -/
def passPoint (s : State) (e : Entering) (p : Nat) : State :=
  modSleep (wr s R.SLP_ENTRY_POINT p) fun z => { z with entry := some { e with undoing := e.abort.isSome } }

/-- An entry stands at point `p` and may go on. -/
def entryAt (s : State) (p : Nat) : Option Entering :=
  match s.sleep.entry with
  | some e => if rd s R.SLP_ENTRY_POINT = p && !e.undoing && !s.sleep.pastE4 then some e else none
  | none => none

/-- E1 (Table SLP-4, R302). -/
def doEntryE1 (s : State) : State :=
  match entryAt s 1 with
  | none => s
  | some e =>
    if !(crossingClear s e && homeClear s e) then s
    else
      let pcs := entryPcs s
      let sel := fun pc => pcs.contains pc
      let s := pauseWork (stopBackground (dropClasses (passPoint s e 2) sel) sel) sel
      let s := forEach pcs s orderFlush
      if e.abort.isSome then s else forEach pcs s queueSaplings

def execEntryE1 (s : State) : Host.Outcome State Fault Refusal := .next (doEntryE1 s)

/-- E2: read queues empty, flushes ended. -/
def flushed (s : State) (pc : Nat) : Bool := readsInUse s pc = 0 && !(pchOf s pc).flush
def doEntryE2 (s : State) : State :=
  match entryAt s 2 with
  | none => s
  | some e => if (entryPcs s).all (flushed s) then passPoint s e 3 else s

def execEntryE2 (s : State) : Host.Outcome State Fault Refusal := .next (doEntryE2 s)

/-- E3: sapling bursts ended, temperatures captured; for S2 the bin table is saved (R233) and pending persistent values are
written (12 R330). -/
def saplingsDone (s : State) (pc : Nat) : Bool :=
  let is := fun (h : Held) => h.purpose = .sapling
  !(pchOf s pc).work.any is && !(pchOf s pc).held.any fun (_, h) => is h
def doEntryE3 (temps : List (Nat × Int)) (s : State) : State :=
  match entryAt s 3 with
  | none => s
  | some e =>
    if !(entryPcs s).all (saplingsDone s) then s
    else if e.abort.isSome then passPoint s e 4
    else
      let s := modSleep (passPoint s e 4) fun z => { z with temps := temps.foldl (fun t (k, v) => tset t k v) z.temps }
      if e.st = 1 then persistAll (saveBins s) else s

def execEntryE3 (temps : List (Nat × Int)) (s : State) : Host.Outcome State Fault Refusal := .next (doEntryE3 temps s)

/-- Units that Table SLP-5 gates in S1: the tree, the home and every engine. -/
def gateMask' (s : State) : Nat := (nums 8 (2 + nChannels s)).foldl (fun m u => putBit m u true) 0

/-- E4: SRE has issued on every channel of the scope; the point of no return. The command is answered; S1, or a group's S1,
is reached, and S2 goes on from step 2 (Table SLP-4, Table SLP-5, R306). -/
def doEntryE4 (s : State) : State :=
  match entryAt s 4 with
  | none => s
  | some e =>
    if e.abort.isSome || !(entryChannels s).all (fun c => (chanOf s c).selfRef) then s
    else
      let groups := if e.st = 2 then e.groups else portMask s - (portMask s &&& rd s R.SLP_GROUPS_ASLEEP)
      let seq := rd s R.SLP_ENTRY_SEQ
      let s := wr (bumpi s R.SLP_ENTRIES e.st) R.SLP_ENTRY_POINT 5
      let s := answerAll s e.sources 0 0
      let s := modSleep s fun z => { z with e4Seqs := (bitsSet groups 8).foldl (fun t g => tset t g seq) z.e4Seqs }
      if e.st = 2 then
        let s := wr (wr s R.SLP_GROUPS_ASLEEP (rd s R.SLP_GROUPS_ASLEEP ||| groups)) R.SLP_ENTRY_POINT 0
        raiseEv (modSleep s fun z => { z with entry := none }) 9 0 0 0
      else
        let s := modSleep s fun z => { z with pastE4 := true, e4Time := poolNs s, e4Beats := s.time.beats, step := 2 }
        if e.st = 1 then modSleep s fun z => { z with entry := some { e with sources := [] } }
        else
          let s := modSleep s fun z => { z with entry := none, gated := z.gated ||| gateMask' s }
          raiseEv (wr (wr s R.SLP_STATE 2) R.SLP_ENTRY_POINT 0) 9 0 0 0

def execEntryE4 (s : State) : Host.Outcome State Fault Refusal := .next (doEntryE4 s)

/-- E4 has not passed within SLP_ENTRY_LIMIT; the refuser is the first unfinished part (R296). -/
def firstUnfinished (s : State) (e : Entering) : Nat :=
  let bad := fun (f : Nat → Bool) => (entryChannels s).find? fun c => !(f (c * 2) && f (c * 2 + 1))
  let p := rd s R.SLP_ENTRY_POINT
  let chan := fun (o : Option Nat) => match o with
    | some c => ident 4 c
    | none => ident 1 32
  if p ≤ 1 then (if crossingClear s e then ident 1 9 else ident 1 8)
  else if p = 2 then chan (bad (flushed s))
  else if p = 3 then chan (bad (saplingsDone s))
  else chan ((entryChannels s).find? fun c => !(chanOf s c).selfRef)
def doEntryTimeout (s : State) : State :=
  match s.sleep.entry with
  | none => s
  | some e => if e.start + rd s R.SLP_ENTRY_LIMIT * 1000 ≤ s.now then abortEntry s (firstUnfinished s e) else s

def execEntryTimeout (s : State) : Host.Outcome State Fault Refusal := .next (doEntryTimeout s)

/-- ENTRY_UNDO: an abandoned entry has reached its next abort point, or after E3 its channels are out of self-refresh again.
Every point is undone and every command answered; A0 commands are taken up in the state this leaves (R297). -/
def doEntryUndo (s : State) : State :=
  match s.sleep.entry with
  | none => s
  | some e =>
    match e.abort with
    | none => s
    | some r =>
      let sel := fun pc => (entryPcs s).contains pc
      let out := s.stack.trip || (entryChannels s).all fun c => !(chanOf s c).selfRef
      if s.sleep.pastE4 || !(e.undoing || rd s R.SLP_ENTRY_POINT = 4) || !out then s
      else
        let waiting := s.sleep.exitFor
        let s := resumeWork s sel
        let s := modSleep (wr s R.SLP_ENTRY_POINT 0) fun z => { z with entry := none, exitFor := [] }
        let s := if e.st = 2 then s else modTree (wr s R.SLP_STATE 0) fun t => { t with holdPower := false }
        let s := raiseEv (answerAll s e.sources 2 r) 9 1 0 r
        forEach waiting s fun s c => commandA0 s c r c.2.2

def execEntryUndo (s : State) : Host.Outcome State Fault Refusal := .next (doEntryUndo s)

/-- Self-refresh is confirmed on every channel in service (step 1 of Table SLP-5). -/
def sleepConfirmed (s : State) (c : Nat) : Bool := rdi s R.CDI_CHANNEL_STATE c = 1 || (chanOf s c).sreConfirmed
def allConfirmed (s : State) : Bool := (nums 0 (nChannels s)).all (sleepConfirmed s)

/-- The S2 descent is under way with no wake latched. -/
def descending (s : State) : Bool := s.sleep.pastE4 && rd s R.SLP_STATE = 5 && s.sleep.exit.isNone
def upPorts (s : State) : List Nat :=
  (nums 0 (nPorts s)).filter fun n => (linkOf s n).fdi = .active || (linkOf s n).fdi = .retrain

/-- Step 3 ends; step 4 requests L1 on every port that is up, of one in Retrain once that is over (Table SLP-5, 02 R31, R32). -/
def doBinTableSaveDone (s : State) : State :=
  if descending s && s.sleep.wake.isNone && s.sleep.step = 2 && allConfirmed s then
    forEach (upPorts s) (modSleep s fun z => { z with step := 4 }) requestL1
  else s

def execBinTableSaveDone (s : State) : Host.Outcome State Fault Refusal := .next (doBinTableSaveDone s)

/-- L1_REACHED: the link island powers off, or keeps its ingress buffer in retention (Table SLP-5). L1 that the block did
not request is a LinkError (02 R31). -/
def doL1Reached (port : Nat) (s : State) : State :=
  if !linkRuns s port then s
  else
    let l := linkOf s port
    match l.fdi with
    | .active =>
      if l.req = 2 then
        setPortState (modLink s port fun l =>
          { l with fdi := .l1, powered := false, retained := decide (0 < l.ingress), wakeReq := false, wakeAck := false })
          port portL1
      else enterLinkError s port 0
    | .l1 | .linkError => s
    | .retrain | .reset | .linkReset | .disabled => enterLinkError s port 0

def execL1Reached (port : Nat) (s : State) : Host.Outcome State Fault Refusal := .next (doL1Reached port s)

/-- Counts of the link and PHY units restart at 0, marked LOST (15 R403). -/
def loseCounts (s : State) : State :=
  forEach (nums 0 8 ++ nums 42 8) s fun s u =>
    let s := forEach (nums 0 9) s fun s k => setObs s u k 0
    setUnitStatus s u (tget s.obs.status u 0 ||| 65536)

/-- BEAT_STOP: steps 5 and 6. The umpires halt, observation is off and what it held is lost, the beat stops, code 0 is
requested and VDDP dropped; S2 is reached (Table SLP-5, 02 R42, R43, R47, 15 R403). -/
def doBeatStop (s : State) : State :=
  if !(descending s && s.sleep.wake.isNone && s.sleep.step = 4 && (upPorts s).isEmpty) then s
  else
    let s := raiseEv s 9 0 0 0
    let s := { s with obs := { s.obs with ring := [], fifo := [], sending := [], records := 0, dropped := 0, lead := 0 } }
    let s := wr (wr s R.OBS_RING_NEXT 0) R.OBS_RING_COUNT 0
    let s := stopBeat (modSleep s fun z => { z with entry := none, step := 6 })
    let s := { s with avs := { s.avs with saved := if rd s R.BLK_AVS_ENABLE = 1 then rd s R.BLK_AVS_CODE else 200 } }
    let s := avsOrder s 0
    let p := { s.pins with trcClk := false, trcValid := false, trcData := 0 }
    let s := { s with pins := p.order (putBit p.pwrReq 1 false) s.now }
    wr (wr s R.SLP_STATE 3) R.SLP_ENTRY_POINT 0

def execBeatStop (s : State) : Host.Outcome State Fault Refusal := .next (doBeatStop s)

/-- S2_WAKE: ply_wake_n is low, VDDP is requested and the code held before entry is restored (R304, 02 R42, R45). -/
def doS2Wake (s : State) : State :=
  match s.sleep.wake with
  | none => s
  | some w =>
    if !(rd s R.SLP_STATE = 3 && s.sleep.exit.isNone && s.sleep.pastE4) then s
    else
      let s := modSleep (wr s R.SLP_STATE 7) fun z => { z with exit := some (0, z.wakeNow, true), exitWho := w }
      let p := { s.pins with wakeN := false }
      avsOrder { s with pins := p.order (putBit p.pwrReq 1 (bitOf p.pwrAck 0)) s.now }
        (if rd s R.BLK_AVS_ENABLE = 1 then s.avs.saved else 200)

def execS2Wake (s : State) : Host.Outcome State Fault Refusal := .next (doS2Wake s)

/-- Ports in L1 are powered, and after the wake handshake Active is requested (R304 step 5, Table BND-2). A receiver request
that waited is answered; a port found outside L1 in a state not listed goes to LinkError (02 R31, R32). -/
def restoreLink (s : State) (n : Nat) : State :=
  let bad := (linkOf s n).errWaits
  let s := modLink s n fun l =>
    let l := if l.rxWaits then { l with rxActive := true, rxWaits := false } else l
    if l.fdi = .l1 then { l with powered := true, retained := false, wakeReq := true, wakeAck := true, req := 1 } else l
  if bad then enterLinkError (modLink s n fun l => { l with errWaits := false }) n 0 else s
def leaveL1 (s : State) : State := forEach (nums 0 (nPorts s)) s restoreLink

/-- SR_COUNT of every SID is read by MRR tCKSRX after CK has restarted, and T ends there (R303 step 2, R304 step 6, R308). -/
def readRefresh (s : State) (sel : Nat → Bool) : State :=
  forEach ((nums 0 (nChannels s)).filter fun c => sel c && rdi s R.CDI_CHANNEL_STATE c ≠ 1 && (chanOf s c).selfRef) s fun s c =>
    let s := modChan s c fun h => { h with slept := countedNs s - h.sreAt }
    (planAll s c (nckNow s + 16) ((nums 0 4).flatMap fun i => (nums 11 4).map fun a => mrrCommand s c i a 0)).2

/-- BEAT_RESTART: both acknowledgements are in and the PLLs have locked. The time base is loaded, latched events take effect,
link islands power up, CK starts and SR_COUNT is read, and every pseudo-channel owes a retrain (R304, R313, R315). A temperature flag that rose in S2 begins
a trip (09 R252). -/
def doBeatRestart (s : State) : State :=
  let waking := match s.sleep.exit with
    | some (_, _, b) => b
    | none => false
  if !(waking && !s.time.run && bitOf s.pins.pwrAck 1 && !s.pins.avsReq && s.avs.want.isNone && s.pins.ref100) then s
  else
    let s := { s with start := { s.start with pllLost := false } }
    let s := leaveL1 (startTrace (loseCounts (startBeat s)))
    let pcs := (nums 0 (nPcs s)).filter fun pc => !pcFailed s pc
    let s := forEach pcs s fun s pc => modPch s pc fun p => { p with late := some s.now }
    let s := readRefresh (restartClocks (modSleep s fun z => { z with gated := 0 }) fun _ => true) fun _ => true
    if cattripHigh s then beginTrip s else s

def execBeatRestart (s : State) : Host.Outcome State Fault Refusal := .next (doBeatRestart s)

/-- S1_EXIT: the clocks restart and SR_COUNT is read, on an exit of the whole block (0) from S1 or from the descent, once the step in progress has finished, or of
groups asleep (R299, R302, R303). -/
def doS1Exit (groups : Nat) (s : State) : State :=
  if s.sleep.exit.isSome then s
  else if groups = 0 then
    match s.sleep.wake with
    | none => s
    | some w =>
      let st := rd s R.SLP_STATE
      let waiting := (nums 0 (nPorts s)).any fun n => (linkOf s n).req = 2 && (upPorts s).contains n
      if !(s.sleep.pastE4 && (st = 2 || st = 5) && allConfirmed s && !waiting) then s
      else
        let s := modSleep (wr (wr s R.SLP_STATE (if st = 2 then 6 else 7)) R.SLP_ENTRY_POINT 0) fun z =>
          { z with exit := some (0, z.wakeNow, false), exitWho := w, entry := none, gated := 0 }
        readRefresh (restartClocks (leaveL1 s) fun _ => true) fun _ => true
  else
    let sel := fun c => bitOf groups (c / 4)
    if s.sleep.pastE4 || groups &&& s.sleep.groupWake ≠ groups ||
        !(nums 0 (nChannels s)).all (fun c => !sel c || sleepConfirmed s c) then s
    else
      readRefresh (restartClocks (modSleep s fun z => { z with
        exit := some (groups, z.groupNow, false), exitWho := z.groupWho, groupWake := z.groupWake - groups }) sel) sel

def execS1Exit (groups : Nat) (s : State) : Host.Outcome State Fault Refusal := .next (doS1Exit groups s)

/-- PORT_L1_EXIT: the port leaves L1 to Active as requested; before an exit has begun it is a wake (R304, 02 R31, R45). -/
def doPortL1Exit (port : Nat) (s : State) : State :=
  let l := linkOf s port
  if nPorts s ≤ port || l.fdi ≠ .l1 then s
  else if linkRuns s port && l.req = 1 then
    let s := setPortState (modLink s port fun l => { l with fdi := .active }) port portUp
    if l.resetWaits then orderLinkReset s port else drainTx s port
  else if bitOf (rd s R.LNK_PORT_ENABLE) port then latchWake s (ident 2 port) else s

def execPortL1Exit (port : Nat) (s : State) : Host.Outcome State Fault Refusal := .next (doPortL1Exit port s)

/-- A bank is marked suspect (R309). -/
def markSuspect (s : State) (pc sid bank : Nat) : State :=
  if (tget s.stack.suspects pc []).contains (sid * 32 + bank) then s
  else
    let i := bankIndex pc sid bank
    let s := bump (wr s R.SLP_SUSPECT_BANK i) R.SLP_SUSPECT_COUNT
    addSuspect (raiseEv s 9 4 i (ident 4 (pc / 2))) pc (sid * 32 + bank)

/-- The refresh count of a slice against its bounds for an elapsed time in ns (R308). -/
def countBounds (t : Nat) : Int × Int := ((t / 65625 : Nat) - 1, (4 * t + 59374) / 59375 + 1)
def countPasses (s : State) (t count : Nat) : Bool :=
  let (lo, hi) := countBounds t
  s.time.quality ≠ 3 && decide (hi - lo < 2 ^ 32) && decide (((count : Int) - lo) % 2 ^ 32 ≤ hi - lo)

def checkCount (s : State) (x : Nat × Nat) : State :=
  let (slice, count) := x
  let c := slice / 4
  let t := (chanOf s c).slept
  let s := wri s R.SLP_SR_COUNT_LAST slice (count % 2 ^ 32)
  if countPasses s t (count % 2 ^ 32) then s
  else
    let s := raiseEv (bump s R.SLP_COUNT_MISMATCHES) 9 5 0 (ident 4 c)
    forEach [c * 2, c * 2 + 1] s fun s pc => forEach (nums 0 32) s fun s b => markSuspect s pc (slice % 4) b

/-- Sapling lines of a pseudo-channel against the last entry that passed E4 (R307); the report gives what the read turned
over. -/
def checkSaplings (s : State) (pc : Nat) (errs : List (Nat × BitVec 576)) : State :=
  let seq := tget s.sleep.e4Seqs (pc / 8) 0
  forEach (saplings s pc) s fun s (key, i) =>
    let (c, s) := readCell s pc key
    let e := ((errs.find? fun x => x.1 = i).map (·.2)).getD 0
    let d := decodeLine (markedLanes s pc) (c ^^^ e)
    if (d.out = .clean || d.out = .filled) && d.data = saplingLine seq i then s
    else markSuspect (bump s R.SLP_SAPLING_FAILS) pc (i / 32 % 4) (i % 32)

/-- The checks on wake over the channels `sel` names: counts, then sapling rows (R307, R308). -/
def wakeChecks (s : State) (k : WakeReport) (sel : Nat → Bool) : State :=
  let counts := k.counts.filter fun (i, _) => i < nChannels s * 4 && sel (i / 4) && rdi s R.CDI_CHANNEL_STATE (i / 4) ≠ 1
  let s := forEach counts s checkCount
  forEach ((nums 0 (nPcs s)).filter fun pc => sel (pc / 2) && !pcFailed s pc) s fun s pc => checkSaplings s pc k.sapling

/-- The replay queue goes to the tree in arrival order, frozen links go on, ports that discarded a flit send their NAK, and
control requests held back are served (R300, R301). -/
def resumeLinks (s : State) : State :=
  let q := s.sleep.queue
  let owed := s.sleep.nakOwed
  let s := modSleep s fun z => { z with queue := [], nakOwed := 0 }
  let s := forEach (nums 0 (nPorts s)) s fun s n =>
    if (linkOf s n).frozen.isSome then modLink s n fun l => { l with frozen := none, dirty := true } else s
  let s := forEach q s treeArrive
  let s := forEach (bitsSet owed 8) s fun s n => if portState s n = portUp then sendNak s n else s
  forEach (nums 0 (nPorts s)) s serveCtl

/-- Latency of the exit and the commands it answers: every one whose groups are awake (R291, R310). -/
def closeExit (s : State) (st from_ : Nat) : State :=
  let asleep := rd s R.SLP_GROUPS_ASLEEP
  let done := fun (c : PwrSource) => (if c.2.2 = 0 then asleep else c.2.2 &&& asleep) = 0
  let due := s.sleep.exitFor.filter done
  let s := modSleep (wri s R.SLP_EXIT_LAST st (min (s.now - from_) satMax)) fun z => { z with exitFor := z.exitFor.filter fun c => !done c }
  raiseEv (answerAll s due 0 0) 9 3 0 0

/-- Accounts of a sleep of the whole block, and its end (R303, R304, R314). -/
def leaveSleep (s : State) : State :=
  let wall := poolNs s - s.sleep.e4Time
  let s := wr (wr s R.SLP_LAST_SLEEP_WALL wall) R.SLP_LAST_SLEEP_BEATS (s.time.beats - s.sleep.e4Beats)
  let s := bumpWrap s R.SLP_SLEEP_WALL_TOTAL 0 wall 64
  let s := wr (wr (wr s R.SLP_STATE 0) R.SLP_ENTRY_POINT 0) R.SLP_GROUPS_ASLEEP 0
  let s := modSleep s fun z => { z with exit := none, wake := none, pastE4 := false, step := 0, groupWake := 0, entry := none }
  modTree { s with pins := { s.pins with wakeN := true } } fun t => { t with holdPower := false }

/-- EXIT_DISPATCH_RESUME (R303 step 5, R304 step 7). It waits for every channel of the scope, for a trip in force, and after
S2 for its ports and retrains. -/
def doExitDispatchResume (k : WakeReport) (s : State) : State :=
  match s.sleep.exit with
  | none => s
  | some (g, from_, _) =>
    let sel := fun c => g = 0 || bitOf g (c / 4)
    let chans := (nums 0 (nChannels s)).filter fun c => sel c && rdi s R.CDI_CHANNEL_STATE c ≠ 1
    let deep := rd s R.SLP_STATE = 7
    let ports := (nums 0 (nPorts s)).any fun n => (linkOf s n).fdi = .l1 && (linkOf s n).req = 1
    let owed := (nums 0 (nPcs s)).any fun pc => !pcFailed s pc && ((pchOf s pc).late.isSome || (pchOf s pc).hold)
    if !s.time.run || s.stack.trip || !chans.all (fun c => !(chanOf s c).selfRef) || (g = 0 && deep && (ports || owed)) then s
    else
      let inScope := fun pc => sel (pc / 2)
      let s := wakeChecks s k sel
      if g = 0 then
        let s := closeExit (leaveSleep s) (if deep then 1 else 0) from_
        resumeWork (resumeLinks s) inScope
      else
        let s := wr s R.SLP_GROUPS_ASLEEP (rd s R.SLP_GROUPS_ASLEEP - (rd s R.SLP_GROUPS_ASLEEP &&& g))
        resumeWork (closeExit (modSleep s fun z => { z with exit := none }) 2 from_) inScope

def execExitDispatchResume (k : WakeReport) (s : State) : Host.Outcome State Fault Refusal :=
  .next (doExitDispatchResume k s)

/-- WAKE_AT: the programmed time, once reached, is taken once (R296, R319). -/
def doWakeAt (s : State) : State :=
  if rd s R.SLP_WAKE_AT = 0 || countedPool s < rd s R.SLP_WAKE_AT then s else disturb (wr s R.SLP_WAKE_AT 0) (ident 6 1)

def execWakeAt (s : State) : Host.Outcome State Fault Refusal := .next (doWakeAt s)

/-- EXT_WAKE: a conditioned edge of ply_ext_wake (02 R45, 14 R385). -/
def doExtWake (edges : Nat) (s : State) : State :=
  if inputArmed s 16 && s.pins.porN then
    disturb (sampleEdges { s with pins := { s.pins with extWake := true } } 16 edges) (ident 6 0)
  else s

def execExtWake (edges : Nat) (s : State) : Host.Outcome State Fault Refusal := .next (doExtWake edges s)

/-- The island of observation unit `u` has nothing to do (R290). -/
def islandIdle (s : State) (u : Nat) : Bool :=
  if u < 8 then linkRuns s u && (linkOf s u).txq.isEmpty && (linkOf s u).evq.isEmpty && !(linkOf s u).dirty
  else if u = unitTree then
    s.tree.crossing.isEmpty && s.tree.rmw.isEmpty && s.tree.leaves.all fun (_, l) => l.queue.isEmpty
  else if u = unitHome then
    s.home.txns.isEmpty && s.home.held.isEmpty && !s.home.walking && s.home.poisonTodo.isEmpty &&
      s.home.victimTodo.isEmpty && s.home.probe.isNone && s.home.xlate.isNone
  else
    [(u - 10) * 2, (u - 10) * 2 + 1].all fun pc =>
      let p := pchOf s pc
      p.held.isEmpty && p.store.isEmpty && p.work.isEmpty && p.refresh.isEmpty && p.refab.isEmpty && !p.hold

/-- ISLAND_IDLE_GATE: after 64 idle cycles a link, tree, home or engine island gates its clock in A0 or A1 (R290). -/
def doIslandIdleGate (island : Nat) (s : State) : State :=
  let present := island < 10 + nChannels s && !(s.ply16 && 4 ≤ island && island < 8)
  if present && mgmtUp s && rd s R.SLP_A1_ENABLE = 1 && rd s R.SLP_STATE = 0 && islandIdle s island &&
      !bitOf s.sleep.gated island then
    let s := if island < 8 then modLink s island fun l => { l with wakeReq := false, wakeAck := false } else s
    obsEvent (modSleep s fun z => { z with gated := putBit z.gated island true }) island 3 1
  else s

def execIslandIdleGate (island : Nat) (s : State) : Host.Outcome State Fault Refusal := .next (doIslandIdleGate island s)

/-- The gate of island `u` still holds: in A0 it ends with the first item that reaches the island, and where SLP_A1_ENABLE is
cleared (R290). -/
def gateHolds (s : State) (u : Nat) : Bool :=
  bitOf s.sleep.gated u && (rd s R.SLP_STATE ≠ 0 ||
    (rd s R.SLP_A1_ENABLE = 1 && islandIdle s u && !(u < 8 && (linkOf s u).wakeReq) &&
      !(u = unitTree && s.tree.back.any fun (_, (at', _)) => at' = s.now)))

/-- Islands that something reached, or whose gating has been disabled, run again (R290). -/
def settleGates (s : State) : State :=
  modSleep s fun z => { z with gated := ((bitsSet z.gated 42).filter (gateHolds s)).foldl (fun m u => putBit m u true) 0 }

/-- SLP_STATE as read: A1 while the tree, the home and every engine in service are gated at once (R290). -/
def stateShown (s : State) : Nat :=
  let engines := (nums 0 (nChannels s)).all fun c => rdi s R.CDI_CHANNEL_STATE c = 1 || gateHolds s (10 + c)
  if rd s R.SLP_STATE = 0 && gateHolds s 8 && gateHolds s 9 && engines then 1 else rd s R.SLP_STATE

/-- TIME_NEXT (03 R80). Before NEG_SELECT it is discarded and counted (03 R83); revision 2 has no such message (Table LNK-15). -/
def doTimeNext (port value : Nat) (s : State) : State :=
  if port < nPorts s && mgmtUp s && portState s port = portNegotiating then bumpi s R.LNK_DISCARDS port
  else if !(port < nPorts s && mgmtUp s && portState s port = portUp) then s
  else if portRev s port = 2 then forceLinkError s port 6
  else nameEdge (returnCredit (takeCredit s port 5 1) port 5 1) (value % 2 ^ 64)

def execTimeNext (port value : Nat) (s : State) : Host.Outcome State Fault Refusal := .next (doTimeNext port value s)

end Sys2Proof.Machine
end

