-- ==== Sys2Proof/Machine/Mailbox.lean ====
section
/-!
DEFINITION. Dictionary reads with an action of their own, the mailbox channels and the states of masters (12 R344 to R351).
-/
namespace Sys2Proof.Machine

/-- A read of an entry with an action of its own: the checks of Table MGT-4, then the action, which answers a status, a value
and the state it leaves. -/
def accessRead (src : Sender) (mtag index sub : Nat) (body : Nat → State → Nat × Nat × State) (s : State) : State :=
  if !reaches s src then turnAway s src else
    let s := takeMgtCredit s src
    let st := accessStatus s src false index sub 0 0 0
    if st ≠ 0 then refuse s src mtag 0x21 index sub 0 st
    else
      let (st, v, s') := body (masterOf s src) s
      if st ≠ 0 then refuse s' src mtag 0x21 index sub 0 st
      else grant s' src mtag 0x21 index sub 0 v []

def mbxOf (s : State) (ch : Nat) : Mbx := tget s.mbx ch {}
def modMbx (s : State) (ch : Nat) (f : Mbx → Mbx) : State := { s with mbx := tset s.mbx ch (f (mbxOf s ch)) }

/-- Master states of Table MGT-10: 0 present, 1 asleep, 2 in reset, 3 dead. -/
def masterState (s : State) (m : Nat) : Nat :=
  let asleep := if rdi s R.MGT_MASTER_SLEEP m = 1 then 1 else 0
  if isUmpire m then
    (if rd s R.MGT_UMPIRE_STATE = 1 then 2 else if rd s R.MGT_UMPIRE_STATE = 2 then 3 else 0)
  else if isOwner m then
    let up := (nums 0 (nPorts s)).any fun p => portBound s p (m - 1) && (portState s p = portUp || portState s p = portRetrain)
    if inReset s (m - 1) then 2 else if !up then 3 else asleep
  else if rd s R.MGT_I3C_ADDRESS = 0 || (m = 0x40 && rd s R.MGT_OBSERVER_EIDS = 0) then 3 else asleep

/-- Identities of Table MGT-3. -/
def allMasters : List Nat := nums 1 16 ++ [0x20, 0x30, 0x31, 0x40]

/-- TIMEOUT sets on a channel, with EV.10.02 where it was clear (R349). -/
def setTimeout (s : State) (ch : Nat) : State :=
  if (mbxOf s ch).timeout then s
  else raiseEv (modMbx s ch fun b => { b with timeout := true }) 10 2 0 (ident 5 (mbxReceiver s ch))

/-- A master enters state `k`: words it was to take time out, or are discarded by its reset; words it posted are orphaned by
it; its locks are released by reset or death (R346, R349). -/
def masterEnters (s : State) (m k : Nat) : State :=
  forEach (s.mbx.map (·.1)) s fun s ch =>
    let s := if (k = 2 || k = 3) && (mbxOf s ch).lock = m then modMbx s ch fun b => { b with lock := 0 } else s
    let s := if k = 2 && (mbxOf s ch).full && (mbxOf s ch).poster = m then
        modMbx s ch fun b => { b with orphaned := true } else s
    if !(mbxOf s ch).full || mbxReceiver s ch ≠ m then s
    else
      let s := setTimeout s ch
      if k = 2 then
        raiseEv (modMbx s ch fun b => { b with full := false, word := 0, late := false, orphaned := false, discarded := true })
          10 4 0 (ident 5 m)
      else s

/-- On each beat a master that has entered an absent state affects its channels (R349). -/
def watchMasters (s : State) : State :=
  forEach allMasters s fun s m =>
    let k := masterState s m
    if k = tget s.masters m 0 then s
    else
      let s := { s with masters := tput s.masters m k 0 }
      if k = 0 then s else masterEnters s m k

/-- MGT_MBX_DATA written: the word is posted (R345, R346, R349, R351). -/
def actMbxPost (ch : Nat) (m v : Nat) (s : State) : Nat × State :=
  let b := mbxOf s ch
  let native := rdi s R.MGT_MBX_MODE ch = 0
  let r := mbxReceiver s ch
  if !maySend s ch m then (2, s)
  else if !native && b.lock ≠ m then (4, s)
  else if !native && b.full then (5, s)
  else
    let hit := b.full
    let s := modMbx s ch fun b => { b with
      word := v, full := true, poster := m, late := false, orphaned := false, collision := b.collision || hit, since := s.now }
    let s := obsEvent s unitMgmt 18 1
    let s := if isOwner r || r = 0x20 then raiseEv s 10 0 0 (ident 5 r) else s
    let s := if hit then raiseEv s 10 1 0 (ident 5 r) else s
    (0, if masterState s r = 0 then s else setTimeout s ch)

def doMgtMbxPost (src : Sender) (mtag channel value : Nat) (s : State) : State :=
  accessWrite ⟨src, mtag, value⟩ (0xA100 + channel % 64) 1 (actMbxPost (channel % 64)) s

def execMgtMbxPost (src : Sender) (mtag channel value : Nat) (s : State) : Host.Outcome State Fault Refusal :=
  .next (doMgtMbxPost src mtag channel value s)

/-- MGT_MBX_DATA read: the receiver takes the word (R345). -/
def takeMbx (ch : Nat) (m : Nat) (s : State) : Nat × Nat × State :=
  let b := mbxOf s ch
  if mbxReceiver s ch = 0 || m ≠ mbxReceiver s ch then (2, 0, s)
  else if !b.full then (5, 0, s)
  else (0, b.word, modMbx s ch fun b => { b with word := 0, full := false, late := false, orphaned := false })

def doMgtMbxTake (src : Sender) (mtag channel : Nat) (s : State) : State :=
  accessRead src mtag (0xA100 + channel % 64) 1 (takeMbx (channel % 64)) s

def execMgtMbxTake (src : Sender) (mtag channel : Nat) (s : State) : Host.Outcome State Fault Refusal :=
  .next (doMgtMbxTake src mtag channel s)

/-- MGT_MBX_LOCK read: a permitted sender acquires a free lock; 0 means the reader holds it (R346). -/
def lockMbx (ch : Nat) (m : Nat) (s : State) : Nat × Nat × State :=
  let b := mbxOf s ch
  if maySend s ch m then
    if b.lock = 0 then (0, 0, modMbx s ch fun b => { b with lock := m })
    else (0, if b.lock = m then 0 else b.lock, s)
  else (0, b.lock, s)

def doMgtMbxLockAcquire (src : Sender) (mtag channel : Nat) (s : State) : State :=
  accessRead src mtag (0xA100 + channel % 64) 4 (lockMbx (channel % 64)) s

def execMgtMbxLockAcquire (src : Sender) (mtag channel : Nat) (s : State) : Host.Outcome State Fault Refusal :=
  .next (doMgtMbxLockAcquire src mtag channel s)

/-- MGT_MBX_LOCK written: 0 by the holder releases it (R346). -/
def actMbxRelease (ch : Nat) (m v : Nat) (s : State) : Nat × State :=
  if v = 0 && (mbxOf s ch).lock = m then (0, modMbx s ch fun b => { b with lock := 0 }) else (2, s)

def doMgtMbxLockRelease (src : Sender) (mtag channel value : Nat) (s : State) : State :=
  accessWrite ⟨src, mtag, value⟩ (0xA100 + channel % 64) 4 (actMbxRelease (channel % 64)) s

def execMgtMbxLockRelease (src : Sender) (mtag channel value : Nat) (s : State) : Host.Outcome State Fault Refusal :=
  .next (doMgtMbxLockRelease src mtag channel value s)

/-- MGT_MBX_BIND (R344). -/
def actMbxBind (ch : Nat) (_ v : Nat) (s : State) : Nat × State :=
  let snd := v / 256
  let rcv := v % 256
  if !(isIdentity rcv && (snd = 0 || (isIdentity snd && snd ≠ rcv))) then (3, s)
  else if (mbxOf s ch).full then (5, s)
  else (0, wri s R.MGT_MBX_BIND ch v)

def doMgtMbxBind (a : Access) (channel : Nat) (s : State) : State :=
  accessWrite a (0xA100 + channel % 64) 0 (actMbxBind (channel % 64)) s

def execMgtMbxBind (a : Access) (channel : Nat) (s : State) : Host.Outcome State Fault Refusal :=
  .next (doMgtMbxBind a channel s)

/-- MGT_MBX_TABLE_LOCK (R344). -/
def actTableLock (_ _ : Nat) (s : State) : Nat × State := (0, wr s R.MGT_MBX_TABLE_LOCKED 1)

def doMgtMbxTableLock (a : Access) (s : State) : State := accessWrite a 0xA140 0 actTableLock s

def execMgtMbxTableLock (a : Access) (s : State) : Host.Outcome State Fault Refusal := .next (doMgtMbxTableLock a s)

/-- MGT_MASTER_SLEEP (R348, R349). -/
def actMasterSleep (master : Nat) (_ v : Nat) (s : State) : Nat × State :=
  (0, watchMasters (wri s R.MGT_MASTER_SLEEP master v))

def doMgtMasterSleep (a : Access) (master : Nat) (s : State) : State :=
  accessWrite a 0xA143 master (actMasterSleep master) s

def execMgtMasterSleep (a : Access) (master : Nat) (s : State) : Host.Outcome State Fault Refusal :=
  .next (doMgtMasterSleep a master s)

/-- Channels that form a pair with `ch` (R350). -/
def mbxPairs (s : State) (ch : Nat) : List Nat :=
  let x := mbxSender s ch
  let y := mbxReceiver s ch
  (nums 0 64).filter fun c => x ≠ 0 && y ≠ 0 && c ≠ ch && mbxSender s c = y && mbxReceiver s c = x

/-- MBX_TIMEOUT: the word has been held past MGT_MBX_TIMEOUT; a crossed wait sets CROSSED on both channels (R349, R350). -/
def doMbxTimeout (channel : Nat) (s : State) : State :=
  let b := mbxOf s channel
  if !mgmtUp s || !b.full || b.late || s.now < b.since + rdi s R.MGT_MBX_TIMEOUT channel * 1000 then s
  else
    let s := setTimeout (modMbx s channel fun b => { b with late := true }) channel
    match (mbxPairs s channel).filter fun c => (mbxOf s c).full && (mbxOf s c).late with
    | [] => s
    | l =>
      let s := forEach (channel :: l) s fun s c => modMbx s c fun b => { b with crossed := true }
      raiseEv s 10 3 0 (ident 5 (mbxReceiver s channel))

def execMbxTimeout (channel : Nat) (s : State) : Host.Outcome State Fault Refusal := .next (doMbxTimeout channel s)

/-- MGT_MBX_STATUS as read (Table MGT-9), and its W1C write. -/
def mbxStatus (s : State) (ch : Nat) : Nat :=
  let b := mbxOf s ch
  let bit := fun (k : Nat) (x : Bool) => if x then 2 ^ k else 0
  b.lock * 2 ^ 24 + bit 6 b.crossed + bit 5 b.orphaned + bit 4 b.discarded + bit 3 b.timeout + bit 2 b.collision +
    bit 1 (rdi s R.MGT_MBX_MODE ch = 1) + bit 0 b.full
def actMbxStatus (ch : Nat) (_ v : Nat) (s : State) : Nat × State :=
  (0, modMbx s ch fun b => { b with
    crossed := b.crossed && !bitOf v 6, discarded := b.discarded && !bitOf v 4
    timeout := b.timeout && !bitOf v 3, collision := b.collision && !bitOf v 2 })

/-- MGT_MBX_MODE: refused while the lock is held (R360). -/
def actMbxMode (ch : Nat) (_ v : Nat) (s : State) : Nat × State :=
  if (mbxOf s ch).lock ≠ 0 then (5, s) else (0, wri s R.MGT_MBX_MODE ch v)

/-- MGT_MBX_PENDING (R351). -/
def mbxPendingOf (s : State) (m : Nat) : Nat :=
  (nums 0 64).foldl (fun n ch => if mbxReceiver s ch = m && (mbxOf s ch).full then n + 2 ^ ch else n) 0

end Sys2Proof.Machine
end

