-- ==== Sys2Proof/Machine/Manage.lean ====
section
/-!
DEFINITION. The dictionary's own commands, stores to MRAM, the sideband FIFOs' flushes and reads, a commanded block reset, and
the umpires (12 R323, R328 to R331, R335, R342, R352, R353; 14 R388).
-/
namespace Sys2Proof.Machine

/-- MGT_DICT_LOCK (R323). -/
def actDictLock (_ _ : Nat) (s : State) : Nat × State := (0, wr s R.MGT_DICT_LOCKED 1)

def doMgtDictLock (a : Access) (s : State) : State := accessWrite a 0xA001 0 actDictLock s

def execMgtDictLock (a : Access) (s : State) : Host.Outcome State Fault Refusal := .next (doMgtDictLock a s)

/-- MGT_PERSIST_ERASE: from the next block reset no parameter has a stored value, and none is stored until then (R331). -/
def actPersistErase (_ _ : Nat) (s : State) : Nat × State := (0, { s with mram := { s.mram with erased := true } })

def doMgtPersistErase (a : Access) (s : State) : State := accessWrite a 0xA002 1 actPersistErase s

def execMgtPersistErase (a : Access) (s : State) : Host.Outcome State Fault Refusal := .next (doMgtPersistErase a s)

/-- PERSIST_STORE: one pending value is written (R330, R426). -/
def storeItem (s : State) : PersistItem → State
  | .entry key => if ownStore key then s else persistKey s key
  | .classLog => persistClassLog s
  | .pinnedLeaf n => persistLeaf s n

/-- A store of `item` is due: none in the last MGT_PERSIST_PERIOD, in ms (R330, R426). -/
def storeDue (s : State) (item : PersistItem) : Bool :=
  match tget? s.mram.storedAt (itemKey item) with
  | none => true
  | some t => decide (t + rd s R.MGT_PERSIST_PERIOD * 1000000 ≤ countedNs s)

/-- The write takes an MRAM block past half its rated writes, where `worn` (R354). -/
def doPersistStore (item : PersistItem) (worn : Bool) (s : State) : State :=
  if !mgmtUp s || !storeDue s item then s
  else
    let t := storeItem s item
    if worn && t.mram ≠ s.mram then raiseEv t 10 9 0 0 else t

def execPersistStore (item : PersistItem) (worn : Bool) (s : State) : Host.Outcome State Fault Refusal :=
  .next (doPersistStore item worn s)

/-- MGT_DESCRIBE: the master's descriptor clears and is awaited (R329, R427). -/
def actDescribe (m v : Nat) (s : State) : Nat × State :=
  (0, { s with dict := { s.dict with descReq := tset s.dict.descReq m v, desc := tdel s.dict.desc m } })

def doMgtDescribe (a : Access) (s : State) : State := accessWrite a 0xA004 0 actDescribe s

def execMgtDescribe (a : Access) (s : State) : Host.Outcome State Fault Refusal := .next (doMgtDescribe a s)

/-- Descriptor of the pair in bits [23:8] and [7:0] (Table MGT-5). -/
def descriptorOf (s : State) (v : Nat) : Nat :=
  let index := v / 256 % 65536
  let sub := v % 256
  match if exists' index sub then findEntry index sub else none with
  | none => 2 ^ 63
  | some e =>
    2 ^ 63 + (if s.ply16 && absent16 e index sub then 0 else 2 ^ 62) + e.ty * 2 ^ 58 + e.acc * 2 ^ 55 +
      (if e.persistent then 2 ^ 54 else 0) + e.rights * 2 ^ 47 + (if e.ty = 10 then e.length * 2 ^ 32 else 0)

def doMgtDescriptorDone (master : Nat) (s : State) : State :=
  match tget? s.dict.descReq master with
  | some v => if mgmtUp s then { s with dict := { s.dict with
      descReq := tdel s.dict.descReq master, desc := tset s.dict.desc master (descriptorOf s v) } } else s
  | none => s

def execMgtDescriptorDone (master : Nat) (s : State) : Host.Outcome State Fault Refusal :=
  .next (doMgtDescriptorDone master s)

/-- BLOB_STAGING_TIMEOUT: 1 ms without a part discards the staging (R328). -/
def doBlobStagingTimeout (master : Nat) (s : State) : State :=
  match tget? s.dict.staging master with
  | some g => if g.at_ + 1000000 ≤ s.now then { s with dict := { s.dict with staging := tdel s.dict.staging master } } else s
  | none => s

def execBlobStagingTimeout (master : Nat) (s : State) : Host.Outcome State Fault Refusal :=
  .next (doBlobStagingTimeout master s)

/-- The outbound FIFO after frames left it: frames that wait move in, and a packet still waiting is announced (R335, R340). -/
def settleOutbound (s : State) : State :=
  let side := settleOut (skipFrames s.side 512) 512
  pendingIbi { s with side := { side with ibi := side.ibi && !side.outb.isEmpty } }

/-- A stored word of a frame FIFO is corrected as it is read (R343). -/
def correctedWord (s : State) : State := raiseFirst (bump s R.MGT_SB_CORRECTED) 10 11 0 0

/-- A frame of words `ws` leaves. An uncorrectable word ends it as flush action 1 does; the frame is gone, and counted
(R342, R343). -/
def frameLeaves (s : State) (x : FrameRead) (ws : List Nat) : State :=
  match x with
  | .whole => emit s (.frame (wordsBytes ws))
  | .corrected => correctedWord (emit s (.frame (wordsBytes ws)))
  | .cut n => bump (emit s (.frameCut (wordsBytes (ws.take (min n (ws.length - 1)))))) R.MGT_SB_DISCARDS

/-- OUTBOUND_FRAME_READ: the controller reads the frame at R (R337, R338). -/
def doOutboundFrameRead (x : FrameRead) (s : State) : State :=
  if !mgmtUp s || s.side.outb.isEmpty then s
  else
    let (ws, r) := s.side.outb.frameAt s.side.outb.r 512
    let s := { s with side := { s.side with outb := { s.side.outb with r := r }, ibi := false } }
    settleOutbound (obsEvent (frameLeaves s x ws) unitMgmt 20 1)

def execOutboundFrameRead (r : FrameRead) (s : State) : Host.Outcome State Fault Refusal := .next (doOutboundFrameRead r s)

/-- IBI_REPEAT: no read has followed within 1 ms (R335). -/
def doIbiRepeat (s : State) : State :=
  if mgmtUp s && s.side.ibi && !s.side.outb.isEmpty && decide (s.side.ibiAt + 1000000 ≤ s.now) then
    emit { s with side := { s.side with ibiAt := s.now } } (.ibi 0xAE)
  else s

def execIbiRepeat (s : State) : Host.Outcome State Fault Refusal := .next (doIbiRepeat s)

/-- MGT_SB_FLUSH: 1 telemetry, 2 control, 3 both (R342). -/
def actSbFlush (_ v : Nat) (s : State) : Nat × State :=
  let s := if v = 1 || v = 3 then flushTelemetry s else s
  let s := if v = 2 || v = 3 then flushControl s else s
  (0, settleOutbound s)

def doSbFlushTelemetry (a : Access) (s : State) : State := accessWrite a 0xA011 1 actSbFlush s
def execSbFlushTelemetry (a : Access) (s : State) : Host.Outcome State Fault Refusal := .next (doSbFlushTelemetry a s)

def doSbFlushControl (a : Access) (s : State) : State := accessWrite a 0xA011 1 actSbFlush s
def execSbFlushControl (a : Access) (s : State) : Host.Outcome State Fault Refusal := .next (doSbFlushControl a s)

def doSbFlushBoth (a : Access) (s : State) : State := accessWrite a 0xA011 1 actSbFlush s
def execSbFlushBoth (a : Access) (s : State) : Host.Outcome State Fault Refusal := .next (doSbFlushBoth a s)

/-- What a commanded or escalated reset waits for before it takes effect: the store of a committed region table, and every
pending persistent value (04 R90, 12 R330). -/
def storeAll (s : State) : State := persistAll (doMapTableStoreDone s)

/-- A commanded or escalated block reset begins (14 R388). One already under way takes it in. Past E4 it takes effect at once
on path 3; before service nothing is to be flushed, and it takes effect at once too. -/
def orderBlockReset (s : State) (cause : Nat) : State :=
  if s.start.commanded.isSome then s
  else if s.start.phase ≠ .service || diesAsleep s then blockReset (storeAll s) cause false
  else
    let s := { s with start := { s.start with commanded := some cause, commandedAt := s.now } }
    let s := modTree s fun t => { t with holdReset := true }
    let s := forEach ((nums 0 (nPorts s)).filter fun n => portState s n = portUp || portState s n = portRetrain) s orderLinkReset
    forEach (s.pchs.map (·.1)) s orderFlush

/-- COMMANDED_RESET_EFFECT: every channel in service is in confirmed self-refresh; pending values are stored and the reset
takes effect (14 R388). -/
def doCommandedResetEffect (s : State) : State :=
  match s.start.commanded with
  | none => s
  | some cause =>
    let ready := (nums 0 (nChannels s)).all fun c =>
      rdi s R.CDI_CHANNEL_STATE c = 1 || ((chanOf s c).selfRef && (chanOf s c).sreConfirmed)
    if ready then blockReset (storeAll s) cause true else s

def execCommandedResetEffect (s : State) : Host.Outcome State Fault Refusal := .next (doCommandedResetEffect s)

/-- FLT_BLOCK_RESET (14 R388): cause 2. -/
def actBlockReset (_ _ : Nat) (s : State) : Nat × State := (0, orderBlockReset s 2)

/-- The umpires restart: their private memory is lost, the SPDM connection with it (R352, R357). -/
def restartUmpires (s : State) (cause : Nat) : State :=
  let s := wr (bump (wr s R.MGT_UMPIRE_STATE 1) R.MGT_UMPIRE_RESETS) R.MGT_UMPIRE_RESET_CAUSE cause
  let s := { s with ump := { s.ump with spdm := 0, signing := none } }
  watchMasters (wr s R.MGT_SPDM_REQUESTER 0)

/-- Slot not in use. -/
def inactiveSlot (s : State) : Nat := 1 - rd s R.UPG_ACTIVE_SLOT

/-- The image in trial is rejected and the previous one is active again (13 R366). -/
def rollBack (s : State) (cause : Nat) : State :=
  let bad := rd s R.UPG_ACTIVE_SLOT
  let s := wr (wri s R.UPG_IMAGE_STATE bad 3) R.UPG_ACTIVE_SLOT (1 - bad)
  wr (bump (wr s R.UPG_STATE 0) R.UPG_ROLLBACKS) R.UPG_LAST_ROLLBACK_CAUSE cause

/-- A mismatch (cause 1) or watchdog expiry (cause 2): the umpires restart, into the previous image during a trial, or the
block resets once MGT_UMPIRE_ESCALATE of them fall within 1 s (R352, R353, 13 R366). -/
def umpireFault (s : State) (cause ev : Nat) : State :=
  if !mgmtUp s || !s.start.done4 || rd s R.MGT_UMPIRE_STATE = 2 then s
  else
    let recent := s.ump.restarts.filter fun t => s.now < t + 1000000000
    let trial := rd s R.UPG_STATE = 2
    let s := if trial then rollBack s 2 else s
    if rd s R.MGT_UMPIRE_ESCALATE ≤ recent.length + 1 then orderBlockReset (raiseEv s 10 ev 0 (ident 1 33)) 3
    else
      let s := { s with ump := { s.ump with restarts := s.now :: recent } }
      raiseEv (restartUmpires s (if trial then 3 else cause)) 10 ev 0 (ident 1 33)

def doUmpireLockstepMismatch (s : State) : State := umpireFault s 1 5
def execUmpireLockstepMismatch (s : State) : Host.Outcome State Fault Refusal := .next (doUmpireLockstepMismatch s)

def doUmpireWatchdogExpiry (s : State) : State := if umpiresServe s then umpireFault s 2 6 else s
def execUmpireWatchdogExpiry (s : State) : Host.Outcome State Fault Refusal := .next (doUmpireWatchdogExpiry s)

/-- MGT_UMPIRE_RESTART (R352): cause 4. Halted umpires stay halted until an image is loaded and activated (16 R414). -/
def actUmpireRestart (_ _ : Nat) (s : State) : Nat × State :=
  (0, if rd s R.MGT_UMPIRE_STATE = 2 then s else restartUmpires s 4)

def doMgtUmpireRestart (a : Access) (s : State) : State := accessWrite a 0xA200 5 actUmpireRestart s

def execMgtUmpireRestart (a : Access) (s : State) : Host.Outcome State Fault Refusal := .next (doMgtUmpireRestart a s)

/-- UMPIRE_RESTART_DONE: the firmware runs with its own schema minor; an activated image enters its trial, and telemetry
resumes (R352, 13 R364, R365, R368). Halted umpires stay halted until an activation. -/
def doUmpireRestartDone (s : State) : State :=
  if rd s R.MGT_UMPIRE_STATE ≠ 1 then s
  else
    let minor := ((tget? s.images (rd s R.UPG_ACTIVE_SLOT)).map (·.minor)).getD 0
    let s := wr (wr s R.MGT_UMPIRE_STATE 0) R.MGT_SCHEMA_VERSION (0x300 + minor)
    let s := if rd s R.UPG_STATE = 1 then { wr s R.UPG_STATE 2 with ump := { s.ump with trialFrom := s.now } } else s
    let s := watchMasters s
    let due := fun g => tget s.ev.waiting (g * 16 + 8) false && decide (tget s.ev.pace (g * 16 + 8) 0 ≤ s.now)
    forEach ((nums 0 16).filter due) s fun s g => deliverTo s g 8

def execUmpireRestartDone (s : State) : Host.Outcome State Fault Refusal := .next (doUmpireRestartDone s)

end Sys2Proof.Machine
end

