-- ==== Sys2Proof/Machine/Upgrade.lean ====
section
/-!
DEFINITION. Firmware images: loading, verification, activation, trial and the SVN floor (13 R361 to R368).
-/
namespace Sys2Proof.Machine

/-- An image slot; one that no load has touched holds the image it was shipped with, whose bytes the model does not have. -/
def imageOf (s : State) (slot : Nat) : ImageSlot := tget s.images slot { written := 512 }
def setImage (s : State) (slot : Nat) (i : ImageSlot) : State := { s with images := tset s.images slot i }

/-- Every block the slot counts as written is held by the model; otherwise its bytes were written before the first reset. -/
def ImageSlot.known (i : ImageSlot) : Bool := decide (i.written ≤ i.blocks.length)

/-- UPG_LOAD_BEGIN (R362): refused while an image is in trial; the inactive slot is invalid from this beat. -/
def actLoadBegin (_ _ : Nat) (s : State) : Nat × State :=
  if rd s R.UPG_STATE = 2 then (5, s)
  else
    let i := inactiveSlot s
    let s := wri (wr s R.UPG_LOAD_STATUS 1) R.UPG_IMAGE_STATE i 1
    let s := wri (wri (wri s R.UPG_IMAGE_VERSION i 0) R.UPG_IMAGE_SVN i 0) R.UPG_IMAGE_CAP i 0
    (0, setImage s i {})

def doUpgLoadBegin (a : Access) (s : State) : State := accessWrite a 0xA810 0 actLoadBegin s
def execUpgLoadBegin (a : Access) (s : State) : Host.Outcome State Fault Refusal := .next (doUpgLoadBegin a s)

/-- UPG_LOAD_DATA (R362): refused with no UPG_LOAD_BEGIN since the slot was last verified or rejected; else the block is stored
and the offset advances. -/
def actLoadData (block : BitVec 32768) (_ _ : Nat) (s : State) : Nat × State :=
  let i := inactiveSlot s
  let o := rd s R.UPG_LOAD_OFFSET
  if rdi s R.UPG_IMAGE_STATE i ≠ 1 then (5, s)
  else
    let blocks := tset (imageOf s i).blocks o block
    (0, wr (setImage s i { imageOf s i with blocks := blocks, written := blocks.length }) R.UPG_LOAD_OFFSET ((o + 1) % 512))

def doUpgLoadData (a : Access) (block : BitVec 32768) (s : State) : State := accessWrite a 0xA810 2 (actLoadData block) s
def execUpgLoadData (a : Access) (block : BitVec 32768) (s : State) : Host.Outcome State Fault Refusal :=
  .next (doUpgLoadData a block s)

/-- UPG_VERIFY (R362, R363): the check of the inactive slot begins. -/
def actVerify (_ _ : Nat) (s : State) : Nat × State :=
  (0, wr { s with ump := { s.ump with verifying := inactiveSlot s } } R.UPG_LOAD_STATUS 2)

def doUpgVerify (a : Access) (s : State) : State := accessWrite a 0xA810 3 actVerify s
def execUpgVerify (a : Access) (s : State) : Host.Outcome State Fault Refusal := .next (doUpgVerify a s)

/-- Bytes `[k+n-1:k]` of an image's first block, as a little-endian number (Table UPG-1). -/
def headerField (i : ImageSlot) (k n : Nat) : Nat := field (tget i.blocks 0 0).toNat (8 * k) (8 * n)

/-- Checks 4 to 7 of R363, on the header as stored: the code of the first that fails, 0 when all pass. The body must lie in the
blocks written. -/
def headerCheck (s : State) (i : ImageSlot) : Nat :=
  let cap := headerField i 20 1
  let variants := headerField i 23 1
  let blocks := (512 + headerField i 16 4 + 4095) / 4096
  if headerField i 0 4 ≠ 0x504C5946 || headerField i 4 4 ≠ 1 || (cap ≠ 2 && cap ≠ 3) || variants ≥ 4 ||
      headerField i 72 344 ≠ 0 then 4
  else if 512 < blocks || !(nums 0 (min blocks 512)).all fun b => (tget? i.blocks b).isSome then 5
  else if !bitOf variants (if s.ply16 then 1 else 0) then 6
  else if headerField i 21 1 ≠ 3 then 7 else 0

/-- R363 in order: 0, or the code of the first check that fails. A slot whose bytes were written before the first reset keeps the
header fields its first verification found. -/
def imageCheck (s : State) (slot : Nat) (v : ImageCheck) : Nat :=
  let i := imageOf s slot
  let head := if i.known then headerCheck s i else 0
  let svn := if i.known then headerField i 12 4 else rdi s R.UPG_IMAGE_SVN slot
  if head ≠ 0 then head
  else if !v.digestOk then 8
  else if !v.signatureOk then 9
  else if svn < rd s R.UPG_SVN_FLOOR then 10 else 0

/-- UPG_VERIFY_DONE (R363): the slot that was inactive at UPG_VERIFY has been checked. -/
def doUpgVerifyDone (v : ImageCheck) (s : State) : State :=
  if rd s R.UPG_LOAD_STATUS ≠ 2 || !mgmtUp s then s
  else
    let slot := s.ump.verifying
    let i := imageOf s slot
    let code := imageCheck s slot v
    if code ≠ 0 then wri (wr s R.UPG_LOAD_STATUS code) R.UPG_IMAGE_STATE slot 4
    else
      let s := wri (wr s R.UPG_LOAD_STATUS 3) R.UPG_IMAGE_STATE slot 2
      if i.known then
        let s := wri (wri s R.UPG_IMAGE_VERSION slot (headerField i 8 4)) R.UPG_IMAGE_SVN slot (headerField i 12 4)
        setImage (wri s R.UPG_IMAGE_CAP slot (headerField i 20 1)) slot { i with minor := headerField i 22 1 }
      else s

def execUpgVerifyDone (v : ImageCheck) (s : State) : Host.Outcome State Fault Refusal := .next (doUpgVerifyDone v s)

/-- Checks of R364 in order: 0, or the status of the first that fails. Halted umpires (UPG_STATE 3) may be brought back by an
activation (16 R414). -/
def activateStatus (s : State) : Nat :=
  let i := inactiveSlot s
  let cap := rdi s R.UPG_IMAGE_CAP i
  if rdi s R.UPG_IMAGE_STATE i ≠ 2 then 3
  else if rd s R.UPG_STATE = 1 || rd s R.UPG_STATE = 2 || s.sleep.entry.isSome || s.sleep.exit.isSome then 5
  else if (nums 0 16).any fun c => cap < rdi s R.HOM_CELL_REVISION c ||
      (rdi s R.HOM_CELL_EPOCH_STATUS c = 1 && cap < rdi s R.HOM_CELL_EPOCH_REV c) then 3
  else 0

/-- The inactive image becomes active and the umpires restart with cause 3 (R364). -/
def activate (s : State) : State :=
  let s := wr (bump s R.UPG_ACTIVATIONS) R.UPG_ACTIVE_SLOT (inactiveSlot s)
  restartUmpires (wr s R.UPG_STATE 1) 3

def actActivate (_ _ : Nat) (s : State) : Nat × State :=
  let st := activateStatus s
  if st ≠ 0 then (st, s) else (0, activate s)

def doUpgActivate (a : Access) (s : State) : State := accessWrite a 0xA811 0 actActivate s
def execUpgActivate (a : Access) (s : State) : Host.Outcome State Fault Refusal := .next (doUpgActivate a s)

/-- UPG_COMMIT (R367): refused outside a trial. -/
def actCommit (_ _ : Nat) (s : State) : Nat × State :=
  if rd s R.UPG_STATE = 2 then (0, wr s R.UPG_STATE 0) else (5, s)

def doUpgCommit (a : Access) (s : State) : State := accessWrite a 0xA811 1 actCommit s
def execUpgCommit (a : Access) (s : State) : Host.Outcome State Fault Refusal := .next (doUpgCommit a s)

/-- UPG_ROLLBACK: ends a trial (R366), or activates the previous image through the checks of R364 (R367). -/
def actRollback (_ _ : Nat) (s : State) : Nat × State :=
  if rd s R.UPG_STATE = 2 then (0, restartUmpires (rollBack s 4) 3) else actActivate 0 1 s

def doUpgRollback (a : Access) (s : State) : State := accessWrite a 0xA811 2 actRollback s
def execUpgRollback (a : Access) (s : State) : Host.Outcome State Fault Refusal := .next (doUpgRollback a s)

/-- UPG_TRIAL_LEFT, s. -/
def trialLeft (s : State) : Nat :=
  if rd s R.UPG_STATE = 2 then rd s R.UPG_TRIAL_PERIOD - (s.now - s.ump.trialFrom) / 1000000000 else 0

/-- TRIAL_PERIOD_EXPIRY (R366). -/
def doTrialPeriodExpiry (s : State) : State :=
  if rd s R.UPG_STATE = 2 && mgmtUp s && trialLeft s = 0 then restartUmpires (rollBack s 1) 3 else s

def execTrialPeriodExpiry (s : State) : Host.Outcome State Fault Refusal := .next (doTrialPeriodExpiry s)

/-- UPG_SVN_FLOOR (R367): it only rises, to at most the active image's SVN; an inactive image below it is invalid. -/
def actSvnFloor (_ v : Nat) (s : State) : Nat × State :=
  if v < rd s R.UPG_SVN_FLOOR || rdi s R.UPG_IMAGE_SVN (rd s R.UPG_ACTIVE_SLOT) < v then (3, s)
  else
    let i := inactiveSlot s
    let s := wr s R.UPG_SVN_FLOOR v
    let k := rdi s R.UPG_IMAGE_STATE i
    (0, if (k = 2 || k = 3) && rdi s R.UPG_IMAGE_SVN i < v then wri s R.UPG_IMAGE_STATE i 4 else s)

def doUpgSvnFloor (a : Access) (s : State) : State := accessWrite a 0xA800 4 actSvnFloor s
def execUpgSvnFloor (a : Access) (s : State) : Host.Outcome State Fault Refusal := .next (doUpgSvnFloor a s)

end Sys2Proof.Machine
end

