-- ==== Sys2Proof/Machine/Attest.lean ====
section
/-!
DEFINITION. The umpires' MCTP control and SPDM services, and measurements (12 R333, R336, R352, R355 to R358). PRESUMED, log
entry 14: byte layouts, codes and completion codes that the spec leaves to the DMTF specifications are those of MCTP base 1.3
and SPDM 1.2.
-/
namespace Sys2Proof.Machine

/-- The umpires run, so control and SPDM messages are served. -/
def umpiresUp (s : State) : Bool := mgmtUp s && umpiresServe s

/-- A message is discarded and counted. -/
def discardMsg (s : State) : State := bump s R.MGT_SB_DISCARDS

/-- MCTP control is served while the umpires run; else the message is discarded (R352). -/
def served (s : State) (f : State → State) : State :=
  if !mgmtUp s then s else if umpiresUp s then f s else discardMsg s

/-- A control response: header byte 0 (type 0x00), the request's instance, its command and the completion code. -/
def mctpAnswer (s : State) (dst inst cmd cc : Nat) (data : List Nat) : State :=
  sendMctp s dst ([0, inst % 32, cmd, cc] ++ data)

/-- Set Endpoint ID with operation `op` (0 set, 1 force; others are not offered): an EID from 8 to 254 is taken, and the first
accepted since block reset names the manager where none is set (Table MGT-6, R336). -/
def ctlSetEid (inst source op eid : Nat) (s : State) : State :=
  if 1 < op || eid < 8 || 254 < eid then mctpAnswer s source inst 1 2 []
  else
    let first := !s.side.setSeen
    let s := wr { s with side := { s.side with setSeen := true } } R.MGT_EID eid
    let s := if first && rd s R.MGT_MANAGER_EID = 0 then wr s R.MGT_MANAGER_EID source else s
    mctpAnswer s source inst 1 0 [0, eid, 0]

def ctlGetEid (inst source : Nat) (s : State) : State := mctpAnswer s source inst 2 0 [rd s R.MGT_EID, 0, 0]

/-- Version entries by message type: base and control 1.3, SPDM and vendor-defined 1.0 (Table MGT-6). -/
def ctlGetVersion (inst source ty : Nat) (s : State) : State :=
  if ty = 0xFF || ty = 0 then mctpAnswer s source inst 4 0 [1, 0xF1, 0xF3, 0xFF, 0]
  else if ty = 5 || ty = 0x7F then mctpAnswer s source inst 4 0 [1, 0xF1, 0xF0, 0xFF, 0]
  else mctpAnswer s source inst 4 0x80 [0]

def ctlGetTypes (inst source : Nat) (s : State) : State := mctpAnswer s source inst 5 0 [2, 5, 0x7F]

def ctlGetVendor (inst source selector : Nat) (s : State) : State :=
  if selector = 0 then mctpAnswer s source inst 6 0 ([0xFF, 1] ++ bytesBE (rd s R.MGT_IANA_PEN) 4 ++ [0, 3])
  else mctpAnswer s source inst 6 2 []

/-- Any other command (R333). -/
def ctlOther (inst source code : Nat) (s : State) : State := mctpAnswer s source inst code 5 []

def doSetEndpointId (source eid : Nat) (s : State) : State := served s (ctlSetEid 0 source 0 eid)
def execSetEndpointId (source eid : Nat) (s : State) : Host.Outcome State Fault Refusal := .next (doSetEndpointId source eid s)

def doGetEndpointId (source : Nat) (s : State) : State := served s (ctlGetEid 0 source)
def execGetEndpointId (source : Nat) (s : State) : Host.Outcome State Fault Refusal := .next (doGetEndpointId source s)

def doGetMctpVersionSupport (source msgType : Nat) (s : State) : State := served s (ctlGetVersion 0 source msgType)
def execGetMctpVersionSupport (source msgType : Nat) (s : State) : Host.Outcome State Fault Refusal :=
  .next (doGetMctpVersionSupport source msgType s)

def doGetMessageTypeSupport (source : Nat) (s : State) : State := served s (ctlGetTypes 0 source)
def execGetMessageTypeSupport (source : Nat) (s : State) : Host.Outcome State Fault Refusal :=
  .next (doGetMessageTypeSupport source s)

def doGetVendorDefinedMessageSupport (source selector : Nat) (s : State) : State := served s (ctlGetVendor 0 source selector)
def execGetVendorDefinedMessageSupport (source selector : Nat) (s : State) : Host.Outcome State Fault Refusal :=
  .next (doGetVendorDefinedMessageSupport source selector s)

def doUnsupportedMctpCommand (source code : Nat) (s : State) : State := served s (ctlOther 0 source code)
def execUnsupportedMctpCommand (source code : Nat) (s : State) : Host.Outcome State Fault Refusal :=
  .next (doUnsupportedMctpCommand source code s)

/-- A digest's bytes, and the digest of the slot 0 chain (R356). -/
def digest (b : List Nat) : List Nat := bytesBE (Config.sha384 b).toNat 48
def certDigest : List Nat := digest Config.certChain

/-- The stored image of a slot: header and body. -/
def storedImage (s : State) (slot : Nat) : List Nat :=
  let i := imageOf s slot
  if i.known then
    ((nums 0 512).flatMap fun b => bytesLE (tget i.blocks b 0).toNat 4096).take (512 + headerField i 16 4)
  else Config.imageBytes slot

/-- Fuse words of the variant, the test lock and the valid bits of repair words 0x100 to 0x7FF in address order. -/
def fuseMeasured (s : State) : List Nat :=
  bytesLE (rd s R.BLK_VARIANT) 4 ++ bytesLE (if s.fuses.testLocked then 1 else 0) 4 ++
    (nums 0x100 0x700).map fun a => tget s.fuses.repair a 0 / 2 ^ 31 % 2

/-- The inputs of index 4 in the order Table MGT-13 gives. -/
def configMeasured (s : State) : List Nat :=
  (nums 0 1024).flatMap (fun r =>
    bytesLE (rdi s R.MAP_ACT_POOL_BASE r) 8 ++ bytesLE (rdi s R.MAP_ACT_ROW_BASE r) 2 ++
      bytesLE (rdi s R.MAP_ACT_ROWS r) 2 ++ bytesLE (rdi s R.MAP_ACT_CTRL r) 4) ++
  (nums 0 8).flatMap (fun n => bytesLE (rdi s R.LNK_PORT_FUNCTIONS n) 4) ++
  bytesLE (rd s R.HOM_FUN_COHERENT) 4 ++
  (nums 0 64).flatMap (fun ch => bytesLE (rdi s R.MGT_MBX_BIND ch) 2) ++
  [rd s R.MGT_MBX_TABLE_LOCKED, rd s R.MGT_DICT_LOCKED]

/-- Measurement `i` of Table MGT-13, 1 to 4. -/
def measurement (s : State) (i : Nat) : List Nat :=
  if i = 1 then digest (storedImage s (rd s R.UPG_ACTIVE_SLOT))
  else if i = 2 then
    (if rdi s R.UPG_IMAGE_STATE (inactiveSlot s) = 2 then digest (storedImage s (inactiveSlot s)) else List.replicate 48 0)
  else if i = 3 then digest (fuseMeasured s)
  else digest (configMeasured s)

/-- A DMTF measurement block. -/
def measurementBlock (s : State) (i : Nat) : List Nat :=
  [i, 1] ++ bytesLE 51 2 ++ [([1, 1, 2, 3] : List Nat).getD (i - 1) 0] ++ bytesLE 48 2 ++ measurement s i

/-- An SPDM message, and an ERROR with its code and data (R356). -/
def spdmSend (s : State) (dst : Nat) (msg : List Nat) : State := sendMctp s dst ([5] ++ msg)
def spdmError (s : State) (dst code data : Nat) : State :=
  spdmSend (bump s R.MGT_SPDM_ERRORS) dst [0x12, 0x7F, code, data]
def errInvalid : Nat := 1
def errBusy : Nat := 3
def errUnexpected : Nat := 4
def errUnspecified : Nat := 5
def errUnsupported : Nat := 7

/-- SPDM answers the manager's and the observers' EIDs; others' messages are discarded. A request during a signing draws Busy. -/
def spdmFrom (source : Nat) (s : State) (f : State → State) : State :=
  served s fun s =>
    if masterOf s (.sideband source) = 0 then discardMsg s
    else if s.ump.signing.isSome then spdmError s source errBusy 0
    else f s

/-- A request other than GET_VERSION: from the EID holding the connection, and no earlier than SPDM 1.2's order allows (R356,
R357). -/
def spdmOrdered (source least most : Nat) (s : State) (f : State → State) : State :=
  spdmFrom source s fun s =>
    if rd s R.MGT_SPDM_REQUESTER ≠ source || s.ump.spdm < least || most < s.ump.spdm then spdmError s source errUnexpected 0
    else f s

/-- GET_VERSION: the connection is reset and its sender holds it (R357). -/
def spdmVersion (source : Nat) (s : State) : State :=
  spdmFrom source s fun s =>
    let s := wr { s with ump := { s.ump with spdm := 1 } } R.MGT_SPDM_REQUESTER source
    spdmSend s source [0x10, 4, 0, 0, 0, 1, 0, 0x12]

def doGetVersion (source : Nat) (s : State) : State := spdmVersion source s
def execGetVersion (source : Nat) (s : State) : Host.Outcome State Fault Refusal := .next (doGetVersion source s)

/-- GET_CAPABILITIES: CERT_CAP, CHAL_CAP, MEAS_CAP with signatures; CTExponent 16; both sizes 4,096. -/
def doGetCapabilities (source : Nat) (s : State) : State :=
  spdmOrdered source 1 1 s fun s =>
    spdmSend { s with ump := { s.ump with spdm := 2 } } source
      ([0x12, 0x61, 0, 0, 0, 16, 0, 0] ++ bytesLE 0x16 4 ++ bytesLE 4096 4 ++ bytesLE 4096 4)
def execGetCapabilities (source : Nat) (s : State) : Host.Outcome State Fault Refusal := .next (doGetCapabilities source s)

/-- NEGOTIATE_ALGORITHMS: ECDSA P-384, SHA-384, SHA-384 measurements of the DMTF specification, or ERROR. -/
def doNegotiateAlgorithms (source : Nat) (offersAll : Bool) (s : State) : State :=
  spdmOrdered source 2 2 s fun s =>
    if !offersAll then spdmError s source errInvalid 0
    else spdmSend { s with ump := { s.ump with spdm := 3 } } source
      ([0x12, 0x63, 0, 0] ++ bytesLE 36 2 ++ [1, 0] ++ bytesLE 4 4 ++ bytesLE 0x80 4 ++ bytesLE 2 4 ++ List.replicate 16 0)
def execNegotiateAlgorithms (source : Nat) (offersAll : Bool) (s : State) : Host.Outcome State Fault Refusal :=
  .next (doNegotiateAlgorithms source offersAll s)

/-- GET_DIGESTS: slot 0's chain digest, or no slot where the identity check failed (R355). -/
def doGetDigests (source : Nat) (s : State) : State :=
  spdmOrdered source 3 3 s fun s =>
    if s.ump.certOk then spdmSend s source ([0x12, 1, 0, 1] ++ certDigest) else spdmSend s source [0x12, 1, 0, 0]
def execGetDigests (source : Nat) (s : State) : Host.Outcome State Fault Refusal := .next (doGetDigests source s)

/-- GET_CERTIFICATE: bytes of the chain from `offset`, at most `length` and at most a 4,096-byte message. -/
def doGetCertificate (source slot offset length : Nat) (s : State) : State :=
  spdmOrdered source 3 3 s fun s =>
    let total := Config.certChain.length
    if slot ≠ 0 || !s.ump.certOk || total ≤ offset then spdmError s source errInvalid 0
    else
      let part := (Config.certChain.drop offset).take (min length 4088)
      spdmSend s source ([0x12, 2, 0, 0] ++ bytesLE part.length 2 ++ bytesLE (total - offset - part.length) 2 ++ part)
def execGetCertificate (source slot offset length : Nat) (s : State) : Host.Outcome State Fault Refusal :=
  .next (doGetCertificate source slot offset length s)

/-- CHALLENGE: a signing starts; slot 0, summary none (0), TCB (1) or all (0xFF). With a failed identity it draws an error
(R355). -/
def doChallenge (source slot summary nonce : Nat) (s : State) : State :=
  spdmOrdered source 3 3 s fun s =>
    if !s.ump.certOk then spdmError s source errUnspecified 0
    else if slot ≠ 0 || !(summary = 0 || summary = 1 || summary = 0xFF) then spdmError s source errInvalid 0
    else { s with ump := { s.ump with signing := some (.challenge source slot summary nonce) } }
def execChallenge (source slot summary nonce : Nat) (s : State) : Host.Outcome State Fault Refusal :=
  .next (doChallenge source slot summary nonce s)

/-- Blocks of a GET_MEASUREMENTS operation: 0 none (the count), 0xFF all, else one. -/
def measuredBlocks (index : Nat) : List Nat := if index = 0 then [] else if index = 0xFF then [1, 2, 3, 4] else [index]

/-- A nonce of the random source. -/
def takeNonce (s : State) : List Nat × State :=
  (bytesBE (Config.nonce s.ump.nonceNo).toNat 32, { s with ump := { s.ump with nonceNo := s.ump.nonceNo + 1 } })

/-- MEASUREMENTS up to its signature. -/
def measurementsMsg (s : State) (index : Nat) (nonce : List Nat) : List Nat :=
  let record := (measuredBlocks index).flatMap (measurementBlock s)
  [0x12, 0x60, if index = 0 then 4 else 0, 0, (measuredBlocks index).length] ++ bytesLE record.length 3 ++ record ++ nonce ++ [0, 0]

/-- GET_MEASUREMENTS (R358). -/
def doGetMeasurements (source index : Nat) (signed : Bool) (nonce : Nat) (s : State) : State :=
  spdmOrdered source 3 3 s fun s =>
    if 4 < index && index ≠ 0xFF then spdmError s source errInvalid 0
    else if signed then { s with ump := { s.ump with signing := some (.measurements source index nonce) } }
    else
      let (n, s) := takeNonce s
      spdmSend s source (measurementsMsg s index n)
def execGetMeasurements (source index : Nat) (signed : Bool) (nonce : Nat) (s : State) : Host.Outcome State Fault Refusal :=
  .next (doGetMeasurements source index signed nonce s)

/-- Measurement summary hash: none, of the TCB's measurements (the spec does not name them: a free value), or of all. -/
def summaryHash (summary : Nat) (s : State) : List Nat × State :=
  if summary = 0 then ([], s)
  else if summary = 1 then
    let (n, s) := takeFree s
    (bytesBE ((Config.freeValue n).toNat % 2 ^ 384) 48, s)
  else (digest ([1, 2, 3, 4].flatMap (measurementBlock s)), s)

/-- A signature over a message and the requester's nonce; the free number stands for what else of the connection it covers and
for the signature's own randomness. -/
def sign (msg : List Nat) (nonce : Nat) (s : State) : List Nat × State :=
  let (n, s) := takeFree s
  (bytesBE (Config.signature (n :: nonce :: msg)).toNat 96, s)

/-- SPDM_SIGNING_DONE: the signed response is sent (R356). -/
def doSpdmSigningDone (s : State) : State :=
  if !umpiresUp s then s else
  match s.ump.signing with
  | none => s
  | some (.challenge source slot summary rn) =>
    let (n, s) := takeNonce { s with ump := { s.ump with signing := none } }
    let (h, s) := summaryHash summary s
    let msg := [0x12, 3, slot, 1] ++ certDigest ++ n ++ h ++ [0, 0]
    let (g, s) := sign msg rn s
    spdmSend s source (msg ++ g)
  | some (.measurements source index rn) =>
    let (n, s) := takeNonce { s with ump := { s.ump with signing := none } }
    let msg := measurementsMsg s index n
    let (g, s) := sign msg rn s
    spdmSend s source (msg ++ g)
def execSpdmSigningDone (s : State) : Host.Outcome State Fault Refusal := .next (doSpdmSigningDone s)

/-- Any other request code (R356). -/
def doUnsupportedSpdmRequest (source code : Nat) (s : State) : State :=
  spdmFrom source s fun s =>
    if rd s R.MGT_SPDM_REQUESTER ≠ source then spdmError s source errUnexpected 0
    else spdmError s source errUnsupported code
def execUnsupportedSpdmRequest (source code : Nat) (s : State) : Host.Outcome State Fault Refusal :=
  .next (doUnsupportedSpdmRequest source code s)

/-- SB_TIME_VALUE (R334): as a TIME_NEXT of 03 R80. -/
def doSbTimeValue (_eid value : Nat) (s : State) : State := if mgmtUp s then nameEdge s (value % 2 ^ 64) else s
def execSbTimeValue (eid value : Nat) (s : State) : Host.Outcome State Fault Refusal := .next (doSbTimeValue eid value s)

end Sys2Proof.Machine
end

