-- ==== Sys2Proof/Machine/Faults.lean ====
section
/-!
DEFINITION. The event groups' registers, fault recovery and delivery (14 R380 to R384), the commanded block reset (14 R388),
function resets (14 R390, R391) and the ledger (14 R394).
-/
namespace Sys2Proof.Machine

/-- Group `g`'s status becomes `v`. -/
def setStatus (s : State) (g v : Nat) : State := { s with ev := { s.ev with status := tset s.ev.status g v } }

/-- FLT_GRP_STATUS: writing 1 clears a bit; the group settles when the last enabled fault bit goes (R384, Table FLT-4). -/
def actGrpStatus (g : Nat) (_ v : Nat) (s : State) : Nat × State :=
  let t := setStatus s g (grpStatus s g - (grpStatus s g &&& v))
  (0, if (grpStatus s g &&& grpEnable s g &&& rdi s R.FLT_GRP_FAULT_MASK g) = 0 then t else settleFault t g)

def doFltGrpStatus (a : Access) (group : Nat) (s : State) : State :=
  accessWrite a (0xB000 + group % 16) 0 (actGrpStatus (group % 16)) s
def execFltGrpStatus (a : Access) (group : Nat) (s : State) : Host.Outcome State Fault Refusal := .next (doFltGrpStatus a group s)

/-- FLT_GRP_ENABLE: newly enabled sources whose status is set count as raised on this beat, in the order of 11 R316 (R380). -/
def actGrpEnable (g : Nat) (_ v : Nat) (s : State) : Nat × State :=
  let v := v &&& definedMask g
  let fresh := (grpStatus s g &&& v) - (grpStatus s g &&& v &&& grpEnable s g)
  let s := wri s R.FLT_GRP_ENABLE g v
  let l := byPrecedence ((bitsSet fresh 32).map fun i => (g, i, 0, 0))
  let s := forEach l s fun s (_, i, _, _) =>
    let (det, forced) := tget s.ev.detail (g * 32 + i) (0, false)
    enabledEffects s g i det forced
  (0, if fresh = 0 then s else deliver s g)

def doFltGrpEnable (a : Access) (group : Nat) (s : State) : State :=
  accessWrite a (0xB000 + group % 16) 1 (actGrpEnable (group % 16)) s
def execFltGrpEnable (a : Access) (group : Nat) (s : State) : Host.Outcome State Fault Refusal := .next (doFltGrpEnable a group s)

/-- FLT_GRP_FORCE: the sources are raised on the next beat (R382). -/
def actGrpForce (g : Nat) (_ v : Nat) (s : State) : Nat × State :=
  (0, { s with ev := { s.ev with forces := tput s.ev.forces g (tget s.ev.forces g 0 ||| (v &&& definedMask g)) 0 } })

def doFltGrpForce (a : Access) (group : Nat) (s : State) : State :=
  accessWrite a (0xB000 + group % 16) 2 (actGrpForce (group % 16)) s
def execFltGrpForce (a : Access) (group : Nat) (s : State) : Host.Outcome State Fault Refusal := .next (doFltGrpForce a group s)

/-- FLT_GRP_LATCH_CLEAR: latch, time and detail (R381). -/
def actLatchClear (g : Nat) (_ _ : Nat) (s : State) : Nat × State :=
  (0, { s with ev := { s.ev with
    first := tdel s.ev.first g, firstTime := tdel s.ev.firstTime g, firstDetail := tdel s.ev.firstDetail g } })

def doFltGrpLatchClear (a : Access) (group : Nat) (s : State) : State :=
  accessWrite a (0xB000 + group % 16) 6 (actLatchClear (group % 16)) s
def execFltGrpLatchClear (a : Access) (group : Nat) (s : State) : Host.Outcome State Fault Refusal :=
  .next (doFltGrpLatchClear a group s)

/-- FLT_GRP_QUIET: in the fault state the timer restarts at the new value; 0 stops it (Table FLT-4). -/
def actGrpQuiet (g : Nat) (_ v : Nat) (s : State) : Nat × State :=
  let s := wri s R.FLT_GRP_QUIET g v
  (0, { s with ev := { s.ev with
    quiet := putBit s.ev.quiet g (bitOf s.ev.fault g && v ≠ 0), quietFrom := tset s.ev.quietFrom g (countedNs s) } })

def doFltGrpQuiet (a : Access) (group : Nat) (s : State) : State :=
  accessWrite a (0xB000 + group % 16) 9 (actGrpQuiet (group % 16)) s
def execFltGrpQuiet (a : Access) (group : Nat) (s : State) : Host.Outcome State Fault Refusal := .next (doFltGrpQuiet a group s)

/-- The quiet timer of `group` runs and its FLT_GRP_QUIET, in ms, has passed since its start (R384). -/
def quietOver (s : State) (group : Nat) : Bool :=
  bitOf s.ev.fault group && bitOf s.ev.quiet group &&
    decide (tget s.ev.quietFrom group 0 + rdi s R.FLT_GRP_QUIET group * 1000000 ≤ elapsedNs s)

/-- QUIET_TIMER_EXPIRY: recovery (Table FLT-4). -/
def doQuietTimerExpiry (group : Nat) (s : State) : State :=
  if !quietOver s group then s
  else
    let m := rdi s R.FLT_GRP_FAULT_MASK group
    let s := setStatus s group (grpStatus s group - (grpStatus s group &&& m))
    let s := { s with ev := { s.ev with fault := putBit s.ev.fault group false, quiet := putBit s.ev.quiet group false } }
    raiseEv (bumpi s R.FLT_GRP_RECOVERIES group) 11 4 group 0
def execQuietTimerExpiry (group : Nat) (s : State) : Host.Outcome State Fault Refusal := .next (doQuietTimerExpiry group s)

/-- EVENT_MESSAGE_SEND: what waits for the end of a pacing microsecond leaves, where its destination is still there (R383). -/
def doEventMessageSend (group : Nat) (s : State) : State :=
  if !mgmtUp s then s else
    let due := (destinations s group).filter fun d =>
      tget s.ev.waiting (group * 16 + d) false && decide (tget s.ev.pace (group * 16 + d) 0 ≤ s.now) && (d ≠ 8 || umpiresServe s)
    forEach due s fun s d => deliverTo s group d
def execEventMessageSend (group : Nat) (s : State) : Host.Outcome State Fault Refusal := .next (doEventMessageSend group s)

/-- FLT_BLOCK_RESET. -/
def doFltBlockReset (a : Access) (s : State) : State := accessWrite a 0xB400 0 actBlockReset s
def execFltBlockReset (a : Access) (s : State) : Host.Outcome State Fault Refusal := .next (doFltBlockReset a s)

/-- FUN_RESET: answered; the reset begins on the next beat (R390). -/
def actFunReset (f : Nat) (_ _ : Nat) (s : State) : Nat × State :=
  if (tget? s.funs f).isSome then (5, s) else (0, { s with funs := tset s.funs f ⟨0, false, false, s.now⟩ })

def doFunReset (a : Access) (fn : Nat) (s : State) : State := accessWrite a (0xE000 + fn % 16) 0 (actFunReset (fn % 16)) s
def execFunReset (a : Access) (fn : Nat) (s : State) : Host.Outcome State Fault Refusal := .next (doFunReset a fn s)

/-- A request that has not been dispatched is answered FUNCTION_RESET: not executed, without charge (R390). -/
def answerReset (s : State) (uid : Nat) : State :=
  match flightOf s uid with
  | none => s
  | some f =>
    let s := unqueue (modSleep s fun z => { z with queue := z.queue.erase uid }) uid
    decide' (freeCredits s f) uid (errRsp 7 0) 0

/-- Requests of `fn` that stand at `st`. -/
def requestsAt (s : State) (fn : Nat) (st : Stage) : List Nat :=
  (s.flights.filter fun (_, f) => f.h.fn = fn && f.stage = st).map (·.1)

/-- The start beat of a function reset (R390): the ledger records, the replay queue and, in mode 0, the leaves' queues are
answered, cells fall, waits for CMP_ACK end, and an entry is abandoned. -/
def beginFunReset (s : State) (fn : Nat) : State :=
  let mode := rdi s R.FUN_RESET_MODE fn
  let s := ledgerBegin s fn 1 0 fun _ => true
  let s := { s with funs := tset s.funs fn ⟨mode, mode = 1, true, s.now⟩ }
  let s := raiseEv (wri s R.FUN_RESET_STATE fn 1) 11 3 0 (ident 3 fn)
  let s := abortEntry s (ident 3 fn)
  let s := ungate (ungate s unitTree) unitHome
  let s := forEach (requestsAt s fn .replay) s answerReset
  let s := if mode = 0 then forEach (requestsAt s fn .queued) s answerReset else s
  let s := fallCellsOf s (s.agents.filter fun (_, a) => a.fn = fn) 6
  watchMasters (endAcks s fun f => f.h.fn = fn)

/-- Function resets written since the last beat begin, by function (11 R316). -/
def beginFunResets (s : State) : State :=
  forEach ((s.funs.filter fun (_, f) => !f.started).map (·.1)) s beginFunReset

/-- FUN_RESET_DRAIN_LIMIT_EXPIRY: what is left in the queues is answered FUNCTION_RESET (R390). -/
def doFunResetDrainLimitExpiry (fn : Nat) (s : State) : State :=
  match tget? s.funs fn with
  | none => s
  | some r =>
    if !(r.started && r.draining && decide (r.from_ + rdi s R.FUN_RESET_DRAIN_LIMIT fn * 1000 ≤ s.now)) then s
    else forEach (requestsAt s fn .queued) { s with funs := tset s.funs fn { r with draining := false } } answerReset
def execFunResetDrainLimitExpiry (fn : Nat) (s : State) : Host.Outcome State Fault Refusal :=
  .next (doFunResetDrainLimitExpiry fn s)

/-- No request of `fn` is queued or outstanding, and no cell of an agent of `fn` falls (R391). -/
def funSettled (s : State) (fn : Nat) : Bool :=
  !(s.flights.any fun (_, f) => f.h.fn = fn && f.stage ≠ .done) &&
    !(s.agents.any fun (_, a) => a.fn = fn && rdi s R.HOM_CELL_STATE a.cell = 1)

/-- The reset of `fn` is complete: agents, locks, sleep flag and entries (R391). -/
def endFunReset (s : State) (fn : Nat) : State :=
  let s := forEach ((s.agents.filter fun (_, a) => a.fn = fn).map (·.1)) s removeAgent
  let s := { s with
    mbx := s.mbx.map fun (ch, b) => (ch, if b.lock = fn + 1 then { b with lock := 0 } else b)
    funs := tdel s.funs fn }
  let s := wri (wri s R.MGT_MASTER_SLEEP (fn + 1) 0) R.FUN_RESET_STATE fn 0
  raiseEv (watchMasters (bumpi s R.FUN_RESETS fn)) 14 fn 0 (ident 3 fn)

/-- FUN_RESET_COMPLETE (R391). -/
def doFunResetComplete (fn : Nat) (s : State) : State :=
  if inReset s fn && funSettled s fn then endFunReset s fn else s
def execFunResetComplete (fn : Nat) (s : State) : Host.Outcome State Fault Refusal := .next (doFunResetComplete fn s)

/-- FUN_LEDGER_CLEAR: refused during a reset (Table FLT-6). -/
def actLedgerClear (fn : Nat) (_ _ : Nat) (s : State) : Nat × State :=
  if (tget? s.funs fn).isSome || ledgerBusy s fn then (5, s) else (0, clearLedger s fn)

def doFunLedgerClear (a : Access) (fn : Nat) (s : State) : State :=
  accessWrite a (0xE000 + fn % 16) 10 (actLedgerClear (fn % 16)) s
def execFunLedgerClear (a : Access) (fn : Nat) (s : State) : Host.Outcome State Fault Refusal := .next (doFunLedgerClear a fn s)

end Sys2Proof.Machine
end

