-- ==== Sys2Proof/Machine/Observe.lean ====
section
/-!
DEFINITION. Observation commands: counters, captures, the ring, the trace port (15 R396 to R410), and the commands that clear an
area's counts.
-/
namespace Sys2Proof.Machine

/-- COUNTER_OVERFLOW: the counter passes 2^48 − 1 (R397). Counter 8 counts whenever the unit's clock runs; a programmable one
while enabled. -/
def doCounterOverflow (unit counter : Nat) (s : State) : State :=
  let counts := counter = 8 || (counter < 8 && bitOf (obsCtrl s unit counter) 31)
  if 52 ≤ unit || (s.ply16 && unitAbsent16 unit) || !counts || s.obs.frozen || !mgmtUp s then s
  else takeWrapped (obsBump s unit 9 counter (2 ^ 48 - obsVal s unit counter))

def execCounterOverflow (unit counter : Nat) (s : State) : Host.Outcome State Fault Refusal :=
  .next (doCounterOverflow unit counter s)

/-- OBS_GLOBAL_CMD: the command awaits its capture beat; refused while one is pending (R400). -/
def actObsCmd (_ v : Nat) (s : State) : Nat × State :=
  if s.obs.pendingCmd.isSome then (5, s) else (0, { s with obs := { s.obs with pendingCmd := some v } })

def doObsFreeze (a : Access) (s : State) : State := accessWrite a 0xC800 0 actObsCmd s
def execObsFreeze (a : Access) (s : State) : Host.Outcome State Fault Refusal := .next (doObsFreeze a s)

def doObsUnfreeze (a : Access) (s : State) : State := accessWrite a 0xC800 0 actObsCmd s
def execObsUnfreeze (a : Access) (s : State) : Host.Outcome State Fault Refusal := .next (doObsUnfreeze a s)

def doObsSnapshot (a : Access) (s : State) : State := accessWrite a 0xC800 0 actObsCmd s
def execObsSnapshot (a : Access) (s : State) : Host.Outcome State Fault Refusal := .next (doObsSnapshot a s)

def doObsClear (a : Access) (s : State) : State := accessWrite a 0xC800 0 actObsCmd s
def execObsClear (a : Access) (s : State) : Host.Outcome State Fault Refusal := .next (doObsClear a s)

/-- Counters are copied into OBS_SNAP, with the capture beat and EV.12.01 (R400). -/
def captureCounts (s : State) : State :=
  raiseEv (wr { s with obs := { s.obs with snaps := s.obs.counts } } R.OBS_SNAP_TIME (poolNs s)) 12 1 0 (ident 1 34)

/-- A global command takes effect (R400). -/
def capture (s : State) (cmd : Nat) : State :=
  if cmd = 1 then captureCounts { s with obs := { s.obs with frozen := true } }
  else if cmd = 2 then { s with obs := { s.obs with frozen := false } }
  else if cmd = 3 then captureCounts s
  else { s with obs := { s.obs with counts := [], status := s.obs.status.filterMap fun (u, v) =>
    if v / 512 = 0 then none else some (u, v / 512 * 512) } }

/-- OBS_CAPTURE_BEAT: the beat after the write, or on which the time base reaches OBS_GLOBAL_TIME. -/
def doObsCaptureBeat (s : State) : State :=
  match s.obs.pendingCmd with
  | some c =>
    if s.time.run && rd s R.OBS_GLOBAL_TIME ≤ poolNs s then capture { s with obs := { s.obs with pendingCmd := none } } c else s
  | none => s

def execObsCaptureBeat (s : State) : Host.Outcome State Fault Refusal := .next (doObsCaptureBeat s)

/-- OBS_UNIT_CLEAR: the unit's counters and status are zeroed. -/
def actUnitClear (u : Nat) (_ _ : Nat) (s : State) : Nat × State :=
  (0, setUnitStatus (forEach (nums 0 9) s fun s k => setObs s u k 0) u 0)

def doObsUnitClear (a : Access) (unit : Nat) (s : State) : State :=
  accessWrite a (0xC000 + unit % 256) 18 (actUnitClear (unit % 256)) s
def execObsUnitClear (a : Access) (unit : Nat) (s : State) : Host.Outcome State Fault Refusal := .next (doObsUnitClear a unit s)

/-- OBS_RING_CLEAR: the ring is emptied (R404); refused while its memory is refused (Table BUP-3, memory 13). -/
def actRingClear (_ _ : Nat) (s : State) : Nat × State :=
  if s.obs.faulty then (5, s)
  else (0, wr (wr { s with obs := { s.obs with ring := [] } } R.OBS_RING_NEXT 0) R.OBS_RING_COUNT 0)

def doObsRingClear (a : Access) (s : State) : State := accessWrite a 0xC900 11 actRingClear s
def execObsRingClear (a : Access) (s : State) : Host.Outcome State Fault Refusal := .next (doObsRingClear a s)

/-- OBS_TRACE_ENABLE: 1 starts the port; 0 lets the record in progress finish, discards the rest and stops the clock 16 cycles
later (R408). -/
def actTraceEnable (_ v : Nat) (s : State) : Nat × State :=
  if s.obs.faulty then (5, s)
  else
    let was := rd s R.OBS_TRACE_ENABLE
    let s := wr s R.OBS_TRACE_ENABLE v
    if v = was then (0, s)
    else if v = 1 then (0, startTrace s)
    else (0, { s with obs := { s.obs with fifo := [], records := 0, lead := 16 } })

def doObsTraceEnable (a : Access) (s : State) : State := accessWrite a 0xCA00 0 actTraceEnable s
def execObsTraceEnable (a : Access) (s : State) : Host.Outcome State Fault Refusal := .next (doObsTraceEnable a s)

/-- COUNTERS record of a unit (Table OBS-5). -/
def countersRecord (s : State) (u : Nat) : List Nat :=
  let n := (nums 0 9).foldl (fun a k => a + obsVal s u k * 2 ^ (48 * k)) 0
  (0x4E000000 + u * 2 ^ 18) :: (nums 0 14).map fun j => field n (32 * j) 32

/-- TRACE_DUMP: one MARK and a COUNTERS record per selected unit (R407). -/
def doTraceDump (s : State) : State :=
  if !(tracing s && bitOf (rd s R.OBS_TRACE_SOURCES) 2 && rd s R.OBS_TRACE_DUMP_PERIOD ≠ 0 && mgmtUp s &&
      decide (s.obs.dumpAt + rd s R.OBS_TRACE_DUMP_PERIOD * 1000 ≤ s.now)) then s
  else
    let units := (bitsSet (rd s R.OBS_TRACE_UNITS) 52).filter fun u => !(s.ply16 && unitAbsent16 u)
    let records := units.map (countersRecord s)
    let mark := [0x52000000 + s.obs.dumpNo % 2 ^ 24, poolNs s % 2 ^ 32, poolNs s / 2 ^ 32 % 2 ^ 32]
    let s := { s with obs := { s.obs with dumpNo := s.obs.dumpNo + 1, dumpAt := s.now } }
    forEach (mark :: records) s traceRecord

def execTraceDump (s : State) : Host.Outcome State Fault Refusal := .next (doTraceDump s)

/-- TRACE_SYNC_TIMER: 1 s of pool time since the last SYNC queues one (R407). -/
def doTraceSyncTimer (s : State) : State :=
  if !(tracing s && mgmtUp s && decide (s.obs.lastSync + 1000000000 ≤ poolNs s)) then s
  else if s.obs.dropped = 0 ∧ traceWords s + 3 ≤ 2048 then
    { s with obs := { s.obs with
      fifo := s.obs.fifo ++ [syncRecord s], records := 0, syncNo := s.obs.syncNo + 1, lastSync := poolNs s } }
  else countDrop s

def execTraceSyncTimer (s : State) : Host.Outcome State Fault Refusal := .next (doTraceSyncTimer s)

/-- The port shows a word, or idles. -/
def showWord (s : State) (w : Option Nat) : State :=
  match w with
  | some w => bumpWrap (emit { s with pins := { s.pins with trcValid := true, trcData := w } } (.trace w)) R.OBS_TRACE_WORDS 0 1 64
  | none => { s with pins := { s.pins with trcValid := false } }

/-- One 500 MHz cycle of the running port: the record in progress, then idle cycles still owed, then the next record (R408). -/
def traceCycle (s : State) : State :=
  match s.obs.sending with
  | w :: rest => traceDrop (showWord { s with obs := { s.obs with sending := rest } } (some w))
  | [] =>
    if s.obs.lead ≠ 0 then
      let s := showWord { s with obs := { s.obs with lead := s.obs.lead - 1 } } none
      if s.obs.lead = 0 ∧ rd s R.OBS_TRACE_ENABLE = 0 then { s with pins := { s.pins with trcClk := false, trcData := 0 } } else s
    else match s.obs.fifo with
      | (w :: rest) :: more => traceDrop (showWord { s with obs := { s.obs with sending := rest, fifo := more } } (some w))
      | [] :: more => showWord { s with obs := { s.obs with fifo := more } } none
      | [] => showWord s none

/-- TRACE_WORD_SEND. -/
def doTraceWordSend (s : State) : State := if s.pins.trcClk && mgmtUp s then traceCycle s else s
def execTraceWordSend (s : State) : Host.Outcome State Fault Refusal := .next (doTraceWordSend s)

end Sys2Proof.Machine
end

