-- ==== Sys2Proof/Machine/Clears.lean ====
section
/-!
DEFINITION. The commands that clear an area's counts (01 R26, 03 R86, 06 R167, 07 R199, 08 R230, 09 R257, 10 R288, 11 R319, 12
R360, 14 R395, 15 R410). Every count they name has Default 0.
-/
namespace Sys2Proof.Machine

/-- Entries that `sel` names by index and subindex return to their Default. -/
def clearRegs (s : State) (sel : Nat → Nat → Bool) : State :=
  { s with regs := s.regs.filter fun (k, _) => !(decide (k < 0x1000000) && sel (k / 256) (k % 256)) }

/-- `i` lies between `a` and `b`. -/
def within (i a b : Nat) : Bool := decide (a ≤ i) && decide (i ≤ b)

def actClear (sel : Nat → Nat → Bool) (_ _ : Nat) (s : State) : Nat × State := (0, clearRegs s sel)

/-- Counts each command clears, by index and subindex. -/
def parityCounts (i b : Nat) : Bool := i = 0x0003 && b = 0
def linkCounts (i _ : Nat) : Bool := within i 0x1010 0x1020
def homeCounts (i b : Nat) : Bool := (i = 0x4003 && within b 2 6) || (i = 0x4004 && b = 1) || within i 0x4005 0x4009
def engineCounts (i b : Nat) : Bool :=
  (i = 0x5001 && within b 4 5) || i = 0x5004 || (within i 0x5100 0x513F && within b 5 0x12) || within i 0x5480 0x549F
def cdiCounts (i b : Nat) : Bool := within i 0x6100 0x613F && (b = 4 || b = 6 || b = 7)
def heatCounts (i b : Nat) : Bool :=
  i = 0x7007 || (within i 0x7050 0x708F && (within b 0 2 || b = 4 || b = 5)) || (i = 0x7103 && b = 6)
def integrityCounts (i b : Nat) : Bool := within i 0x8100 0x813F && (b = 0 || within b 2 6)
def sleepCounts (i b : Nat) : Bool := i = 0x9002 && within b 2 3
def mgmtCounts (i b : Nat) : Bool := i = 0xA003 || (i = 0xA011 && within b 2 5)
def faultCounts (i b : Nat) : Bool := (within i 0xB300 0xB311 && b = 2) || i = 0xB402
def statCounts (i b : Nat) : Bool := (i = 0xC900 && within b 7 8) || (i = 0xCA00 && within b 6 7)

def doBlkXingParityClear (a : Access) (s : State) : State := accessWrite a 0x0003 1 (actClear parityCounts) s
def execBlkXingParityClear (a : Access) (s : State) : Host.Outcome State Fault Refusal := .next (doBlkXingParityClear a s)

def doLnkCountersClear (a : Access) (s : State) : State := accessWrite a 0x1031 0 (actClear linkCounts) s
def execLnkCountersClear (a : Access) (s : State) : Host.Outcome State Fault Refusal := .next (doLnkCountersClear a s)

def doHomCountersClear (a : Access) (s : State) : State := accessWrite a 0x4011 0 (actClear homeCounts) s
def execHomCountersClear (a : Access) (s : State) : Host.Outcome State Fault Refusal := .next (doHomCountersClear a s)

def doEngCountersClear (a : Access) (s : State) : State := accessWrite a 0x5003 0 (actClear engineCounts) s
def execEngCountersClear (a : Access) (s : State) : Host.Outcome State Fault Refusal := .next (doEngCountersClear a s)

def doCdiCountersClear (a : Access) (s : State) : State := accessWrite a 0x6601 0 (actClear cdiCounts) s
def execCdiCountersClear (a : Access) (s : State) : Host.Outcome State Fault Refusal := .next (doCdiCountersClear a s)

def doRfhCountersClear (a : Access) (s : State) : State := accessWrite a 0x7110 0 (actClear heatCounts) s
def execRfhCountersClear (a : Access) (s : State) : Host.Outcome State Fault Refusal := .next (doRfhCountersClear a s)

def doIntCountersClear (a : Access) (s : State) : State := accessWrite a 0x8005 0 (actClear integrityCounts) s
def execIntCountersClear (a : Access) (s : State) : Host.Outcome State Fault Refusal := .next (doIntCountersClear a s)

def doSlpCountersClear (a : Access) (s : State) : State := accessWrite a 0x9102 0 (actClear sleepCounts) s
def execSlpCountersClear (a : Access) (s : State) : Host.Outcome State Fault Refusal := .next (doSlpCountersClear a s)

def doMgtCountersClear (a : Access) (s : State) : State := accessWrite a 0xAF00 0 (actClear mgmtCounts) s
def execMgtCountersClear (a : Access) (s : State) : Host.Outcome State Fault Refusal := .next (doMgtCountersClear a s)

/-- The counts of sources and forced events are held beside the registers. -/
def actFaultClear (m v : Nat) (s : State) : Nat × State :=
  actClear faultCounts m v { s with ev := { s.ev with forced := [], count := [] } }

def doFltCountersClear (a : Access) (s : State) : State := accessWrite a 0xB403 0 actFaultClear s
def execFltCountersClear (a : Access) (s : State) : Host.Outcome State Fault Refusal := .next (doFltCountersClear a s)

def doObsStatsClear (a : Access) (s : State) : State := accessWrite a 0xCB00 0 (actClear statCounts) s
def execObsStatsClear (a : Access) (s : State) : Host.Outcome State Fault Refusal := .next (doObsStatsClear a s)

end Sys2Proof.Machine
end

