-- ==== Sys2Proof/Machine/Bringup.lean ====
section
/-!
DEFINITION. The start sequence: stored values and tables, memory self-test, firmware verification, training, the array march and
its repairs, the fill, and first service (16 R411 to R425; 08 R211, R212; 12 R330, R354, R355).
-/
namespace Sys2Proof.Machine

def modStart (s : State) (f : StartUp → StartUp) : State := { s with start := f s.start }

/-- Step 1 ends: PLLs locked, islands out of reset, fuses loaded; ply_rst_cmpl rises once the acknowledgement has been seen
low, the beat runs, and EV.00.05 is raised on its first beat (02 R36, R37, R46, 14 Table FLT-2). A temperature flag that is high
begins a trip (09 R252). -/
def doFuseLoadDone (f : FuseImage) (s : State) : State :=
  if s.start.phase = .starting && s.start.inStep1 && s.pins.ref25 && s.pins.ref100 then
    let repair := (f.repair.filter fun (a, w) => 0x100 ≤ a && a < 0x800 && w ≠ 0).foldl
      (fun t (a, w) => tset t a (w % 2 ^ 32)) []
    let s := { s with
      fuses := { testLocked := f.testLocked, pen := f.pen, provisionalId := f.provisionalId, dcr := f.dcr, repair := repair }
      start := { s.start with inStep1 := false, waitAck := true, exclFrom := some s.now, pllLost := false }
      pins := { s.pins with rstCmpl := s.start.ackSeenLow } }
    let s := startBeat s
    let s := raiseEv (wr s R.BUP_START_STEP 2) 0 5 (rd s R.BLK_RESET_CAUSE) 0
    let s := if f.variantOk then s else stopStart s 4
    if cattripHigh s then beginTrip s else s
  else s

def execFuseLoadDone (f : FuseImage) (s : State) : Host.Outcome State Fault Refusal := .next (doFuseLoadDone f s)

/-- Start-up runs past step 2, outside a thermal trip (R422). -/
def startRuns (s : State) : Bool :=
  s.start.phase = .starting && !s.start.inStep1 && !s.start.waitAck && !s.stack.trip

/-- Track A begins step 4 once step 3A has ended, and track B step 5 once both have (R412). -/
def stepAfter3 (s : State) : State :=
  wr s R.BUP_START_STEP (if s.start.done3A && s.start.done3B then 5 else if s.start.done3A then 4 else 3)

/-- A stored value whose copies all fail is dropped: the entry takes its Default (12 R330). -/
def dropStored (s : State) (key : Nat) : State :=
  let s := { s with mram := { s.mram with params := tdel s.mram.params key } }
  let s := put s key (dfltAt s key) (dfltAt s key)
  raiseFirst (bump s R.MGT_PERSIST_INVALID) 10 8 0 0

/-- Corrected and uncorrectable words of the MRAM read (12 R354). -/
def countWords (s : State) (m : MramCheck) : State :=
  let s := if m.corrected = 0 then s else raiseEv (bumpTo s R.MGT_MRAM_CORRECTED 0 m.corrected satMax) 10 7 0 0
  if m.uncorrectable = 0 then s
  else raiseEv (bumpTo s R.MGT_MRAM_UNCORRECTABLE 0 m.uncorrectable satMax) 10 8 0 0

/-- An entry whose newer copy alone fails its CRC starts at the older copy's value (12 R330). -/
def useOlder (s : State) (key : Nat) : State :=
  match tget? s.mram.params key with
  | some ⟨_, _, some (v, n)⟩ =>
    let s := { s with mram := { s.mram with params := tset s.mram.params key ⟨v, n, none⟩ } }
    put s key (dfltAt s key) v
  | _ => s

/-- The last stored region table becomes active and shadow, from the older copy of its record where the newer one fails; a store
that had not ended is lost (04 R90, 12 R330). -/
def loadRegions (s : State) (ok older : Bool) : State :=
  let r := if ok then (if older then s.mram.regionsOld else s.mram.regions) else {}
  let s := { s with mram := { s.mram with regions := r, pending := none } }
  wr (wr (putTable (putTable s false r.regs) true r.regs) R.MAP_GENERATION r.gen) R.MAP_REGIONS_VALID r.valid

/-- The next sequence number of the deadwood log follows its highest one (10 R280). -/
def loadLog (s : State) : State :=
  let next := (s.mram.log.map fun (_, r) => recSeq r + 1).foldl max 0
  settleLog (wr s R.INT_LOG_SEQ (next % 2 ^ 32))

/-- MRAM_LOAD_DONE: step 3A ends (R412). -/
def doMramLoadDone (m : MramCheck) (s : State) : State :=
  if !startRuns s || s.start.done3A then s
  else
    let bad := m.invalid.filter fun k => !ownStore k && (tget? s.mram.params k).isSome
    let old := m.older.filter fun k => !ownStore k && !m.invalid.contains k
    let s := countWords (forEach bad (forEach old s useOlder) dropStored) m
    let s := loadLog (loadRegions s m.regionsOk m.regionsOlder)
    let s := modStart s fun t => { t with done3A := true, binsOk := m.binsOk, trainingOk := m.trainingOk }
    let s := restoreLeaves (startModel s)
    stepAfter3 (wr s R.RFH_MODE_ACTIVE (rd s R.RFH_MODE))

def execMramLoadDone (m : MramCheck) (s : State) : Host.Outcome State Fault Refusal := .next (doMramLoadDone m s)

/-- A failed port memory keeps its port Disabled (Table BUP-3, memory 10). -/
def shutPort (s : State) (n : Nat) : State :=
  setPortState (modLink s n fun l => { l with faulty := true, fdi := .disabled }) n portDisabled

/-- Memories whose failure stops start-up (Table BUP-3). -/
def stopsStart (n : Nat) : Bool := n ≤ 7 || n = 11 || n = 15

/-- The result of one memory that its spares cannot repair (Table BUP-3). -/
def memoryFails (s : State) (channels ports : List Nat) (n : Nat) : State :=
  let failing := fun (s : State) (channels : List Nat) (named : Bool) =>
    forEach (channels.filter (· < nChannels s)) s fun s c =>
      let s := modStart (failChannel s c) fun t => { t with bad := c :: t.bad }
      if named then raiseEv s 13 6 n (ident 4 c) else s
  if n = 8 || n = 9 then failing s channels true
  else if n = 10 then
    forEach (ports.filter (· < nPorts s)) s fun s p => raiseEv (shutPort s p) 13 6 n (ident 2 p)
  else
    let s := raiseEv s 13 6 n 0
    if n = 14 then failing s (channels.flatMap fun c => nums (c / 4 * 4) 4).eraseDups false
    else if n = 12 then wr (wr s R.MGT_UMPIRE_STATE 2) R.UPG_STATE 3
    else if n = 13 then { s with obs := { s.obs with faulty := true } }
    else s

/-- MBIST_DONE: step 3B ends (R415). -/
def doMbistDone (failed repaired : Nat) (channels ports : List Nat) (s : State) : State :=
  if !startRuns s || s.start.done3B then s
  else
    let failed := failed % 65536
    let repaired := repaired % 65536
    let s := wr (wr s R.BUP_MBIST_FAILED failed) R.BUP_MBIST_REPAIRED repaired
    let s := wr s R.BUP_MBIST_RESULT (if failed ≠ 0 then 3 else if repaired ≠ 0 then 2 else 1)
    let s := forEach (bitsSet failed 16) s fun s n => memoryFails s channels ports n
    let s := stepAfter3 (modStart s fun t => { t with done3B := true })
    if (bitsSet failed 16).any stopsStart then stopStart s 3 else s

def execMbistDone (failed repaired : Nat) (channels ports : List Nat) (s : State) : Host.Outcome State Fault Refusal :=
  .next (doMbistDone failed repaired channels ports s)

/-- The checks of 13 R363 on a slot at start-up: the verdict, the header where the slot's bytes are known, the SVN floor. -/
def slotPasses (s : State) (slot : Nat) (v : SlotInfo) : Bool :=
  v.ok && (!(imageOf s slot).known || headerCheck s (imageOf s slot) = 0) && rd s R.UPG_SVN_FLOOR ≤ v.svn

/-- The header fields of a slot that passes, as verification reads them. -/
def slotShown (s : State) (slot : Nat) (v : SlotInfo) : State :=
  let s := wri (wri s R.UPG_IMAGE_STATE slot 2) R.UPG_IMAGE_VERSION slot v.version
  let s := wri (wri s R.UPG_IMAGE_SVN slot v.svn) R.UPG_IMAGE_CAP slot v.cap
  setImage s slot { imageOf s slot with
    minor := v.minor }

/-- The header fields of the slot that does not run: those of the image it holds, where one has been verified. -/
def otherShown (s : State) (slot : Nat) (v : SlotInfo) : State :=
  if rdi s R.UPG_IMAGE_STATE slot = 2 then slotShown s slot v else s

/-- The umpires start from the active image (R412, 12 R352); what waited for them on the sideband is sent. -/
def startUmpires (s : State) (slot : Nat) (v : SlotInfo) : State :=
  let s := slotShown s slot v
  let s := wr (wr s R.UPG_STATE 0) R.MGT_SCHEMA_VERSION (0x300 + v.minor)
  let s := watchMasters (capEpochs s)
  forEach ((nums 0 16).filter fun g => tget s.ev.waiting (g * 16 + 8) false) s fun s g => deliverTo s g 8

/-- Both images fail, or the umpires' memories: they stay halted (R414, R415). -/
def haltUmpires (s : State) : State := watchMasters (wr (wr s R.MGT_UMPIRE_STATE 2) R.UPG_STATE 3)

/-- FIRMWARE_VERIFY_DONE: step 4 ends (R414). It may end after step 10. -/
def doFirmwareVerifyDone (v : FirmwareCheck) (s : State) : State :=
  if !mgmtUp s || s.start.waitAck || !s.start.done3A || s.start.done4 then s
  else
    let s := modStart (if s.start.trial then rollBack s 3 else s) fun t => { t with done4 := true, trial := false }
    let s := if v.identityOk then { s with ump := { s.ump with certOk := true } } else raiseEv s 10 13 0 0
    let a := rd s R.UPG_ACTIVE_SLOT
    let info := fun slot => if slot = 0 then v.slotA else v.slotB
    if bitOf (rd s R.BUP_MBIST_FAILED) 12 then haltUmpires s
    else if slotPasses s a (info a) then startUmpires (otherShown s (1 - a) (info (1 - a))) a (info a)
    else
      let s := raiseEv (wri s R.UPG_IMAGE_STATE a 4) 13 8 a 0
      let b := 1 - a
      if slotPasses s b (info b) then startUmpires (wr s R.UPG_ACTIVE_SLOT b) b (info b)
      else haltUmpires (wri s R.UPG_IMAGE_STATE b 4)

def execFirmwareVerifyDone (v : FirmwareCheck) (s : State) : Host.Outcome State Fault Refusal :=
  .next (doFirmwareVerifyDone v s)

/-- Stored results of a pseudo-channel are discarded for a full training (08 R211, R228). -/
def clearPcTraining (s : State) (pc : Nat) : State :=
  let s := wri (wri (wri s R.CDI_LANE_MAP pc 0) R.CDI_ERASURES pc 0) R.CDI_SPARES_RETIRED pc 0
  let s := wri s R.CDI_PC_DEGRADED_LANE pc 0xFF
  if s.start.bad.contains (pc / 2) then s else wri s R.CDI_PC_STATE pc 0
def clearTraining (s : State) : State :=
  let s := forEach (nums 0 (nPcs s)) s clearPcTraining
  forEach (nums 0 (nChannels s)) s fun s c =>
    let s := wri s R.CDI_CMD_SPARES c 0
    if s.start.bad.contains c then s else wri s R.CDI_CHANNEL_STATE c 0

/-- The hottest temperature reported. -/
def hottest (l : List (Nat × Int)) : Option Int := (l.map (·.2)).max?

/-- The slices whose MR1 was not their die's, with what it was. -/
def foundMr1 (r : TrainReport) : Tbl Nat := r.badDies.foldl (fun t (i, _, v) => tset t i v) []

/-- The conditions of 08 R212 for fast training. -/
def mayTrainFast (s : State) (r : TrainReport) : Bool :=
  rd s R.CDI_TRAIN_MODE = 1 && s.mram.training && s.start.trainingOk && !r.full && s.mram.trainMr1 = foundMr1 r &&
    (match hottest r.temps, s.mram.trainTemp with
     | some t, some u => decide ((t - u).natAbs ≤ 320)
     | _, _ => false)

/-- Failing lanes of a pseudo-channel: a failing spare is retired, a failing lane takes a free spare, up to two more are marked,
and with more than two unplaced the pseudo-channel fails (08 R211 step 11, R220, R228). -/
def placeLanes (s : State) (pc : Nat) (phys : List Nat) : State :=
  let s := forEach (phys.filter fun l => l = 36 || l = 37) s fun s l =>
    wri s R.CDI_SPARES_RETIRED pc (putBit (rdi s R.CDI_SPARES_RETIRED pc) (l - 36) true)
  let todo := phys.filter (· < 36)
  let free := ([0, 1].filter fun sp => (spareLane s pc sp).isNone && !bitOf (rdi s R.CDI_SPARES_RETIRED pc) sp).length
  let s := forEach (todo.take free) s fun s l =>
    match freeSpare s pc with
    | some sp => raiseEv (setSpare s pc sp (some l)) 6 1 l (ident 4 (pc / 2))
    | none => s
  let left := todo.drop free
  if 2 < left.length then failPc s pc true else forEach left s fun s l => markLane s pc l

/-- Codes that training found (08 R211 steps 7 and 9). -/
def setCodes (s : State) (r : TrainReport) : State :=
  let fits := fun (x : LaneValue) => decide (x.pc < nPcs s) && decide (x.sid < 4) && decide (x.lane < 38)
  let s := forEach (r.rdDelay.filter fits) s fun s x => setDelay s false x.pc x.lane x.sid (x.value % 1024)
  let s := forEach (r.wrDelay.filter fits) s fun s x => setDelay s true x.pc x.lane x.sid (x.value % 1024)
  let s := forEach (r.rdVref.filter fits) s fun s x => put s (vrefKey x.pc x.lane) 0 (min 700 (max 300 x.value))
  let s := modStack s fun t => { t with tracks := [] }
  forEach (r.wrVref.filter fits) s fun s x => put s (wrVrefKey x.pc x.sid) 0 (x.value % 256)

/-- The commands of training whose number the spec fixes, in order (08 Table CDI-7): the reads of MR0 and MR1, the SRX of a resume
(R416), the command spares and the end of the loopback, WCK_SYNC, the end of static readout, the write references and the spares,
PREA, and MR2 = 0x80. -/
def trainCommands (s : State) (c : Nat) : List Issued :=
  let sids := nums 0 4
  let pcs := [c * 2, c * 2 + 1].filter fun pc => !pcFailed s pc
  let mrw := fun sid ma v => seqIssued 0 cMrw 0 sid 0 (ma * 256 + v)
  sids.flatMap (fun i => [mrrCommand s c i 0 0, mrrCommand s c i 1 0]) ++
    (if (chanOf s c).selfRef then [seqIssued 0 cSrx 0 0 0 0] else []) ++ cmdSpareWrites s c ++
    sids.map (fun i => mrw i 2 (putBit (mrOf s c i 2) 6 false)) ++
    pcs.flatMap (fun pc => sids.map fun i => seqIssued 0 cWckSync pc i 0 0) ++
    sids.map (fun i => mrw i 2 (putBit (putBit (mrOf s c i 2) 6 false) 5 false)) ++
    pcs.flatMap (fun pc => sids.map (fun i => mrw i (22 + pc % 2) (val s (wrVrefKey pc i) 0)) ++
      spareWrites s pc 0 ++ spareWrites s pc 1 ++ sids.map fun i => seqIssued 0 cPrea pc i 0 0) ++
    sids.map fun i => mrw i 2 0x80

/-- The dies take them, 600 nCK apart, farther than the tables ask; the sweeps' own commands, whose number the spec leaves open, are not
recorded by the block or the dies (log entry 38). The channel's clocks run, its rows are closed, and its histories are proven (08
R211, R224, R416). -/
def trainChannel (s : State) (c : Nat) : State :=
  if rdi s R.CDI_CHANNEL_STATE c = 1 then s
  else
    let l := trainCommands s c
    let s := modChan s c fun h => { h with
      ck := true, ckFrom := s.now, wck := true, selfRef := false, sreConfirmed := false, hist := [], trouble := false
      slept := countedNs s - h.sreAt }
    let s := forEach (l.zip (nums 0 l.length)) s fun s (x, i) =>
      applySeq (record s c { x with nck := nckNow s + 600 * i } []) c x
    let s := forEach (nums 0 4) s fun s i => proveNow s c i
    modPch (modPch s (c * 2) fun p => { p with turn := retrainTurn s (c * 2) }) (c * 2 + 1) fun p =>
      { p with turn := retrainTurn s (c * 2 + 1) }
def openChannels (s : State) : State := forEach (nums 0 (nChannels s)) s trainChannel

/-- Step 6: the bin table is loaded, or every group starts at bin 0 (09 R233). -/
def loadBins (s : State) : State :=
  let day : Nat := 86400000000000
  let fresh := match s.mram.binTime with
    | some t => decide (poolNs s ≤ t + rd s R.RFH_BIN_MAX_AGE * day)
    | none => false
  if s.start.binsOk && fresh && s.time.quality ≠ 3 then
    modStack (wr s R.RFH_BIN_LOADED 1) fun t => { t with bins := s.mram.bins }
  else modStack (wr s R.RFH_BIN_LOADED 0) fun t => { t with bins := [] }

/-- No lane, pseudo-channel or channel failed (Table CDI-9). -/
def trainClean (r : TrainReport) : Bool :=
  r.laneFails.isEmpty && r.cmdFails.isEmpty && r.badDies.isEmpty && r.wckFails.isEmpty && r.ckFails.isEmpty

/-- Lanes, pseudo-channels and channels that training could not serve; full training first forgets the stored results (08 R211, R212,
R223, R228). -/
def settleTraining (s : State) (r : TrainReport) (full : Bool) : State :=
  let s := if full then clearTraining s else s
  let s := forEach (r.badDies.map (fun (sl, _) => sl / 4) ++ r.ckFails) s fun s c => if c < nChannels s then failChannel s c else s
  let s := forEach (r.wckFails.filter (· < nPcs s)) s fun s pc => failPc s pc true
  let lanes := r.laneFails.filter fun (pc, l) => decide (pc < nPcs s) && decide (l < 38)
  let s := forEach (lanes.map (·.1)).eraseDups s fun s pc =>
    if pcFailed s pc then s
    else placeLanes (if full then s else clearPcTraining s pc) pc ((lanes.filter (·.1 = pc)).map (·.2)).eraseDups
  let s := forEach (r.cmdFails.filter fun (c, row, l) => decide (c < nChannels s) && decide (l < if row then 10 else 8)) s
    fun s (c, row, l) => spareCommand s c row l
  if trainClean r then s else raiseEv s 6 11 0 0

/-- Results and settings in force after training (08 R211, R212; 09 R238); a replaced bank stays out of service (01 R19). -/
def endTraining (s : State) (r : TrainReport) (full : Bool) : State :=
  let s := openChannels (setCodes s r)
  let s := wr (wr s R.CDI_TRAIN_TIME r.micros) R.CDI_TRAIN_RESULT (if !trainClean r then 3 else if full then 1 else 2)
  let served := ((nums 0 (nPcs s)).filter fun pc => !pcFailed s pc).length
  let replaced := (nums 0 (nPcs s)).foldl (fun n pc => n + replacedBanks s pc) 0
  let s := wr s R.BLK_BANKS_IN_SERVICE (128 * served - replaced)
  let s := if full then
      let s := storeTraining s (hottest r.temps)
      { s with mram := { s.mram with trainMr1 := foundMr1 r } }
    else if r.laneFails.isEmpty then s else storeTraining s (hottest r.temps)
  let s := modStart s fun t => { t with trained := true, trainReport := some r }
  forEach (r.temps.filter fun (sl, _) => decide (sl < nChannels s * 4)) (modStack s fun t => { t with plans := [] })
    fun s (sl, v) => takeSlice s sl v true

/-- TRAINING_DONE: step 5 ends, and step 6 with it (R412, R416). CK may not start within tINIT of ply_cdi_rst_n (08 Table CDI-4). -/
def doTrainingDone (r : TrainReport) (s : State) : State :=
  if !startRuns s || !s.start.done3A || !s.start.done3B || s.start.trained || !s.pins.cdiRstN || s.now < s.start.cdiAt + 200000 then s
  else if r.badDies.any fun (_, rev, _) => rev ≠ 2 then stopStart (wr s R.CDI_TRAIN_RESULT 4) 1
  else
    let full := !mayTrainFast s r
    let s := endTraining (settleTraining s r full) r full
    if (nums 0 (nChannels s)).all fun c => rdi s R.CDI_CHANNEL_STATE c = 1 then stopStart s 2
    else wr (loadBins s) R.BUP_START_STEP (if s.start.path = 0 then 7 else 9)

def execTrainingDone (r : TrainReport) (s : State) : Host.Outcome State Fault Refusal := .next (doTrainingDone r s)

/-- Physical row of a march failure, and its bank index. -/
def failPcNo (f : MarchFail) : Nat := f.channel * 2 + f.pc
def failBank (f : MarchFail) : Nat := bankIndex (failPcNo f) f.sid f.bank
def failRow (f : MarchFail) : Nat := failBank f * 16384 + f.row

/-- Failing rows in order of bank index and row, each with its first failing line (R419). -/
def failedRows (l : List MarchFail) : List MarchFail :=
  let place := fun (f : MarchFail) => failRow f * 2048 + f.col * 128 + f.half * 64 + f.symbol
  (sortBy place l).foldr (fun f (t : Tbl MarchFail) => tset t (failRow f) f) [] |>.map (·.2)

/-- An entry of the failure list (Table BUP-8), which holds 1,024. -/
def noteFail (s : State) (f : MarchFail) (outcome : Nat) : State :=
  let v := 2 ^ 63 + outcome * 2 ^ 60 + f.channel * 2 ^ 27 + f.pc * 2 ^ 26 + f.sid * 2 ^ 24 + f.bank * 2 ^ 19 + f.row * 2 ^ 5 + f.col
  modStart s fun t => { t with fails := if t.fails.length < 1024 then t.fails ++ [v] else t.fails }

/-- Place of a failing row in the log; a row of a spare bank in use stands for the host row it serves (10 Table INT-4). -/
def failPlace (f : MarchFail) (l : Loc) : Place :=
  ⟨l.pc, l.sid, l.bank, l.row, f.col, f.bank = 31, false, f.sid, f.bank, f.row⟩

/-- The place a host request reaches through the row, where one does. -/
def hostRow (s : State) (f : MarchFail) : Option Loc :=
  match servedRow s (failPcNo f) f.sid f.bank f.row with
  | none => none
  | some l =>
    let p := (repaired s l).1
    if p.sid = f.sid && p.bank = f.bank && p.row = f.row then some l else none

/-- The row's graft, where it has one. -/
def failGraft (s : State) (f : MarchFail) : Option (Nat × Nat) := tget? s.stack.grafts (graftKey (failPcNo f) f.sid f.bank f.row)

/-- Unrepaired (Table BUP-5): a kind-3 record at once, whatever the hard count (R419). -/
def leaveUnrepaired (s : State) (f : MarchFail) : State :=
  let s := noteFail (bump s R.BUP_UNREPAIRED) f 2
  let l := (servedRow s (failPcNo f) f.sid f.bank f.row).getD ⟨failPcNo f, f.sid, f.bank, f.row, f.col⟩
  raiseEv (recommendBank (recommendRow s (failPlace f l) 4 1) (failPlace f l) 4) 13 5 (failBank f) (ident 4 f.channel)

/-- A repair that ends before step 6: a grafted row stays grafted, a row of a spare bank is retired, another is left unrepaired
(R419, Table BUP-5). -/
def endRepair (s : State) (f : MarchFail) : State :=
  if f.bank = 31 then settleSpares (noteFail (retireSpareRow s (failPcNo f) f.sid f.row) f 3) (failPcNo f)
  else if (failGraft s f).isSome then noteFail (bump s R.BUP_GRAFTED) f 0
  else leaveUnrepaired s f

/-- Step 1: the row is grafted by the rules of 10 R282; the state is none where no graft row or entry is free. -/
def graftFailed (s : State) (f : MarchFail) : Option State :=
  let pc := failPcNo f
  match (if 0 < freeEntries s pc then allocRows s pc (sagOf f.row) 1 (freeSpares s pc (some f.sid)) else []) with
  | v :: _ =>
    let s := settleSpares (setGraft s pc f.sid f.bank f.row v) pc
    let s := retireRows s (bankIndex pc f.sid f.bank) f.row 1 false
    some (raiseEv s 13 3 (failBank f) (ident 4 f.channel))
  | [] => none

/-- Lowest fuse word that reads 0 and that no shadow names (R420). -/
def wordFree (s : State) (a : Nat) : Bool := tget s.fuses.repair a 0 = 0 && (tget? s.mram.shadows a).isNone
def freeWord (s : State) : Option Nat := (nums 0x100 0x700).find? (wordFree s)

/-- Step 2: the slice's budget, a soft and a hard repair left in the bank, and a fuse word (R419). -/
def budgetLeft (s : State) (f : MarchFail) : Bool :=
  let left := bankRepairs s f.channel f.sid (f.pc * 32 + f.bank)
  tget s.start.perSlice (f.channel * 4 + f.sid) 0 < rd s R.BUP_FUSE_PER_SLICE && decide (0 < left / 16) && decide (0 < left % 16) &&
    (freeWord s).isSome

/-- The failure's kind-0 record, for a host-addressable row (R419). -/
def recordFail (s : State) (f : MarchFail) : State :=
  match hostRow s f with
  | some l => writeRecord s (failPlace f l) { kind := 0, source := 4, half := f.half, symbol := f.symbol }
  | none => s

/-- Steps 1 and 2 of one failure: whether the hard repair follows. -/
def beginRepair (s : State) (f : MarchFail) : Bool × State :=
  let s := recordFail s f
  let grafted := if (hostRow s f).isSome && f.bank ≠ 31 then graftFailed s f else some s
  match grafted with
  | none => (false, leaveUnrepaired s f)
  | some s => if budgetLeft s f then (true, s) else (false, endRepair s f)

/-- Step 8 ends: the march's result (Table BUP-8). -/
def endMarch (s : State) : State :=
  let n := rd s R.BUP_ARRAY_FAILS
  let s := wr s R.BUP_ARRAY_RESULT (if n = 0 then 1 else if rd s R.BUP_UNREPAIRED = 0 then 2 else 3)
  wr (modStart s fun t => { t with marched := true, hard := none, todo := [] }) R.BUP_START_STEP 9

/-- Failures are acted on in order, up to the next hard repair (R419). -/
def repairNext : List MarchFail → State → State
  | [], s => endMarch s
  | f :: rest, s =>
    let (go, s) := beginRepair s f
    if go then modStart s fun t => { t with hard := some f, todo := rest, fuseWord := none, hardFrom := s.now } else repairNext rest s

/-- The march's repairs may be made (R419). -/
def mayRepair (s : State) : Bool := !s.ply16 && rd s R.BUP_FUSE_REPAIR = 1

/-- A valid repair word's row that is still grafted loses its graft where it passes the march (R420). -/
def releaseFused (s : State) (failed : List MarchFail) : State :=
  let rows := s.fuses.repair.filter fun (_, w) => bitOf w 31
  forEach rows s fun s (_, w) =>
    let pc := field w 26 5 * 2 + field w 25 1
    let same := fun (f : MarchFail) =>
      failPcNo f = pc && f.sid = field w 23 2 && f.bank = field w 18 5 && f.row = field w 4 14
    if failed.any same then s else settleSpares (delGraft s pc (field w 23 2) (field w 18 5) (field w 4 14)) pc

/-- MARCH_DONE: step 7 ends, and the block acts on the failing rows (R417 to R420). The march wrote every cell; what it left is
served to no one before the fill. -/
def doMarchDone (fails : List MarchFail) (micros : Nat) (s : State) : State :=
  if !startRuns s || s.start.path ≠ 0 || !s.start.trained || s.start.marched || s.start.hard.isSome then s
  else
    let ok := fun (f : MarchFail) => decide (f.channel < nChannels s) && decide (f.pc < 2) && decide (f.sid < 4) &&
      decide (f.bank < 32) && decide (f.row < 16384) && decide (f.col < 16) && decide (f.half < 2) && decide (f.symbol < 36)
    let l := failedRows (fails.filter ok)
    let s := wr (wr { s with array := {} } R.BUP_ARRAY_FAILS l.length) R.BUP_ARRAY_TIME micros
    let s := if l.isEmpty then s else raiseEv s 13 2 (min l.length 65535) 0
    let s := if s.ply16 then s else releaseFused s l
    if mayRepair s then repairNext l (if l.isEmpty then s else wr s R.BUP_START_STEP 8)
    else endMarch (forEach l s fun s f => leaveUnrepaired (recordFail s f) f)

def execMarchDone (fails : List MarchFail) (micros : Nat) (s : State) : Host.Outcome State Fault Refusal :=
  .next (doMarchDone fails micros s)

/-- Repair word of a row, without its valid bit (Table BUP-6). -/
def repairWord (f : MarchFail) : Nat := f.channel * 2 ^ 26 + f.pc * 2 ^ 25 + f.sid * 2 ^ 23 + f.bank * 2 ^ 18 + f.row * 2 ^ 4

/-- A repair's remap in the die's list, where no command put it there. -/
def addRow (r : Nat) (l : List Nat) : List Nat := if l.contains r then l else r :: l

/-- The die after a failure's repairs: the trial's row, and the hard repair's where it came that far. -/
def repairDie (s : State) (f : MarchFail) (o : RepairOutcome) : State :=
  let row := (f.pc * 32 + f.bank) * 16384 + f.row
  modSlice s f.channel f.sid fun d =>
    { d with soft := addRow row d.soft, hard := if o = .trialFailed then d.hard else addRow row d.hard }

/-- tHPR of the hard repair has passed (R419 step 4); a trial that failed has none. -/
def repairOver (s : State) (o : RepairOutcome) : Bool := o = .trialFailed || decide (s.start.hardFrom + 200000000 ≤ s.now)

/-- HARD_REPAIR_DONE: the row passed the trial and the march after its hard repair, or one of them failed (R419 steps 3 to 5). -/
def doHardRepairDone (outcome : RepairOutcome) (s : State) : State :=
  match s.start.hard, s.start.fuseWord, repairOver s outcome with
  | some f, none, true =>
    let s := repairDie s f outcome
    match decide (outcome = .passed), freeWord s with
    | true, some a =>
      let sl := f.channel * 4 + f.sid
      let s := modStart s fun t => { t with fuseWord := some a, perSlice := tset t.perSlice sl (tget t.perSlice sl 0 + 1) }
      { s with
        mram := { s.mram with shadows := tset s.mram.shadows a (2 ^ 31 + repairWord f) }
        pins := { s.pins with fuseAddr := a, fuseVppReq := true } }
    | _, _ => repairNext s.start.todo (endRepair s f)
  | _, _, _ => s

def execHardRepairDone (outcome : RepairOutcome) (s : State) : Host.Outcome State Fault Refusal :=
  .next (doHardRepairDone outcome s)

/-- Step 6: the graft is removed and its row freed (R419). -/
def releaseGraft (s : State) (f : MarchFail) : State :=
  let pc := failPcNo f
  let s := if f.bank = 31 then s else settleSpares (delGraft s pc f.sid f.bank f.row) pc
  noteFail (bump (raiseEv s 13 4 (failBank f) (ident 4 f.channel)) R.BUP_FUSED) f 1

/-- FUSE_PROGRAM_DONE: once ply_fuse_vpp_ack is in, the set bits of the word have been programmed, one pulse each and the valid
bit [31] last, and the word is read back (R419 steps 5 and 6, 02 R46). -/
def doFuseProgramDone (readBack : Nat) (s : State) : State :=
  match s.start.hard, s.start.fuseWord with
  | some f, some a =>
    let v := readBack % 2 ^ 32
    let s := { s with
      fuses := { s.fuses with repair := tput s.fuses.repair a v 0 }
      pins := { s.pins with fusePgmBit := 31, fuseVppReq := false } }
    let s := if v = 2 ^ 31 + repairWord f then releaseGraft s f
      else endRepair (raiseEv (bump s R.BUP_FUSE_FAILS) 13 7 a 0) f
    repairNext s.start.todo (modStart s fun t => { t with hard := none, fuseWord := none })
  | _, _ => s

def execFuseProgramDone (readBack : Nat) (s : State) : Host.Outcome State Fault Refusal := .next (doFuseProgramDone readBack s)

/-- Step 9 on paths 0 to 2: every host-addressable line through the repair tables (R421). -/
def fillArray (s : State) : State :=
  let rows := s.stack.grafts.foldl (fun (t : Tbl Bool) (k, v) => tset t ((k / 2097152 * 4 + v.1) * 16384 + v.2) true) []
  let banks := (nums 0 (nPcs s * 4)).filter fun i => spareRole s (i / 4) (i % 4) = 1
  { s with array :=
    { lines := [], lost := [], fill := some (encodeLine 0 (rd s R.BUP_FILL = 0)), fillRows := rows
      fillBanks := banks.map fun i => (i, true) } }

/-- Step 9 on paths 3 and 4: the counts read at training, and on path 3 the sapling rows (R411, R416). -/
def startChecks (s : State) (sapling : List (Nat × BitVec 576)) : State :=
  let counts := (s.start.trainReport.map (·.counts)).getD []
  if s.start.path = 3 then wakeChecks s ⟨counts, sapling⟩ fun _ => true
  else forEach (counts.filter fun (i, _) => i < nChannels s * 4 && rdi s R.CDI_CHANNEL_STATE (i / 4) ≠ 1) s checkCount

/-- Step 10 (R412, R413; 05 R129): FDI Active is requested on every enabled port. -/
def reachService (s : State) : State :=
  let s := wr (wr s R.BUP_START_STEP 10) R.BUP_START_RESULT 1
  let s := wr s R.BUP_START_TIME (min ((s.now - s.start.from_ - s.start.excluded) / 1000) satMax)
  let s := modStart s fun t => { t with phase := .service, filled := true }
  let s := modSleep s fun z => { z with pastE4 := false }
  let s := lateEpochs s
  let s := modTree (if umpiresServe s then capEpochs s else s) fun t => { t with countFrom := some ((poolNs s / 10000 + 1) * 10000) }
  let s := forEach (nums 0 (nPorts s)) s requestActive
  raiseEv s 13 0 s.start.path 0

/-- FILL_DONE: step 9 ends. -/
def doFillDone (sapling : List (Nat × BitVec 576)) (s : State) : State :=
  if !startRuns s || !s.start.trained || (s.start.path = 0 && !s.start.marched) then s
  else reachService (if s.start.path ≤ 2 then fillArray s else startChecks s sapling)

def execFillDone (sapling : List (Nat × BitVec 576)) (s : State) : Host.Outcome State Fault Refusal := .next (doFillDone sapling s)

end Sys2Proof.Machine
end

