-- ==== Sys2Proof/Machine/TreeCmds.lean ====
section
/-!
DEFINITION. Meanings of the traffic tree's commands (05 R106 to R138). An `act` function is what a dictionary write does, for
the master that writes: the status it answers and the state it leaves.
-/
namespace Sys2Proof.Machine

/-- One dispatch of a trunk (R115, R118). A crossing parity error on the request's data poisons it; one on its header loses the
request until its response timeout (01 R17). -/
def doDispatch (trunk : Nat) (par : Parity) (s : State) : State :=
  if dispatchHeld s || !tagFree s || nPorts s ≤ trunk then s else
    match grantedPick s trunk with
    | none => s
    | some (k, b, v, uid) =>
      match flightOf s uid with
      | none => s
      | some f =>
        let s := dispatch s trunk k b v uid f
        match par with
        | .good => s
        | .badData => if f.op.hasData then modFlight (raiseParity s 3 7 8) uid fun f => { f with poison := true } else s
        | .badHeader =>
          let s := raiseParity s 3 7 8
          loseRequest (modTree s fun t => { t with crossing := t.crossing.erase uid }) uid

def execDispatch (trunk : Nat) (par : Parity) (s : State) : Host.Outcome State Fault Refusal :=
  .next (doDispatch trunk par s)

/-- One leaf at a regulation period's end: its limit moves where its CIR is 0, and the period's flags are cleared (R125). -/
def regulateLeaf (s : State) (l : Leaf) : Leaf :=
  if !l.dispatched then l else
    let limit :=
      if l.d.cir > 0 then l.limit
      else if l.congested then max l.d.olMin (l.limit * rd s R.TRE_REG_BETA / 256)
      else if l.belowLow then min l.d.olMax (l.limit + rd s R.TRE_REG_ALPHA)
      else l.limit
    { l with limit := limit, congested := false, belowLow := true, dispatched := false }

/-- TRE_REG_PERIOD has passed since the update before (R125). -/
def regulationDue (s : State) : Bool := decide (s.tree.regAt + rd s R.TRE_REG_PERIOD ≤ s.now)

/-- REGULATION_UPDATE. -/
def doRegulationUpdate (s : State) : State :=
  if !regulationDue s then s
  else modTree s fun t => { t with regAt := s.now, leaves := t.leaves.map fun (n, l) => (n, regulateLeaf s l) }

def execRegulationUpdate (s : State) : Host.Outcome State Fault Refusal := .next (doRegulationUpdate s)

/-- The leaf returns to the free list; its counts stay (R106, R127). -/
def dropLeaf (s : State) (n : Nat) (l : Leaf) : State :=
  modTree s fun t => { t with
    leaves := tdel t.leaves n, labels := tdel t.labels (pairNo l.d.fn l.d.label)
    ghosts := tset t.ghosts n l }

/-- The leaf has been idle for TRE_LEAF_IDLE_TIMEOUT, in µs (R106). -/
def idleLong (s : State) (l : Leaf) : Bool := reclaimable l && decide (l.busyAt + rd s R.TRE_LEAF_IDLE_TIMEOUT * 1000 ≤ s.now)

/-- LEAF_RECLAIM. -/
def doLeafReclaim (leaf : Nat) (s : State) : State :=
  match leafOf s leaf with
  | none => s
  | some l => if idleLong s l then dropLeaf s leaf l else s

def execLeafReclaim (leaf : Nat) (s : State) : Host.Outcome State Fault Refusal := .next (doLeafReclaim leaf s)

/-- E_p of a window: D / (D + W), or the previous one below a tenth of the window (R128). -/
def windowEff (s : State) (w : PcWindow) : Nat :=
  if w.d + w.w < 1600 then tget s.tree.eff w.pc (rd s R.TRE_MODEL_EFF_INIT) else w.d * 65536 / (w.d + w.w)

/-- The figures reported for pseudo-channel `p`; one not reported was idle. -/
def windowOf (w : List PcWindow) (p : Nat) : PcWindow := (w.find? fun x => x.pc = p).getD ⟨p, 0, 0, 0, 16000⟩

/-- A counted window's rate joins the history and the floor follows (R129). -/
def countWindow (s : State) (rate : Nat) : State :=
  let depth := rd s R.TRE_MODEL_DEPTH
  let s := modTree s fun t => { t with rates := (rate :: t.rates).take 10000, windows := t.windows + 1 }
  let s := wr s R.TRE_MODEL_RATE rate
  if s.tree.windows < depth then s
  else wr s R.TRE_MODEL_FLOOR (((s.tree.rates.take depth).min?).getD rate)

/-- Windows count from the first that starts after first service (R129). -/
def windowCounts (s : State) : Bool :=
  match s.tree.countFrom with
  | some t => decide (t + 10000 ≤ poolNs s)
  | none => false

/-- MODEL_WINDOW_END: leaf samples, factors, rate and floor, scales and shortfall (R127 to R129, R135, R136). -/
def doModelWindowEnd (w : List PcWindow) (s : State) : State :=
  let s := modTree s fun t => { t with
    leaves := t.leaves.map fun (n, l) => (n, leafWindow s l), ghosts := t.ghosts.map fun (n, l) => (n, leafWindow s l) }
  let ps := nums 0 (nPcs s)
  let row := fun p => let x := windowOf w p
    (p, windowEff s x, min x.r 65536, thermalFactor s p, availability s p x.a)
  let fs := ps.map row
  let s := if windowCounts s then
      let s := forEach fs s fun s (p, e, r, t, a) =>
        modTree (wri s R.TRE_MODEL_FACTORS p (factorWord e r t a)) fun tr => { tr with eff := tset tr.eff p e }
      countWindow s ((fs.map fun (_, e, r, t, a) => rateTerm e r t a).foldl (· + ·) 0 / 65536)
    else s
  publishScales (forgetWindow s)

def execModelWindowEnd (w : List PcWindow) (s : State) : Host.Outcome State Fault Refusal := .next (doModelWindowEnd w s)

/-- RMW_CHARGE: the oldest report charges the buckets its dispatch charged; a leaf reclaimed since has none (R111). -/
def doRmwCharge (s : State) : State :=
  match s.tree.rmw with
  | [] => s
  | r :: rest =>
    let s := modTree s fun t => { t with rmw := rest }
    let s := match leafOf s r.leaf with
      | some l => if pairNo l.d.fn l.d.label = r.pair then chargeLeaf s r.leaf r.level else s
      | none => s
    chargeTrunk (chargeBranch s r.branch) r.trunk

def execRmwCharge (s : State) : Host.Outcome State Fault Refusal := .next (doRmwCharge s)

/-- GATE_ENTRY_START: the entry in force by pool time takes effect; a rally that follows another completes it (R121 to R123). After
a forward step that lands past entry 0 of a later rally no entry 0 starts, and the model counts no rally then: the rule does not
say (DESIGN CHOICE, log entry 24). -/
def doGateEntryStart (trunk : Nat) (s : State) : State :=
  let s := settleGate s trunk
  match gatePos s trunk with
  | none => s
  | some (k, e, start, _) =>
    let t := trunkOf s trunk
    if t.entered = start then s else
      let s := setTrunk s trunk { t with entered := start }
      if e = 0 && 0 < k then bumpWrap s R.TRE_GATE_RALLIES trunk 1 64 else s

def execGateEntryStart (trunk : Nat) (s : State) : Host.Outcome State Fault Refusal := .next (doGateEntryStart trunk s)

/-- GATE_GUARD_START: the last TRE_GATE_GUARD ns before a closing entry close its branches (R122). -/
def doGateGuardStart (trunk : Nat) (s : State) : State := settleGate s trunk

def execGateGuardStart (trunk : Nat) (s : State) : Host.Outcome State Fault Refusal := .next (doGateGuardStart trunk s)

/-- A switch is pending on a trunk (R121). -/
def switchPending (s : State) (n : Nat) : Bool := rdi s R.TRE_GATE_SWITCH_PENDING n = 1

/-- The check of a shadow list (R121). -/
def shadowOk (s : State) (n : Nat) : Bool :=
  let len := rdi s R.TRE_GATE_SHADOW_LEN n
  1 ≤ len && len ≤ 256 && (nums 0 len).all (fun e => 100 ≤ gateDur s n true e && gateDur s n true e ≤ 1000000000) &&
    decide (gateCycle s n true len ≤ 1000000000)

/-- TRE_GATE_SWITCH. -/
def actGateSwitch (n : Nat) (_ _ : Nat) (s : State) : Nat × State :=
  if switchPending s n then (5, s)
  else if shadowOk s n then (0, wri s R.TRE_GATE_SWITCH_PENDING n 1)
  else (0, raiseEv s 3 6 0 (ident 2 n))

def doTreGateSwitch (a : Access) (trunk : Nat) (s : State) : State := accessWrite a (0x3400 + trunk) 7 (actGateSwitch trunk) s

def execTreGateSwitch (a : Access) (trunk : Nat) (s : State) : Host.Outcome State Fault Refusal :=
  .next (doTreGateSwitch a trunk s)

/-- The active and shadow lists of trunk `n` change places (R121). -/
def swapLists (s : State) (n : Nat) : State :=
  forEach (nums 0 256) s fun s e =>
    let put' := fun s sh k v => put s (gateKey n sh e k) (windowDflt (gateKey n sh e k)) v
    let (da, ma) := (gateDur s n false e, gateMask s n false e)
    let (ds, ms) := (gateDur s n true e, gateMask s n true e)
    put' (put' (put' (put' s false 0 ds) false 1 ms) true 0 da) true 1 ma

/-- GATE_SWITCH_APPLY: at the switch time, or on the next beat for one already past, the checked list becomes active
(R121). -/
def doGateSwitchApply (trunk : Nat) (s : State) : State :=
  if switchPending s trunk && decide (rdi s R.TRE_GATE_SWITCH_TIME trunk ≤ poolNs s) then
    let la := rdi s R.TRE_GATE_ACTIVE_LEN trunk
    let s := wri (wri (swapLists s trunk) R.TRE_GATE_ACTIVE_LEN trunk (rdi s R.TRE_GATE_SHADOW_LEN trunk))
      R.TRE_GATE_SHADOW_LEN trunk la
    let s := wri s R.TRE_GATE_BASE trunk (rdi s R.TRE_GATE_SWITCH_TIME trunk)
    let s := wri s R.TRE_GATE_SWITCH_PENDING trunk 0
    settleGate (raiseEv s 3 5 0 (ident 2 trunk)) trunk
  else s

def execGateSwitchApply (trunk : Nat) (s : State) : Host.Outcome State Fault Refusal := .next (doGateSwitchApply trunk s)

/-- TRE_GATE_SWITCH_CANCEL. -/
def actGateCancel (n : Nat) (_ _ : Nat) (s : State) : Nat × State :=
  if switchPending s n then (0, wri s R.TRE_GATE_SWITCH_PENDING n 0) else (3, s)

def doTreGateSwitchCancel (a : Access) (trunk : Nat) (s : State) : State :=
  accessWrite a (0x3400 + trunk) 0x0D (actGateCancel trunk) s

def execTreGateSwitchCancel (a : Access) (trunk : Nat) (s : State) : Host.Outcome State Fault Refusal :=
  .next (doTreGateSwitchCancel a trunk s)

/-- TRE_LEAF_CREATE (R107). A pair that already names a leaf pins it, even where the command names a branch that is not valid: the
rule has both a refusal and a pinning there (DESIGN CHOICE, log entry 24). -/
def actLeafCreate (_ v : Nat) (s : State) : Nat × State :=
  let fn := field v 14 4
  let label := field v 0 14
  let b := field v 26 12
  match tget? s.tree.labels (pairNo fn label) with
  | some n =>
    match leafOf s n with
    | some l => (0, setLeaf s n { l with d := { l.d with pinned := true } })
    | none => (0, s)
  | none =>
    if !brValid s b then (3, s)
    else match allocate s (profileDesc s (field v 18 8) b fn label true) false with
      | (none, s) => (3, s)
      | (some _, s) => (0, s)

def doTreLeafCreate (a : Access) (s : State) : State := accessWrite a 0x3900 0 actLeafCreate s

def execTreLeafCreate (a : Access) (s : State) : Host.Outcome State Fault Refusal := .next (doTreLeafCreate a s)

/-- A write through the leaf window of master `m`: an owner reaches only its own function's leaves, and an unallocated
leaf takes no write (R138). -/
def withLeaf (m : Nat) (s : State) (f : Nat → Leaf → Nat × State) : Nat × State :=
  let n := selOf s m selLeaf
  match leafOf s n with
  | none => (3, s)
  | some l => if isOwner m && l.d.fn + 1 ≠ m then (2, s) else f n l

/-- TRE_LEAF_BUCKET_RESET (R112). -/
def actLeafBucketReset (m _ : Nat) (s : State) : Nat × State :=
  withLeaf m s fun n l =>
    (0, setLeaf s n { l with c := bucketFull l.d.cbs, e := bucketFull l.d.ebs, p := bucketFull l.d.pbs })

def doTreLeafBucketReset (a : Access) (s : State) : State := accessWrite a 0x3200 0x15 actLeafBucketReset s

def execTreLeafBucketReset (a : Access) (s : State) : Host.Outcome State Fault Refusal := .next (doTreLeafBucketReset a s)

/-- N and X of branch `b` at full depth. -/
def fillBranch (s : State) (b : Nat) : State :=
  setBranch s b { branchOf s b with n := bucketFull (brDesc s b 2), x := bucketFull (brDesc s b 4) }

/-- TRE_BRANCH_BUCKET_RESET (R112). -/
def actBranchBucketReset (m _ : Nat) (s : State) : Nat × State := (0, fillBranch s (selOf s m selBranch))

def doTreBranchBucketReset (a : Access) (s : State) : State := accessWrite a 0x3300 9 actBranchBucketReset s

def execTreBranchBucketReset (a : Access) (s : State) : Host.Outcome State Fault Refusal :=
  .next (doTreBranchBucketReset a s)

/-- TRE_TRUNK_BUCKET_RESET (R112). -/
def actTrunkBucketReset (n : Nat) (_ _ : Nat) (s : State) : Nat × State :=
  (0, setTrunk s n { trunkOf s n with t := bucketFull (rdi s R.TRE_TRUNK_MAX_DEPTH n) })

def doTreTrunkBucketReset (a : Access) (trunk : Nat) (s : State) : State :=
  accessWrite a (0x3400 + trunk) 0x0C (actTrunkBucketReset trunk) s

def execTreTrunkBucketReset (a : Access) (trunk : Nat) (s : State) : Host.Outcome State Fault Refusal :=
  .next (doTreTrunkBucketReset a trunk s)

/-- TRE_LEAF_CLEAR (R138): the depth maximum goes on from the present depth, which it takes continuously (Table TRE-3). -/
def actLeafClear (m _ : Nat) (s : State) : Nat × State :=
  withLeaf m s fun n l => (0, setLeaf s n { l with depthMax := l.queue.length, delayMax := 0, units := 0, refusals := 0 })

def doTreLeafClear (a : Access) (s : State) : State := accessWrite a 0x3200 0x18 actLeafClear s

def execTreLeafClear (a : Access) (s : State) : Host.Outcome State Fault Refusal := .next (doTreLeafClear a s)

/-- TRE_LEAF_CIR: a rise is a new commitment (R112, R132). -/
def actLeafCir (m v : Nat) (s : State) : Nat × State :=
  withLeaf m s fun n l =>
    let d := { l.d with cir := v }
    let s' := setLeaf s n (settleLimit { l with d := d })
    if v ≤ l.d.cir then (0, s') else tryCommit s s' [d.branch] [brTrunk s d.branch] (olCarries d)

def doTreLeafCir (a : Access) (s : State) : State := accessWrite a 0x3200 1 actLeafCir s

def execTreLeafCir (a : Access) (s : State) : Host.Outcome State Fault Refusal := .next (doTreLeafCir a s)

/-- TRE_LEAF_OL_MAX: below OL_MIN it is refused; lowering it on a committed leaf is tested (R132). -/
def actLeafOlMax (m v : Nat) (s : State) : Nat × State :=
  withLeaf m s fun n l =>
    if v < l.d.olMin then (3, s) else
      let d := { l.d with olMax := v }
      let s' := setLeaf s n (settleLimit { l with d := d })
      if l.d.cir > 0 && v < l.d.olMax then tryCommit s s' [d.branch] [brTrunk s d.branch] (olCarries d) else (0, s')

def doTreLeafOlMax (a : Access) (s : State) : State := accessWrite a 0x3200 8 actLeafOlMax s

def execTreLeafOlMax (a : Access) (s : State) : Host.Outcome State Fault Refusal := .next (doTreLeafOlMax a s)

/-- TRE_LEAF_BRANCH: to a valid branch only; a committed leaf's move is tested (R132). -/
def actLeafBranch (m v : Nat) (s : State) : Nat × State :=
  withLeaf m s fun n l =>
    if !brValid s v then (3, s) else
      let s' := setLeaf s n { l with d := { l.d with branch := v } }
      if l.d.cir > 0 && v ≠ l.d.branch then tryCommit s s' [v] [brTrunk s v] (olCarries l.d) else (0, s')

def doTreLeafBranch (a : Access) (s : State) : State := accessWrite a 0x3200 0x16 actLeafBranch s

def execTreLeafBranch (a : Access) (s : State) : Host.Outcome State Fault Refusal := .next (doTreLeafBranch a s)

/-- Leaves attached to a branch. -/
def brLeaves (s : State) (b : Nat) : Nat := (s.tree.leaves.filter fun (_, l) => l.d.branch = b).length

/-- TRE_BRANCH_CTRL (R132, R133). -/
def actBranchCtrl (m v : Nat) (s : State) : Nat × State :=
  let b := selOf s m selBranch
  let was := brValid s b
  let now' := bitOf v 31
  if s.ply16 && 4 ≤ field v 0 3 then (3, s)
  else if was && !now' && 0 < brLeaves s b then (5, s)
  else
    let s' := putBr s b 0 v
    let tested := (!was && now' && 0 < brDesc s b 1) || (was && now' && brTrunk s b ≠ field v 0 3 && 0 < commitB s b)
    let s'' := if !was && now' then fillBranch s' b else s'
    if tested then tryCommit s s'' [b] [field v 0 3] true else (0, s'')

def doTreBranchCtrl (a : Access) (s : State) : State := accessWrite a 0x3300 0 actBranchCtrl s

def execTreBranchCtrl (a : Access) (s : State) : Host.Outcome State Fault Refusal := .next (doTreBranchCtrl a s)

/-- TRE_BRANCH_MIN: above MAX it is refused; a rise on a valid branch is tested (R132). -/
def actBranchMin (m v : Nat) (s : State) : Nat × State :=
  let b := selOf s m selBranch
  if brDesc s b 3 < v then (3, s)
  else if brValid s b && brDesc s b 1 < v then tryCommit s (putBr s b 1 v) [b] [brTrunk s b] true
  else (0, putBr s b 1 v)

def doTreBranchMin (a : Access) (s : State) : State := accessWrite a 0x3300 1 actBranchMin s

def execTreBranchMin (a : Access) (s : State) : Host.Outcome State Fault Refusal := .next (doTreBranchMin a s)

/-- TRE_BRANCH_MAX: below MIN it is refused; lowering it is tested (R132). -/
def actBranchMax (m v : Nat) (s : State) : Nat × State :=
  let b := selOf s m selBranch
  if v < brDesc s b 1 then (3, s)
  else if v < brDesc s b 3 then tryCommit s (putBr s b 3 v) [b] [] true
  else (0, putBr s b 3 v)

def doTreBranchMax (a : Access) (s : State) : State := accessWrite a 0x3300 3 actBranchMax s

def execTreBranchMax (a : Access) (s : State) : Host.Outcome State Fault Refusal := .next (doTreBranchMax a s)

/-- TRE_TRUNK_MAX: lowering it is tested (R132). -/
def actTrunkMax (n : Nat) (_ v : Nat) (s : State) : Nat × State :=
  let s' := wri s R.TRE_TRUNK_MAX n v
  if v < rdi s R.TRE_TRUNK_MAX n then tryCommit s s' [] [n] true else (0, s')

def doTreTrunkMax (a : Access) (trunk : Nat) (s : State) : State := accessWrite a (0x3400 + trunk) 0 (actTrunkMax trunk) s

def execTreTrunkMax (a : Access) (trunk : Nat) (s : State) : Host.Outcome State Fault Refusal :=
  .next (doTreTrunkMax a trunk s)

/-- Writes of the selections and of a gate list's entry (05 R121, R138). An entry of the active list is read only here: the status
is not stated, and the model answers 2, access denied (DESIGN CHOICE, log entry 24). -/
def treeSelect (m index v : Nat) (s : State) : Option (Nat × State) :=
  let g := selOf s m selGate
  if index = 0x3000 then some (0, setSel s m selLeaf v)
  else if index = 0x3001 then some (0, setSel s m selBranch v)
  else if index = 0x3002 then some (0, setSel s m selGate (if s.ply16 then putBit v 10 false else v))
  else if index = 0x3003 then
    some (if !bitOf g 11 then (2, s) else if switchPending s (field g 8 3) then (5, s)
      else (0, put s (gateKey (field g 8 3) true (field g 0 8) 0) (windowDflt (gateKey (field g 8 3) true (field g 0 8) 0)) v))
  else none

/-- Fields of a leaf descriptor that a write of the window sets, by subindex (05 Table TRE-3). -/
def leafParts (v : Nat) : Tbl (LeafDesc → LeafDesc) :=
  [(0, fun d => { d with closed := bitOf v 29 }), (2, fun d => { d with cbs := v }), (3, fun d => { d with eir := v }),
   (4, fun d => { d with ebs := v }), (5, fun d => { d with pir := v }), (6, fun d => { d with pbs := v }),
   (7, fun d => { d with tier := v })]

def leafWrite (m sub v : Nat) (s : State) : Option (Nat × State) :=
  match tget? (leafParts v) sub with
  | some f => some (withLeaf m s fun n l => (0, setLeaf s n (settleLimit { l with d := f l.d })))
  | none =>
    if sub = 9 then some (withLeaf m s fun n l =>
      if l.d.olMax < v then (3, s) else (0, setLeaf s n (settleLimit { l with d := { l.d with olMin := v } })))
    else none

/-- Writes of tree entries that have no row of their own: leaf, branch and gate windows, and values that bind each other
(05 Table TRE-5, R138). None where the entry is an ordinary one. -/
def treeWrite (m index sub v : Nat) (s : State) : Option (Nat × State) :=
  if index = 0x3200 then leafWrite m sub v s
  else if sub = 0 then treeSelect m index v s
  else if index = 0x3300 ∧ (sub = 2 ∨ sub = 4) then some (0, putBr s (selOf s m selBranch) sub v)
  else if (index = 0x3600 ∧ sub = 1 ∧ v ≤ rd s R.TRE_REG_LOW) ∨ (index = 0x3600 ∧ sub = 2 ∧ rd s R.TRE_REG_HIGH ≤ v) then
    some (3, s)
  else if 0x3400 ≤ index ∧ index < 0x3408 ∧ (sub = 5 ∨ sub = 6) ∧ switchPending s (index - 0x3400) then some (5, s)
  else none

end Sys2Proof.Machine
end

