-- ==== Sys2Proof/Machine/Views.lean ====
section
/-!
DEFINITION. What a dictionary read returns: entries that show state held elsewhere, windows through a master's selections, and
what a function owner may see (00 R4; 04 R100; 05 R138; 09 R257; 10 R278; 12 R325; 14 R383; 15 R402, R410; 16 R424, R425).
-/
namespace Sys2Proof.Machine

/-- A 64-bit VALUE of a signed 32-bit quantity (12 Table MGT-1). -/
def shown32 (v : Int) : Nat := ofSigned 64 (toSigned 32 (ofSigned 32 v))
def flag (b : Bool) : Nat := if b then 1 else 0

/-- Age of a leaf's oldest queued request (05 Table TRE-5). -/
def headDelay (s : State) (l : Leaf) : Nat :=
  match l.queue.head? with
  | some uid => min (s.now - ((flightOf s uid).map (·.joined)).getD s.now) satMax
  | none => 0

/-- An allocated leaf through the window at 0x3200. -/
def leafField (s : State) (l : Leaf) (sub : Nat) : Nat :=
  let ctrl := 2 ^ 31 + flag l.d.pinned * 2 ^ 30 + flag l.d.closed * 2 ^ 29 + l.d.fn * 2 ^ 18 + l.d.label
  match sub with
  | 0 => ctrl
  | 1 => l.d.cir
  | 2 => l.d.cbs
  | 3 => l.d.eir
  | 4 => l.d.ebs
  | 5 => l.d.pir
  | 6 => l.d.pbs
  | 7 => l.d.tier
  | 8 => l.d.olMax
  | 9 => l.d.olMin
  | 10 => l.limit
  | 11 => shown32 l.c
  | 12 => shown32 l.e
  | 13 => shown32 l.p
  | 14 => l.outstanding
  | 15 => l.queue.length
  | 16 => l.depthMax
  | 17 => headDelay s l
  | 18 => l.delayMax
  | 19 => l.units
  | 20 => l.refusals
  | 22 => l.d.branch
  | 23 => l.windowUnits
  | _ => 0

/-- The leaf window of a master (05 R138): zero for another function's leaf; a reclaimed leaf keeps its counts (R127). -/
def leafView (s : State) (m sub : Nat) : Nat :=
  let n := selOf s m selLeaf
  match leafOf s n with
  | some l => if isOwner m && l.d.fn + 1 ≠ m then 0 else leafField s l sub
  | none =>
    if isOwner m then 0
    else
      match tget? s.tree.ghosts n with
      | some l => if sub = 16 || (18 ≤ sub && sub ≤ 20) || sub = 23 then leafField s l sub else 0
      | none => 0

/-- The branch window. -/
def branchView (s : State) (m sub : Nat) : Nat :=
  let b := selOf s m selBranch
  if sub ≤ 4 then brDesc s b sub
  else if sub = 5 then shown32 (branchOf s b).n
  else if sub = 6 then shown32 (branchOf s b).x
  else if sub = 7 then (s.tree.leaves.filter fun (_, l) => l.d.branch = b).length
  else (branchOf s b).units

/-- The gate entry a master's selection names: trunk, shadow, entry. -/
def gateSel (s : State) (m : Nat) : Nat × Bool × Nat :=
  let g := selOf s m selGate
  (field g 8 3, bitOf g 11, field g 0 8)

/-- Tree entries beside the leaf and branch windows. -/
def treeView (s : State) (m index sub : Nat) : Option Nat :=
  if index = 0x3000 then some (selOf s m selLeaf)
  else if index = 0x3001 then some (selOf s m selBranch)
  else if index = 0x3002 then some (selOf s m selGate)
  else if index = 0x3003 then let (n, sh, e) := gateSel s m; some (gateDur s n sh e)
  else if index = 0x3200 then some (leafView s m sub)
  else if index = 0x3300 then some (branchView s m sub)
  else if 0x3400 ≤ index ∧ index < 0x3408 ∧ sub = 2 then some (shown32 (trunkOf s (index - 0x3400)).t)
  else if index = 0x3700 ∧ sub = 5 then some (committed s)
  else if index = 0x3703 then some (commitT s sub)
  else if 0x3800 ≤ index ∧ index < 0x3810 ∧ sub = 1 then some (funLeaves s (index - 0x3800))
  else if index = 0x3900 ∧ sub = 1 then some (min (s.tree.dropped / 65536) satMax)
  else if index = 0x3900 ∧ sub = 2 then some (262144 - s.tree.leaves.length)
  else none

/-- An agent's entry (03 Table LNK-17). -/
def agentView (s : State) (a : Nat) : Nat :=
  match tget? s.agents a with
  | some x => 2 ^ 31 + flag x.caching * 2 ^ 30 + x.cell * 2 ^ 24 + x.fn * 2 ^ 16 + x.port
  | none => 0

/-- Variant, clocks, agents and map (00 R5, 02 R54, 03 R86, 04 R100). -/
def blockView (s : State) (m index sub : Nat) : Option Nat :=
  if index = 0x0001 ∧ sub = 0 then some (flag s.ply16)
  else if index = 0x0001 ∧ sub = 1 then some (nChannels s)
  else if index = 0x0001 ∧ sub = 2 then some (nPorts s)
  else if index = 0x0011 ∧ sub = 0 then
    some (flag s.pins.ref100 + flag s.pins.ref25 * 2 + flag s.pins.xtal32k * 4 + flag (!s.start.inStep1 && !s.start.pllLost) * 8)
  else if index = 0x0016 then some (flag s.fuses.testLocked)
  else if index = 0x1030 then some s.agents.length
  else if 0x1100 ≤ index ∧ index < 0x1110 then some (agentView s ((index - 0x1100) * 256 + sub))
  else if 0x2800 ≤ index ∧ index < 0x2C00 ∧ isOwner m = true then
    if (regionAt s false (index - 0x2800)).fn + 1 = m then none else some 0
  else none

/-- The home's counts of what it holds (06 R167). -/
def homeView (s : State) (index sub : Nat) : Option Nat :=
  if index = 0x4003 ∧ sub = 0 then some s.home.filter.length
  else if index = 0x4003 ∧ sub = 1 then some (s.home.filter.filter fun (_, e) => e.coarse).length
  else if index = 0x4004 ∧ sub = 0 then some s.home.txns.length
  else if 0x4100 ≤ index ∧ index < 0x4110 ∧ sub = 7 then
    some (s.agents.filter fun (_, a) => a.caching && a.cell = index - 0x4100).length
  else none

/-- ENG_T_NOMINAL (07 Tables ENG-5, ENG-10). -/
def nominal : List Nat := [23, 23, 45, 68, 4, 6, 20, 2, 4, 3, 26, 4, 6, 4, 12, 8, 224, 560, 576, 24, 10, 6240]

/-- A pseudo-channel's mode: 3 self-refresh, 2 held, 1 drain, 0 read (07 R176, R182). -/
def modeOf (s : State) (pc : Nat) : Nat :=
  if (chanOf s (pc / 2)).selfRef then 3 else if (pchOf s pc).hold then 2 else if (pchOf s pc).drain then 1 else 0

/-- Engine and interface entries (07 R199, 08 R230). -/
def engineView (s : State) (index sub : Nat) : Option Nat :=
  if index = 0x5001 ∧ sub = 7 then
    some ((s.pchs.map fun (_, p) => (p.classes.filter fun (_, c) => 0 < c.cls).length).foldl (· + ·) 0)
  else if index = 0x5010 then some (nominal.getD sub 0)
  else if 0x5100 ≤ index ∧ index < 0x5140 ∧ sub ≤ 4 then
    let pc := index - 0x5100
    some (match sub with
      | 0 => readsInUse s pc
      | 1 => writesInUse s pc
      | 2 => mergesOpen s pc
      | 3 => slotsInUse s pc
      | _ => modeOf s pc)
  else if 0x5400 ≤ index ∧ index < 0x5420 then
    let c := tget (pchOf s ((index - 0x5400) * 2 + sub / 128)).classes (sub % 128) {}
    some (c.cls + (if c.test = 0 then 0 else 4))
  else if 0x6100 ≤ index ∧ index < 0x6140 ∧ sub = 0 then
    let pc := index - 0x6100
    let st := rdi s R.CDI_PC_STATE pc
    some (if st = 0 && (pchOf s pc).hold then 1 else st)
  else none

/-- Groups of banks 0 to 30 in bin `k` (09 R257). -/
def binCount (s : State) (k : Nat) : Nat :=
  let set := s.stack.bins.filter fun (i, _) => i / 1024 % 32 ≠ 31
  if k = 0 then nPcs s * 4 * 31 * 1024 - set.length else (set.filter fun (_, b) => b = k).length

/-- Stack-manager entries (09 R257, 10 R288). -/
def stackView (s : State) (m index sub : Nat) : Option Nat :=
  if index = 0x7100 ∧ sub = 0 then some (selOf s m selBin)
  else if index = 0x7101 then some (binCount s sub)
  else if index = 0x8001 ∧ sub = 3 then some s.stack.recur.length
  else if index = 0x8002 ∧ sub = 3 then some (selOf s m selLog)
  else if 0x8100 ≤ index ∧ index < 0x8140 ∧ sub = 11 then some (tget s.stack.suspects (index - 0x8100) []).length
  else none

/-- Power and time entries (11 R319). -/
def sleepView (s : State) (index sub : Nat) : Option Nat :=
  if index = 0x9000 ∧ sub = 0 then some (stateShown s)
  else if index = 0x9002 ∧ sub = 1 then some s.sleep.queue.length
  else if index = 0x9100 ∧ sub = 0 then some (poolNs s % 2 ^ 64)
  else if index = 0x9100 ∧ sub = 1 then some s.time.quality
  else if index = 0x9100 ∧ sub = 2 then some (timeError s % 2 ^ 64)
  else if index = 0x9100 ∧ sub = 3 then some (ofSigned 64 s.time.offset8)
  else if index = 0x9101 ∧ sub = 0 then some ((s.time.t - s.start.wall0) / 64000000000 % 2 ^ 64)
  else if index = 0x9101 ∧ sub = 1 then some ((s.time.beats - s.start.beats0) % 2 ^ 64)
  else none

/-- Management entries (12 R360, 13 R361 to R366). -/
def mgmtView (s : State) (m index sub : Nat) : Option Nat :=
  if index = 0xA004 then some (tget s.dict.desc m 0)
  else if index = 0xA010 ∧ sub = 0 then some s.fuses.pen
  else if index = 0xA011 ∧ sub = 0 then
    some (flag s.side.inb.isFull + flag s.side.outb.isFull * 2 + flag s.side.overrun * 4)
  else if 0xA100 ≤ index ∧ index < 0xA140 ∧ sub = 2 then some (mbxStatus s (index - 0xA100))
  else if index = 0xA141 then some (mbxPendingOf s sub)
  else if index = 0xA142 then some (masterState s sub)
  else if index = 0xA800 ∧ sub = 3 then some (trialLeft s)
  else none

/-- Event entries (14 R395); an owner sees a group's status and latch only where FLT_OWNER_GROUPS allows it (R383). -/
def faultView (s : State) (m index sub : Nat) : Option Nat :=
  if 0xB000 ≤ index ∧ index < 0xB010 then
    let g := index - 0xB000
    let closed := isOwner m && !bitOf (rd s R.FLT_OWNER_GROUPS) g
    match sub with
    | 0 => some (if closed then 0 else grpStatus s g)
    | 3 => some (if closed then 0 else grpFirst s g)
    | 4 => some (if closed then 0 else tget s.ev.firstTime g 0)
    | 5 => some (if closed then 0 else tget s.ev.firstDetail g 0)
    | 10 => some (flag (bitOf s.ev.fault g))
    | 12 => some (tget s.ev.forced g 0)
    | _ => none
  else if 0xB100 ≤ index ∧ index < 0xB110 then some (tget s.ev.count ((index - 0xB100) * 32 + sub) 0)
  else if 0xE000 ≤ index ∧ index < 0xE010 ∧ sub = 8 then some (selOf s m (selLedger (index - 0xE000)))
  else if 0xE000 ≤ index ∧ index < 0xE010 ∧ sub = 9 then
    some (tget s.ledgers ((index - 0xE000) * 4096 + selOf s m (selLedger (index - 0xE000))) 0)
  else none

/-- Observation entries (15 R402, R410). -/
def obsView (s : State) (m index sub : Nat) : Option Nat :=
  let closed := fun u => isOwner m && !bitOf (rd s R.OBS_OWNER_UNITS) u
  let counter := fun (sub : Nat) => if sub = 0 then 8 else sub - 1
  if 0xC000 ≤ index ∧ index < 0xC034 then
    let u := index - 0xC000
    if closed u then some 0
    else if sub ≤ 8 then some (obsVal s u (counter sub))
    else if sub = 17 then some (tget s.obs.status u 0) else none
  else if 0xC100 ≤ index ∧ index < 0xC134 then
    let u := index - 0xC100
    some (if closed u then 0 else tget s.obs.snaps (u * 16 + counter sub) 0)
  else if index = 0xC800 ∧ sub = 2 then some (flag s.obs.frozen + flag s.obs.pendingCmd.isSome * 2)
  else if index = 0xC900 ∧ sub = 9 then some (selOf s m selRing)
  else none

/-- Bring-up entries (16 R424, R425). -/
def startView (s : State) (m index sub : Nat) : Option Nat :=
  if index = 0xD004 ∧ sub = 0 then some ((nums 0x100 0x700).filter (wordFree s)).length
  else if index = 0xD005 then some (if sub = 0 then selOf s m selFail else s.start.fails.getD (selOf s m selFail) 0)
  else if index = 0xD006 then some (if sub = 0 then selOf s m selFuse else tget s.fuses.repair (selOf s m selFuse) 0)
  else none

/-- The view of an entry that shows state held elsewhere, by area. -/
def derived (s : State) (m index sub : Nat) : Option Nat :=
  let a := index / 4096
  if a ≤ 2 then blockView s m index sub
  else if a = 3 then treeView s m index sub
  else if a = 4 then homeView s index sub
  else if a = 5 ∨ a = 6 then engineView s index sub
  else if a = 7 ∨ a = 8 then stackView s m index sub
  else if a = 9 then sleepView s index sub
  else if a = 10 then mgmtView s m index sub
  else if a = 11 ∨ a = 14 then faultView s m index sub
  else if a = 12 then obsView s m index sub
  else if a = 13 then startView s m index sub
  else none

/-- VALUE that a read of an existing scalar entry returns to master `m`. -/
def viewOf (s : State) (m index sub : Nat) : Nat :=
  match findEntry index sub with
  | none => 0
  | some e =>
    if (s.ply16 && absent16 e index sub) || foreign m index sub then 0
    else match derived s m index sub with
      | some v => v
      | none =>
        let v := val s (keyOf index sub) (if s.ply16 then e.dflt16 else e.dflt)
        if e.ty = 4 then ofSigned 64 (toSigned 32 v) else v

/-- Bins of the selected bank, two bits a group (09 Table RFH-6). -/
def binBank (s : State) (m : Nat) : List Nat :=
  let b := selOf s m selBin
  (nums 0 256).map fun j => ((nums 0 4).map fun i => tget s.stack.bins (b * 1024 + 4 * j + i) 0 * 4 ^ i).foldl (· + ·) 0

/-- The selected ring record; an owner sees only its own function's, and only where the manager allows it (15 R402). -/
def ringView (s : State) (m : Nat) : Nat :=
  let r := tget s.obs.ring (selOf s m selRing) 0
  if isOwner m && !(rd s R.OBS_OWNER_RING = 1 && field r 20 4 + 1 = m) then 0 else r

/-- Bytes of a BLOB entry as master `m` reads it (12 R428). -/
def blobView (s : State) (m index sub : Nat) : List Nat :=
  if index = 0x3003 then let (n, sh, e) := gateSel s m; bytesLE (gateMask s n sh e) 512
  else if index = 0x5002 then (nums 0 256).flatMap fun i => bytesLE (tget s.stack.classLog i 0) 16
  else if index = 0x7100 then binBank s m
  else if index = 0x8002 then bytesLE (tget s.mram.log (selOf s m selLog) 0) 32
  else if index = 0x8004 then lineBytes (testData s)
  else if index = 0xA401 ∧ sub = 0 then bytesBE Config.publicKey.toNat 97
  else if index = 0xA401 then (if s.ump.certOk then certDigest else List.replicate 48 0)
  else if index = 0xA402 then measurement s sub
  else if index = 0xC900 then bytesLE (ringView s m) 32
  else []

end Sys2Proof.Machine
end

