-- ==== Sys2Proof/Machine/Dictionary.lean ====
section
/-!
DEFINITION. The dictionary engine: DICT_RD and DICT_WR, with the chapter rules of every entry and the parts of a BLOB (12 R321 to
R328, Table MGT-4).
-/
namespace Sys2Proof.Machine

/-- Codes that Table OBS-3 defines for unit `u`. -/
def codeDefined (u c : Nat) : Bool :=
  let last := if u < 8 then 27 else if u = 8 then 28 else if u = 9 then 27 else if u < 42 then 38
    else if u < 50 then 24 else if u = 50 then 24 else 23
  decide (c ≤ 3) || within c 16 last

/-- OBS_CTRL (15 R398). -/
def actObsCtrl (u k : Nat) (_ v : Nat) (s : State) : Nat × State :=
  let pc := field v 28 2
  if !codeDefined u (field v 0 10) || pc = 3 || (pc ≠ 0 && !within u 10 41) then (3, s)
  else (0, put s (keyOf (0xC000 + u) (9 + k)) 0 (v &&& 0xF00003FF))

/-- OBS_UNIT_STATUS: writing 1 clears an overflow bit or an edge's bit; LOST stays (15 Table OBS-6). -/
def actObsStatus (u : Nat) (_ v : Nat) (s : State) : Nat × State :=
  let old := tget s.obs.status u 0
  (0, setUnitStatus s u (old - (old &&& v &&& 0xFFFF)))

/-- MGT_SB_STATUS: writing 1 clears the overrun bit (12 R340). -/
def actSbStatus (_ v : Nat) (s : State) : Nat × State :=
  (0, if bitOf v 2 then { s with side := { s.side with overrun := false } } else s)

/-- An ordinary entry takes the value (Table MGT-2). -/
def actSet (e : Entry) (index sub : Nat) (_ v : Nat) (s : State) : Nat × State :=
  let k := keyOf index sub
  (0, put s k (dfltAt s k) (keptBits s e index sub v))

/-- Ring and trace entries: refused while their memory is (16 Table BUP-3, memory 13); a write of the period, a filter or the
mode restarts the candidate count (15 R404). -/
def actObsPort (e : Entry) (index sub : Nat) (m v : Nat) (s : State) : Nat × State :=
  if s.obs.faulty then (5, s)
  else if index = 0xC900 ∧ sub = 9 then (0, setSel s m selRing v)
  else if index = 0xC900 ∧ sub = 11 then actRingClear m v s
  else if index = 0xCA00 ∧ sub = 0 then actTraceEnable m v s
  else
    let (_, s) := actSet e index sub m v s
    (0, if index = 0xC900 then { s with obs := { s.obs with candidates := 0 } } else s)

/-- ENG_DRAIN_HIGH and ENG_DRAIN_LOW bind each other, and every engine follows them at once (07 R199). -/
def actDrain (e : Entry) (sub : Nat) (m v : Nat) (s : State) : Nat × State :=
  if (sub = 0 && v ≤ rd s R.ENG_DRAIN_LOW) || (sub = 1 && rd s R.ENG_DRAIN_HIGH ≤ v) then (3, s)
  else
    let (_, s) := actSet e 0x5000 sub m v s
    (0, forEach (s.pchs.map (·.1)) s settleMode)

/-- Entries whose single instance has an action of its own, by key: the actions of their rows, and what their chapters say of
selections and of BLK_AVS_ENABLE. -/
def singleActs (e : Entry) : Tbl (Nat → Nat → State → Nat × State) :=
  [(0x000301, actClear parityCounts),
   (0x001200, fun m v s => let (_, s) := actSet e 0x0012 0 m v s; (0, avsClimb s)),
   (0x100000, actPortEnable),
   (0x103100, actClear linkCounts),
   (0x200100, actMapCommit),
   (0x200105, actCommitCancel),
   (0x200300, fun _ v s => (0, beginXlate (xlateAddr s v (rd s R.MAP_XLATE_FUNCTION)) s)),
   (0x200303, actXlateSlot),
   (0x320001, actLeafCir),
   (0x320008, actLeafOlMax),
   (0x320015, actLeafBucketReset),
   (0x320016, actLeafBranch),
   (0x320018, actLeafClear),
   (0x330000, actBranchCtrl),
   (0x330001, actBranchMin),
   (0x330003, actBranchMax),
   (0x330009, actBranchBucketReset),
   (0x390000, actLeafCreate),
   (0x400000, actFunCoherent),
   (0x401000, actFilterProbe .ok),
   (0x401100, actClear homeCounts),
   (0x500000, actDrain e 0),
   (0x500001, actDrain e 1),
   (0x500003, fun m v s => let (_, s) := actSet e 0x5000 3 m v s; (0, ageAll s)),
   (0x500100, actQualEnable),
   (0x500300, actClear engineCounts),
   (0x660000, actMrRead),
   (0x660100, actClear cdiCounts),
   (0x710000, fun m v s => (0, setSel s m selBin v)),
   (0x710200, actBinMax),
   (0x710201, actBinReset)] ++
  [(0x710300, actProfEnable),
   (0x711000, actClear heatCounts),
   (0x800203, fun m v s => (0, setSel s m selLog v)),
   (0x800300, actRetireRow),
   (0x800301, actRetireBank),
   (0x800400, fun m v s => if s.stack.testCmd ≠ 0 then (5, s) else actSet e 0x8004 0 m v s),
   (0x800403, actTestCmd),
   (0x800500, actClear integrityCounts),
   (0x900100, actPwrCmd),
   (0x910200, actClear sleepCounts),
   (0xA00100, actDictLock),
   (0xA00201, actPersistErase),
   (0xA00400, actDescribe),
   (0xA01100, actSbStatus),
   (0xA01101, actSbFlush),
   (0xA14000, actTableLock),
   (0xA20005, actUmpireRestart),
   (0xAF0000, actClear mgmtCounts),
   (0xA80004, actSvnFloor),
   (0xA81000, actLoadBegin),
   (0xA81003, actVerify),
   (0xA81100, actActivate),
   (0xA81101, actCommit),
   (0xA81102, actRollback),
   (0xB40000, actBlockReset),
   (0xB40100, actLinkReset),
   (0xB40300, actFaultClear),
   (0xC80000, actObsCmd),
   (0xCB0000, actClear statCounts),
   (0xD00500, fun m v s => (0, setSel s m selFail v)),
   (0xD00600, fun m v s => (0, setSel s m selFuse v))]

/-- The action of the entry at `key`, if it has one. -/
def singleAct (e : Entry) (key : Nat) : Option (Nat → Nat → State → Nat × State) := tget? (singleActs e) key

/-- Entries with several instances whose instance has an action of its own. -/
def arrayActs (e : Entry) (i sub : Nat) : List (Bool × (Nat → Nat → State → Nat × State)) :=
  [(within i 0x3400 0x3407 && sub = 0, actTrunkMax (i - 0x3400)),
   (within i 0x3400 0x3407 && sub = 7, actGateSwitch (i - 0x3400)),
   (within i 0x3400 0x3407 && sub = 0xC, actTrunkBucketReset (i - 0x3400)),
   (within i 0x3400 0x3407 && sub = 0xD, actGateCancel (i - 0x3400)),
   (within i 0x4100 0x410F && sub = 1, actCellCmd (i - 0x4100)),
   (within i 0x4100 0x410F && sub = 0xB, actEpoch (i - 0x4100)),
   (within i 0x5440 0x545F, actClassCap (i - 0x5440) sub),
   (within i 0xA100 0xA13F && sub = 0, actMbxBind (i - 0xA100)),
   (within i 0xA100 0xA13F && sub = 1, actMbxPost (i - 0xA100)),
   (within i 0xA100 0xA13F && sub = 2, actMbxStatus (i - 0xA100)),
   (within i 0xA100 0xA13F && sub = 4, actMbxRelease (i - 0xA100)),
   (within i 0xA100 0xA13F && sub = 5, actMbxMode (i - 0xA100)),
   (i = 0xA143, actMasterSleep sub)] ++
  [(within i 0xB000 0xB00F && sub = 0, actGrpStatus (i - 0xB000)),
   (within i 0xB000 0xB00F && sub = 1, actGrpEnable (i - 0xB000)),
   (within i 0xB000 0xB00F && sub = 2, actGrpForce (i - 0xB000)),
   (within i 0xB000 0xB00F && sub = 6, actLatchClear (i - 0xB000)),
   (within i 0xB000 0xB00F && sub = 9, actGrpQuiet (i - 0xB000)),
   (within i 0xE000 0xE00F && sub = 0, actFunReset (i - 0xE000)),
   (within i 0xE000 0xE00F && sub = 8, fun m v s => (0, setSel s m (selLedger (i - 0xE000)) v)),
   (within i 0xE000 0xE00F && sub = 0xA, actLedgerClear (i - 0xE000)),
   (within i 0xC000 0xC033 && within sub 9 16, actObsCtrl (i - 0xC000) (sub - 9)),
   (within i 0xC000 0xC033 && sub = 17, actObsStatus (i - 0xC000)),
   (within i 0xC000 0xC033 && sub = 18, actUnitClear (i - 0xC000)),
   (i = 0xC900 || i = 0xCA00, actObsPort e i sub)]

/-- The action of a write to an entry of an array: trunks, cells, banks' caps, mailboxes, masters, event groups, functions,
observation units. -/
def arrayAct (e : Entry) (index sub : Nat) : Option (Nat → Nat → State → Nat × State) :=
  ((arrayActs e index sub).find? (·.1)).map (·.2)

/-- A write that passed the checks of Table MGT-4 that its row states: a status of its chapter (0 done), and the state after. -/
def writeEntry (e : Entry) (index sub m v : Nat) (s : State) : Nat × State :=
  match singleAct e (keyOf index sub) with
  | some f => f m v s
  | none =>
    match arrayAct e index sub with
    | some f => f m v s
    | none =>
      match mapWrite index sub (keptBits s e index sub v) s with
      | some r => r
      | none =>
        match epochWrite index sub v s with
        | some r => r
        | none =>
          match treeWrite m index sub v s with
          | some r => r
          | none => actSet e index sub m v s

/-- Chapter rules that refuse a part of a BLOB: the gate lists (05 R121; status 2 for the active one, log entry 24), and an image
block (13 R362). -/
def blobStatus (s : State) (m index : Nat) : Nat :=
  if index = 0x3003 then
    let (n, shadow, _) := gateSel s m
    if !shadow then 2 else if switchPending s n then 5 else 0
  else if index = 0xA810 then (if rdi s R.UPG_IMAGE_STATE (inactiveSlot s) ≠ 1 then 5 else 0)
  else if index = 0xC900 then (if s.obs.faulty then 5 else 0)
  else 0

/-- A BLOB entry takes its bytes whole. -/
def applyBlob (s : State) (m index : Nat) (bytes : List Nat) : Nat × State :=
  if index = 0x3003 then
    let (n, _, i) := gateSel s m
    (0, put s (gateKey n true i 1) 0 (ofBytesLE bytes))
  else if index = 0x8004 then (0, setTestData s (lineOfBytes bytes))
  else if index = 0xA810 then actLoadData (BitVec.ofNat 32768 (ofBytesLE bytes)) m 0 s
  else (0, s)

def setStaging (s : State) (m : Nat) (x : Option Staging) : State :=
  { s with dict := { s.dict with staging := match x with
    | some g => tset s.dict.staging m g
    | none => tdel s.dict.staging m } }

/-- One part of a BLOB written by `m` (R328). -/
def writePart (e : Entry) (d : DictMsg) (m : Nat) (s : State) : Nat × State :=
  let data := d.data ++ List.replicate (d.nslots * 16 - d.data.length) 0
  let held : Option (List Nat) := if d.offset = 0 then some [] else
    match tget? s.dict.staging m with
    | some g => if g.index = d.index && g.sub = d.sub && g.bytes.length = d.offset * 16 then some g.bytes else none
    | none => none
  match held with
  | none => (6, setStaging s m none)
  | some b =>
    let st := blobStatus s m d.index
    if st ≠ 0 then (st, s)
    else
      let bytes := b ++ data.take (d.nslots * 16)
      if bytes.length < e.length then (0, setStaging s m (some ⟨d.index, d.sub, bytes, s.now⟩))
      else applyBlob (setStaging s m none) m d.index (bytes.take e.length)

def setSnap (s : State) (m : Nat) (x : Option Staging) : State :=
  { s with dict := { s.dict with snaps := match x with
    | some g => tset s.dict.snaps m g
    | none => tdel s.dict.snaps m } }

/-- One part of a BLOB read by `m`: a read at OFFSET 0 takes a snapshot, and later parts read it (R328). -/
def readPart (e : Entry) (d : DictMsg) (m : Nat) (s : State) : List Nat × State :=
  let s := if d.offset = 0 then setSnap s m (some ⟨d.index, d.sub, blobView s m d.index d.sub, s.now⟩) else s
  let bytes := match tget? s.dict.snaps m with
    | some g => if g.index = d.index && g.sub = d.sub then g.bytes else blobView s m d.index d.sub
    | none => blobView s m d.index d.sub
  let part := (bytes.drop (d.offset * 16)).take 128
  (part, if e.length ≤ d.offset * 16 + 128 then setSnap s m none else s)

/-- A read by `m` that passed the checks of Table MGT-4: a status of its chapter, VALUE, data bytes and the state after. -/
def readEntry (e : Entry) (d : DictMsg) (m : Nat) (s : State) : Nat × Nat × List Nat × State :=
  if s.ply16 && absent16 e d.index d.sub then (0, 0, if e.ty = 10 then List.replicate (min 128 (e.length - d.offset * 16)) 0 else [], s)
  else if s.obs.faulty && (d.index = 0xC900 || d.index = 0xCA00) then (5, 0, [], s)
  else if e.ty = 10 then
    let (b, s) := readPart e d m s
    (0, 0, b, s)
  else if 0xA100 ≤ d.index ∧ d.index < 0xA140 ∧ d.sub = 1 then
    let (st, v, s) := takeMbx (d.index - 0xA100) m s
    (st, v, [], s)
  else if 0xA100 ≤ d.index ∧ d.index < 0xA140 ∧ d.sub = 4 then
    let (st, v, s) := lockMbx (d.index - 0xA100) m s
    (st, v, [], s)
  else if d.index = 0xA301 then
    let (n, s) := takeFree s
    (0, (Config.freeValue n).toNat % 2 ^ 32, [], s)
  else
    let v := viewOf s m d.index d.sub
    let s := if 0xB000 ≤ d.index ∧ d.index < 0xB010 ∧ d.sub = 0 ∧ m = 0x20 then
        { s with side := { s.side with alerts := putBit s.side.alerts (d.index - 0xB000) false } } else s
    (0, v, [], s)

/-- DICT_RD (R326). -/
def doDictRd (d : DictMsg) (s : State) : State :=
  if !reaches s d.src then turnAway s d.src
  else
    let s := takeMgtCredit s d.src
    let st := accessStatus s d.src false d.index d.sub 0 d.offset d.nslots
    if st ≠ 0 then refuse s d.src d.mtag 0x21 d.index d.sub d.offset st
    else
      match findEntry d.index d.sub with
      | none => refuse s d.src d.mtag 0x21 d.index d.sub d.offset 1
      | some e =>
        let (st, v, b, s') := readEntry e d (masterOf s d.src) s
        if st ≠ 0 then refuse s' d.src d.mtag 0x21 d.index d.sub d.offset st
        else grant s' d.src d.mtag 0x21 d.index d.sub d.offset v b

def execDictRd (msg : DictMsg) (s : State) : Host.Outcome State Fault Refusal := .next (doDictRd msg s)

/-- DICT_WR (R326). -/
def doDictWr (d : DictMsg) (s : State) : State :=
  if !reaches s d.src then turnAway s d.src
  else
    let s := takeMgtCredit s d.src
    let st := accessStatus s d.src true d.index d.sub d.value d.offset d.nslots
    if st ≠ 0 then refuse s d.src d.mtag 0x22 d.index d.sub d.offset st
    else
      match findEntry d.index d.sub with
      | none => refuse s d.src d.mtag 0x22 d.index d.sub d.offset 1
      | some e =>
        let m := masterOf s d.src
        let (st, s') := if e.ty = 10 then writePart e d m s else writeEntry e d.index d.sub m d.value s
        if st ≠ 0 then refuse s' d.src d.mtag 0x22 d.index d.sub d.offset st
        else grant s' d.src d.mtag 0x22 d.index d.sub d.offset 0 []

def execDictWr (msg : DictMsg) (s : State) : Host.Outcome State Fault Refusal := .next (doDictWr msg s)

end Sys2Proof.Machine
end

