-- ==== Sys2Proof/Machine/Inbound.lean ====
section
/-!
DEFINITION. INBOUND_FRAME: the inbound FIFO, MCTP reassembly, and what each complete message does (02 R49, 12 R333, R334, R337 to
R343). PRESUMED, log entries 12 and 14: the layouts of the MCTP packet header, of MCTP control and of SPDM messages.
-/
namespace Sys2Proof.Machine

/-- Byte `k` of a message, and `n` bytes from `k` as a little-endian number. -/
def byteAt (m : List Nat) (k : Nat) : Nat := m.getD k 0
def leAt (m : List Nat) (k n : Nat) : Nat := ofBytesLE ((m.drop k).take n)

/-- An MCTP control request: [type, Rq/D/instance, command, data …]. -/
def controlMsg (src : Nat) (m : List Nat) (s : State) : State :=
  let inst := byteAt m 1 % 32
  if byteAt m 1 < 128 then s
  else served s fun s =>
    match byteAt m 2 with
    | 1 => ctlSetEid inst src (byteAt m 3 % 4) (byteAt m 4) s
    | 2 => ctlGetEid inst src s
    | 4 => ctlGetVersion inst src (byteAt m 3) s
    | 5 => ctlGetTypes inst src s
    | 6 => ctlGetVendor inst src (byteAt m 3) s
    | c => ctlOther inst src c s

/-- An SPDM request: [type, version, code, param 1, param 2, …]. -/
def spdmMsg (src : Nat) (m : List Nat) (s : State) : State :=
  let p1 := byteAt m 3
  let p2 := byteAt m 4
  match byteAt m 2 with
  | 0x84 => doGetVersion src s
  | 0xE1 => doGetCapabilities src s
  | 0xE3 => doNegotiateAlgorithms src (bitOf (byteAt m 7) 0 && bitOf (leAt m 9 4) 7 && bitOf (leAt m 13 4) 1) s
  | 0x81 => doGetDigests src s
  | 0x82 => doGetCertificate src (p1 % 16) (leAt m 5 2) (leAt m 7 2) s
  | 0x83 => doChallenge src p1 p2 (leAt m 5 32) s
  | 0xE0 => doGetMeasurements src p2 (bitOf p1 0) (leAt m 5 32) s
  | c => doUnsupportedSpdmRequest src c s

/-- A vendor-defined message (Table MGT-7): the enterprise number and KIND must be the block's; a dictionary request carries
the data its NSLOTS names. -/
def vendorMsg (src : Nat) (m : List Nat) (s : State) : State :=
  if m.length < 22 || (m.drop 1).take 4 ≠ bytesBE (rd s R.MGT_IANA_PEN) 4 then discardMsg s
  else
    let h := leAt m 6 16
    let data := m.drop 22
    let nslots := field h 70 4
    let op := field h 118 6
    if byteAt m 5 = 3 then doSbTimeValue src (leAt m 6 8) s
    else if byteAt m 5 ≠ 1 || field h 124 4 ≠ 5 || !(op = 1 || op = 2) || (nslots ≤ 8 && data.length ≠ nslots * 16) then discardMsg s
    else
      let d : DictMsg := ⟨.sideband src, field h 106 8, field h 90 16, field h 82 8, field h 74 8, nslots, field h 0 64, data⟩
      if op = 1 then doDictRd d s else doDictWr d s

/-- A complete message: its type decides; one with the integrity check bit, or of another type, is discarded and counted
(R333). -/
def mctpMsg (src tag : Nat) (m : List Nat) (s : State) : State :=
  let s := { s with side := { s.side with tag := tag % 8 } }
  match byteAt m 0 with
  | 0x00 => controlMsg src m s
  | 0x05 => spdmMsg src m s
  | 0x7F => vendorMsg src m s
  | _ => discardMsg s

def setReasm (s : State) (l : List Reassembly) : State := { s with side := { s.side with reasm := l } }

/-- A packet is taken into the messages under reassembly (R333): [version, destination, source, flags, payload …]. -/
def mctpPacket (p : List Nat) (s : State) : State :=
  let flags := byteAt p 3
  let src := byteAt p 2
  let tag := flags % 16
  let payload := p.drop 4
  let others := s.side.reasm.filter fun r => !(r.src = src && r.tag = tag)
  let eom := bitOf flags 6
  if p.length < 5 || 68 < p.length || byteAt p 0 % 16 ≠ 1 || !(byteAt p 1 = 0 || byteAt p 1 = rd s R.MGT_EID) then s
  else if bitOf flags 7 then
    if 4 ≤ others.length then s
    else if eom then mctpMsg src tag payload (setReasm s others)
    else setReasm s (others ++ [⟨src, tag, (field flags 4 2 + 1) % 4, payload⟩])
  else
    match s.side.reasm.find? fun r => r.src = src && r.tag = tag with
    | none => s
    | some r =>
      if r.seq ≠ field flags 4 2 then setReasm s others
      else
        let m := r.bytes ++ payload
        if eom then mctpMsg src tag m (setReasm s others)
        else setReasm s (others ++ [{ r with seq := (r.seq + 1) % 4, bytes := m }])

/-- The reader takes the committed frames in order, `fuel` at most. -/
def readFrames (s : State) : Nat → State
  | 0 => s
  | n + 1 =>
    if s.side.inb.isEmpty then s
    else
      let (ws, r) := s.side.inb.frameAt s.side.inb.r 512
      readFrames (mctpPacket (wordsBytes ws) { s with side := { s.side with inb := { s.side.inb with r := r } } }) n

/-- A bad frame: W takes C, and the frame is counted (R338, R339). -/
def badFrame (s : State) : State :=
  let s := { s with side := { s.side with inb := { s.side.inb with w := s.side.inb.c } } }
  raiseFirst (bump s R.MGT_SB_BAD_FRAMES) 10 12 0 0

/-- A frame met a full FIFO (R340). -/
def overrunFrame (s : State) : State :=
  badFrame (raiseEv (bump { s with side := { s.side with overrun := true } } R.MGT_SB_OVERRUNS) 10 10 0 0)

/-- INBOUND_FRAME: in S2 the always-on island NACKs it and latches a wake (02 R49). -/
def doInboundFrame (bytes : List Nat) (fault : FrameFault) (s : State) : State :=
  if rd s R.SLP_STATE = 3 then if rd s R.MGT_I3C_ADDRESS = 0 then s else latchWake s (ident 6 2)
  else if !mgmtUp s || rd s R.MGT_I3C_ADDRESS = 0 || bytes = [] then s
  else
    let words := frameWords false (bytes.map (· % 256))
    if s.side.inb.free < (bytes.length + 31) / 32 then overrunFrame s
    else if fault ≠ .none && fault ≠ .corrected then badFrame s
    else
      let s := obsEvent { s with side := { s.side with inb := s.side.inb.write words } } unitMgmt 19 1
      readFrames (if fault = .corrected then correctedWord s else s) 512

def execInboundFrame (bytes : List Nat) (fault : FrameFault) (s : State) : Host.Outcome State Fault Refusal :=
  .next (doInboundFrame bytes fault s)

end Sys2Proof.Machine
end

