-- ==== Sys2Proof/Machine/Delivery.lean ====
section
/-!
DEFINITION. FLIT_RECEIVE: a flit is checked, and its messages are decoded and delivered in the order of R72 (03 R56 to R85).
-/
namespace Sys2Proof.Machine

/-- Slot `k` of a flit, and the line that slots `k` to `k + 3` hold (03 Table LNK-5). -/
def slotAt (flit k : Nat) : Nat := field flit (128 * k) 128
def lineAt (flit k : Nat) : Line := BitVec.ofNat 512 (field flit (128 * k) 512)

/-- The request header of a slot (Table LNK-4). -/
def reqHdrOf (port h : Nat) : ReqHdr :=
  { port := port, fn := field h 114 4, label := field h 100 14, agent := field h 88 12, tag := field h 72 16, line := field h 26 46 }

/-- OPSPEC of an ATOM and its operand slot (R70, Table LNK-6). -/
def atomOf (h operand : Nat) : AtomSpec :=
  { aop := field h 22 4, size8 := bitOf h 21, offset := field h 12 6
    operand := BitVec.ofNat 64 (field operand 64 64), compare := BitVec.ofNat 64 (field operand 0 64) }

/-- A REQ-class message acts as its opcode (Table LNK-5); an opcode the table does not name is unsupported (R71). -/
def deliverReq (port flit k : Nat) (s : State) : State :=
  let x := slotAt flit k
  let h := reqHdrOf port x
  match field x 118 6 with
  | 1 => doRd h s
  | 2 => doWrFull h (lineAt flit (k + 1)) s
  | 3 => doWrPart h (BitVec.ofNat 64 (slotAt flit (k + 1))) (lineAt flit (k + 2)) s
  | 4 => doRdShared h s
  | 5 => doRdOwn h s
  | 6 => doUpgrade h s
  | 7 => doWbDirty h (lineAt flit (k + 1)) s
  | 8 => doWrHint h (field x 14 12) (lineAt flit (k + 1)) s
  | 9 => doAtom h (atomOf x (slotAt flit (k + 1))) s
  | op => arrive s { op := .other op, h := h }

/-- An SRS-class message: a CMP_ACK (R76), or an answer to a snoop or hint (Table LNK-10). -/
def deliverSrs (port flit k : Nat) (s : State) : State :=
  let x := slotAt flit k
  let r : SnoopRsp := ⟨port, field x 106 12, field x 90 16⟩
  match field x 118 6 with
  | 1 => doRspNotPresent r s
  | 2 => doRspInvClean r s
  | 3 => doRspShared r s
  | 4 => doRspDirty r (lineAt flit (k + 1)) s
  | 5 => doRspWbInFlight r s
  | 6 => doCmpAck port (field x 115 3) ((nums 0 7).map fun i => field x (96 - 16 * i) 16) s
  | 7 => doHintAccept r s
  | _ => doHintDecline r s

/-- A MGT-class message (Table LNK-11, Table LNK-12). -/
def deliverMgt (port flit k : Nat) (s : State) : State :=
  let x := slotAt flit k
  let n := field x 70 4
  let src : Sender := .inband port (field x 114 4)
  let mtag := field x 106 8
  let d : DictMsg := ⟨src, mtag, field x 90 16, field x 82 8, field x 74 8, n, field x 0 64,
    bytesLE (field flit (128 * (k + 1)) (128 * n)) (16 * n)⟩
  match field x 118 6 with
  | 1 => doDictRd d s
  | 2 => doDictWr d s
  | _ => pwrCmd src mtag (field x 56 8) (field x 48 8) s

/-- A CTL-class message (Table LNK-14). -/
def deliverCtl (port flit k : Nat) (s : State) : State :=
  let x := slotAt flit k
  match field x 118 6 with
  | 1 => doNegOffer port (field x 102 16) ((nums 0 6).map fun c => field x (80 - 16 * c) 16) s
  | 3 => doAgentJoin port (field x 106 12) (field x 102 4) (field x 98 4) (bitOf x 97) s
  | _ => doAgentLeave port (field x 106 12) s

def classAt (flit k : Nat) : Nat := field (slotAt flit k) 124 4

/-- The message whose header stands in slot `k` acts; before NEG_SELECT one that is not CTL is discarded and counted (R83). -/
def deliverMsg (up : Bool) (port flit k : Nat) (s : State) : State :=
  let c := classAt flit k
  if !up && c ≠ 8 then bumpi s R.LNK_DISCARDS port
  else if c = 1 then deliverReq port flit k s
  else if c = 4 then deliverSrs port flit k s
  else if c = 5 then deliverMgt port flit k s
  else if c = 7 then doTimeNext port (field (slotAt flit k) 0 64) s
  else deliverCtl port flit k s

/-- Slot order, but that the SRS messages of the flit go ahead of its first REQ message (R72). -/
def deliveryOrder (flit : Nat) (slots : List Nat) : List Nat :=
  let before := slots.takeWhile fun k => classAt flit k ≠ 1
  let rest := slots.dropWhile fun k => classAt flit k ≠ 1
  before ++ rest.filter (fun k => classAt flit k = 4) ++ rest.filter fun k => classAt flit k ≠ 4

/-- A normal flit in order (R60, R62): its messages are delivered, those ahead of a malformed or uncovered one too, which takes
the port to LinkError (R85). -/
def acceptFlit (s : State) (n flit : Nat) : State :=
  let s := obsEvent s n 16 1
  let s := modLink s n fun l => { l with rxNext := (l.rxNext + 1) % 1024, dirty := true, waitSeq := false }
  let s := adoptFlit s n flit
  let up := (linkOf s n).up
  let (slots, e) := scanFlit (portRev s n) up flit 15 1 (linkOf s n).rxUsed
  let s := forEach (deliveryOrder flit slots) s fun s k => deliverMsg up n flit k s
  match e with
  | .fine => s
  | .malformed => forceLinkError s n 6
  | .credit c => raiseEv (forceLinkError s n 7) 1 8 c (ident 2 n)

/-- The replay queue has no room for the requests of a flit (11 R301). -/
def noReplayRoom (s : State) (n : Nat) : Bool := replaying s && n ≠ 0 && decide (256 < s.sleep.queue.length + n)

/-- FLIT_RECEIVE (R56, R60, R62, R85). A NAK's ACK_SEQ acts through NAK_RECEIVE, ahead of any new flit. -/
def doFlitReceive (port : Nat) (flit : BitVec 2048) (s : State) : State :=
  if !linkRuns s port || (linkOf s port).fdi ≠ .active then s
  else
    let s := ungate s port
    let x := flit.toNat
    let kind := field x 126 2
    if crc32 (bytesLE (x - x % 2 ^ 32) 256) ≠ x % 2 ^ 32 then
      if kind = 1 || kind = 2 then bumpi s R.LNK_CRC_ERRORS port else discardFlit s port
    else if kind = 3 then forceLinkError s port 6
    else if kind = 1 then adoptFlit s port x
    else if kind = 2 then modLink (obsEvent s port 20 1) port fun l => adoptCredits l x
    else
      let d := (field x 116 10 + 1024 - (linkOf s port).rxNext) % 1024
      if bitOf s.sleep.nakOwed port then s
      else if d = 0 then
        if noReplayRoom s (reqCount (portRev s port) x) then
          modSleep s fun z => { z with nakOwed := putBit z.nakOwed port true }
        else acceptFlit s port x
      else if d < 512 then discardFlit s port
      else s

def execFlitReceive (port : Nat) (flit : BitVec 2048) (s : State) : Host.Outcome State Fault Refusal :=
  .next (doFlitReceive port flit s)

end Sys2Proof.Machine
end

