-- ==== Sys2Proof/Machine/Dispatch.lean ====
section
/-!
DEFINITION. One arm per command of the opcode table: a direct call of its meaning.
-/
namespace Sys2Proof.Machine

def exec (i : Instr) (s : State) : Host.Outcome State Fault Refusal :=
  match i with
  | .porAssert => Sys2Proof.Machine.execPorAssert s
  | .blockResetAssert => Sys2Proof.Machine.execBlockResetAssert s
  | .resetRelease => Sys2Proof.Machine.execResetRelease s
  | .fuseLoadDone f => Sys2Proof.Machine.execFuseLoadDone f s
  | .rstCmplAckRise => Sys2Proof.Machine.execRstCmplAckRise s
  | .rstCmplAckFall => Sys2Proof.Machine.execRstCmplAckFall s
  | .mramLoadDone m => Sys2Proof.Machine.execMramLoadDone m s
  | .mbistDone failed repaired channels ports => Sys2Proof.Machine.execMbistDone failed repaired channels ports s
  | .firmwareVerifyDone v => Sys2Proof.Machine.execFirmwareVerifyDone v s
  | .trainingDone r => Sys2Proof.Machine.execTrainingDone r s
  | .marchDone fails micros => Sys2Proof.Machine.execMarchDone fails micros s
  | .hardRepairDone outcome => Sys2Proof.Machine.execHardRepairDone outcome s
  | .fuseProgramDone readBack => Sys2Proof.Machine.execFuseProgramDone readBack s
  | .fillDone sapling => Sys2Proof.Machine.execFillDone sapling s
  | .pwrAck supply level => Sys2Proof.Machine.execPwrAck supply level s
  | .pwrAckTimeout supply => Sys2Proof.Machine.execPwrAckTimeout supply s
  | .refclkLoss => Sys2Proof.Machine.execRefclkLoss s
  | .refclkReturn => Sys2Proof.Machine.execRefclkReturn s
  | .holdoverClockSwitch => Sys2Proof.Machine.execHoldoverClockSwitch s
  | .pllLockLoss pll => Sys2Proof.Machine.execPllLockLoss pll s
  | .avsMarginLow step => Sys2Proof.Machine.execAvsMarginLow step s
  | .avsMarginHighHold step => Sys2Proof.Machine.execAvsMarginHighHold step s
  | .avsAck late => Sys2Proof.Machine.execAvsAck late s
  | .avsAckDrop => Sys2Proof.Machine.execAvsAckDrop s
  | .avsAckTimeout => Sys2Proof.Machine.execAvsAckTimeout s
  | .dieCattripRise die edges => Sys2Proof.Machine.execDieCattripRise die edges s
  | .extWake edges => Sys2Proof.Machine.execExtWake edges s
  | .tsyncEdge eighths edges c25 cx => Sys2Proof.Machine.execTsyncEdge eighths edges c25 cx s
  | .timeErrorLimit => Sys2Proof.Machine.execTimeErrorLimit s
  | .dynamicAddressAssign addr => Sys2Proof.Machine.execDynamicAddressAssign addr s
  | .plProtocolVld port cfg => Sys2Proof.Machine.execPlProtocolVld port cfg s
  | .fdiActive port => Sys2Proof.Machine.execFdiActive port s
  | .retrainEntry port => Sys2Proof.Machine.execRetrainEntry port s
  | .retrainExit port => Sys2Proof.Machine.execRetrainExit port s
  | .retrainLimitExpiry port => Sys2Proof.Machine.execRetrainLimitExpiry port s
  | .linkResetDone port => Sys2Proof.Machine.execLinkResetDone port s
  | .adapterLinkerror port => Sys2Proof.Machine.execAdapterLinkerror port s
  | .l1Reached port => Sys2Proof.Machine.execL1Reached port s
  | .plStallreq port => Sys2Proof.Machine.execPlStallreq port s
  | .plClkReq port => Sys2Proof.Machine.execPlClkReq port s
  | .plRxActiveReq port => Sys2Proof.Machine.execPlRxActiveReq port s
  | .plError port => Sys2Proof.Machine.execPlError port s
  | .plNferror port => Sys2Proof.Machine.execPlNferror port s
  | .plCerror port => Sys2Proof.Machine.execPlCerror port s
  | .plPhyinrecenter port => Sys2Proof.Machine.execPlPhyinrecenter port s
  | .lnkPortEnable a => Sys2Proof.Machine.execLnkPortEnable a s
  | .flitReceive port flit => Sys2Proof.Machine.execFlitReceive port flit s
  | .nakReceive port ackSeq => Sys2Proof.Machine.execNakReceive port ackSeq s
  | .nakRepeat port => Sys2Proof.Machine.execNakRepeat port s
  | .idleFlitSend port => Sys2Proof.Machine.execIdleFlitSend port s
  | .negOffer port revs credits => Sys2Proof.Machine.execNegOffer port revs credits s
  | .negTimeout port => Sys2Proof.Machine.execNegTimeout port s
  | .agentJoin port agent fn cell caching => Sys2Proof.Machine.execAgentJoin port agent fn cell caching s
  | .agentLeave port agent => Sys2Proof.Machine.execAgentLeave port agent s
  | .agentLeaveWalkDone agent ecc line => Sys2Proof.Machine.execAgentLeaveWalkDone agent ecc line s
  | .rd h => Sys2Proof.Machine.execRd h s
  | .rdShared h => Sys2Proof.Machine.execRdShared h s
  | .rdOwn h => Sys2Proof.Machine.execRdOwn h s
  | .upgrade h => Sys2Proof.Machine.execUpgrade h s
  | .wrFull h data => Sys2Proof.Machine.execWrFull h data s
  | .wrPart h mask data => Sys2Proof.Machine.execWrPart h mask data s
  | .wbDirty h data => Sys2Proof.Machine.execWbDirty h data s
  | .wrHint h target data => Sys2Proof.Machine.execWrHint h target data s
  | .atom h x => Sys2Proof.Machine.execAtom h x s
  | .unsupportedOpcode h opcode => Sys2Proof.Machine.execUnsupportedOpcode h opcode s
  | .cmpAck port count tags => Sys2Proof.Machine.execCmpAck port count tags s
  | .rspNotPresent r => Sys2Proof.Machine.execRspNotPresent r s
  | .rspInvClean r => Sys2Proof.Machine.execRspInvClean r s
  | .rspShared r => Sys2Proof.Machine.execRspShared r s
  | .rspDirty r data => Sys2Proof.Machine.execRspDirty r data s
  | .rspWbInFlight r => Sys2Proof.Machine.execRspWbInFlight r s
  | .hintAccept r => Sys2Proof.Machine.execHintAccept r s
  | .hintDecline r => Sys2Proof.Machine.execHintDecline r s
  | .dictRd d => Sys2Proof.Machine.execDictRd d s
  | .dictWr d => Sys2Proof.Machine.execDictWr d s
  | .blobStagingTimeout master => Sys2Proof.Machine.execBlobStagingTimeout master s
  | .pwrCmdA0 src mtag groups => Sys2Proof.Machine.execPwrCmdA0 src mtag groups s
  | .pwrCmdS1 src mtag groups => Sys2Proof.Machine.execPwrCmdS1 src mtag groups s
  | .pwrCmdS2 src mtag groups => Sys2Proof.Machine.execPwrCmdS2 src mtag groups s
  | .pwrCmdGroupS1 src mtag groups => Sys2Proof.Machine.execPwrCmdGroupS1 src mtag groups s
  | .timeNext port value => Sys2Proof.Machine.execTimeNext port value s
  | .sbTimeValue eid value => Sys2Proof.Machine.execSbTimeValue eid value s
  | .eventMessageSend group => Sys2Proof.Machine.execEventMessageSend group s
  | .responseSend port par => Sys2Proof.Machine.execResponseSend port par s
  | .dispatch trunk par => Sys2Proof.Machine.execDispatch trunk par s
  | .regulationUpdate => Sys2Proof.Machine.execRegulationUpdate s
  | .leafReclaim leaf => Sys2Proof.Machine.execLeafReclaim leaf s
  | .modelWindowEnd w => Sys2Proof.Machine.execModelWindowEnd w s
  | .rmwCharge => Sys2Proof.Machine.execRmwCharge s
  | .gateEntryStart trunk => Sys2Proof.Machine.execGateEntryStart trunk s
  | .gateGuardStart trunk => Sys2Proof.Machine.execGateGuardStart trunk s
  | .treGateSwitch a trunk => Sys2Proof.Machine.execTreGateSwitch a trunk s
  | .gateSwitchApply trunk => Sys2Proof.Machine.execGateSwitchApply trunk s
  | .treGateSwitchCancel a trunk => Sys2Proof.Machine.execTreGateSwitchCancel a trunk s
  | .treLeafCreate a => Sys2Proof.Machine.execTreLeafCreate a s
  | .treLeafBucketReset a => Sys2Proof.Machine.execTreLeafBucketReset a s
  | .treBranchBucketReset a => Sys2Proof.Machine.execTreBranchBucketReset a s
  | .treTrunkBucketReset a trunk => Sys2Proof.Machine.execTreTrunkBucketReset a trunk s
  | .treLeafClear a => Sys2Proof.Machine.execTreLeafClear a s
  | .treLeafCir a => Sys2Proof.Machine.execTreLeafCir a s
  | .treLeafOlMax a => Sys2Proof.Machine.execTreLeafOlMax a s
  | .treLeafBranch a => Sys2Proof.Machine.execTreLeafBranch a s
  | .treBranchCtrl a => Sys2Proof.Machine.execTreBranchCtrl a s
  | .treBranchMin a => Sys2Proof.Machine.execTreBranchMin a s
  | .treBranchMax a => Sys2Proof.Machine.execTreBranchMax a s
  | .treTrunkMax a trunk => Sys2Proof.Machine.execTreTrunkMax a trunk s
  | .homeAccept par => Sys2Proof.Machine.execHomeAccept par s
  | .transactionActivate txn ecc => Sys2Proof.Machine.execTransactionActivate txn ecc s
  | .possessionWindowEnd line agent => Sys2Proof.Machine.execPossessionWindowEnd line agent s
  | .snoopTimeout txn agent => Sys2Proof.Machine.execSnoopTimeout txn agent s
  | .wbPairingTimeout txn agent => Sys2Proof.Machine.execWbPairingTimeout txn agent s
  | .ackTimeout txn => Sys2Proof.Machine.execAckTimeout txn s
  | .responseTimeout lost n => Sys2Proof.Machine.execResponseTimeout lost n s
  | .cellFallComplete cell ecc line => Sys2Proof.Machine.execCellFallComplete cell ecc line s
  | .homCellTakeDown a cell => Sys2Proof.Machine.execHomCellTakeDown a cell s
  | .homCellRestart a cell => Sys2Proof.Machine.execHomCellRestart a cell s
  | .homFunCoherent a => Sys2Proof.Machine.execHomFunCoherent a s
  | .homFilterProbeAddr a ecc => Sys2Proof.Machine.execHomFilterProbeAddr a ecc s
  | .homFilterProbeDone => Sys2Proof.Machine.execHomFilterProbeDone s
  | .homCellEpochArm a cell => Sys2Proof.Machine.execHomCellEpochArm a cell s
  | .homCellEpochCancel a cell => Sys2Proof.Machine.execHomCellEpochCancel a cell s
  | .epochSwitch cell => Sys2Proof.Machine.execEpochSwitch cell s
  | .mapCommit a => Sys2Proof.Machine.execMapCommit a s
  | .commitWalkStart ecc => Sys2Proof.Machine.execCommitWalkStart ecc s
  | .commitWalkDone => Sys2Proof.Machine.execCommitWalkDone s
  | .commitApply => Sys2Proof.Machine.execCommitApply s
  | .mapCommitCancel a => Sys2Proof.Machine.execMapCommitCancel a s
  | .mapTableStoreDone => Sys2Proof.Machine.execMapTableStoreDone s
  | .mapXlateAddr a => Sys2Proof.Machine.execMapXlateAddr a s
  | .mapXlateSlot a => Sys2Proof.Machine.execMapXlateSlot a s
  | .mapXlateDone => Sys2Proof.Machine.execMapXlateDone s
  | .engineReadEnqueue txn par => Sys2Proof.Machine.execEngineReadEnqueue txn par s
  | .engineWritePlace txn par => Sys2Proof.Machine.execEngineWritePlace txn par s
  | .mergeTimeout pc id => Sys2Proof.Machine.execMergeTimeout pc id s
  | .requestAged pc id => Sys2Proof.Machine.execRequestAged pc id s
  | .act pc sid bank row nck flips => Sys2Proof.Machine.execAct pc sid bank row nck flips s
  | .pre pc sid bank sag nck flips => Sys2Proof.Machine.execPre pc sid bank sag nck flips s
  | .columnRd pc id nck b flips => Sys2Proof.Machine.execColumnRd pc id nck b flips s
  | .wr pc id nck flips => Sys2Proof.Machine.execWr pc id nck flips s
  | .refpb pc sid bank sag group nck flips => Sys2Proof.Machine.execRefpb pc sid bank sag group nck flips s
  | .reft pc sid bank sag nck flips => Sys2Proof.Machine.execReft pc sid bank sag nck flips s
  | .refab pc sid nck flips => Sys2Proof.Machine.execRefab pc sid nck flips s
  | .prea pc sid nck flips => Sys2Proof.Machine.execPrea pc sid nck flips s
  | .mrw channel sid ma data nck flips => Sys2Proof.Machine.execMrw channel sid ma data nck flips s
  | .mrr channel sid ma nck flips => Sys2Proof.Machine.execMrr channel sid ma nck flips s
  | .mrrResult channel sid ma own err => Sys2Proof.Machine.execMrrResult channel sid ma own err s
  | .sre channel nck flips => Sys2Proof.Machine.execSre channel nck flips s
  | .sreConfirmed channel => Sys2Proof.Machine.execSreConfirmed channel s
  | .srx channel nck flips => Sys2Proof.Machine.execSrx channel nck flips s
  | .wrFifo pc sid entry nck data flips => Sys2Proof.Machine.execWrFifo pc sid entry nck data flips s
  | .rdFifo pc sid entry nck flips => Sys2Proof.Machine.execRdFifo pc sid entry nck flips s
  | .rdCal pc sid pattern nck flips => Sys2Proof.Machine.execRdCal pc sid pattern nck flips s
  | .wckSync pc sid nck flips => Sys2Proof.Machine.execWckSync pc sid nck flips s
  | .softRepair channel sid nck flips => Sys2Proof.Machine.execSoftRepair channel sid nck flips s
  | .hardRepair channel sid nck flips => Sys2Proof.Machine.execHardRepair channel sid nck flips s
  | .writeBurstEnd pc id => Sys2Proof.Machine.execWriteBurstEnd pc id s
  | .readDecode pc id err par => Sys2Proof.Machine.execReadDecode pc id err par s
  | .qualTestStart pc sid bank rows => Sys2Proof.Machine.execQualTestStart pc sid bank rows s
  | .qualTestDone pc sid bank => Sys2Proof.Machine.execQualTestDone pc sid bank s
  | .qualBandSettle => Sys2Proof.Machine.execQualBandSettle s
  | .engQualEnable a => Sys2Proof.Machine.execEngQualEnable a s
  | .engBankClassCap a channel bank => Sys2Proof.Machine.execEngBankClassCap a channel bank s
  | .preambleGapRequest pc sid => Sys2Proof.Machine.execPreambleGapRequest pc sid s
  | .periodicRetrain pc => Sys2Proof.Machine.execPeriodicRetrain pc s
  | .retrainComplete pc r => Sys2Proof.Machine.execRetrainComplete pc r s
  | .statusPoll channel sid nck flips => Sys2Proof.Machine.execStatusPoll channel sid nck flips s
  | .commandErrorRecovery channel => Sys2Proof.Machine.execCommandErrorRecovery channel s
  | .commandBusRetrain channel rowFail colFail => Sys2Proof.Machine.execCommandBusRetrain channel rowFail colFail s
  | .cdiMrRead a => Sys2Proof.Machine.execCdiMrRead a s
  | .cdiMrReadDone own => Sys2Proof.Machine.execCdiMrReadDone own s
  | .refreshStepStart slice => Sys2Proof.Machine.execRefreshStepStart slice s
  | .refreshRelease pc sid bank sag => Sys2Proof.Machine.execRefreshRelease pc sid bank sag s
  | .refreshUrgent pc sid bank sag => Sys2Proof.Machine.execRefreshUrgent pc sid bank sag s
  | .sliceTempPoll slice => Sys2Proof.Machine.execSliceTempPoll slice s
  | .sliceTempReading slice value valid => Sys2Proof.Machine.execSliceTempReading slice value valid s
  | .blockSensorRead values => Sys2Proof.Machine.execBlockSensorRead values s
  | .scaleFall slice => Sys2Proof.Machine.execScaleFall slice s
  | .allowanceRise channel => Sys2Proof.Machine.execAllowanceRise channel s
  | .thermalTripEnd => Sys2Proof.Machine.execThermalTripEnd s
  | .binTableSave => Sys2Proof.Machine.execBinTableSave s
  | .rfhBinReset a => Sys2Proof.Machine.execRfhBinReset a s
  | .rfhBinMax a => Sys2Proof.Machine.execRfhBinMax a s
  | .rfhProfEnable a => Sys2Proof.Machine.execRfhProfEnable a s
  | .profilerWalkStart pc => Sys2Proof.Machine.execProfilerWalkStart pc s
  | .groupPark pc group => Sys2Proof.Machine.execGroupPark pc group s
  | .retentionHoldEnd pc group differs => Sys2Proof.Machine.execRetentionHoldEnd pc group differs s
  | .retentionTestResult pc group => Sys2Proof.Machine.execRetentionTestResult pc group s
  | .scrubRowStart pc => Sys2Proof.Machine.execScrubRowStart pc s
  | .suspectScrubRow pc => Sys2Proof.Machine.execSuspectScrubRow pc s
  | .intRetireRow a => Sys2Proof.Machine.execIntRetireRow a s
  | .intRetireBank a => Sys2Proof.Machine.execIntRetireBank a s
  | .repairPrepared pc => Sys2Proof.Machine.execRepairPrepared pc s
  | .repairSwitch pc => Sys2Proof.Machine.execRepairSwitch pc s
  | .repairDone pc => Sys2Proof.Machine.execRepairDone pc s
  | .testWriteEncoded a => Sys2Proof.Machine.execTestWriteEncoded a s
  | .testWriteRaw a => Sys2Proof.Machine.execTestWriteRaw a s
  | .testReadRaw a => Sys2Proof.Machine.execTestReadRaw a s
  | .testReadDecoded a => Sys2Proof.Machine.execTestReadDecoded a s
  | .intTestDone err => Sys2Proof.Machine.execIntTestDone err s
  | .entryE1 => Sys2Proof.Machine.execEntryE1 s
  | .entryE2 => Sys2Proof.Machine.execEntryE2 s
  | .entryE3 temps => Sys2Proof.Machine.execEntryE3 temps s
  | .entryE4 => Sys2Proof.Machine.execEntryE4 s
  | .entryTimeout => Sys2Proof.Machine.execEntryTimeout s
  | .entryUndo => Sys2Proof.Machine.execEntryUndo s
  | .beatStop => Sys2Proof.Machine.execBeatStop s
  | .s2Wake => Sys2Proof.Machine.execS2Wake s
  | .beatRestart => Sys2Proof.Machine.execBeatRestart s
  | .s1Exit groups => Sys2Proof.Machine.execS1Exit groups s
  | .exitDispatchResume k => Sys2Proof.Machine.execExitDispatchResume k s
  | .wakeAt => Sys2Proof.Machine.execWakeAt s
  | .islandIdleGate island => Sys2Proof.Machine.execIslandIdleGate island s
  | .mgtDictLock a => Sys2Proof.Machine.execMgtDictLock a s
  | .mgtPersistErase a => Sys2Proof.Machine.execMgtPersistErase a s
  | .persistStore item worn => Sys2Proof.Machine.execPersistStore item worn s
  | .mgtDescribe a => Sys2Proof.Machine.execMgtDescribe a s
  | .mgtDescriptorDone master => Sys2Proof.Machine.execMgtDescriptorDone master s
  | .inboundFrame bytes fault => Sys2Proof.Machine.execInboundFrame bytes fault s
  | .setEndpointId source eid => Sys2Proof.Machine.execSetEndpointId source eid s
  | .getEndpointId source => Sys2Proof.Machine.execGetEndpointId source s
  | .getMctpVersionSupport source msgType => Sys2Proof.Machine.execGetMctpVersionSupport source msgType s
  | .getMessageTypeSupport source => Sys2Proof.Machine.execGetMessageTypeSupport source s
  | .getVendorDefinedMessageSupport source selector => Sys2Proof.Machine.execGetVendorDefinedMessageSupport source selector s
  | .unsupportedMctpCommand source code => Sys2Proof.Machine.execUnsupportedMctpCommand source code s
  | .getVersion source => Sys2Proof.Machine.execGetVersion source s
  | .getCapabilities source => Sys2Proof.Machine.execGetCapabilities source s
  | .negotiateAlgorithms source offersAll => Sys2Proof.Machine.execNegotiateAlgorithms source offersAll s
  | .getDigests source => Sys2Proof.Machine.execGetDigests source s
  | .getCertificate source slot offset length => Sys2Proof.Machine.execGetCertificate source slot offset length s
  | .challenge source slot summary nonce => Sys2Proof.Machine.execChallenge source slot summary nonce s
  | .getMeasurements source index signed nonce => Sys2Proof.Machine.execGetMeasurements source index signed nonce s
  | .spdmSigningDone => Sys2Proof.Machine.execSpdmSigningDone s
  | .unsupportedSpdmRequest source code => Sys2Proof.Machine.execUnsupportedSpdmRequest source code s
  | .outboundFrameRead r => Sys2Proof.Machine.execOutboundFrameRead r s
  | .ibiRepeat => Sys2Proof.Machine.execIbiRepeat s
  | .sbFlushTelemetry a => Sys2Proof.Machine.execSbFlushTelemetry a s
  | .sbFlushControl a => Sys2Proof.Machine.execSbFlushControl a s
  | .sbFlushBoth a => Sys2Proof.Machine.execSbFlushBoth a s
  | .mgtMbxPost src mtag channel value => Sys2Proof.Machine.execMgtMbxPost src mtag channel value s
  | .mgtMbxTake src mtag channel => Sys2Proof.Machine.execMgtMbxTake src mtag channel s
  | .mgtMbxLockAcquire src mtag channel => Sys2Proof.Machine.execMgtMbxLockAcquire src mtag channel s
  | .mgtMbxLockRelease src mtag channel value => Sys2Proof.Machine.execMgtMbxLockRelease src mtag channel value s
  | .mgtMbxBind a channel => Sys2Proof.Machine.execMgtMbxBind a channel s
  | .mgtMbxTableLock a => Sys2Proof.Machine.execMgtMbxTableLock a s
  | .mgtMasterSleep a master => Sys2Proof.Machine.execMgtMasterSleep a master s
  | .mbxTimeout channel => Sys2Proof.Machine.execMbxTimeout channel s
  | .umpireLockstepMismatch => Sys2Proof.Machine.execUmpireLockstepMismatch s
  | .umpireWatchdogExpiry => Sys2Proof.Machine.execUmpireWatchdogExpiry s
  | .mgtUmpireRestart a => Sys2Proof.Machine.execMgtUmpireRestart a s
  | .umpireRestartDone => Sys2Proof.Machine.execUmpireRestartDone s
  | .upgLoadBegin a => Sys2Proof.Machine.execUpgLoadBegin a s
  | .upgLoadData a block => Sys2Proof.Machine.execUpgLoadData a block s
  | .upgVerify a => Sys2Proof.Machine.execUpgVerify a s
  | .upgVerifyDone v => Sys2Proof.Machine.execUpgVerifyDone v s
  | .upgActivate a => Sys2Proof.Machine.execUpgActivate a s
  | .upgCommit a => Sys2Proof.Machine.execUpgCommit a s
  | .upgRollback a => Sys2Proof.Machine.execUpgRollback a s
  | .trialPeriodExpiry => Sys2Proof.Machine.execTrialPeriodExpiry s
  | .upgSvnFloor a => Sys2Proof.Machine.execUpgSvnFloor a s
  | .fltGrpStatus a group => Sys2Proof.Machine.execFltGrpStatus a group s
  | .fltGrpEnable a group => Sys2Proof.Machine.execFltGrpEnable a group s
  | .fltGrpForce a group => Sys2Proof.Machine.execFltGrpForce a group s
  | .fltGrpLatchClear a group => Sys2Proof.Machine.execFltGrpLatchClear a group s
  | .fltGrpQuiet a group => Sys2Proof.Machine.execFltGrpQuiet a group s
  | .quietTimerExpiry group => Sys2Proof.Machine.execQuietTimerExpiry group s
  | .inputStuck input => Sys2Proof.Machine.execInputStuck input s
  | .inputReleaseCheck input level => Sys2Proof.Machine.execInputReleaseCheck input level s
  | .fltBlockReset a => Sys2Proof.Machine.execFltBlockReset a s
  | .commandedResetEffect => Sys2Proof.Machine.execCommandedResetEffect s
  | .fltLinkReset a => Sys2Proof.Machine.execFltLinkReset a s
  | .funReset a fn => Sys2Proof.Machine.execFunReset a fn s
  | .funResetDrainLimitExpiry fn => Sys2Proof.Machine.execFunResetDrainLimitExpiry fn s
  | .funResetComplete fn => Sys2Proof.Machine.execFunResetComplete fn s
  | .funLedgerClear a fn => Sys2Proof.Machine.execFunLedgerClear a fn s
  | .counterOverflow unit counter => Sys2Proof.Machine.execCounterOverflow unit counter s
  | .obsFreeze a => Sys2Proof.Machine.execObsFreeze a s
  | .obsUnfreeze a => Sys2Proof.Machine.execObsUnfreeze a s
  | .obsSnapshot a => Sys2Proof.Machine.execObsSnapshot a s
  | .obsClear a => Sys2Proof.Machine.execObsClear a s
  | .obsCaptureBeat => Sys2Proof.Machine.execObsCaptureBeat s
  | .obsUnitClear a unit => Sys2Proof.Machine.execObsUnitClear a unit s
  | .obsRingClear a => Sys2Proof.Machine.execObsRingClear a s
  | .obsTraceEnable a => Sys2Proof.Machine.execObsTraceEnable a s
  | .traceDump => Sys2Proof.Machine.execTraceDump s
  | .traceSyncTimer => Sys2Proof.Machine.execTraceSyncTimer s
  | .blkXingParityClear a => Sys2Proof.Machine.execBlkXingParityClear a s
  | .lnkCountersClear a => Sys2Proof.Machine.execLnkCountersClear a s
  | .homCountersClear a => Sys2Proof.Machine.execHomCountersClear a s
  | .engCountersClear a => Sys2Proof.Machine.execEngCountersClear a s
  | .cdiCountersClear a => Sys2Proof.Machine.execCdiCountersClear a s
  | .rfhCountersClear a => Sys2Proof.Machine.execRfhCountersClear a s
  | .intCountersClear a => Sys2Proof.Machine.execIntCountersClear a s
  | .slpCountersClear a => Sys2Proof.Machine.execSlpCountersClear a s
  | .mgtCountersClear a => Sys2Proof.Machine.execMgtCountersClear a s
  | .fltCountersClear a => Sys2Proof.Machine.execFltCountersClear a s
  | .obsStatsClear a => Sys2Proof.Machine.execObsStatsClear a s
  | .porRelease => Sys2Proof.Machine.execPorRelease s
  | .dieCattripFall die => Sys2Proof.Machine.execDieCattripFall die s
  | .plInbandPres port => Sys2Proof.Machine.execPlInbandPres port s
  | .portL1Exit port => Sys2Proof.Machine.execPortL1Exit port s
  | .plStallreqRelease port => Sys2Proof.Machine.execPlStallreqRelease port s
  | .binTableSaveDone => Sys2Proof.Machine.execBinTableSaveDone s
  | .traceWordSend => Sys2Proof.Machine.execTraceWordSend s
  | .refclk25Return => Sys2Proof.Machine.execRefclk25Return s
  | .holdoverClockLoss => Sys2Proof.Machine.execHoldoverClockLoss s

end Sys2Proof.Machine
end

