-- ==== Sys2Proof/Machine/Tick.lean ====
section
/-!
DEFINITION. One beat of 1 ns, which passes when no command waits (DESIGN CHOICE, log entry 10): time, gates and buckets, the cycle
and level counters, and what the next beat takes up (05 R116 to R120, 11 R311, R313 to R315, 14 R382, R390, 15 R397, R399).
-/
namespace Sys2Proof.Machine

/-- nCK edges of a 1.6 GHz clock on the beat after `now`. -/
def nckEdges (now : Nat) : Nat := (now + 1) * 8 / 5 - now * 8 / 5

/-- Cycles of unit `u`'s clock on the beat; none where it is absent, gated, powered off or stopped (R314, R397). -/
def unitCycles (s : State) (u : Nat) : Nat :=
  if (s.ply16 && unitAbsent16 u) || bitOf s.sleep.gated u || !mgmtUp s || (u < 8 && !(linkOf s u).powered) then 0
  else if u < 10 then 2
  else if u < 42 then nckEdges s.now
  else if u < 50 then (if (nums ((u - 42) * 4) 4).any fun c => (chanOf s c).ck then nckEdges s.now else 0)
  else 1

/-- Pseudo-channels of quadrant `q` under a retraining hold. -/
def heldIn (s : State) (q : Nat) : Nat := ((nums (q * 8) 8).filter fun pc => (pchOf s pc).hold).length

/-- A message of port `u` is ready and lacks a credit of its class (link code 25). -/
def linkStarved (s : State) (u : Nat) : Bool :=
  let l := linkOf s u
  let lacks := fun (m : TxMsg) => !(creditsOf m).all (hasCredit l)
  l.txq.any lacks || l.evq.any (fun (_, m) => lacks m) ||
    s.flights.any fun (_, f) => f.h.port = u && f.stage = .ready &&
      (match f.rsp with
       | some r => lacks (rspMsg f r (portRev s u))
       | none => false)

/-- An eligible request waits only for a tag; a read-return slot goes with a read's tag (tree code 28, 01 R21). -/
def tagStarved (s : State) : Bool :=
  !tagFree s && !dispatchHeld s && (nums 0 (nPorts s)).any fun n => !(candidates s n).isEmpty

/-- The home takes no request because its table is full (home code 27, 06 R145). -/
def tableFull (s : State) : Bool :=
  !s.tree.crossing.isEmpty && decide (requestEntries ≤ s.home.txns.length) && (freeIndex s 0 requestEntries).isNone

/-- What a unit's cycle codes report for each of its cycles: code, pseudo-channel and number (Table OBS-3). -/
def cycleCodes (s : State) (u : Nat) : List (Nat × Option Nat × Nat) :=
  let one := fun (b : Bool) => if b then 1 else 0
  (1, none, 1) ::
    (if u < 8 then [(25, none, one (linkStarved s u)), (26, none, (linkOf s u).ingress), (27, none, one (portState s u = portRetrain))]
    else if u = unitTree then
      [(27, none, (s.flights.filter fun (_, f) => f.stage = .queued).length), (28, none, one (tagStarved s))]
    else if u = unitHome then [(26, none, s.home.txns.length), (27, none, one (tableFull s))]
    else if u < 42 then
      (nums ((u - 10) * 2) 2).flatMap fun pc =>
        [(27, some pc, readsInUse s pc), (28, some pc, writesInUse s pc), (29, some pc, one (pchOf s pc).drain),
         (37, some pc, one (pchOf s pc).hold)]
    else if u < 50 then [(20, none, heldIn s (u - 42))]
    else if u = unitStack then [(24, none, one s.stack.trip)]
    else [(23, none, one (rd s R.MGT_UMPIRE_STATE = 1))])

/-- A unit's counters take its cycles of the beat: the cycle counter, and programmable ones by their codes. -/
def countUnit (s : State) (u : Nat) : State :=
  let n := unitCycles s u
  if n = 0 then s
  else
    let s := obsBump s u 9 8 n
    forEach ((cycleCodes s u).filter fun (_, _, v) => v ≠ 0) s fun s (code, pc, v) => obsEventPc s u code pc (n * v)

/-- Every unit's counters, unless frozen (R400). -/
def countBeat (s : State) : State := if s.obs.frozen then s else forEach (nums 0 52) s countUnit

/-- Time passes: a beat of the time base, or 1 ns of holdover where the beat is stopped. -/
def passTime (s : State) : State :=
  let t := s.time
  { s with
    now := s.now + 1
    time := if t.run then beatTime t (rdS s R.SLP_TIME_FREQ 0) else { t with segNs := t.segNs + 1, err := t.err + errGrowth t.quality } }

/-- The beat. With the beat stopped only holdover advances. -/
def tick (s : State) : State :=
  let s' := passTime s
  if !s.time.run then s'
  else
    let s' := countBeat (settleGates s')
    let s' := if mgmtUp s' then watchMasters (beginFunResets (takeForces s')) else s'
    let s' := if mgmtUp s' then startHolds (startDeferred (beatTree s')) else s'
    takeWrapped s'

end Sys2Proof.Machine
end

