-- ==== Sys2Proof/Safety.lean ====
section
/-!
DEFINITION. What counts as a safe run, in the terms the statements use.
-/
namespace Sys2Proof.Machine

/-- A frame FIFO's pointers are 10 bits and in order: the reader is not past what is committed, that not past what is written,
and no more than 512 words are held (12 R337, R338). -/
def Fifo.ok (f : Fifo) : Prop :=
  f.r < 1024 ∧ f.c < 1024 ∧ f.w < 1024 ∧ (f.c + 1024 - f.r) % 1024 ≤ (f.w + 1024 - f.r) % 1024 ∧ f.occupancy ≤ 512

/-- Every observation counter lies in its 48 bits (15 R397). -/
def countsOk (t : Tbl Nat) : Prop := ∀ p ∈ t, p.2 < 2 ^ 48

/-- What `Intact` says, over the parts of State it reads. -/
def IntactParts (a : Array') (counts : Tbl Nat) (inb outb : Fifo) (quality t : Nat) : Prop :=
  Memory.wf a = true ∧ countsOk counts ∧ inb.ok ∧ outb.ok ∧ quality ≤ 3 ∧ t < 2 ^ 64 * nsUnit

/-- What every command and every beat keeps: the core dies' contents stay in canonical form, counters and FIFO pointers stay
within their widths, the time quality is a code of 11 Table SLP-7, and pool time a TIME64. -/
def Intact (s : State) : Prop :=
  IntactParts s.array s.obs.counts s.side.inb s.side.outb s.time.quality s.time.t

/-- The parts of State. -/
inductive Part where
  | ply16 | regs | dict | mram | pins | start | fuses | time | avs | links | agents | flights
  | tree | home | pchs | chans | slices | array | stack | sleep | mbx | masters | side | ump
  | images | ev | funs | ledgers | obs | out | now | uid | free | pending
  deriving DecidableEq, Repr

/-- Part `p` is the same in `t` as in `s`. -/
def Part.same : Part → State → State → Prop
  | .ply16, s, t => t.ply16 = s.ply16
  | .regs, s, t => t.regs = s.regs
  | .dict, s, t => t.dict = s.dict
  | .mram, s, t => t.mram = s.mram
  | .pins, s, t => t.pins = s.pins
  | .start, s, t => t.start = s.start
  | .fuses, s, t => t.fuses = s.fuses
  | .time, s, t => t.time = s.time
  | .avs, s, t => t.avs = s.avs
  | .links, s, t => t.links = s.links
  | .agents, s, t => t.agents = s.agents
  | .flights, s, t => t.flights = s.flights
  | .tree, s, t => t.tree = s.tree
  | .home, s, t => t.home = s.home
  | .pchs, s, t => t.pchs = s.pchs
  | .chans, s, t => t.chans = s.chans
  | .slices, s, t => t.slices = s.slices
  | .array, s, t => t.array = s.array
  | .stack, s, t => t.stack = s.stack
  | .sleep, s, t => t.sleep = s.sleep
  | .mbx, s, t => t.mbx = s.mbx
  | .masters, s, t => t.masters = s.masters
  | .side, s, t => t.side = s.side
  | .ump, s, t => t.ump = s.ump
  | .images, s, t => t.images = s.images
  | .ev, s, t => t.ev = s.ev
  | .funs, s, t => t.funs = s.funs
  | .ledgers, s, t => t.ledgers = s.ledgers
  | .obs, s, t => t.obs = s.obs
  | .out, s, t => t.out = s.out
  | .now, s, t => t.now = s.now
  | .uid, s, t => t.uid = s.uid
  | .free, s, t => t.free = s.free
  | .pending, s, t => t.pending = s.pending

/-- `t` differs from `s` at most in the parts that `w` allows. -/
def Within (w : Part → Bool) (s t : State) : Prop := ∀ p, w p = false → p.same s t

/-- `t` is `s` but for an answer on its way out: link and sideband state, observation counters, and the record of the answer. -/
def Answered (s t : State) : Prop := Within (fun p => decide (p ∈ [Part.links, .side, .obs, .out])) s t

/-- Counts of records and frames that reporting itself dropped (12 R342, 15 R408). -/
def reportKeys : List Nat := [R.OBS_TRACE_DROPPED.key, R.MGT_SB_DISCARDS.key]

/-- `t` is `s` but for raised events, their messages and records, and answers; no register but those counts differs. -/
def Reported (s t : State) : Prop :=
  Within (fun p => decide (p ∈ [Part.regs, .links, .side, .ev, .obs, .out])) s t ∧
    ∀ key d, key ∉ reportKeys → val t key d = val s key d

/-- The command answers a next state that is `e` but for what reporting changes. -/
def RunsTo (c : Instr) (s e : State) : Prop := ∃ t, exec c s = .next t ∧ Reported e t

/-- The command answers a next state that is `e` but for what reporting changes, with EV.g.i set. -/
def Raises (c : Instr) (s e : State) (g i : Nat) : Prop :=
  ∃ t, exec c s = .next t ∧ Reported e t ∧ statusBit t g i = true

/-- A write of `a` to an entry reaches the block and passes the checks of 12 Table MGT-4. -/
def Permitted (s : State) (a : Access) (index sub : Nat) : Prop :=
  reaches s a.src = true ∧ accessStatus s a.src true index sub a.value 0 0 = 0

/-- The command is answered with status 0 in a state that is `e` but for the answer. -/
def Done (c : Instr) (s : State) (a : Access) (e : State) : Prop :=
  ∃ t, exec c s = .next t ∧ Answered e t ∧ .answer a.src a.mtag 0x22 0 0 [] ∈ t.out

/-- The command is answered with status `st` in a state that is `s` but for the refusal and its count (12 R326). -/
def RefusedWith (c : Instr) (s : State) (a : Access) (st : Nat) : Prop :=
  ∃ t, exec c s = .next t ∧ Answered (bumpi s R.MGT_REFUSALS st) t ∧ .answer a.src a.mtag 0x22 st 0 [] ∈ t.out

/-- The entry that a command of its own row writes, with the access: index and subindex. -/
def accessRow : Instr → Option (Access × Nat × Nat)
  | .blkXingParityClear a => some (a, 0x0003, 1)
  | .lnkCountersClear a => some (a, 0x1031, 0)
  | .homCountersClear a => some (a, 0x4011, 0)
  | .engCountersClear a => some (a, 0x5003, 0)
  | .cdiCountersClear a => some (a, 0x6601, 0)
  | .rfhCountersClear a => some (a, 0x7110, 0)
  | .intCountersClear a => some (a, 0x8005, 0)
  | .slpCountersClear a => some (a, 0x9102, 0)
  | .mgtCountersClear a => some (a, 0xAF00, 0)
  | .fltCountersClear a => some (a, 0xB403, 0)
  | .obsStatsClear a => some (a, 0xCB00, 0)
  | .treGateSwitch a trunk => some (a, 0x3400 + trunk, 7)
  | .treGateSwitchCancel a trunk => some (a, 0x3400 + trunk, 0x0D)
  | .treLeafCreate a => some (a, 0x3900, 0)
  | .treLeafBucketReset a => some (a, 0x3200, 0x15)
  | .treBranchBucketReset a => some (a, 0x3300, 9)
  | .treTrunkBucketReset a trunk => some (a, 0x3400 + trunk, 0x0C)
  | .treLeafClear a => some (a, 0x3200, 0x18)
  | .treLeafCir a => some (a, 0x3200, 1)
  | .treLeafOlMax a => some (a, 0x3200, 8)
  | .treLeafBranch a => some (a, 0x3200, 0x16)
  | .treBranchCtrl a => some (a, 0x3300, 0)
  | .treBranchMin a => some (a, 0x3300, 1)
  | .treBranchMax a => some (a, 0x3300, 3)
  | .treTrunkMax a trunk => some (a, 0x3400 + trunk, 0)
  | .mapXlateAddr a => some (a, 0x2003, 0)
  | .mapXlateSlot a => some (a, 0x2003, 3)
  | .mapCommit a => some (a, 0x2001, 0)
  | .mapCommitCancel a => some (a, 0x2001, 5)
  | .homCellEpochArm a cell => some (a, 0x4100 + cell, 11)
  | .homCellEpochCancel a cell => some (a, 0x4100 + cell, 11)
  | .homCellTakeDown a cell => some (a, 0x4100 + cell, 1)
  | .homCellRestart a cell => some (a, 0x4100 + cell, 1)
  | .homFunCoherent a => some (a, 0x4000, 0)
  | .homFilterProbeAddr a _ => some (a, 0x4010, 0)
  | .engQualEnable a => some (a, 0x5001, 0)
  | .engBankClassCap a channel bank => some (a, 0x5440 + channel % 32, bank % 256)
  | .rfhBinReset a => some (a, 0x7102, 1)
  | .rfhBinMax a => some (a, 0x7102, 0)
  | .rfhProfEnable a => some (a, 0x7103, 0)
  | .cdiMrRead a => some (a, 0x6600, 0)
  | .intRetireRow a => some (a, 0x8003, 0)
  | .intRetireBank a => some (a, 0x8003, 1)
  | .testWriteEncoded a => some (a, 0x8004, 3)
  | .testWriteRaw a => some (a, 0x8004, 3)
  | .testReadRaw a => some (a, 0x8004, 3)
  | .testReadDecoded a => some (a, 0x8004, 3)
  | .lnkPortEnable a => some (a, 0x1000, 0)
  | .fltLinkReset a => some (a, 0xB401, 0)
  | .mgtMbxBind a channel => some (a, 0xA100 + channel % 64, 0)
  | .mgtMbxTableLock a => some (a, 0xA140, 0)
  | .mgtMasterSleep a master => some (a, 0xA143, master)
  | .mgtDictLock a => some (a, 0xA001, 0)
  | .mgtPersistErase a => some (a, 0xA002, 1)
  | .mgtDescribe a => some (a, 0xA004, 0)
  | .sbFlushTelemetry a => some (a, 0xA011, 1)
  | .sbFlushControl a => some (a, 0xA011, 1)
  | .sbFlushBoth a => some (a, 0xA011, 1)
  | .mgtUmpireRestart a => some (a, 0xA200, 5)
  | .upgLoadBegin a => some (a, 0xA810, 0)
  | .upgLoadData a _ => some (a, 0xA810, 2)
  | .upgVerify a => some (a, 0xA810, 3)
  | .upgActivate a => some (a, 0xA811, 0)
  | .upgCommit a => some (a, 0xA811, 1)
  | .upgRollback a => some (a, 0xA811, 2)
  | .upgSvnFloor a => some (a, 0xA800, 4)
  | .fltGrpStatus a group => some (a, 0xB000 + group % 16, 0)
  | .fltGrpEnable a group => some (a, 0xB000 + group % 16, 1)
  | .fltGrpForce a group => some (a, 0xB000 + group % 16, 2)
  | .fltGrpLatchClear a group => some (a, 0xB000 + group % 16, 6)
  | .fltGrpQuiet a group => some (a, 0xB000 + group % 16, 9)
  | .fltBlockReset a => some (a, 0xB400, 0)
  | .funReset a fn => some (a, 0xE000 + fn % 16, 0)
  | .funLedgerClear a fn => some (a, 0xE000 + fn % 16, 10)
  | .obsFreeze a => some (a, 0xC800, 0)
  | .obsUnfreeze a => some (a, 0xC800, 0)
  | .obsSnapshot a => some (a, 0xC800, 0)
  | .obsClear a => some (a, 0xC800, 0)
  | .obsUnitClear a unit => some (a, 0xC000 + unit % 256, 18)
  | .obsRingClear a => some (a, 0xC900, 11)
  | .obsTraceEnable a => some (a, 0xCA00, 0)
  | .mgtMbxPost src mtag channel value => some (⟨src, mtag, value⟩, 0xA100 + channel % 64, 1)
  | .mgtMbxLockRelease src mtag channel value => some (⟨src, mtag, value⟩, 0xA100 + channel % 64, 4)
  | _ => none

/-- The request that a command of 03 Table LNK-5 brings. -/
def requestOf : Instr → Option Flight
  | .rd h => some { op := .rd, h := h }
  | .rdShared h => some { op := .rdShared, h := h }
  | .rdOwn h => some { op := .rdOwn, h := h }
  | .upgrade h => some { op := .upgrade, h := h }
  | .wrFull h data => some { op := .wrFull, h := h, data := data }
  | .wrPart h mask data => some { op := .wrPart, h := h, data := data, mask := mask }
  | .wbDirty h data => some { op := .wbDirty, h := h, data := data }
  | .wrHint h target data => some { op := .wrHint, h := h, data := data, target := target }
  | .atom h x => some { op := .atom, h := h, atom := x }
  | .unsupportedOpcode h n => if 10 ≤ n && n < 64 then some { op := .other n, h := h } else none
  | _ => none

/-- A request passes the checks of 03 R71 at its port. -/
def Sound (s : State) (f : Flight) : Prop :=
  unsupported s f = false ∧ portBound s f.h.port f.h.fn = true ∧ joinedHere s f.h f.op.needsCache = true ∧
    inReset s f.h.fn = false

/-- No transaction waits for a way of a set, a line of the atomics buffer or an entry of the home's own, the leave walk's among them. -/
def Unhurried (s : State) : Prop :=
  s.home.retryQ = [] ∧ s.home.order.all (fun i => decide (((txnOf s i).map (·.waitBuf)) ≠ some true)) = true ∧
    s.home.victimTodo = [] ∧ s.home.poisonTodo = [] ∧ s.home.walkTodo = [] ∧
    leaveWalks s = s.agents.any fun (_, x) => x.leaving

/-- The snoop response is for transaction `t` in entry `id`, from an agent joined on the port it came on (06 R147). -/
def Names (s : State) (r : SnoopRsp) (id : Nat) (t : Txn) : Prop :=
  r.port < nPorts s ∧ portState s r.port = portUp ∧ (agentOf s r.agent).map (·.port) = some r.port ∧
    txnNamed s r.snoopId = some (id, t) ∧ t.active = true

/-- The response answers snoop `sn` of a flow that awaits other answers besides. -/
def Awaited (s : State) (r : SnoopRsp) (id : Nat) (t : Txn) (sn : Snoop) : Prop :=
  Names s r id t ∧ (t.snoops.find? fun n => n.agent = r.agent && n.sent) = some sn ∧
    (t.snoops.filter fun n => n.agent ≠ r.agent) ≠ [] ∧ t.wbHeld = [] ∧ t.found ≠ .none ∧ t.taken = true ∧
    t.finished = false ∧ t.hint = 0 ∧ t.origin ≠ .commitWalk ∧ Unhurried s

/-- Transaction `t`, less the snoops of agent `a`. -/
def without (t : Txn) (a : Nat) : Txn := { t with snoops := t.snoops.filter fun n => n.agent ≠ a }

/-- The access is answered with status 0 in a state that is `e` but for what reporting changes, with EV.g.i set. -/
def DoneRaising (c : Instr) (s : State) (a : Access) (e : State) (g i : Nat) : Prop :=
  ∃ t, exec c s = .next t ∧ Reported e t ∧ statusBit t g i = true ∧ .answer a.src a.mtag 0x22 0 0 [] ∈ t.out

/-- Every agent of cell `x` has fallen, and the agents of other cells are as they were (06 R163, R164). -/
def CellFell (s t : State) (x : Nat) : Prop :=
  ∀ b y, agentOf s b = some y → agentOf t b = some { y with fallen := y.fallen || decide (y.cell = x) }

/-- The access is refused with status `st` in a state that is `e` but for the count and what reporting changes, with EV.g.i set. -/
def RefusedRaising (c : Instr) (s : State) (a : Access) (e : State) (st g i : Nat) : Prop :=
  ∃ t, exec c s = .next t ∧ Reported (bumpi e R.MGT_REFUSALS st) t ∧ statusBit t g i = true ∧
    .answer a.src a.mtag 0x22 st 0 [] ∈ t.out

/-- The sender has selected leaf `n`, which holds `l`, and may write it (05 R138). -/
def Selected (s : State) (a : Access) (n : Nat) (l : Leaf) : Prop :=
  selOf s (masterOf s a.src) selLeaf = n ∧ leafOf s n = some l ∧
    (isOwner (masterOf s a.src) = true → l.d.fn + 1 = masterOf s a.src)


/-- Command `x` may go out on channel `c`: the channel is ready and every separation is met (07 R183, 08 R224). -/
def MaySend (s : State) (c : Nat) (x : Issued) : Prop := c < nChannels s ∧ chanReady s c = true ∧ timingMet s c x = true

/-- The engine of pseudo-channel `pc` may issue command `x`: no other candidate of its bus goes first (07 R178, R180). -/
def EngineMaySend (s : State) (pc : Nat) (x : Issued) : Prop := MaySend s (pc / 2) x ∧ chosen s pc x = true

/-- Command `x` has gone out on channel `c`, and nothing on another channel (07 R183); with 3,584 commands of its SID unproven, MR3
is read right after it (08 R224). -/
def Sent (s t : State) (c : Nat) (x : Issued) : Prop :=
  ((chanOf t c).hist = (x :: (chanOf s c).hist).take 4096 ∨
    (3583 ≤ unproven s c x.sid ∧ ∃ y : Issued, y.cmd = cMrr ∧ y.sid = x.sid ∧ y.arg = 3 ∧
      (chanOf t c).hist = (y :: x :: (chanOf s c).hist).take 4096)) ∧ ∀ d, d ≠ c → chanOf t d = chanOf s d

/-- A repair command's refusal is noted with its cause, which shows as the state of a pseudo-channel with no job (10 R283). -/
def repairRefused (s : State) (lb cause : Nat) : State :=
  if 1 ≤ rdi s R.INT_REPAIR_STATE (lb / 128) ∧ rdi s R.INT_REPAIR_STATE (lb / 128) ≤ 3 then
    wri s R.INT_REPAIR_REFUSAL (lb / 128) cause
  else wri (wri s R.INT_REPAIR_REFUSAL (lb / 128) cause) R.INT_REPAIR_STATE (lb / 128) cause

/-- A read for `p` of the logical place `l` is held or waits for a slot. -/
def Queued (s : State) (pc : Nat) (h : Held) : Prop :=
  (∃ x ∈ (pchOf s pc).work, x.key = h.key ∧ x.purpose = h.purpose ∧ x.hold = h.hold) ∨
    ∃ x ∈ (pchOf s pc).held, x.2.key = h.key ∧ x.2.purpose = h.purpose ∧ x.2.hold = h.hold

/-- Port `n` is in LinkError, and shows it (02 R31, 03 R85). -/
def InError (t : State) (n : Nat) : Prop := (linkOf t n).fdi = .linkError ∧ portState t n = portError ∧ statusBit t 1 2 = true

/-- The command whose row a message is, where its header stands in slot `k` of a flit: the requests, the answers to snoops and hints,
dictionary accesses, TIME_NEXT and the host's control messages (03 Tables LNK-4 to LNK-14). -/
def messageOf (port flit k : Nat) : Option Instr :=
  let x := slotAt flit k
  let h := reqHdrOf port x
  let line := lineAt flit (k + 1)
  let r : SnoopRsp := ⟨port, field x 106 12, field x 90 16⟩
  let d : DictMsg := ⟨.inband port (field x 114 4), field x 106 8, field x 90 16, field x 82 8, field x 74 8, field x 70 4, field x 0 64,
    bytesLE (field flit (128 * (k + 1)) (128 * field x 70 4)) (16 * field x 70 4)⟩
  match field x 124 4, field x 118 6 with
  | 1, 1 => some (.rd h)
  | 1, 2 => some (.wrFull h line)
  | 1, 3 => some (.wrPart h (BitVec.ofNat 64 (slotAt flit (k + 1))) (lineAt flit (k + 2)))
  | 1, 4 => some (.rdShared h)
  | 1, 5 => some (.rdOwn h)
  | 1, 6 => some (.upgrade h)
  | 1, 7 => some (.wbDirty h line)
  | 1, 8 => some (.wrHint h (field x 14 12) line)
  | 1, 9 => some (.atom h (atomOf x (slotAt flit (k + 1))))
  | 1, n => if 10 ≤ n then some (.unsupportedOpcode h n) else none
  | 4, 1 => some (.rspNotPresent r)
  | 4, 2 => some (.rspInvClean r)
  | 4, 3 => some (.rspShared r)
  | 4, 4 => some (.rspDirty r line)
  | 4, 5 => some (.rspWbInFlight r)
  | 4, 6 => some (.cmpAck port (field x 115 3) ((nums 0 7).map fun i => field x (96 - 16 * i) 16))
  | 4, 7 => some (.hintAccept r)
  | 4, 8 => some (.hintDecline r)
  | 5, 1 => some (.dictRd d)
  | 5, 2 => some (.dictWr d)
  | 7, 1 => some (.timeNext port (field x 0 64))
  | 8, 1 => some (.negOffer port (field x 102 16) ((nums 0 6).map fun c => field x (80 - 16 * c) 16))
  | 8, 3 => some (.agentJoin port (field x 106 12) (field x 102 4) (field x 98 4) (bitOf x 97))
  | 8, 5 => some (.agentLeave port (field x 106 12))
  | _, _ => none

/-- A power-state command, by the STATE it carries (03 Table LNK-12, 11 R291). -/
def powerRow (src : Sender) (mtag groups : Nat) : List (Nat × Instr) :=
  [(0, .pwrCmdA0 src mtag groups), (1, .pwrCmdS1 src mtag groups), (2, .pwrCmdS2 src mtag groups), (3, .pwrCmdGroupS1 src mtag groups)]

/-- A power-state command of port `p` and function `fn` reaches the block and may be given there (11 R291, 03 R78). -/
def MayCommand (s : State) (p fn : Nat) : Prop :=
  reaches s (.inband p fn) = true ∧ portBound s p fn = true ∧ bitOf (rd s R.LNK_PWR_CMD_PORTS) p = true

/-- The sender's SPDM request is served: the umpires run, no signing is under way, and `eid` is a manager's or observer's that
holds the connection at stage `k` (12 R356, R357). -/
def SpdmAt (s : State) (eid k : Nat) : Prop :=
  umpiresUp s = true ∧ masterOf s (.sideband eid) ≠ 0 ∧ s.ump.signing = none ∧ rd s R.MGT_SPDM_REQUESTER = eid ∧ s.ump.spdm = k
/-- Parts an answered access or a sent message may change. -/
def answers : List Part := [.regs, .links, .side, .obs, .out]

/-- Parts a raised event may change: its group, the counts and records of its reporting, and the messages that carry it. -/
def events : List Part := [.regs, .links, .side, .ev, .obs, .out]

/-- Every part but the variant and the queue. -/
def allParts : List Part :=
  [.regs, .dict, .mram, .pins, .start, .fuses, .time, .avs, .links, .agents, .flights, .tree, .home, .pchs, .chans,
  .slices, .array, .stack, .sleep, .mbx, .masters, .side, .ump, .images, .ev, .funs, .ledgers, .obs, .out, .now, .uid,
  .free]

/-- Parts of State that each command may change. -/
def mayChange : Instr → List Part
  | .porAssert | .blockResetAssert | .pwrAck .. | .refclkLoss | .flitReceive .. | .dictWr .. | .inboundFrame ..
  | .umpireLockstepMismatch | .umpireWatchdogExpiry | .fltBlockReset .. | .commandedResetEffect => allParts
  | .resetRelease | .rstCmplAckRise => [.regs, .pins, .start]
  | .fuseLoadDone .. => events ++ [.mram, .pins, .start, .fuses, .time, .tree, .pchs, .array, .stack, .sleep, .free]
  | .rstCmplAckFall | .porRelease => [.pins, .start]
  | .mramLoadDone .. => events ++ [.mram, .start, .tree]
  | .mbistDone .. => events ++ [.mram, .start, .flights, .tree, .home, .pchs, .stack, .ledgers]
  | .firmwareVerifyDone .. => events ++ [.start, .mbx, .masters, .ump, .images]
  | .trainingDone .. => events ++ [.mram, .start, .flights, .tree, .home, .pchs, .chans, .slices, .stack, .ledgers]
  | .marchDone .. => events ++ [.mram, .start, .array, .stack]
  | .hardRepairDone .. => events ++ [.mram, .pins, .start, .slices, .stack]
  | .fuseProgramDone .. => events ++ [.mram, .pins, .start, .fuses, .stack]
  | .fillDone .. => events ++ [.start, .tree, .array, .stack, .sleep, .free]
  | .plError .. | .plNferror .. | .eventMessageSend .. | .treGateSwitch .. | .treBranchMin ..
  | .treBranchMax .. | .treTrunkMax .. | .fltGrpStatus .. | .fltGrpEnable .. | .fltGrpForce .. | .fltGrpLatchClear ..
  | .fltGrpQuiet .. | .quietTimerExpiry .. | .inputReleaseCheck .. | .counterOverflow ..
  | .obsCaptureBeat | .traceDump | .fltCountersClear .. => events
  | .refclkReturn => [.regs, .pins, .start, .ev]
  | .holdoverClockSwitch | .holdoverClockLoss => events ++ [.pins, .time]
  | .pllLockLoss .. => events ++ [.start]
  | .avsMarginLow .. | .avsMarginHighHold .. | .avsAckDrop => [.regs, .pins, .avs]
  | .avsAck .. | .refclk25Return => [.pins]
  | .avsAckTimeout => events ++ [.pins, .avs]
  | .dieCattripRise .. | .sliceTempReading ..
  | .blockSensorRead .. => events ++ [.mram, .pins, .start, .tree, .pchs, .array, .stack, .sleep, .free]
  | .extWake .. => events ++ [.pins, .pchs, .sleep]
  | .tsyncEdge .. | .timeErrorLimit | .sbTimeValue .. => events ++ [.time]
  | .dynamicAddressAssign .. => [.regs, .out]
  | .plProtocolVld .. | .fdiActive .. | .retrainLimitExpiry .. | .linkResetDone .. | .l1Reached .. | .lnkPortEnable ..
  | .nakReceive .. | .negOffer .. | .negTimeout .. | .rspNotPresent .. | .rspInvClean .. | .rspShared .. | .rspDirty ..
  | .rspWbInFlight .. | .hintAccept .. | .hintDecline ..
  | .fltLinkReset .. => events ++ [.agents, .flights, .tree, .home, .sleep, .ledgers]
  | .retrainEntry .. | .adapterLinkerror ..
  | .portL1Exit .. => events ++ [.pins, .agents, .flights, .tree, .home, .sleep, .ledgers]
  | .retrainExit .. => [.regs, .links, .obs, .out]
  | .plStallreq .. | .plClkReq .. | .plInbandPres .. => [.links]
  | .plRxActiveReq .. => [.pins, .links, .sleep]
  | .plCerror .. | .plPhyinrecenter .. | .epochSwitch .. | .qualBandSettle => [.regs]
  | .nakRepeat .. | .idleFlitSend .. | .plStallreqRelease .. => [.links, .obs, .out]
  | .agentJoin .. => [.regs, .links, .agents, .obs, .out]
  | .agentLeave .. => [.regs, .links, .agents, .home, .obs, .out]
  | .agentLeaveWalkDone .. | .transactionActivate .. | .snoopTimeout .. | .wbPairingTimeout .. | .ackTimeout ..
  | .cellFallComplete .. | .homCellTakeDown .. | .homCellRestart .. | .homFilterProbeAddr ..
  | .commitWalkStart .. => events ++ [.agents, .flights, .tree, .home, .ledgers]
  | .rd .. | .rdShared .. | .rdOwn .. | .upgrade .. | .wrFull .. | .wrPart .. | .wbDirty .. | .wrHint .. | .atom ..
  | .unsupportedOpcode .. => events ++ [.pins, .flights, .tree, .pchs, .sleep, .ledgers, .uid]
  | .cmpAck .. | .homeAccept .. => events ++ [.flights, .tree, .home, .sleep, .ledgers]
  | .dictRd .. => answers ++ [.dict, .mbx, .free]
  | .blobStagingTimeout .. | .mgtDescriptorDone .. => [.dict]
  | .pwrCmdA0 .. | .pwrCmdS1 .. | .pwrCmdS2 .. | .pwrCmdGroupS1 .. => events ++ [.mram, .pins, .tree, .pchs, .sleep]
  | .timeNext .. => events ++ [.time, .agents, .flights, .tree, .home, .sleep, .ledgers]
  | .responseSend .. => events ++ [.flights, .tree, .ledgers]
  | .dispatch .. => events ++ [.flights, .tree]
  | .regulationUpdate | .leafReclaim .. | .gateGuardStart .. => [.tree]
  | .modelWindowEnd .. => events ++ [.tree, .stack]
  | .rmwCharge | .gateSwitchApply .. | .treLeafCreate .. | .treLeafCir .. | .treLeafOlMax .. | .treLeafBranch ..
  | .treBranchCtrl .. => events ++ [.tree]
  | .gateEntryStart .. => [.regs, .tree]
  | .treGateSwitchCancel .. | .homFunCoherent .. | .homCellEpochArm .. | .homCellEpochCancel .. | .mgtDictLock ..
  | .sbFlushTelemetry .. | .sbFlushControl .. | .sbFlushBoth .. | .mgtMbxBind .. | .mgtMbxTableLock .. | .upgCommit ..
  | .upgSvnFloor .. | .obsFreeze .. | .obsUnfreeze .. | .obsSnapshot .. | .obsClear .. | .obsUnitClear ..
  | .obsRingClear .. | .blkXingParityClear .. | .lnkCountersClear .. | .homCountersClear .. | .engCountersClear ..
  | .cdiCountersClear .. | .rfhCountersClear .. | .intCountersClear .. | .slpCountersClear .. | .mgtCountersClear ..
  | .obsStatsClear .. => answers
  | .treLeafBucketReset .. | .treBranchBucketReset .. | .treTrunkBucketReset .. | .treLeafClear .. => answers ++ [.tree]
  | .possessionWindowEnd .. | .responseTimeout .. | .mapCommitCancel .. => events ++ [.flights, .tree, .home, .ledgers]
  | .homFilterProbeDone | .commitWalkDone | .mapXlateDone => [.regs, .home]
  | .mapCommit .. => events ++ [.home]
  | .commitApply => events ++ [.mram, .flights, .tree, .home]
  | .mapTableStoreDone | .binTableSave => [.mram]
  | .persistStore .. => events ++ [.mram]
  | .mapXlateAddr .. | .mapXlateSlot .. => answers ++ [.home]
  | .engineReadEnqueue .. | .engineWritePlace .. => events ++ [.flights, .tree, .home, .pchs, .sleep, .ledgers]
  | .mergeTimeout .. => [.regs, .tree, .pchs, .obs]
  | .requestAged .. | .qualTestDone .. | .engQualEnable .. | .engBankClassCap .. => events ++ [.pchs]
  | .act .. | .pre .. => events ++ [.flights, .pchs, .chans, .slices]
  | .columnRd .. => events ++ [.flights, .tree, .pchs, .chans, .slices, .stack]
  | .wr .. => events ++ [.flights, .pchs, .chans, .slices, .stack]
  | .refpb .. | .refab .. | .sreConfirmed .. | .srx .. | .commandErrorRecovery .. => events ++ [.pchs, .chans, .slices]
  | .reft .. => events ++ [.mram, .pchs, .chans, .slices, .array, .stack, .free]
  | .prea .. => [.regs, .pchs, .chans, .slices, .obs]
  | .mrw .. | .wrFifo .. | .rdFifo .. | .rdCal .. | .wckSync .. => [.regs, .chans, .slices, .obs]
  | .sliceTempPoll .. => [.regs, .chans, .slices, .stack, .obs]
  | .mrr .. | .statusPoll .. => [.chans, .slices, .obs]
  | .mrrResult .. => events ++ [.chans, .free]
  | .sre .. => [.regs, .pchs, .chans, .slices, .stack, .obs]
  | .softRepair .. | .hardRepair .. => [.regs, .chans, .slices, .array, .obs]
  | .writeBurstEnd .. => [.regs, .tree, .pchs, .array, .stack]
  | .readDecode .. => events ++ [.mram, .flights, .tree, .home, .pchs, .array, .stack, .ledgers, .free]
  | .qualTestStart .. | .preambleGapRequest .. | .refreshRelease .. => [.pchs, .obs]
  | .periodicRetrain .. => [.regs, .pchs, .chans, .slices, .obs, .free]
  | .retrainComplete .. => events ++ [.mram, .pchs, .chans, .slices, .stack, .free]
  | .commandBusRetrain .. => events ++ [.mram, .flights, .tree, .home, .pchs, .chans, .slices, .stack, .ledgers]
  | .cdiMrRead .. => answers ++ [.chans, .slices, .stack]
  | .cdiMrReadDone .. | .repairSwitch .. => [.regs, .stack]
  | .refreshStepStart .. | .rfhProfEnable .. | .profilerWalkStart .. | .groupPark .. | .retentionTestResult ..
  | .repairPrepared .. => events ++ [.mram, .pchs, .array, .stack, .free]
  | .refreshUrgent .. => [.regs, .pchs, .obs]
  | .scaleFall .. | .suspectScrubRow .. => events ++ [.pchs, .stack]
  | .allowanceRise .. | .intRetireRow .. | .intRetireBank .. => events ++ [.stack]
  | .thermalTripEnd => events ++ [.pins, .start, .tree, .chans, .stack]
  | .rfhBinReset .. | .rfhBinMax .. => answers ++ [.mram, .stack]
  | .retentionHoldEnd .. => [.stack]
  | .scrubRowStart .. => [.regs, .pchs, .stack, .obs]
  | .repairDone .. => events ++ [.mram, .pchs, .stack]
  | .testWriteEncoded .. | .testWriteRaw .. | .testReadRaw .. | .testReadDecoded .. => answers ++ [.stack]
  | .intTestDone .. => events ++ [.dict, .mram, .pchs, .array, .stack, .free]
  | .entryE1 => events ++ [.mram, .tree, .pchs, .array, .stack, .sleep, .free]
  | .entryE2 => [.regs, .sleep]
  | .entryE3 .. => [.regs, .mram, .sleep]
  | .entryE4 => events ++ [.sleep]
  | .entryTimeout => [.regs, .pchs, .sleep]
  | .entryUndo => events ++ [.pins, .tree, .pchs, .sleep]
  | .beatStop => events ++ [.pins, .time, .avs, .sleep]
  | .s2Wake => [.regs, .pins, .avs, .sleep]
  | .beatRestart => events ++ [.mram, .pins, .start, .time, .agents, .flights, .tree, .home, .pchs, .array, .stack, .sleep, .ledgers, .free]
  | .s1Exit .. => events ++ [.agents, .flights, .tree, .home, .chans, .sleep, .ledgers]
  | .exitDispatchResume .. => events ++ [.pins, .agents, .flights, .tree, .home, .pchs, .array, .stack, .sleep, .ledgers, .free]
  | .wakeAt => [.regs, .pins, .pchs, .sleep]
  | .islandIdleGate .. => [.links, .sleep, .obs]
  | .mgtPersistErase .. => answers ++ [.mram]
  | .mgtDescribe .. => answers ++ [.dict]
  | .setEndpointId .. | .getEndpointId .. | .getMctpVersionSupport .. | .getMessageTypeSupport ..
  | .getVendorDefinedMessageSupport .. | .unsupportedMctpCommand .. | .getDigests .. | .getCertificate ..
  | .unsupportedSpdmRequest .. => [.regs, .side, .out]
  | .getVersion .. | .getCapabilities .. | .negotiateAlgorithms .. | .challenge .. => [.regs, .side, .ump, .out]
  | .getMeasurements .. => [.regs, .chans, .slices, .side, .ump, .out]
  | .spdmSigningDone => [.chans, .slices, .side, .ump, .out, .free]
  | .outboundFrameRead .. => events
  | .ibiRepeat => [.side, .out]
  | .mgtMbxPost .. | .mbxTimeout .. => events ++ [.mbx]
  | .mgtMbxTake .. | .mgtMbxLockAcquire .. | .mgtMbxLockRelease .. => answers ++ [.mbx]
  | .mgtMasterSleep .. => events ++ [.mbx, .masters]
  | .mgtUmpireRestart .. | .umpireRestartDone | .upgActivate .. | .upgRollback ..
  | .trialPeriodExpiry => events ++ [.mbx, .masters, .ump]
  | .upgLoadBegin .. | .upgLoadData .. => answers ++ [.images]
  | .upgVerify .. => answers ++ [.ump]
  | .upgVerifyDone .. => [.regs, .images]
  | .funReset .. => answers ++ [.funs]
  | .funResetDrainLimitExpiry .. => [.links, .flights, .tree, .sleep, .funs, .ledgers]
  | .funResetComplete .. => events ++ [.agents, .flights, .tree, .home, .mbx, .masters, .funs, .ledgers]
  | .funLedgerClear .. => answers ++ [.flights, .ledgers]
  | .obsTraceEnable .. => answers ++ [.pins]
  | .traceSyncTimer => [.regs, .obs]
  | .dieCattripFall .. => [.regs, .pins, .stack]
  | .inputStuck .. => events ++ [.stack]
  | .pwrAckTimeout .. => events ++ [.pins]
  | .binTableSaveDone => [.links, .sleep]
  | .traceWordSend => [.regs, .pins, .obs, .out]

end Sys2Proof.Machine
end

