-- ==== Sys2Proof/Certificates/Slice0/Obligations.lean ====
section
/-!
DEFINITION. The statements about this model.
-/
open Sys2Proof Sys2Proof.Machine

/-- The resets of 02 R36 and R38: power-on reset takes the whole block, the time base and the core dies' contents with it, and the
start to come is a cold one; a block reset takes every island but the always-on one, and keeps the dies' contents where they are asleep past E4, its
cause being the first in encoding order of those of one beat; with
ply_por_n low, ply_rst_n changes nothing more. A block reset returns every entry without a stored value to its Default (00 R14), but for
those that say how the start came about, the class log's next index, the parked groups' count and the repair jobs' states. -/
def Obligations.ResetsTakeTheIslands : Prop :=
  (∀ s : State, ∃ t, exec .porAssert s = .next t ∧ t.pins.porN = false ∧ t.pins.pwrReq = 0 ∧ t.pins.cdiRstN = false ∧
    t.start.phase = .por ∧ t.time = {} ∧ t.sleep = {} ∧ t.array = {} ∧ t.home = {} ∧ t.flights = [] ∧ t.tree = {} ∧ t.obs = {} ∧
    t.mbx = [] ∧ t.links = [] ∧ t.agents = [] ∧ t.chans = [] ∧ t.pchs = [] ∧ t.start.cold = true) ∧
  (∀ s : State, s.pins.porN = true → ∃ t, exec .blockResetAssert s = .next t ∧ t.pins.rstN = false ∧ t.pins.porN = true ∧
    t.start.phase = .reset ∧ t.home = {} ∧ t.flights = [] ∧ t.tree = {} ∧ t.obs = {} ∧ t.mbx = [] ∧ t.links = [] ∧ t.agents = [] ∧
    t.pchs = [] ∧ t.time.t = s.time.t ∧ t.time.quality = s.time.quality ∧ t.time.beats = s.time.beats ∧ t.fuses = s.fuses ∧
    t.images = s.images ∧ rd t R.BLK_RESET_CAUSE = (if s.start.resetAt = some s.now then min 1 (rd s R.BLK_RESET_CAUSE) else 1) ∧
    rd t R.BUP_START_PATH = (if diesAsleep s then 3 else 2) ∧
    t.array = (if diesAsleep s then s.array else {})) ∧
  (∀ s : State, s.pins.porN = false → exec .blockResetAssert s = .next { s with pins := { s.pins with rstN := false } }) ∧
  (∀ (s t : State) (key d : Nat), s.pins.porN = true → exec .blockResetAssert s = .next t →
    ownStore key = false ∨ (trainKey key = true ∧ tget? s.mram.trainRegs key = none) →
    tget? s.mram.params key = none ∨ s.mram.erased = true →
    key ∉ [R.BLK_RESET_CAUSE.key, R.BUP_START_PATH.key, R.ENG_CLASS_LOG_NEXT.key, R.RFH_PROF_PARKED.key] →
    (∀ pc, key ≠ R.INT_REPAIR_STATE.key + pc * R.INT_REPAIR_STATE.stride) →
    val t key d = (namedDefault key).getD d)

/-- The reset and supply handshakes of 02 R37, R39 and R40: when start-up begins, what the acknowledgements move, and that a supply
lost while requested loses what the islands held; an acknowledgement still missing after BLK_PWR_ACK_LIMIT is counted and raises
EV.00.02, once for each wait. -/
def Obligations.SuppliesAndReleaseStartTheBlock : Prop :=
  (∀ s : State, s.pins.porN = false → exec .porRelease s = .next { s with
    pins := Pins.order { s.pins with porN := true }
      (putBit (putBit s.pins.pwrReq 0 true) 1 (bitOf s.pins.pwrReq 1 || bitOf s.pins.pwrAck 0)) s.now
    start := { s.start with phase := .reset } }) ∧
  (∀ s : State, s.pins.porN = true → s.pins.pwrAck = 3 → s.start.phase = .reset → s.start.refLost = false →
    exec .resetRelease s = .next (wr (wr { (if s.start.cold then bump s R.BLK_COLD_STARTS else s) with
      pins := { s.pins with rstN := true }
      start := { s.start with phase := .starting, inStep1 := true, from_ := s.now, excluded := 0, cold := false } }
      R.BUP_START_STEP 1) R.BUP_START_RESULT 0)) ∧
  (∀ s : State, s.pins.porN = true → s.pins.pwrAck = 3 → s.start.phase = .reset → s.start.refLost = true →
    exec .resetRelease s = .next { s with pins := { s.pins with rstN := true } }) ∧
  (∀ s : State, s.start.phase = .starting → s.start.waitAck = true → s.pins.rstCmpl = true →
    ∃ t, exec .rstCmplAckRise s = .next t ∧ t.pins.rstCmplAck = true ∧ t.pins.cdiRstN = true ∧ t.start.waitAck = false ∧
      rd t R.BUP_START_STEP = 3 ∧
      t = { s with pins := { s.pins with rstCmplAck := true, cdiRstN := true }, start := t.start, regs := t.regs }) ∧
  (∀ s : State, exec .rstCmplAckFall s = .next { s with
    pins := { s.pins with rstCmplAck := false, rstCmpl := s.pins.rstCmpl || s.start.waitAck }
    start := { s.start with ackSeenLow := true } }) ∧
  (∀ s : State, s.pins.porN = true → rd s R.SLP_STATE ≠ 3 → exec (.pwrAck 0 true) s = .next { s with
    pins := Pins.order { s.pins with pwrAck := putBit s.pins.pwrAck 0 true } (putBit s.pins.pwrReq 1 true) s.now }) ∧
  (∀ (s : State) (k : Nat), k < 2 → bitOf s.pins.pwrReq k = false → exec (.pwrAck k false) s =
    .next { s with
    pins := Pins.order { s.pins with pwrAck := putBit s.pins.pwrAck k false }
      (if k = 0 then putBit s.pins.pwrReq 1 false else s.pins.pwrReq) s.now }) ∧
  (∀ (s : State) (k : Nat), k < 2 → bitOf s.pins.pwrReq k = true → bitOf s.pins.pwrAck k = true → s.pins.porN = true →
    ∃ t, exec (.pwrAck k false) s = .next t ∧ t.array = {} ∧ t.home = {} ∧ t.flights = [] ∧ t.pchs = [] ∧ t.pins.rstN = false ∧
      t.start.phase = .reset ∧ t.time.t = s.time.t) ∧
  (∀ (s : State) (k n : Nat), k < 2 → s.pins.porN = true → s.time.run = true → bitOf s.pins.pwrReq k ≠ bitOf s.pins.pwrAck k →
    tget? s.pins.pwrAt k = some n → n + rd s R.BLK_PWR_ACK_LIMIT * 1000 ≤ s.now → Raises (.pwrAckTimeout k) s
      (bump { s with pins := { s.pins with pwrAt := tdel s.pins.pwrAt k } } R.BLK_PWR_ACK_TIMEOUTS) 0 2) ∧
  (∀ (s : State) (k n : Nat), tget? s.pins.pwrAt k = some n → s.now < n + rd s R.BLK_PWR_ACK_LIMIT * 1000 →
    exec (.pwrAckTimeout k) s = .next s)

/-- Step 1 of start-up ends: the fuse words are held, the beat runs, ply_rst_cmpl rises once its acknowledgement has been seen low,
and EV.00.05 is raised; a fuse macro of the other variant stops start-up (02 R37, R46, 16 R420). A temperature flag that is high begins
a trip (09 R252). -/
def Obligations.FuseLoadEndsStepOne : Prop :=
  (∀ (f : FuseImage) (s : State), s.start.phase = .starting → s.start.inStep1 = true → s.pins.ref25 = true → s.pins.ref100 = true →
    cattripHigh s = false → ∃ t, exec (.fuseLoadDone f) s = .next t ∧ t.time.run = true ∧ t.start.inStep1 = false ∧ t.start.waitAck = true ∧
      t.pins.rstCmpl = s.start.ackSeenLow ∧ t.fuses.testLocked = f.testLocked ∧ t.fuses.pen = f.pen ∧ t.fuses.dcr = f.dcr ∧
      t.fuses.provisionalId = f.provisionalId ∧ statusBit t 0 5 = true ∧ rd t R.BUP_START_STEP = 2 ∧
      (f.variantOk = true → t.start.phase = .starting) ∧
      (f.variantOk = false → t.start.phase = .stopped ∧ rd t R.BUP_STOP_CAUSE = 4 ∧ rd t R.BUP_START_RESULT = 2) ∧
      t.array = s.array ∧ t.mram = s.mram ∧ t.dict = s.dict ∧ t.home = s.home ∧ t.slices = s.slices) ∧
  (∀ (f : FuseImage) (s : State), s.start.phase = .starting → s.start.inStep1 = true → s.pins.ref25 = true → s.pins.ref100 = true →
    cattripHigh s = true → ∃ t, exec (.fuseLoadDone f) s = .next t ∧ t.stack.trip = true ∧ t.time.run = true)

/-- The clock inputs (02 R34, R35, 11 R313): losing the 100 MHz reference outside S2 is counted, stops the beat and resets the islands;
its return starts the block where it can; losing the 25 MHz input hands holdover to the crystal, whose loss leaves the time unknown;
a PLL that loses lock is reported so and raises EV.00.04. -/
def Obligations.ClockInputsAreWatched : Prop :=
  (∀ s : State, s.pins.ref100 = true → s.pins.porN = true → rd s R.SLP_STATE ≠ 3 → ∃ t, exec .refclkLoss s = .next t ∧
    t.pins.ref100 = false ∧ t.time.run = false ∧ t.start.refLost = true ∧ t.start.phase = .reset ∧
    rd t R.BLK_RESET_CAUSE = (if s.start.resetAt = some s.now then min 4 (rd s R.BLK_RESET_CAUSE) else 4) ∧
    t.home = {} ∧ t.flights = [] ∧ t.obs = {}) ∧
  (∀ s : State, s.start.refLost = true → s.pins.rstN = true → s.pins.pwrAck = 3 → ∃ t, exec .refclkReturn s = .next t ∧
    t.pins.ref100 = true ∧ t.start.refLost = false ∧ t.start.phase = .starting ∧ t.start.inStep1 = true ∧
    rd t R.BUP_START_STEP = 1 ∧ rd t R.BUP_START_RESULT = 0 ∧
    t = { s with pins := { s.pins with ref100 := true }, start := t.start, ev := t.ev, regs := t.regs }) ∧
  (∀ s : State, exec .refclk25Return s = .next { s with pins := { s.pins with ref25 := true } }) ∧
  (∀ s : State, s.pins.xtal32k = true → s.time.run = false → s.time.onXtal = false → ∃ t, exec .holdoverClockSwitch s = .next t ∧
    t.pins.ref25 = false ∧ t.time.onXtal = true ∧ t.time.segNs = 0 ∧ t.time.held = s.time.held + holdUnits s ∧
    t.time.err = s.time.err + 30518 * 1000000000 ∧ t.time.quality = (if s.time.quality = 1 then 2 else s.time.quality) ∧
    Reported { s with pins := { s.pins with ref25 := false }, time := t.time } t) ∧
  (∀ s : State, s.time.run = false → s.time.quality = 1 ∨ s.time.quality = 2 →
    RunsTo .holdoverClockLoss s
      { s with pins := { s.pins with ref25 := false, xtal32k := false }, time := { s.time with quality := 3 } }) ∧
  (∀ (s : State) (k : Nat), s.time.run = true →
    Raises (.pllLockLoss k) s { s with start := { s.start with pllLost := true } } 0 4)

/-- The adaptive supply (02 R41, R42): a margin that is low or has held high moves the code by at most 10, up to 200 and down to 0, as
one request while none is open; the handshake's four phases; a late acknowledgement leaves a later request standing; a request that
waited for the handshake's end is made; one left unacknowledged for 20 µs is counted, raises EV.00.03 and turns adaptive control off. -/
def Obligations.AdaptiveSupplyRequestsAreBounded : Prop :=
  (∀ (s : State) (k : Nat), avsFree s = true → rd s R.BLK_AVS_CODE < min (rd s R.BLK_AVS_CODE + min k 10) 200 →
    exec (.avsMarginLow k) s = .next (wr { s with pins := { s.pins with avsReq := true }, avs := { s.avs with busy := true, reqAt := s.now } }
      R.BLK_AVS_CODE (min (rd s R.BLK_AVS_CODE + min k 10) 200))) ∧
  (∀ (s : State) (k : Nat), avsFree s = true → 0 < k → 0 < rd s R.BLK_AVS_CODE →
    exec (.avsMarginHighHold k) s = .next (wr { s with pins := { s.pins with avsReq := true }, avs := { s.avs with busy := true, reqAt := s.now } }
      R.BLK_AVS_CODE (rd s R.BLK_AVS_CODE - min k 10))) ∧
  (∀ (s : State) (k : Nat), avsFree s = false → exec (.avsMarginLow k) s = .next s ∧ exec (.avsMarginHighHold k) s = .next s) ∧
  (∀ (s : State) (late : Bool), exec (.avsAck late) s =
    .next { s with pins := { s.pins with avsAck := true, avsReq := s.pins.avsReq && late } }) ∧
  (∀ s : State, rd s R.BLK_AVS_ENABLE = 1 → s.avs.want = none → exec .avsAckDrop s = .next { s with
    pins := { s.pins with avsAck := false }, avs := { s.avs with busy := s.pins.avsReq } }) ∧
  (∀ s : State, rd s R.BLK_AVS_ENABLE = 0 → s.avs.want = none → s.pins.avsReq = false → rd s R.BLK_AVS_CODE < 200 →
    rd s R.SLP_STATE ≠ 3 →
    exec .avsAckDrop s = .next (wr { s with
      pins := { s.pins with avsAck := false, avsReq := true }, avs := { s.avs with busy := true, reqAt := s.now } } R.BLK_AVS_CODE
      (min (rd s R.BLK_AVS_CODE + 10) 200))) ∧
  (∀ s : State, s.pins.avsReq = true → s.pins.avsAck = false → s.time.run = true → s.avs.reqAt + 20000 ≤ s.now →
    ∃ t, exec .avsAckTimeout s = .next t ∧
    rd t R.BLK_AVS_TIMEOUTS = min (rd s R.BLK_AVS_TIMEOUTS + 1) satMax ∧ rd t R.BLK_AVS_ENABLE = 0 ∧ statusBit t 0 3 = true ∧
    (s.avs.want = none → rd s R.BLK_AVS_CODE ≤ rd t R.BLK_AVS_CODE ∧ rd t R.BLK_AVS_CODE ≤ max (rd s R.BLK_AVS_CODE) 200) ∧
    ∀ c, s.avs.want = some c → rd t R.BLK_AVS_CODE = (if c = 0 then 0 else 200)) ∧
  (∀ (s : State) (c : Nat), s.avs.want = some c → s.pins.avsReq = false → exec .avsAckDrop s = .next (wr { s with
    pins := { s.pins with avsAck := false, avsReq := true }, avs := { s.avs with busy := true, want := none, reqAt := s.now } } R.BLK_AVS_CODE c))

/-- Steps 3A, 3B and 4 of start-up (16 R412, R414, R415): the stored tables come into force, a self-test without failures passes or
is repaired, a failure of a memory that start-up needs stops it, and the umpires start from the active image, or stay halted where
neither image passes. -/
def Obligations.StartUpTracksEnd : Prop :=
  (∀ (m : MramCheck) (s : State), startRuns s = true → s.start.done3A = false → ∃ t, exec (.mramLoadDone m) s = .next t ∧
    t.start.done3A = true ∧ t.start.binsOk = m.binsOk ∧ t.start.trainingOk = m.trainingOk ∧ t.start.phase = .starting ∧
    rd t R.BUP_START_STEP = (if s.start.done3B then 5 else 4) ∧
    rd t R.MAP_REGIONS_VALID = 
      (if m.regionsOk then (if m.regionsOlder then s.mram.regionsOld.valid else s.mram.regions.valid) else 0) ∧
    rd t R.MAP_GENERATION =
      (if m.regionsOk then (if m.regionsOlder then s.mram.regionsOld.gen else s.mram.regions.gen) else 0) ∧ t.mram.pending = none ∧
    rd t R.RFH_MODE_ACTIVE = rd t R.RFH_MODE ∧ t.array = s.array ∧ t.home = s.home ∧ t.fuses = s.fuses) ∧
  (∀ (r : Nat) (cs ps : List Nat) (s : State), startRuns s = true → s.start.done3B = false →
    exec (.mbistDone 0 r cs ps) s = .next (wr { wr (wr (wr s R.BUP_MBIST_FAILED 0) R.BUP_MBIST_REPAIRED (r % 65536)) R.BUP_MBIST_RESULT
      (if r % 65536 = 0 then 1 else 2) with start := { s.start with done3B := true } }
      R.BUP_START_STEP (if s.start.done3A then 5 else 3))) ∧
  (∀ (f r k : Nat) (cs ps : List Nat) (s : State), startRuns s = true → s.start.done3B = false → f < 65536 → bitOf f k = true →
    k ≤ 7 ∨ k = 11 ∨ k = 15 → ∃ t, exec (.mbistDone f r cs ps) s = .next t ∧ t.start.phase = .stopped ∧
      rd t R.BUP_MBIST_FAILED = f ∧ rd t R.BUP_MBIST_RESULT = 3 ∧ rd t R.BUP_START_RESULT = 2 ∧ rd t R.BUP_STOP_CAUSE = 3) ∧
  (∀ (v : FirmwareCheck) (s : State), mgmtUp s = true → s.start.waitAck = false → s.start.done3A = true → s.start.done4 = false →
    s.start.trial = false → v.identityOk = true → rd s R.UPG_ACTIVE_SLOT = 0 → bitOf (rd s R.BUP_MBIST_FAILED) 12 = false →
    slotPasses s 0 v.slotA = true → ∃ t, exec (.firmwareVerifyDone v) s = .next t ∧ t.start.done4 = true ∧ t.ump.certOk = true ∧
      rd t R.UPG_STATE = 0 ∧ rd t R.UPG_ACTIVE_SLOT = 0 ∧ rdi t R.UPG_IMAGE_STATE 0 = 2 ∧ rdi t R.UPG_IMAGE_VERSION 0 = v.slotA.version ∧
      rdi t R.UPG_IMAGE_SVN 0 = v.slotA.svn ∧ rd t R.MGT_SCHEMA_VERSION = 0x300 + v.slotA.minor ∧ t.array = s.array ∧ t.mram = s.mram) ∧
  (∀ (v : FirmwareCheck) (s : State), mgmtUp s = true → s.start.waitAck = false → s.start.done3A = true → s.start.done4 = false →
    s.start.trial = false → v.identityOk = true → rd s R.UPG_ACTIVE_SLOT = 0 → v.slotA.ok = false → v.slotB.ok = false →
    ∃ t, exec (.firmwareVerifyDone v) s = .next t ∧ t.start.done4 = true ∧ rd t R.MGT_UMPIRE_STATE = 2 ∧ rd t R.UPG_STATE = 3)

/-- Training and the array march (08 R211, R212, 16 R416 to R419): a training without failures, no earlier than 200 µs
after ply_cdi_rst_n rose, ends in result 1, or 2 where it ran fast; dies of another revision stop the start with cause 1; a march that finds nothing ends in result 1 with step 9 next, and what the
dies held is lost. -/
def Obligations.TrainingAndMarchEnd : Prop :=
  (∀ (r : TrainReport) (s : State), startRuns s = true → s.start.done3A = true → s.start.done3B = true → s.start.trained = false →
    s.pins.cdiRstN = true → s.start.cdiAt + 200000 ≤ s.now → trainClean r = true → ∃ t, exec (.trainingDone r) s = .next t ∧
      t.start.trained = true ∧ rd t R.CDI_TRAIN_RESULT = (if mayTrainFast s r then 2 else 1) ∧ rd t R.CDI_TRAIN_TIME = r.micros ∧
      (t.start.phase = .stopped ∨ rd t R.BUP_START_STEP = (if s.start.path = 0 then 7 else 9)) ∧ t.array = s.array) ∧
  (∀ (r : TrainReport) (s : State) (sl rev mr1 : Nat), startRuns s = true → s.start.done3A = true → s.start.done3B = true →
    s.start.trained = false → s.pins.cdiRstN = true → s.start.cdiAt + 200000 ≤ s.now → r.badDies = [(sl, rev, mr1)] → rev ≠ 2 →
    ∃ t, exec (.trainingDone r) s = .next t ∧ t.start.phase = .stopped ∧ t.start.trained = false ∧ rd t R.CDI_TRAIN_RESULT = 4 ∧
      rd t R.BUP_START_RESULT = 2 ∧ rd t R.BUP_STOP_CAUSE = 1) ∧
  (∀ (n : Nat) (s : State), startRuns s = true → s.start.path = 0 → s.start.trained = true → s.start.marched = false →
    s.start.hard = none → ∃ t, exec (.marchDone [] n) s = .next t ∧ t.start.marched = true ∧ t.array = {} ∧
      rd t R.BUP_ARRAY_FAILS = 0 ∧ rd t R.BUP_ARRAY_TIME = n ∧ rd t R.BUP_ARRAY_RESULT = 1 ∧ rd t R.BUP_START_STEP = 9)

/-- Hard repair and the fill (16 R419 to R421, R412): a row that passed after its hard repair has its word shadowed and programmed;
the word read back as written is counted as fused, another as failed; the fill ends start-up, and every host-addressable line then
reads as the fill. -/
def Obligations.HardRepairAndFillEnd : Prop :=
  (∀ (f : MarchFail) (a : Nat) (s : State), s.start.hard = some f → s.start.fuseWord = none → freeWord s = some a →
    s.start.hardFrom + 200000000 ≤ s.now → ∃ t, exec (.hardRepairDone .passed) s = .next t ∧ t.start.fuseWord = some a ∧ t.start.hard = some f ∧
      tget? t.mram.shadows a = some (2 ^ 31 + repairWord f) ∧ t.pins.fuseAddr = a ∧ t.pins.fuseVppReq = true ∧
      t = { s with slices := t.slices, start := t.start, mram := t.mram, pins := t.pins }) ∧
  (∀ (f : MarchFail) (a : Nat) (s : State), s.start.hard = some f → s.start.fuseWord = some a → s.start.todo = [] →
    2 ^ 31 + repairWord f < 2 ^ 32 → ∃ t, exec (.fuseProgramDone (2 ^ 31 + repairWord f)) s = .next t ∧
      tget t.fuses.repair a 0 = 2 ^ 31 + repairWord f ∧ t.pins.fusePgmBit = 31 ∧ t.pins.fuseVppReq = false ∧ t.start.marched = true ∧
      t.start.hard = none ∧ rd t R.BUP_FUSED = min (rd s R.BUP_FUSED + 1) satMax ∧ rd t R.BUP_START_STEP = 9) ∧
  (∀ (f : MarchFail) (a v : Nat) (s : State), s.start.hard = some f → s.start.fuseWord = some a → s.start.todo = [] →
    v < 2 ^ 32 → v ≠ 2 ^ 31 + repairWord f → ∃ t, exec (.fuseProgramDone v) s = .next t ∧ tget t.fuses.repair a 0 = v ∧
      rd t R.BUP_FUSE_FAILS = min (rd s R.BUP_FUSE_FAILS + 1) satMax ∧ t.start.marched = true) ∧
  (∀ (l : List (Nat × BitVec 576)) (s : State), startRuns s = true → s.start.trained = true → s.start.path = 1 ∨ s.start.path = 2 →
    s.time.run = true → ∃ t, exec (.fillDone l) s = .next t ∧ t.start.phase = .service ∧ t.start.filled = true ∧
      rd t R.BUP_START_STEP = 10 ∧ rd t R.BUP_START_RESULT = 1 ∧ statusBit t 13 0 = true ∧ t.array.lines = [] ∧
      t.array.fill = some (encodeLine 0 (rd s R.BUP_FILL = 0)) ∧ t.sleep.pastE4 = false ∧ t.mram = s.mram ∧ t.fuses = s.fuses)

/-- Conditioned inputs and the dynamic address (02 R44, R49, 14 R386): an input stuck high for FLT_STUCK_LIMIT is masked and counted; a masked
input is sampled every 100 ms, released when it is found low, and keeps its mask while high; ENTDAA reads the fuses' identity and BCR 0x06, and
its address is taken. -/
def Obligations.InputsAreMaskedAndReleased : Prop :=
  (∀ (s : State) (n : Nat), n < 18 → rdi s R.FLT_INPUT_STATE n = 0 → rdi s R.FLT_INPUT_LEVEL n = 1 → s.time.run = true →
    tget s.ev.highAt n 0 + rd s R.FLT_STUCK_LIMIT * 1000000 ≤ s.now → Raises (.inputStuck n) s
      (bumpi (wri (markInput
        { s with stack := { s.stack with tripHotAt := if n < 16 ∧ s.stack.trip = true then s.now else s.stack.tripHotAt } } n)
        R.FLT_INPUT_STATE n 1) R.FLT_INPUT_STUCKS n) 11 0) ∧
  (∀ (s : State) (n : Nat), s.now < tget s.ev.highAt n 0 + rd s R.FLT_STUCK_LIMIT * 1000000 → exec (.inputStuck n) s = .next s) ∧
  (∀ (s : State) (n : Nat), n < 18 → rdi s R.FLT_INPUT_STATE n ≠ 0 → tget s.ev.highAt n 0 + 100000000 ≤ s.now →
    exec (.inputReleaseCheck n true) s = .next (wri (markInput s n) R.FLT_INPUT_LEVEL n 1)) ∧
  (∀ (s : State) (n : Nat), n < 18 → rdi s R.FLT_INPUT_STATE n ≠ 0 → tget s.ev.highAt n 0 + 100000000 ≤ s.now → s.time.run = true →
    Raises (.inputReleaseCheck n false) s (wri (wri (markInput s n) R.FLT_INPUT_LEVEL n 0) R.FLT_INPUT_STATE n 0) 11 1) ∧
  (∀ (s : State) (n : Nat) (h : Bool), s.now < tget s.ev.highAt n 0 + 100000000 → exec (.inputReleaseCheck n h) s = .next s) ∧
  (∀ (s : State) (a : Nat), mgmtUp s = true → 8 ≤ a → a ≤ 0x7D →
    exec (.dynamicAddressAssign a) s =
      .next (emit (wr s R.MGT_I3C_ADDRESS a) (.daa s.fuses.provisionalId 0x06 s.fuses.dcr))) ∧
  (∀ (s : State) (a : Nat), a < 8 ∨ 0x7D < a → exec (.dynamicAddressAssign a) s = .next s)

/-- The time base's edge (02 R50, 03 R80, 11 R311, R312): a value names the next edge, and one that disagrees leaves it unnamed and is
counted; an edge without a name is missed; a named edge within 1 µs sets frequency and slew from its offset and leaves the time base
where it is; an error bound past its limit makes the time unknown. -/
def Obligations.EdgesDisciplineTheTimeBase : Prop :=
  (∀ (s : State) (eid v : Nat), mgmtUp s = true → v < 2 ^ 64 → s.time.named = none → s.time.conflict = false →
    exec (.sbTimeValue eid v) s = .next { s with time := { s.time with named := some v, namedAt := s.now } }) ∧
  (∀ (s : State) (eid v w : Nat), mgmtUp s = true → v < 2 ^ 64 → s.time.named = some w → v ≠ w →
    Raises (.sbTimeValue eid v) s (bump { s with time := { s.time with named := none, conflict := true } } R.LNK_TIME_CONFLICTS) 1 9) ∧
  (∀ (s : State) (p v : Nat), p < nPorts s → mgmtUp s = true → portState s p = portUp → portRev s p ≠ 2 → v < 2 ^ 64 →
    s.time.named = none → s.time.conflict = false → ∃ t, exec (.timeNext p v) s = .next t ∧
      Answered { s with time := { s.time with named := some v, namedAt := s.now } } t) ∧
  (∀ (s : State) (e c25 cx : Nat), rdi s R.FLT_INPUT_STATE 17 = 0 → s.pins.porN = true → s.start.phase ≠ .reset → s.time.run = true →
    s.time.named = none → ∃ t, exec (.tsyncEdge e 1 c25 cx) s = .next t ∧
      rd t R.BLK_TSYNC_EDGES = min (rd s R.BLK_TSYNC_EDGES + 1) satMax ∧
      rd t R.BLK_TSYNC_MISSED = min (rd s R.BLK_TSYNC_MISSED + 1) satMax ∧ t.time.missed = s.time.missed + 1 ∧
      t.time.t = s.time.t ∧ t.time.lastEdge = some s.now) ∧
  (∀ (s : State) (e v : Nat) (o : Int), rdi s R.FLT_INPUT_STATE 17 = 0 → s.pins.porN = true → s.start.phase ≠ .reset →
    s.time.run = true → s.time.named = some v → s.time.conflict = false → s.time.lastEdge = none → s.time.namedAt + 10000000 ≤ s.now →
    o = (8 * v : Nat) - (s.time.t / 8000000000 + e % 8 : Nat) → -8000 ≤ o → o ≤ 8000 →
    ∃ t, exec (.tsyncEdge e 1 0 0) s = .next t ∧ t.time.t = s.time.t ∧ t.time.named = none ∧ t.time.lastEdge = some s.now ∧
      t.time.offset8 = o ∧ t.time.slew8 = o ∧ t.time.slewLeft = o * 8000000000 ∧ t.time.missed = 0 ∧
      rdS t R.SLP_TIME_FREQ 0 = clampInt (rdS s R.SLP_TIME_FREQ 0 + Int.tdiv o 64) (-200000) 200000 ∧
      (o.natAbs ≤ 8 * rd s R.SLP_DISC_WINDOW → t.time.quality = 0 ∧ t.time.err = o.natAbs * 125000000 + 1000000000)) ∧
  (∀ (s : State) (e v : Nat) (o : Int), rdi s R.FLT_INPUT_STATE 17 = 0 → s.pins.porN = true → s.start.phase ≠ .reset →
    s.time.run = true → s.time.named = some v → s.time.conflict = false → s.time.lastEdge = none → s.time.namedAt + 10000000 ≤ s.now →
    o = (8 * v : Nat) - (s.time.t / 8000000000 + e % 8 : Nat) → 8000 < o →
    ∃ t, exec (.tsyncEdge e 1 0 0) s = .next t ∧ t.time.t = s.time.t ∧ (t.time.stepDue : Int) = o * 8000000000 ∧ t.time.slewLeft = 0 ∧
      rd t R.SLP_TIME_STEPS = min (rd s R.SLP_TIME_STEPS + 1) satMax ∧ rdS t R.SLP_TIME_FREQ 0 = clampInt (rdS s R.SLP_TIME_FREQ 0) (-200000) 200000 ∧
      statusBit t 9 7 = true ∧ t.time.quality = 0) ∧
  (∀ s : State, s.time.quality = 1 ∨ s.time.quality = 2 → rd s R.SLP_ERR_LIMIT < timeError s →
    RunsTo .timeErrorLimit s { s with time := { s.time with quality := 3 } }) ∧
  (∀ s : State, timeError s ≤ rd s R.SLP_ERR_LIMIT → exec .timeErrorLimit s = .next s)

/-- Translation (04 R100, R429, 12 R427) and the store of a committed table (04 R90): a request to translate clears the result, and
its end shows the decode, made on the write's own beat, of the address for the function named then, or of the slot offset; a slot offset that is not below the usable
capacity is refused (00 R15). -/
def Obligations.TranslationsAnswerWhole : Prop :=
  (∀ (s : State) (a : Access), Permitted s a 0x2003 0 → Done (.mapXlateAddr a) s a
    { wr s R.MAP_XLATE_RESULT 0 with home := { s.home with xlate := some (xlateAddr s a.value (rd s R.MAP_XLATE_FUNCTION)) } }) ∧
  (∀ (s : State) (a : Access), Permitted s a 0x2003 3 →
    (rd s R.BLK_USABLE_CAPACITY ≤ a.value → RefusedWith (.mapXlateSlot a) s a 3) ∧
    (a.value < rd s R.BLK_USABLE_CAPACITY → Done (.mapXlateSlot a) s a
      { wr s R.MAP_XLATE_RESULT 0 with home := { s.home with xlate := some (xlateSlot s a.value) } })) ∧
  (∀ (s : State) (r : Nat), s.home.xlate = some r → exec .mapXlateDone s =
    .next { wr s R.MAP_XLATE_RESULT r with home := { s.home with xlate := none } }) ∧
  (∀ s : State, s.home.xlate = none → exec .mapXlateDone s = .next s) ∧
  (∀ (s : State) (r : RegionRecord), s.mram.pending = some r →
    exec .mapTableStoreDone s =
    .next { s with mram := { s.mram with regions := r, regionsOld := s.mram.regions, pending := none } })

/-- Every byte of every logical location of the stack has a slot offset of its own below the usable capacity, which names it again; a
slot offset at or above the capacity names no location, and its translation shows a misroute (04 R87, R429). -/
def Obligations.SlotOffsetsNameLocations : Prop :=
  (∀ (s : State) (l : Loc) (byte : Nat), l.pc < nPcs s → l.sid < 4 → l.bank < 31 → l.row < 16384 → l.col < 16 → byte < 64 →
    slotOffset s l =
      ((((((l.row * 4 + l.sid) * 31 + l.bank) * (if s.ply16 then 16 else 32) + l.pc / 2) * 2 + l.pc % 2) * 16 + l.col) * 64) ∧
    slotLoc s (slotOffset s l + byte) = l ∧ slotOffset s l + byte < R.BLK_USABLE_CAPACITY.default s.ply16) ∧
  (∀ (s : State) (v : Nat), rd s R.BLK_USABLE_CAPACITY ≤ v → xlateSlot s v = 2 ^ 63 + 2 ^ 62)

/-- No two line addresses of a region decode to one location (04 R91 to R94): for a region that passed the commit's checks, two
line-aligned addresses of its pool range that decode to the same place are the same address. -/
def Obligations.DecodeKeepsAddressesApart : Prop :=
  ∀ (s : State) (f a b r : Nat) (l : Loc), a % 64 = 0 → b % 64 = 0 → findRegion s a = some r → findRegion s b = some r →
    (regionAt s false r).gran ≤ 8 → (regionAt s false r).ways < 10 → 0 < (regionAt s false r).rows →
    (regionAt s false r).pos < waysOf (regionAt s false r).ways →
    mapDecode s a f = some l → mapDecode s b f = some l → a = b

/-- Each command that clears an area's counts returns those counts, and nothing else, to their Defaults (01 R26, 03 R86, 06 R167, 07
R199, 08 R230, 09 R257, 10 R288, 11 R319, 12 R360, 14 R395, 15 R410). -/
def Obligations.ClearsZeroTheirCounts : Prop :=
  (∀ (s : State) (sel : Nat → Nat → Bool) (key d : Nat), val (clearRegs s sel) key d =
    if key < 0x1000000 ∧ sel (key / 256) (key % 256) = true then (namedDefault key).getD d else val s key d) ∧
  ∀ (s : State) (a : Access),
    (Permitted s a 0x0003 1 → Done (.blkXingParityClear a) s a (clearRegs s parityCounts)) ∧
    (Permitted s a 0x1031 0 → Done (.lnkCountersClear a) s a (clearRegs s linkCounts)) ∧
    (Permitted s a 0x4011 0 → Done (.homCountersClear a) s a (clearRegs s homeCounts)) ∧
    (Permitted s a 0x5003 0 → Done (.engCountersClear a) s a (clearRegs s engineCounts)) ∧
    (Permitted s a 0x6601 0 → Done (.cdiCountersClear a) s a (clearRegs s cdiCounts)) ∧
    (Permitted s a 0x7110 0 → Done (.rfhCountersClear a) s a (clearRegs s heatCounts)) ∧
    (Permitted s a 0x8005 0 → Done (.intCountersClear a) s a (clearRegs s integrityCounts)) ∧
    (Permitted s a 0x9102 0 → Done (.slpCountersClear a) s a (clearRegs s sleepCounts)) ∧
    (Permitted s a 0xAF00 0 → Done (.mgtCountersClear a) s a (clearRegs s mgmtCounts)) ∧
    (Permitted s a 0xB403 0 → Done (.fltCountersClear a) s a
      (clearRegs { s with ev := { s.ev with forced := [], count := [] } } faultCounts)) ∧
    (Permitted s a 0xCB00 0 → Done (.obsStatsClear a) s a (clearRegs s statCounts))

/-- The checks of a request at its port, in their order (03 R71, R83): before NEG_SELECT it is discarded and counted; one that is not
defined for the port's revision, names a function not bound to the port, an agent not joined there, or a function in reset draws
UNSUPPORTED, NOT_BOUND, NOT_JOINED or FUNCTION_RESET and reaches neither tree nor home. -/
def Obligations.RequestsMeetTheirPortsChecks : Prop :=
  ∀ (c : Instr) (f : Flight) (s : State), requestOf c = some f → f.h.port < nPorts s →
    (portState s f.h.port = portNegotiating → exec c s = .next (bumpi s R.LNK_DISCARDS f.h.port)) ∧
    (∀ code, portState s f.h.port = portUp → s.sleep.pastE4 = false →
      (unsupported s f = true ∧ code = 10 ∨
       unsupported s f = false ∧ portBound s f.h.port f.h.fn = false ∧ code = 8 ∨
       unsupported s f = false ∧ portBound s f.h.port f.h.fn = true ∧ joinedHere s f.h f.op.needsCache = false ∧ code = 9 ∨
       unsupported s f = false ∧ portBound s f.h.port f.h.fn = true ∧ joinedHere s f.h f.op.needsCache = true ∧
        inReset s f.h.fn = true ∧ code = 7) →
      ∃ t, exec c s = .next t ∧ t.uid = s.uid + 1 ∧
        (flightOf t s.uid).map (fun g => (g.rsp, g.stage)) = some (some (errRsp code 0), .ready) ∧
        rdi t R.LNK_LINK_REFUSALS f.h.port = min (rdi s R.LNK_LINK_REFUSALS f.h.port + 1) satMax ∧
        t.tree = s.tree ∧ t.home = s.home ∧ t.array = s.array ∧ t.agents = s.agents)

/-- A request that passes those checks (05 R103, R109, 11 R300): it joins its label's leaf, last in its queue, marked as misrouted
where its address decodes to no place of its function; above its leaf's policer it draws RATE_EXCEEDED with the time to wait; without
a leaf and a rule, ADMISSION_REFUSED; past E4 it waits in the replay queue. -/
def Obligations.RequestsReachTheirLeaf : Prop :=
  ∀ (c : Instr) (f : Flight) (s : State), requestOf c = some f → f.h.port < nPorts s → portState s f.h.port = portUp → Sound s f →
    (∀ (n : Nat) (l : Leaf), s.sleep.pastE4 = false → s.sleep.entry = none →
      tget? s.tree.labels (pairNo f.h.fn f.h.label) = some n → leafOf s n = some l → l.d.closed = false → l.d.pir = 0 →
      ∃ t, exec c s = .next t ∧ t.uid = s.uid + 1 ∧ (leafOf t n).map (·.queue) = some (l.queue ++ [s.uid]) ∧
        (flightOf t s.uid).map (fun g => (g.stage, g.leaf, g.op, g.h, g.data)) = some (.queued, n, f.op, f.h, f.data) ∧
        (flightOf t s.uid).map (·.misrouted) = some (mapDecode s (f.h.line * 64) f.h.fn).isNone ∧
        t.home = s.home ∧ t.array = s.array) ∧
    (∀ (n : Nat) (l : Leaf), s.sleep.pastE4 = false → s.sleep.entry = none →
      tget? s.tree.labels (pairNo f.h.fn f.h.label) = some n → leafOf s n = some l → l.d.closed = false → l.d.pir ≠ 0 →
      l.p < 65536 → ∃ t, exec c s = .next t ∧
        (flightOf t s.uid).map (fun g => (g.rsp, g.stage)) =
          some (some (errRsp 1 (min (((65536 - l.p).toNat + l.d.pir - 1) / l.d.pir) satMax)), .ready) ∧
        (leafOf t n).map (·.queue) = some l.queue ∧ (leafOf t n).map (·.refusals) = some (min (l.refusals + 1) satMax)) ∧
    (s.sleep.pastE4 = false → s.sleep.entry = none → tget? s.tree.labels (pairNo f.h.fn f.h.label) = none →
      findRule s f.h.fn f.h.label = none → ∃ t, exec c s = .next t ∧ t.tree = s.tree ∧
        (flightOf t s.uid).map (fun g => (g.rsp, g.stage)) = some (some (errRsp 2 0), .ready)) ∧
    (s.sleep.pastE4 = true → s.sleep.queue.length < 255 → ∃ t, exec c s = .next t ∧ t.sleep.queue = s.sleep.queue ++ [s.uid] ∧
      t.tree = s.tree ∧ (flightOf t s.uid).map (fun g => (g.stage, g.replayed)) = some (.replay, true) ∧
      rd s R.SLP_REPLAY_MAX ≤ rd t R.SLP_REPLAY_MAX)

/-- The response of a request and its acknowledgement (03 R73, R74, R76, 01 R17, 06 R152): a ready response leaves on its port and the
request keeps only what its transaction's close needs; one that lost its header's parity does not leave, and BUS_ERROR replaces it at the response timeout; a TAG that owes
nothing is counted; a CMP_ACK closes its transaction, and opens a possession window where it ends a grant of STATE 2. -/
def Obligations.ResponsesLeaveAndAreAcknowledged : Prop :=
  (∀ (s : State) (p uid : Nat) (f : Flight) (r : Rsp), p < nPorts s → portState s p = portUp → readyResponse s p = some (uid, f) →
    flightOf s uid = some f → f.rsp = some r → ∃ t, exec (.responseSend p .good) s = .next t ∧
      (∀ x ∈ (sendNow s f.h.port (rspMsg f r (portRev s f.h.port))).out, x ∈ t.out) ∧
      (flightOf t uid = none ∨ (flightOf t uid).map (·.stage) = some .done) ∧ t.array = s.array) ∧
  (∀ (s : State) (p uid : Nat) (f : Flight) (r : Rsp), p < nPorts s → portState s p = portUp → readyResponse s p = some (uid, f) →
    flightOf s uid = some f → f.rsp = some r → s.time.run = true → ∃ t, exec (.responseSend p .badHeader) s = .next t ∧
      (flightOf t uid).map (fun g => (g.rsp, g.stage)) = some (some r, .lost) ∧ statusBit t 1 10 = true ∧
      rd t R.BLK_XING_PARITY_ERRORS = min (rd s R.BLK_XING_PARITY_ERRORS + 1) satMax) ∧
  (∀ (s : State) (uid : Nat) (f : Flight) (r : Rsp), flightOf s uid = some f → f.stage = .lost → f.rsp = some r →
    f.lostAt + rd s R.HOM_RESPONSE_TIMEOUT * 1000 ≤ s.now → ∃ t, exec (.responseTimeout true uid) s = .next t ∧
      (flightOf t uid).map (fun g => (g.rsp, g.stage)) = some (some (errRsp 4 0), .ready) ∧ t.home = s.home) ∧
  (∀ (s : State) (p : Nat) (b : Parity), p < nPorts s → readyResponse s p = none → exec (.responseSend p b) s = .next s) ∧
  (∀ (s : State) (p tag : Nat), p < nPorts s → portState s p = portUp → ackOwed s p tag = none → ∃ t,
    exec (.cmpAck p 1 [tag]) s = .next t ∧ rdi t R.LNK_DISCARDS p = min (rdi s R.LNK_DISCARDS p + 1) satMax ∧ t.home = s.home ∧
      t.flights = s.flights) ∧
  (∀ (s : State) (p tag id : Nat) (t : Txn), p < nPorts s → portState s p = portUp → ackOwed s p tag = some (id, t) →
    txnOf s id = some t → t.active = true → t.finished = true → t.responded = true → t.snoops = [] → t.wbWait = [] → t.writes = [] → t.lost = [] →
    t.hint = 0 → t.granted = false → Unhurried s →
    ∃ u, exec (.cmpAck p 1 [tag]) s = .next u ∧ txnOf u id = none ∧ u.home.windows = s.home.windows ∧ u.home.filter = s.home.filter) ∧
  (∀ (s : State) (p tag id : Nat) (t : Txn) (a : Agent), p < nPorts s → portState s p = portUp → ackOwed s p tag = some (id, t) →
    t.granted = true → t.rev = 3 → agentOf s t.agent = some a → a.caching = true → cellRevision s a.cell = 3 →
    rdi s R.HOM_POSSESSION_WINDOW a.cell ≠ 0 → s.home.windows.length < 2048 → Unhurried s → txnOf s id = some t → t.active = true →
    t.finished = true → t.hint = 0 → ∃ u, exec (.cmpAck p 1 [tag]) s = .next u ∧ possessedBy u t.line t.agent = true)

/-- Answers to snoops and hints (06 R143, R147 to R149, R154, R158): what each adds to a flow that awaits others; a response that
names no transaction of its agent is stale and counted; a hint's target accepts and becomes the only holder, or declines and none is
listed. -/
def Obligations.AnswersOfHoldersAreCollected : Prop :=
  (∀ (s : State) (r : SnoopRsp) (id : Nat) (t : Txn) (sn : Snoop), Awaited s r id t sn →
    (∃ u, exec (.rspInvClean r) s = .next u ∧ txnOf u id = some (without t r.agent) ∧ u.home.filter = s.home.filter) ∧
    (∃ u, exec (.rspNotPresent r) s = .next u ∧ txnOf u id = some (without t r.agent) ∧
      (∀ e, findEntryOf s t.line = some e → e.coarse = false → r.agent ∈ e.holders →
        rd u R.HOM_PRUNES = (rd s R.HOM_PRUNES + 1) % 2 ^ 64 ∧
        ∀ e', findEntryOf u t.line = some e' → r.agent ∉ e'.holders)) ∧
    (sn.op = snpShare → ∃ u, exec (.rspShared r) s = .next u ∧ txnOf u id = some { without t r.agent with kept := true } ∧
      u.home.filter = s.home.filter) ∧
    (∀ d, sn.excl = true → ∃ u, exec (.rspDirty r d) s = .next u ∧
      txnOf u id = some { without t r.agent with kept := decide (sn.op = snpShare), dirty := some d }) ∧
    (waitingWb s t.line r.agent = none → walkHeldWb s t.line r.agent = none → ∃ u, exec (.rspWbInFlight r) s = .next u ∧
      txnOf u id = some { without t r.agent with wbWait := t.wbWait ++ [r.agent] })) ∧
  (∀ (s : State) (r : SnoopRsp) (d : Line) (c : Instr), r.port < nPorts s → portState s r.port = portUp →
    (agentOf s r.agent).map (·.port) ≠ some r.port ∨ txnNamed s r.snoopId = none →
    c ∈ [.rspNotPresent r, .rspInvClean r, .rspShared r, .rspDirty r d, .rspWbInFlight r, .hintAccept r, .hintDecline r] →
    ∃ u, exec c s = .next u ∧ rd u R.HOM_STALE_RESPONSES = min (rd s R.HOM_STALE_RESPONSES + 1) satMax ∧ u.home = s.home ∧
      u.flights = s.flights ∧ u.agents = s.agents) ∧
  (∀ (s : State) (r : SnoopRsp) (id uid : Nat) (t : Txn) (f : Flight), Names s r id t → t.snoops = [] → reqOf s t = some (uid, f) →
    t.hint = 2 → t.finished = true → f.target = r.agent → Unhurried s →
    ((findEntryOf s t.line).isSome = true → ∃ u, exec (.hintAccept r) s = .next u ∧
      (findEntryOf u t.line).map (fun e => (e.excl, e.holders)) = some (true, [f.target]) ∧
      rd u R.HOM_HINTS_ACCEPTED = min (rd s R.HOM_HINTS_ACCEPTED + 1) satMax) ∧
    (∃ u, exec (.hintDecline r) s = .next u ∧ findEntryOf u t.line = none ∧
      rd u R.HOM_HINTS_DECLINED = min (rd s R.HOM_HINTS_DECLINED + 1) satMax))

/-- The home takes requests in order and starts them (04 R91, 06 R140, R145 to R148): one that decodes to no place of its function is a
misroute, which holds no tag; another opens a transaction in acceptance order, and the crossing waits while every entry is in use; a read of a function
that is not coherent goes to memory; a read of a line another agent may have changed asks that agent. -/
def Obligations.TheHomeTakesRequestsInOrder : Prop :=
  (∀ (s : State) (uid id : Nat) (rest : List Nat) (f : Flight), s.tree.crossing = uid :: rest → flightOf s uid = some f →
    freeIndex s 0 7936 = some id → f.op ≠ .wbDirty → s.home.walking = false → f.dropRsp = false → s.time.run = true →
    (mapDecode s (f.h.line * 64) f.h.fn = none → ∃ t, exec (.homeAccept .good) s = .next t ∧
      t.tree.crossing = s.tree.crossing.filter (· ≠ uid) ∧ (flightOf t uid).map (·.rsp) = some (some (errRsp 3 0)) ∧
      rdi t R.MAP_MISROUTES f.h.fn = min (rdi s R.MAP_MISROUTES f.h.fn + 1) satMax ∧ statusBit t 2 3 = true ∧
      (flightOf t uid).map (·.tag) = some false ∧
      t.home = s.home) ∧
    (∀ l, mapDecode s (f.h.line * 64) f.h.fn = some l → pcFailed s l.pc = false →
      coherent s f.h.fn = false ∨ cellDown s f.h.agent = false → ∃ t, exec (.homeAccept .good) s = .next t ∧
      t.tree.crossing = s.tree.crossing.filter (· ≠ uid) ∧ t.home.order = s.home.order ++ [id] ∧
      (txnOf t id).map (fun x => (x.line, x.origin, x.agent, x.active, x.pc, x.key)) =
        some (f.h.line, .request uid, f.h.agent, false, l.pc, locKey l.sid l.bank l.row l.col) ∧
      (flightOf t uid).map (·.stage) = some .home)) ∧
  (∀ (s : State) (uid : Nat) (rest : List Nat) (f : Flight) (b : Parity), s.tree.crossing = uid :: rest → flightOf s uid = some f →
    freeIndex s 0 7936 = none → ∃ t, exec (.homeAccept b) s = .next t ∧ Answered s t) ∧
  (∀ (s : State) (id uid : Nat) (t : Txn) (f : Flight) (e : Ecc), txnOf s id = some t → t.active = false →
    lineBlocked s id t.line = false → t.origin = .request uid → flightOf s uid = some f → f.op = .rd → coherent s f.h.fn = false →
    t.finished = false → t.snoops = [] → t.wbWait = [] → t.err = 0 → t.dirty = none → t.data = none → Unhurried s →
    ∃ u, exec (.transactionActivate id e) s = .next u ∧ txnOf u id = some { t with active := true, snooped := true, mem := 1 } ∧
      u.home.filter = s.home.filter) ∧
  (∀ (s : State) (id uid : Nat) (t : Txn) (f : Flight) (e : FilterEntry) (h : Nat) (a : Agent), txnOf s id = some t → t.active = false →
    lineBlocked s id t.line = false → t.origin = .request uid → flightOf s uid = some f → f.op = .rd ∨ f.op = .rdShared →
    coherent s f.h.fn = true → cellDown s t.agent = false → t.finished = false → t.responded = false → t.snoops = [] →
    findEntryOf s t.line = some e → e.excl = true → e.coarse = false → e.holders = [h] → h ≠ t.agent → agentOf s h = some a →
    a.fallen = false → possessedBy s t.line h = false → f.h.line = t.line → Unhurried s →
    ∃ u, exec (.transactionActivate id .ok) s = .next u ∧
      (txnOf u id).map (fun x => (x.active, x.coh, x.snoops)) = some (true, true, [⟨h, snpShare, true, true⟩])) ∧
  (∀ (s : State) (id : Nat) (t : Txn) (e : Ecc), txnOf s id = some t → lineBlocked s id t.line = true →
    exec (.transactionActivate id e) s = .next s)

/-- The home's timeouts (01 R17, 06 R152, R154, R161): each answers with its event, whatever else is under way; an agent that leaves a snoop or a writeback unanswered takes its whole cell down, and no
agent of another; a wait for CMP_ACK ends, and is counted; a read that its engine has not answered draws BUS_ERROR and its line is
poisoned; so does a request that a crossing lost, with no line poisoned; a possession window ends alone. None comes before the wait has lasted
HOM_SNOOP_TIMEOUT, HOM_ACK_TIMEOUT, HOM_RESPONSE_TIMEOUT or HOM_POSSESSION_WINDOW. -/
def Obligations.TimeoutsFallTheAgentsCell : Prop :=
  (∀ (s : State) (id a : Nat) (t : Txn), txnOf s id = some t → s.time.run = true →
    (t.snoops.any (fun n => n.agent = a && n.sent) = true ∧ waitOver s id (waitSnoop a) (rd s R.HOM_SNOOP_TIMEOUT) = true ∨
      (t.hint = 2 ∧ waitOver s id waitHint (rd s R.HOM_SNOOP_TIMEOUT) = true ∧ ∃ uid f, reqOf s t = some (uid, f) ∧ f.target = a) →
      ∃ u, exec (.snoopTimeout id a) s = .next u ∧ statusBit u 4 2 = true ∧
        ∀ x, agentOf s a = some x → rdi u R.HOM_CELL_STATE x.cell ≠ 0) ∧
    (a ∈ t.wbWait ∨ (∃ w, (a, w) ∈ t.wbHeld) → waitOver s id (waitPair a) (rd s R.HOM_SNOOP_TIMEOUT) = true →
      ∃ u, exec (.wbPairingTimeout id a) s = .next u ∧ statusBit u 4 2 = true ∧
      ∀ x, agentOf s a = some x → rdi u R.HOM_CELL_STATE x.cell ≠ 0)) ∧
  (∀ (s : State) (id uid : Nat) (t : Txn) (f : Flight), txnOf s id = some t → t.waitAck = true → t.responded = true →
    waitOver s id waitCmpAck (rd s R.HOM_ACK_TIMEOUT) = true → reqOf s t = some (uid, f) →
    s.time.run = true → ∃ u, exec (.ackTimeout id) s = .next u ∧ statusBit u 4 3 = true ∧
      rd u R.HOM_ACK_TIMEOUTS = min (rd s R.HOM_ACK_TIMEOUTS + 1) satMax ∧
      (∀ t', txnOf u id = some t' → t'.waitAck = false) ∧
      ∀ x, t.coh = true → agentOf s t.agent = some x → rdi u R.HOM_CELL_STATE x.cell ≠ 0) ∧
  (∀ (s : State) (id : Nat) (t : Txn), txnOf s id = some t → t.active = true → s.time.run = true →
    waitOver s id waitEngine (rd s R.HOM_RESPONSE_TIMEOUT) = true → t.mem = 1 ∨ t.mem = 2 ∨ t.writes ≠ [] ∨ t.lost ≠ [] →
    ∃ u, exec (.responseTimeout false id) s = .next u ∧ statusBit u 4 10 = true) ∧
  (∀ (s : State) (id a : Nat) (t : Txn) (x : Agent), txnOf s id = some t → t.snoops.any (fun n => n.agent = a && n.sent) = true →
    waitOver s id (waitSnoop a) (rd s R.HOM_SNOOP_TIMEOUT) = true →
    agentOf s a = some x → rdi s R.HOM_CELL_STATE x.cell = 0 → ∃ u, exec (.snoopTimeout id a) s = .next u ∧ CellFell s u x.cell) ∧
  (∀ (s : State) (id a : Nat) (t : Txn) (x : Agent), txnOf s id = some t → a ∈ t.wbWait → agentOf s a = some x →
    waitOver s id (waitPair a) (rd s R.HOM_SNOOP_TIMEOUT) = true →
    rdi s R.HOM_CELL_STATE x.cell = 0 → ∃ u, exec (.wbPairingTimeout id a) s = .next u ∧ CellFell s u x.cell) ∧
  (∀ (s : State) (id a : Nat) (t : Txn) (x : Agent), txnOf s id = some t → a ∈ t.wbWait → agentOf s a = some x →
    waitOver s id (waitPair a) (rd s R.HOM_SNOOP_TIMEOUT) = true →
    rdi s R.HOM_CELL_STATE x.cell ≠ 0 → ∃ u, exec (.wbPairingTimeout id a) s = .next u ∧ u.agents = s.agents) ∧
  (∀ (s : State) (id uid : Nat) (t : Txn) (f : Flight), txnOf s id = some t → t.waitAck = true → reqOf s t = some (uid, f) →
    waitOver s id waitCmpAck (rd s R.HOM_ACK_TIMEOUT) = true →
    t.coh = false → t.active = true → t.finished = true → t.responded = true → t.snoops = [] → t.wbWait = [] → t.writes = [] →
    t.lost = [] → t.hint = 0 → Unhurried s → s.time.run = true → ∃ u, exec (.ackTimeout id) s = .next u ∧ txnOf u id = none ∧
      rd u R.HOM_ACK_TIMEOUTS = min (rd s R.HOM_ACK_TIMEOUTS + 1) satMax ∧ statusBit u 4 3 = true ∧ u.agents = s.agents) ∧
  (∀ (s : State) (id uid : Nat) (t : Txn) (f : Flight), txnOf s id = some t → t.active = true → t.mem = 2 → t.responded = false →
    waitOver s id waitEngine (rd s R.HOM_RESPONSE_TIMEOUT) = true →
    t.writes = [] → t.lost = [] → reqOf s t = some (uid, f) → f.op = .rd → f.dropRsp = false → t.coh = false → Unhurried s → s.time.run = true →
    ∃ u, exec (.responseTimeout false id) s = .next u ∧ statusBit u 4 10 = true ∧
      (flightOf u uid).map (fun g => (g.rsp, g.outcome)) = some (some (errRsp 4 0), 3) ∧
      (txnOf u id).map (·.writes) = some [⟨0, true, true, false, none, []⟩]) ∧
  (∀ (s : State) (uid : Nat) (f : Flight), flightOf s uid = some f → f.stage = .lost → f.rsp = none → f.dropRsp = false →
    f.lostAt + rd s R.HOM_RESPONSE_TIMEOUT * 1000 ≤ s.now → ∃ u, exec (.responseTimeout true uid) s = .next u ∧
      (flightOf u uid).map (fun g => (g.rsp, g.stage, g.outcome)) = some (some (errRsp 4 0), .ready, 2) ∧ u.home = s.home) ∧
  (∀ (s : State) (uid : Nat), (∀ f, flightOf s uid = some f → f.stage ≠ .lost) → exec (.responseTimeout true uid) s = .next s) ∧
  (∀ (s : State) (uid : Nat) (f : Flight), flightOf s uid = some f → s.now < f.lostAt + rd s R.HOM_RESPONSE_TIMEOUT * 1000 →
    exec (.responseTimeout true uid) s = .next s) ∧
  (∀ (s : State) (id a : Nat), (∀ k ∈ [waitSnoop a, waitHint], waitOver s id k (rd s R.HOM_SNOOP_TIMEOUT) = false) →
    exec (.snoopTimeout id a) s = .next s) ∧
  (∀ (s : State) (id a : Nat), waitOver s id (waitPair a) (rd s R.HOM_SNOOP_TIMEOUT) = false → exec (.wbPairingTimeout id a) s = .next s) ∧
  (∀ (s : State) (id : Nat), waitOver s id waitCmpAck (rd s R.HOM_ACK_TIMEOUT) = false → exec (.ackTimeout id) s = .next s) ∧
  (∀ (s : State) (id : Nat), waitOver s id waitEngine (rd s R.HOM_RESPONSE_TIMEOUT) = false →
    exec (.responseTimeout false id) s = .next s) ∧
  (∀ (s : State) (line a : Nat), windowOver s line a = true → ∃ u, exec (.possessionWindowEnd line a) s = .next u ∧
    possessedBy u line a = false ∧ ∀ l b, (l, b) ≠ (line, a) → possessedBy u l b = possessedBy s l b) ∧
  (∀ (s : State) (line a : Nat), windowOver s line a = false → exec (.possessionWindowEnd line a) s = .next s)

/-- Cells (06 R140, R163 to R167, Table HOM-4): a command takes an UP cell down with its agents and no others, counts a fall that
comes again, and restarts a DOWN cell; the fall is complete when nothing is left to poison, whatever its walk's
last read found (06 R144); coherence changes only with no caching
agent joined; the filter probe clears its results until DONE. -/
def Obligations.CellsFallAndRestart : Prop :=
  (∀ (s : State) (a : Access) (c : Nat), Permitted s a (0x4100 + c) 1 → a.value = 1 →
    (rdi s R.HOM_CELL_STATE c = 0 → ∃ t, exec (.homCellTakeDown a c) s = .next t ∧ CellFell s t c) ∧
    (rdi s R.HOM_CELL_STATE c = 1 → Done (.homCellTakeDown a c) s a (bumpi s R.HOM_CELL_FALLS c)) ∧
    (rdi s R.HOM_CELL_STATE c = 2 → Done (.homCellTakeDown a c) s a s)) ∧
  (∀ (s : State) (a : Access) (c : Nat), Permitted s a (0x4100 + c) 1 → a.value = 2 →
    (rdi s R.HOM_CELL_STATE c = 0 → RefusedWith (.homCellRestart a c) s a 3) ∧
    (rdi s R.HOM_CELL_STATE c = 1 → RefusedWith (.homCellRestart a c) s a 5) ∧
    (rdi s R.HOM_CELL_STATE c = 2 → s.time.run = true → c < 16 →
      DoneRaising (.homCellRestart a c) s a (wri s R.HOM_CELL_STATE c 0) 4 1)) ∧
  (∀ (s : State) (c : Nat), rdi s R.HOM_CELL_STATE c = 1 → s.home.poisonTodo.any (·.1 = c) = false →
    (s.home.txns.any fun (_, t) => t.origin = .fall c) = false → ∀ line,
    exec (.cellFallComplete c .ok line) s =
      .next (wri { s with agents := s.agents.filter fun (_, x) => !(x.cell = c && x.doomed) } R.HOM_CELL_STATE c 2) ∧
    (∃ t, exec (.cellFallComplete c .corrected line) s = .next t ∧ rdi t R.HOM_CELL_STATE c = 2 ∧
      rd t R.HOM_FILTER_CORRECTED = min (rd s R.HOM_FILTER_CORRECTED + 1) satMax) ∧
    ∃ t, exec (.cellFallComplete c .uncorrectable line) s = .next t ∧ rdi t R.HOM_CELL_STATE c = 2 ∧
      ∀ d, d < 16 → rdi t R.HOM_CELL_STATE d ≠ 0) ∧
  (∀ (s : State) (a : Access), Permitted s a 0x4000 0 →
    ((s.agents.any fun (_, x) => x.caching && bitOf (rd s R.HOM_FUN_COHERENT ^^^ a.value) x.fn) = false →
      Done (.homFunCoherent a) s a (wr s R.HOM_FUN_COHERENT a.value)) ∧
    ((s.agents.any fun (_, x) => x.caching && bitOf (rd s R.HOM_FUN_COHERENT ^^^ a.value) x.fn) = true →
      RefusedWith (.homFunCoherent a) s a 5)) ∧
  (∀ (s : State) (a : Access), Permitted s a 0x4010 0 → Done (.homFilterProbeAddr a .ok) s a
    { wr (wr s R.HOM_FILTER_PROBE_STATE 0) R.HOM_FILTER_PROBE_HOLDERS 0 with
      home := { s.home with probe := some (a.value / 64 % 2 ^ 46) } }) ∧
  (∀ (s : State) (line : Nat), s.home.probe = some line → ∃ u, exec .homFilterProbeDone s = .next u ∧
    2 ^ 63 ≤ rd u R.HOM_FILTER_PROBE_STATE ∧ u = { s with regs := u.regs, home := { s.home with probe := none } } ∧
    (findEntryOf s line = none → rd u R.HOM_FILTER_PROBE_HOLDERS = 0) ∧
    (∀ e, findEntryOf s line = some e → e.coarse = true → rd u R.HOM_FILTER_PROBE_HOLDERS = e.cells))

/-- Map commits (04 R89, R97, R98): a table that fails a check is not committed and its first failing region is named; one that passes
starts the walk at once or is scheduled; while a commit is under way another is refused; on the commit beat the shadow table, and no
other value of it, becomes the active one, generation and status follow, and held requests go on. -/
def Obligations.CommitsMakeTheShadowTableActive : Prop :=
  (∀ (s : State) (a : Access), Permitted s a 0x2001 0 →
    (rd s R.MAP_COMMIT_STATUS = 1 ∨ rd s R.MAP_COMMIT_STATUS = 9 → RefusedWith (.mapCommit a) s a 5) ∧
    (rd s R.MAP_COMMIT_STATUS ≠ 1 → rd s R.MAP_COMMIT_STATUS ≠ 9 →
      (∀ st r, checkTable s = some (st, r) → s.time.run = true →
        DoneRaising (.mapCommit a) s a (wr (wr s R.MAP_COMMIT_STATUS st) R.MAP_COMMIT_REGION r) 2 1) ∧
      (checkTable s = none → rd s R.MAP_COMMIT_TIME ≠ 0 → poolNs s + 100000 < rd s R.MAP_COMMIT_TIME →
        Done (.mapCommit a) s a (wr s R.MAP_COMMIT_STATUS 9)) ∧
      (checkTable s = none → rd s R.MAP_COMMIT_TIME ≤ poolNs s + 100000 → ∃ t, exec (.mapCommit a) s = .next t ∧
        t.home.walking = true ∧ rd t R.MAP_COMMIT_STATUS = 1 ∧ .answer a.src a.mtag 0x22 0 0 [] ∈ t.out) ∧
      (checkTable s = none → rd s R.MAP_COMMIT_TIME = 0 → s.home.filter = [] → Unhurried s →
        Done (.mapCommit a) s a { wr s R.MAP_COMMIT_STATUS 1 with
          home := { s.home with walking := true, walkDone := false, walkLate := false, walkTodo := [] } }))) ∧
  (∀ (s : State) (e : Ecc), rd s R.MAP_COMMIT_STATUS = 9 → rd s R.MAP_COMMIT_TIME ≤ poolNs s + 100000 →
    ∃ t, exec (.commitWalkStart e) s = .next t ∧ t.home.walking = true ∧ rd t R.MAP_COMMIT_STATUS = 1) ∧
  (∀ s : State, rd s R.MAP_COMMIT_STATUS = 9 → rd s R.MAP_COMMIT_TIME ≤ poolNs s + 100000 → s.home.filter = [] → Unhurried s →
    exec (.commitWalkStart .ok) s = .next { wr s R.MAP_COMMIT_STATUS 1 with
      home := { s.home with walking := true, walkDone := false, walkLate := false, walkTodo := [] } }) ∧
  (∀ s : State, s.home.walking = true → s.home.walkDone = false → ((s.home.filter.map (·.1)).filter fun l => changedAddress s (l * 64)) = [] →
    (s.home.txns.any fun (_, t) => changedAddress s (t.line * 64)) = false → s.home.victimTodo = [] → s.home.poisonTodo = [] →
    exec .commitWalkDone s = .next { s with
      home := { s.home with walkDone := true,
                            walkLate := rd s R.MAP_COMMIT_TIME ≠ 0 && decide (rd s R.MAP_COMMIT_TIME < poolNs s) } }) ∧
  (∀ s : State, s.home.walking = true → s.home.walkDone = true → rd s R.MAP_COMMIT_TIME ≤ poolNs s → s.time.run = true →
    ∃ t, exec .commitApply s = .next t ∧ (∀ r, r < 1024 → regionAt t false r = regionAt s true r ∧ regionAt t true r = regionAt s true r) ∧
      rd t R.MAP_GENERATION = (rd s R.MAP_GENERATION + 1) % 2 ^ 32 ∧ rd t R.MAP_COMMIT_STATUS = (if s.home.walkLate then 3 else 2) ∧
      t.tree.crossing = s.home.held ++ s.tree.crossing ∧ t.home.walking = false ∧ t.home.held = [] ∧ statusBit t 2 0 = true ∧
      (s.home.walkLate = true → statusBit t 2 2 = true) ∧ (t.mram.pending).map (·.gen) = some (rd t R.MAP_GENERATION)) ∧
  (∀ s : State, poolNs s < rd s R.MAP_COMMIT_TIME → exec .commitApply s = .next s) ∧
  (∀ (s : State) (a : Access), Permitted s a 0x2001 5 →
    (rd s R.MAP_COMMIT_STATUS = 1 ∨ rd s R.MAP_COMMIT_STATUS = 9 →
      Done (.mapCommitCancel a) s a (stopWalk (releaseHeld (wr s R.MAP_COMMIT_STATUS 0)))) ∧
    (rd s R.MAP_COMMIT_STATUS ≠ 1 → rd s R.MAP_COMMIT_STATUS ≠ 9 → RefusedWith (.mapCommitCancel a) s a 3))

/-- Epoch switches and agents (13 R371, R372; 03 R81, R82, 06 R165): a switch is armed at least 1 ms ahead, to another revision that the
active image knows, and once; it takes effect at its time; it can be cancelled. An agent joins once, on a bound port and into an UP
cell; it leaves only with nothing outstanding, through a transaction in a reserved entry (06 R145), and is then removed alone. -/
def Obligations.EpochsSwitchAndAgentsJoin : Prop :=
  (∀ (s : State) (a : Access) (c : Nat), Permitted s a (0x4100 + c) 11 → a.value = 1 →
    (rdi s R.HOM_CELL_EPOCH_REV c ≠ cellRevision s c → rdi s R.HOM_CELL_EPOCH_REV c ≤ activeCap s →
      poolNs s + 1000000 ≤ rdi s R.HOM_CELL_EPOCH_TIME c → rd s R.UPG_STATE ≠ 2 → rdi s R.HOM_CELL_EPOCH_STATUS c ≠ 1 →
      Done (.homCellEpochArm a c) s a (wri s R.HOM_CELL_EPOCH_STATUS c 1)) ∧
    (rdi s R.HOM_CELL_EPOCH_REV c = cellRevision s c ∨ activeCap s < rdi s R.HOM_CELL_EPOCH_REV c ∨
      rdi s R.HOM_CELL_EPOCH_TIME c < poolNs s + 1000000 → RefusedWith (.homCellEpochArm a c) s a 3)) ∧
  (∀ (s : State) (a : Access) (c : Nat), Permitted s a (0x4100 + c) 11 → a.value = 2 → rdi s R.HOM_CELL_EPOCH_STATUS c = 1 →
    Done (.homCellEpochCancel a c) s a (wri s R.HOM_CELL_EPOCH_STATUS c 4)) ∧
  (∀ (s : State) (c : Nat), c < 16 → rdi s R.HOM_CELL_EPOCH_STATUS c = 1 → rdi s R.HOM_CELL_EPOCH_TIME c ≤ poolNs s → mgmtUp s = true →
    s.start.phase = .service → exec (.epochSwitch c) s =
      .next (wri (wri s R.HOM_CELL_REVISION c (rdi s R.HOM_CELL_EPOCH_REV c)) R.HOM_CELL_EPOCH_STATUS c 2)) ∧
  (∀ (s : State) (c : Nat), poolNs s < rdi s R.HOM_CELL_EPOCH_TIME c → exec (.epochSwitch c) s = .next s) ∧
  (∀ (s : State) (p a f c : Nat) (k : Bool), p < nPorts s → a < 4096 → f < 16 → c < 16 → portState s p = portUp → ctlPending s p < 4 →
    s.sleep.pastE4 = false →
    (agentOf s a = none → portBound s p f = true → (k = true → rdi s R.HOM_CELL_STATE c = 0) → (portRev s p = 2 → a < 1024) →
      exec (.agentJoin p a f c k) s = .next (sendMsg
        { s with agents := tset s.agents a { caching := k, cell := c, fn := f, port := p } } p ⟨none, ctlRspSlot 4 a 0, []⟩)) ∧
    (agentOf s a ≠ none → exec (.agentJoin p a f c k) s = .next (sendMsg s p ⟨none, ctlRspSlot 4 a 1, []⟩)) ∧
    (agentOf s a = none → portBound s p f = false →
      exec (.agentJoin p a f c k) s = .next (sendMsg s p ⟨none, ctlRspSlot 4 a 2, []⟩))) ∧
  (∀ (s : State) (p a : Nat) (x : Agent), p < nPorts s → portState s p = portUp → ctlPending s p < 4 → s.sleep.pastE4 = false →
    agentOf s a = some x → x.port = p → x.leaving = false →
    (agentBusy s a = true → exec (.agentLeave p a) s = .next (sendMsg s p ⟨none, ctlRspSlot 6 a 2, []⟩)) ∧
    (agentBusy s a = false → ∃ t, exec (.agentLeave p a) s = .next t ∧ agentOf t a = some { x with leaving := true } ∧
      (∀ b, b ≠ a → agentOf t b = agentOf s b) ∧
      (leaveWalks s = true ∨ (freeIndex s requestEntries reservedEntries).isSome = true → leaveWalks t = true))) ∧
  (∀ (s : State) (a line : Nat) (x : Agent) (e : Ecc), agentOf s a = some x → x.leaving = true → leaveWalks s = true →
    ∃ u, exec (.agentLeaveWalkDone a e line) s = .next u ∧ agentOf u a = none ∧ (e = .ok → ∀ b, b ≠ a → agentOf u b = agentOf s b)) ∧
  (∀ (s : State) (a line : Nat) (e : Ecc), (∀ x, agentOf s a = some x → x.leaving = false) ∨ leaveWalks s = false →
    exec (.agentLeaveWalkDone a e line) s = .next s)

/-- Dispatch (01 R17, R21, 05 R110, R113, R115, R118): the picked request that finds room in its cycle leaves its leaf for the crossing with a tag, its level's bucket is
charged one unit, and a request that loses its header's parity on the way waits for its response timeout; nothing is dispatched while the tree holds
dispatch or nothing is eligible. -/
def Obligations.DispatchTakesThePick : Prop :=
  (∀ (s : State) (n k b v uid : Nat) (f : Flight) (l : Leaf), dispatchHeld s = false → s.tree.tags < 65536 → n < nPorts s →
    grantedPick s n = some (k, b, v, uid) → flightOf s uid = some f → leafOf s k = some l →
    ∃ t, exec (.dispatch n .good) s = .next t ∧ t.tree.crossing = s.tree.crossing ++ [uid] ∧ t.tree.tags = s.tree.tags + 1 ∧
      (leafOf t k).map (fun x => (x.queue, x.outstanding)) = some (l.queue.erase uid, l.outstanding + 1) ∧
      (v ≤ 3 → (leafOf t k).map (·.c) = some (charge l.c l.d.cbs).1) ∧ (v = 4 → (leafOf t k).map (·.c) = some l.c) ∧
      (v = 5 → (leafOf t k).map (fun x => (x.c, x.e)) = some (l.c, (charge l.e l.d.ebs).1)) ∧
      (flightOf t uid).map (fun g => (g.stage, g.branch, g.trunk, g.level, g.tag)) = some (.crossing, b, n, v, true) ∧
      rdi t R.TRE_TRUNK_UNITS n = (rdi s R.TRE_TRUNK_UNITS n + 1) % 2 ^ 64 ∧ t.home = s.home ∧ t.array = s.array) ∧
  (∀ (s : State) (n : Nat) (p : Parity), dispatchHeld s = true ∨ grantedPick s n = none ∨ 65536 ≤ s.tree.tags ∨ nPorts s ≤ n →
    exec (.dispatch n p) s = .next s) ∧
  (∀ (s : State) (n k b v uid : Nat) (f : Flight) (l : Leaf), dispatchHeld s = false → s.tree.tags < 65536 → n < nPorts s →
    grantedPick s n = some (k, b, v, uid) → flightOf s uid = some f → leafOf s k = some l → uid ∉ s.tree.crossing → f.dropRsp = false →
    s.time.run = true → ∃ t, exec (.dispatch n .badHeader) s = .next t ∧ t.tree.crossing = s.tree.crossing ∧
      (flightOf t uid).map (·.stage) = some .lost ∧ statusBit t 3 7 = true)

/-- Periodic work of the tree (05 R106, R111, R125, R127, R135, R136): once per TRE_REG_PERIOD a regulated leaf's limit falls by TRE_REG_BETA when its target was
congested and rises by TRE_REG_ALPHA when it stayed low, within its bounds; a leaf that was idle, full and unpinned for
TRE_LEAF_IDLE_TIMEOUT returns to the free list;
a window's end publishes the tiers' scales and the shortfall of the modelled rate; the scales share out no more than the modelled rate,
and serve a tier in full before the next; a read-modify-write's second unit is charged. -/
def Obligations.TheTreeRegulatesAndReclaims : Prop :=
  (∀ s : State, s.now < s.tree.regAt + rd s R.TRE_REG_PERIOD → exec .regulationUpdate s = .next s) ∧
  (∀ s : State, s.tree.regAt + rd s R.TRE_REG_PERIOD ≤ s.now → ∃ t, exec .regulationUpdate s = .next t ∧ t.tree.regAt = s.now ∧
    t = { s with tree := t.tree } ∧ ∀ n l, leafOf s n = some l →
    ∃ l', leafOf t n = some l' ∧ l'.d = l.d ∧ l'.queue = l.queue ∧ l'.c = l.c ∧
      (0 < l.d.cir ∨ l.dispatched = false → l'.limit = l.limit) ∧
      (l.d.cir = 0 → l.dispatched = true → l.congested = true →
        l'.limit = max l.d.olMin (l.limit * rd s R.TRE_REG_BETA / 256)) ∧
      (l.d.cir = 0 → l.dispatched = true → l.congested = false → l.belowLow = true →
        l'.limit = min l.d.olMax (l.limit + rd s R.TRE_REG_ALPHA))) ∧
  (∀ (s : State) (n : Nat) (l : Leaf), leafOf s n = some l → reclaimable l = true →
    l.busyAt + rd s R.TRE_LEAF_IDLE_TIMEOUT * 1000 ≤ s.now → ∃ t, exec (.leafReclaim n) s = .next t ∧
    leafOf t n = none ∧ tget? t.tree.labels (pairNo l.d.fn l.d.label) = none ∧ (∀ k, k ≠ n → leafOf t k = leafOf s k) ∧
    t = { s with tree := t.tree }) ∧
  (∀ (s : State) (n : Nat) (l : Leaf), leafOf s n = some l → reclaimable l = false ∨
    s.now < l.busyAt + rd s R.TRE_LEAF_IDLE_TIMEOUT * 1000 → exec (.leafReclaim n) s = .next s) ∧
  (∀ (s : State) (w : List PcWindow) (m : Nat), m = (if windowCounts s then ((nums 0 (nPcs s)).map fun p =>
      rateTerm (windowEff s (windowOf w p)) (min (windowOf w p).r 65536) (thermalFactor s p)
        (availability s p (windowOf w p).a)).foldl (· + ·) 0 / 65536 else rd s R.TRE_MODEL_RATE) →
    ∃ t, exec (.modelWindowEnd w) s = .next t ∧ rd t R.TRE_MODEL_RATE = m ∧
    (windowCounts s = false → rd t R.TRE_MODEL_FLOOR = rd s R.TRE_MODEL_FLOOR) ∧
    (∀ k, k < 4 → rdi t R.TRE_TIER_SCALE k =
      (tierScales m [commitT s 0, commitT s 1, commitT s 2, commitT s 3]).getD k 65536) ∧
    rd t R.TRE_SHORTFALL = shortfall m (committed s) ∧
    ∀ n l, leafOf s n = some l → (leafOf t n).map (fun x => (x.windowUnits, x.thisWindow)) = some (l.thisWindow, 0)) ∧
  (∀ (s : State) (r : RmwReport) (rest : List RmwReport), s.tree.rmw = r :: rest → brValid s r.branch = true →
    ∃ t, exec .rmwCharge s = .next t ∧ t.tree.rmw = rest ∧ (branchOf t r.branch).units = ((branchOf s r.branch).units + 1) % 2 ^ 64 ∧
      rdi t R.TRE_TRUNK_UNITS r.trunk = (rdi s R.TRE_TRUNK_UNITS r.trunk + 1) % 2 ^ 64) ∧
  (∀ (avail : Nat) (ks : List Nat), (tierScales avail ks).length = ks.length ∧ (∀ x ∈ tierScales avail ks, x ≤ 65536) ∧
    ((ks.zip (tierScales avail ks)).map fun (k, x) => k * x / 65536).foldl (· + ·) 0 ≤ avail ∧
    ∀ a b rest, ks = a :: b :: rest → (tierScales avail ks).getD 0 0 < 65536 → 0 < b → (tierScales avail ks).getD 1 1 = 0)

/-- Time gates (05 R120 to R123): a switch is taken only with a shadow list that passes its checks and none pending; at its time the two
lists change places and its time becomes the base; it can be cancelled; the open branches follow pool time, and a rally that follows
another is counted. -/
def Obligations.GatesSwitchAtTheirTime : Prop :=
  (∀ (s : State) (a : Access) (n : Nat), Permitted s a (0x3400 + n) 7 →
    (rdi s R.TRE_GATE_SWITCH_PENDING n = 1 → RefusedWith (.treGateSwitch a n) s a 5) ∧
    (rdi s R.TRE_GATE_SWITCH_PENDING n ≠ 1 → shadowOk s n = true →
      Done (.treGateSwitch a n) s a (wri s R.TRE_GATE_SWITCH_PENDING n 1)) ∧
    (rdi s R.TRE_GATE_SWITCH_PENDING n ≠ 1 → shadowOk s n = false → s.time.run = true →
      DoneRaising (.treGateSwitch a n) s a s 3 6)) ∧
  (∀ (s : State) (n : Nat), n < 8 → rdi s R.TRE_GATE_SWITCH_PENDING n = 1 → rdi s R.TRE_GATE_SWITCH_TIME n ≤ poolNs s →
    s.time.run = true → ∃ t, exec (.gateSwitchApply n) s = .next t ∧
      (∀ e, e < 256 → gateDur t n false e = gateDur s n true e ∧ gateMask t n false e = gateMask s n true e ∧
        gateDur t n true e = gateDur s n false e ∧ gateMask t n true e = gateMask s n false e) ∧
      rdi t R.TRE_GATE_ACTIVE_LEN n = rdi s R.TRE_GATE_SHADOW_LEN n ∧ rdi t R.TRE_GATE_SHADOW_LEN n = rdi s R.TRE_GATE_ACTIVE_LEN n ∧
      rdi t R.TRE_GATE_BASE n = rdi s R.TRE_GATE_SWITCH_TIME n ∧ rdi t R.TRE_GATE_SWITCH_PENDING n = 0 ∧ statusBit t 3 5 = true) ∧
  (∀ (s : State) (n : Nat), poolNs s < rdi s R.TRE_GATE_SWITCH_TIME n → exec (.gateSwitchApply n) s = .next s) ∧
  (∀ (s : State) (a : Access) (n : Nat), Permitted s a (0x3400 + n) 0x0D →
    (rdi s R.TRE_GATE_SWITCH_PENDING n = 1 → Done (.treGateSwitchCancel a n) s a (wri s R.TRE_GATE_SWITCH_PENDING n 0)) ∧
    (rdi s R.TRE_GATE_SWITCH_PENDING n ≠ 1 → RefusedWith (.treGateSwitchCancel a n) s a 3)) ∧
  (∀ (s : State) (n : Nat), ∃ t, exec (.gateGuardStart n) s = .next t ∧ t = { s with tree := t.tree } ∧
    (trunkOf t n).open_ = gateOpen t n ∧ t.tree.leaves = s.tree.leaves ∧ ∀ k, k ≠ n → trunkOf t k = trunkOf s k) ∧
  (∀ (s : State) (n k e start left : Nat), rdi s R.TRE_GATE_ENABLE n = 1 → rdi s R.TRE_GATE_BASE n ≠ 0 →
    gatePos s n = some (k, e, start, left) → (trunkOf s n).entered ≠ start → ∃ t, exec (.gateEntryStart n) s = .next t ∧
      (trunkOf t n).entered = start ∧ (trunkOf t n).open_ = gateOpen t n ∧
      rdi t R.TRE_GATE_RALLIES n =
        (if e = 0 ∧ 0 < k then (rdi s R.TRE_GATE_RALLIES n + 1) % 2 ^ 64 else rdi s R.TRE_GATE_RALLIES n))

/-- Leaves written through the sender's selection (05 R107, R112, R131, R132, R138): what is allowed changes that leaf alone; a rise of
commitment that fails the admission tests is refused with status 3, counted and reported, and changes nothing; so is what the leaf's
own limits forbid. -/
def Obligations.LeafWritesMeetAdmission : Prop :=
  (∀ (s : State) (a : Access) (n : Nat) (l : Leaf), Selected s a n l →
    (Permitted s a 0x3200 0x15 → Done (.treLeafBucketReset a) s a
      (setLeaf s n { l with c := bucketFull l.d.cbs, e := bucketFull l.d.ebs, p := bucketFull l.d.pbs })) ∧
    (Permitted s a 0x3200 0x18 → Done (.treLeafClear a) s a
      (setLeaf s n { l with depthMax := l.queue.length, delayMax := 0, units := 0, refusals := 0 })) ∧
    (Permitted s a 0x3200 1 → a.value ≤ l.d.cir → Done (.treLeafCir a) s a
      (setLeaf s n (settleLimit { l with d := { l.d with cir := a.value } }))) ∧
    (Permitted s a 0x3200 1 → l.d.cir < a.value → olCarries { l.d with cir := a.value } = true →
      admits (setLeaf s n (settleLimit { l with d := { l.d with cir := a.value } })) [l.d.branch] [brTrunk s l.d.branch] = true →
      Done (.treLeafCir a) s a (setLeaf s n (settleLimit { l with d := { l.d with cir := a.value } }))) ∧
    (Permitted s a 0x3200 1 → l.d.cir < a.value → s.time.run = true →
      admits (setLeaf s n (settleLimit { l with d := { l.d with cir := a.value } })) [l.d.branch] [brTrunk s l.d.branch] = false →
      RefusedRaising (.treLeafCir a) s a (bump s R.TRE_ADMIT_REFUSALS) 3 3 2) ∧
    (Permitted s a 0x3200 8 → a.value < l.d.olMin → RefusedWith (.treLeafOlMax a) s a 3) ∧
    (Permitted s a 0x3200 8 → l.d.olMin ≤ a.value → l.d.cir = 0 ∨ l.d.olMax ≤ a.value → Done (.treLeafOlMax a) s a
      (setLeaf s n (settleLimit { l with d := { l.d with olMax := a.value } }))) ∧
    (Permitted s a 0x3200 0x16 → brValid s a.value = false → RefusedWith (.treLeafBranch a) s a 3) ∧
    (Permitted s a 0x3200 0x16 → brValid s a.value = true → l.d.cir = 0 → Done (.treLeafBranch a) s a
      (setLeaf s n { l with d := { l.d with branch := a.value } }))) ∧
  (∀ (s : State) (a : Access) (c : Instr) (i : Nat), leafOf s (selOf s (masterOf s a.src) selLeaf) = none →
    (c, i) ∈ [(.treLeafBucketReset a, 0x15), (.treLeafClear a, 0x18), (.treLeafCir a, 1), (.treLeafOlMax a, 8), (.treLeafBranch a, 0x16)] →
    Permitted s a 0x3200 i → RefusedWith c s a 3) ∧
  (∀ (s : State) (a : Access), Permitted s a 0x3900 0 → tget? s.tree.labels (pairNo (field a.value 14 4) (field a.value 0 14)) = none →
    (brValid s (field a.value 26 12) = false → RefusedWith (.treLeafCreate a) s a 3) ∧
    (brValid s (field a.value 26 12) = true → quotaFull s (field a.value 14 4) = false → profileField s (field a.value 18 8) 0 = 0 →
      ∃ t, exec (.treLeafCreate a) s = .next t ∧ .answer a.src a.mtag 0x22 0 0 [] ∈ t.out ∧
        tget? t.tree.labels (pairNo (field a.value 14 4) (field a.value 0 14)) = some (freeLeaf s) ∧
        (leafOf t (freeLeaf s)).map (fun l => (l.d.fn, l.d.label, l.d.branch, l.d.pinned, l.queue)) =
          some (field a.value 14 4, field a.value 0 14, field a.value 26 12, true, [])))

/-- Branches and trunks written through the selection (05 R112, R132, R133): MIN and MAX bound each other, a valid branch with leaves
stays valid, and what needs no admission test changes the one value. -/
def Obligations.BranchAndTrunkWritesMeetAdmission : Prop :=
  ∀ (s : State) (a : Access) (b : Nat), selOf s (masterOf s a.src) selBranch = b →
    (Permitted s a 0x3300 9 → Done (.treBranchBucketReset a) s a
      (setBranch s b { branchOf s b with n := bucketFull (brDesc s b 2), x := bucketFull (brDesc s b 4) })) ∧
    (Permitted s a 0x3300 0 → s.ply16 = false → brValid s b = true → bitOf a.value 31 = false → 0 < brLeaves s b →
      RefusedWith (.treBranchCtrl a) s a 5) ∧
    (Permitted s a 0x3300 0 → s.ply16 = false → brValid s b = true → bitOf a.value 31 = true → brTrunk s b = field a.value 0 3 →
      Done (.treBranchCtrl a) s a (putBr s b 0 a.value)) ∧
    (Permitted s a 0x3300 1 → brDesc s b 3 < a.value → RefusedWith (.treBranchMin a) s a 3) ∧
    (Permitted s a 0x3300 1 → a.value ≤ brDesc s b 3 → a.value ≤ brDesc s b 1 ∨ brValid s b = false →
      Done (.treBranchMin a) s a (putBr s b 1 a.value)) ∧
    (Permitted s a 0x3300 1 → a.value ≤ brDesc s b 3 → brDesc s b 1 < a.value → brValid s b = true → s.time.run = true →
      admits (putBr s b 1 a.value) [b] [brTrunk s b] = false →
      RefusedRaising (.treBranchMin a) s a (bump s R.TRE_ADMIT_REFUSALS) 3 3 2) ∧
    (Permitted s a 0x3300 3 → a.value < brDesc s b 1 → RefusedWith (.treBranchMax a) s a 3) ∧
    (Permitted s a 0x3300 3 → brDesc s b 1 ≤ a.value → brDesc s b 3 ≤ a.value → Done (.treBranchMax a) s a (putBr s b 3 a.value)) ∧
    (∀ n, Permitted s a (0x3400 + n) 0 → rdi s R.TRE_TRUNK_MAX n ≤ a.value →
      Done (.treTrunkMax a n) s a (wri s R.TRE_TRUNK_MAX n a.value)) ∧
    (∀ n, Permitted s a (0x3400 + n) 0 → a.value < rdi s R.TRE_TRUNK_MAX n → s.time.run = true →
      admits (wri s R.TRE_TRUNK_MAX n a.value) [] [n] = false →
      RefusedRaising (.treTrunkMax a n) s a (bump s R.TRE_ADMIT_REFUSALS) 3 3 2) ∧
    (∀ n, Permitted s a (0x3400 + n) 0x0C → Done (.treTrunkBucketReset a n) s a
      (setTrunk s n { trunkOf s n with t := bucketFull (rdi s R.TRE_TRUNK_MAX_DEPTH n) }))


/-- Row commands of the engine and the sequencer (07 R173, R175, R178, R181, R183, R186, R196, 08 R204, R208, 09 R237): each goes out
where the separations allow it and no candidate goes before it, and leads the channel's history. ACT opens the row of a waiting
request, or of a test, and its slice latches it if it executes the command; PRE closes it and keeps the latch; REFpb, REFab and REFT
each take the refresh that was asked for; PREA closes every subarray group of its SID. -/
def Obligations.RowCommandsOpenAndClose : Prop :=
  (∀ (s : State) (pc sid bank row nck : Nat) (flips : Flips), commandable s pc = true → sid < 4 → bank < 32 → row < 16384 →
    (sagAt s pc (sagNo sid bank (sagOf row))).row = none → (sagAt s pc (sagNo sid bank (sagOf row))).reft = none →
    urgentSag s pc (sagNo sid bank (sagOf row)) = false →
    (waitingRow s pc sid bank row (modeAllows s pc nck)).isSome = true ∨ (qualOpens s pc sid bank row).isSome = true →
    EngineMaySend s pc (actOf s pc sid bank row nck) →
    ∃ t, exec (.act pc sid bank row nck flips) s = .next t ∧ Sent s t (pc / 2) (actOf s pc sid bank row nck) ∧
      (sagAt t pc (sagNo sid bank (sagOf row))).row = some row ∧
      (sagAt t pc (sagNo sid bank (sagOf row))).latch =
        (if executes s (pc / 2) (actOf s pc sid bank row nck) flips sid then some row
          else (sagAt s pc (sagNo sid bank (sagOf row))).latch) ∧ t.array = s.array) ∧
  (∀ (s : State) (pc sid bank sag nck row : Nat) (flips : Flips), commandable s pc = true →
    (sagAt s pc (sagNo sid bank sag)).row = some row →
    urgentSag s pc (sagNo sid bank sag) = true ∨ (sagAt s pc (sagNo sid bank sag)).reft ≠ none ∨ closingAll s (pc / 2) = true ∨
      (∃ q, qualOf s pc sid bank = some q ∧ q.rows.head? = some row ∧ q.stage ≠ .next ∧ qualCloses s pc q = true) ∨
      (qualOf s pc sid bank = none ∧
        (if mayClose s pc sid bank row nck then
          (conflicting s pc (sagNo sid bank sag) row (modeAllows s pc nck)).isSome = true ∨
            tget (pchOf s pc).refresh (sagNo sid bank sag) [] ≠ [] ∨ tget (pchOf s pc).refab sid [] ≠ []
        else (conflicting s pc (sagNo sid bank sag) row (·.aged)).isSome = true)) →
    EngineMaySend s pc (preOf s pc sid bank sag row nck) →
    ∃ t, exec (.pre pc sid bank sag nck flips) s = .next t ∧ Sent s t (pc / 2) (preOf s pc sid bank sag row nck) ∧
      sagAt t pc (sagNo sid bank sag) = { sagAt s pc (sagNo sid bank sag) with row := none } ∧ t.array = s.array) ∧
  (∀ (s : State) (pc sid bank sag group nck : Nat) (flips : Flips) (r : Refresh),
    (tget (pchOf s pc).refresh (sagNo sid bank sag) []).find? (fun r => r.group = group) = some r → commandable s pc = true →
    (sagAt s pc (sagNo sid bank sag)).row = none →
    EngineMaySend s pc ⟨nck, cRefpb, pc % 2, sid, bank, sag, group, (bankClass s pc sid bank).cls⟩ →
    ∃ t, exec (.refpb pc sid bank sag group nck flips) s = .next t ∧
      Sent s t (pc / 2) ⟨nck, cRefpb, pc % 2, sid, bank, sag, group, (bankClass s pc sid bank).cls⟩ ∧
      tget (pchOf t pc).refresh (sagNo sid bank sag) [] = (tget (pchOf s pc).refresh (sagNo sid bank sag) []).erase r ∧
      (pchOf t pc).sags = (pchOf s pc).sags ∧ t.array = s.array) ∧
  (∀ (s : State) (pc sid nck : Nat) (flips : Flips) (r : Refresh), (tget (pchOf s pc).refab sid []).head? = some r →
    commandable s pc = true → allClosed s pc sid = true → EngineMaySend s pc ⟨nck, cRefab, pc % 2, sid, 0, 0, 0, 0⟩ →
    ∃ t, exec (.refab pc sid nck flips) s = .next t ∧ Sent s t (pc / 2) ⟨nck, cRefab, pc % 2, sid, 0, 0, 0, 0⟩ ∧
      tget (pchOf t pc).refab sid [] = (tget (pchOf s pc).refab sid []).erase r ∧
      (sliceOf t (pc / 2) sid).pointer =
        (if executes s (pc / 2) ⟨nck, cRefab, pc % 2, sid, 0, 0, 0, 0⟩ flips sid then ((sliceOf s (pc / 2) sid).pointer + 1) % 512
          else (sliceOf s (pc / 2) sid).pointer) ∧ t.array = s.array) ∧
  (∀ (s : State) (pc sid bank sag nck : Nat) (flips : Flips), commandable s pc = true →
    (sagAt s pc (sagNo sid bank sag)).reft ≠ none → (sagAt s pc (sagNo sid bank sag)).row = none →
    EngineMaySend s pc ⟨nck, cReft, pc % 2, sid, bank, sag, 0, (bankClass s pc sid bank).cls⟩ →
    ∃ t, exec (.reft pc sid bank sag nck flips) s = .next t ∧
      Sent s t (pc / 2) ⟨nck, cReft, pc % 2, sid, bank, sag, 0, (bankClass s pc sid bank).cls⟩ ∧
      sagAt t pc (sagNo sid bank sag) = { sagAt s pc (sagNo sid bank sag) with reft := none, reftAt := 0 } ∧
      ((∀ k p, tget? s.stack.parks k = some p → p.idle = true) → t.array = s.array) ∧
      ((sagAt s pc (sagNo sid bank sag)).latch = none →
        executes s (pc / 2) ⟨nck, cReft, pc % 2, sid, bank, sag, 0, (bankClass s pc sid bank).cls⟩ flips sid = true →
        tget (sliceOf t (pc / 2) sid).mr 3 0 = tget (sliceOf s (pc / 2) sid).mr 3 0 ||| 0x20)) ∧
  (∀ (s : State) (pc sid nck : Nat) (flips : Flips), pc < nPcs s → sid < 4 → pcFailed s pc = false →
    MaySend s (pc / 2) (seqIssued nck cPrea pc sid 0 0) →
    ∃ t, exec (.prea pc sid nck flips) s = .next t ∧ Sent s t (pc / 2) (seqIssued nck cPrea pc sid 0 0) ∧
      (∀ i, i / 64 = sid → (sagAt t pc i).row = none) ∧ (∀ i, i / 64 ≠ sid → sagAt t pc i = sagAt s pc i) ∧ t.array = s.array)

/-- What the engine holds (07 R169 to R172, R180): a read that nothing held answers waits in the read queue; a home write takes a
slot of its own, a full write an entry of the write queue where none of its line waits; a merge line whose time ends becomes a
read-modify-write entry; a request that ages is marked and counted. -/
def Obligations.EngineHoldsRequests : Prop :=
  (∀ (s : State) (id : Nat) (t : Txn), txnOf s id = some t → t.active = true → t.mem = 1 → readsInUse s t.pc < 64 →
    pcFailed s t.pc = false → forwardData s t.pc (heldFor s (txnLoc t) .read .host) = none →
    ∃ u h, exec (.engineReadEnqueue id .good) s = .next u ∧ heldOf u t.pc (pchOf s t.pc).next = some h ∧
      h.hold = .read ∧ h.key = (heldFor s (txnLoc t) .read .host).key ∧ h.txn = some (snoopId id t) ∧ h.from_ = s.now ∧
      txnOf u id = some { t with mem := 2 } ∧ (pchOf u t.pc).next = (pchOf s t.pc).next + 1 ∧ u.array = s.array) ∧
  (∀ (s : State) (id : Nat) (t : Txn) (w : HomeWrite) (ws : List HomeWrite), txnOf s id = some t → t.active = true →
    t.writes = w :: ws → writeFits s t.pc w.own = true → pcFailed s t.pc = false → w.own = true →
    ∃ u h, exec (.engineWritePlace id .good) s = .next u ∧ heldOf u t.pc (pchOf s t.pc).next = some h ∧ h.hold = .homeSlot ∧
      h.key = (heldFor s (txnLoc t) .homeSlot .host).key ∧ h.data = w.data ∧ h.poison = w.poison ∧ isFull h = true ∧
      u.array = s.array) ∧
  (∀ (s : State) (id : Nat) (t : Txn) (w : HomeWrite) (ws : List HomeWrite), txnOf s id = some t → t.active = true →
    t.writes = w :: ws → writeFits s t.pc w.own = true → pcFailed s t.pc = false → w.own = false → w.mask = none →
    (∀ e ∈ (pchOf s t.pc).held, sameLine e.2 (heldFor s (txnLoc t) .write .host) = true →
      isWriteQ e.2 = false ∧ isMerge e.2 = false) →
    ∃ u h, exec (.engineWritePlace id .good) s = .next u ∧ heldOf u t.pc (pchOf s t.pc).next = some h ∧ h.hold = .write ∧
      h.key = (heldFor s (txnLoc t) .write .host).key ∧ h.data = w.data ∧ h.poison = w.poison ∧ isFull h = true ∧
      u.array = s.array) ∧
  (∀ (s : State) (pc id : Nat) (h : Held), heldOf s pc id = some h → isMerge h = true → id < (pchOf s pc).next →
    nckPassed s h.from_ (rd s R.ENG_MERGE_TIMEOUT) = true →
    ∃ u, exec (.mergeTimeout pc id) s = .next u ∧ heldOf u pc id = some { h with hold := .write, rmw := true } ∧
      u.array = s.array) ∧
  (∀ (s : State) (pc id : Nat) (h : Held), heldOf s pc id = some h → pc < nPcs s → h.aged = false → h.issued = none →
    h.hold ≠ .test → nckPassed s h.from_ (rd s R.ENG_AGE_CAP) = true → s.time.run = true →
    ∃ u, exec (.requestAged pc id) s = .next u ∧
      heldOf u pc id = some { h with aged := true } ∧ rdi u R.ENG_AGED pc = min (rdi s R.ENG_AGED pc + 1) satMax ∧
      statusBit u 5 4 = true ∧ u.array = s.array)

/-- Column commands and what they move (07 R169 to R174, R178, R182, 08 R204, 10 R261, R266, R284, 16 R421): a RD or a WR goes out
for an open row and marks its request; a line is in the core die when its burst ends, unless its slice ignored the command, no other
line of the array differs, and a write with a further place to go to stays for it; a discarded write leaves without a command; a
listed line that decodes clean is read without changing it. -/
def Obligations.ColumnCommandsMoveLines : Prop :=
  (∀ (s : State) (pc id nck : Nat) (b : BurstReport) (flips : Flips) (h : Held), heldOf s pc id = some h → needsRead h = true →
    wantsColumn h = true → columnReady s pc id h nck = true → readsBlocked s pc = false → gapMet s pc h nck = true →
    EngineMaySend s pc (columnOf s pc cRd h nck) → ∃ t, exec (.columnRd pc id nck b flips) s = .next t ∧
      Sent s t (pc / 2) (columnOf s pc cRd h nck) ∧
      (heldOf t pc id).map (fun x => if isWriteQ h then x.reading else x.issued) = some (some nck) ∧
      (heldOf t pc id).map (·.unheard) = some (!executes s (pc / 2) (columnOf s pc cRd h nck) flips (keySid h.key)) ∧
      t.array = s.array) ∧
  (∀ (s : State) (pc id nck : Nat) (flips : Flips) (h : Held), heldOf s pc id = some h → wantsColumn h = true →
    readyToWrite h = true → discarded h = false → columnReady s pc id h nck = true →
    EngineMaySend s pc (columnOf s pc cWr h nck) → ∃ t, exec (.wr pc id nck flips) s = .next t ∧
      Sent s t (pc / 2) (columnOf s pc cWr h nck) ∧ (heldOf t pc id).map (·.issued) = some (some nck) ∧
      (heldOf t pc id).map (·.unheard) = some (!executes s (pc / 2) (columnOf s pc cWr h nck) flips (keySid h.key)) ∧
      t.array = s.array) ∧
  (∀ (s : State) (pc id nck : Nat) (flips : Flips) (h : Held), heldOf s pc id = some h → wantsColumn h = true →
    readyToWrite h = true → discarded h = true → id < (pchOf s pc).next →
    ∃ t, exec (.wr pc id nck flips) s = .next t ∧ heldOf t pc id = none ∧ t.chans = s.chans ∧ t.array = s.array) ∧
  (∀ (s : State) (pc id n : Nat) (h : Held), heldOf s pc id = some h → h.issued = some n → readyToWrite h = true →
    id < (pchOf s pc).next → ∃ t, exec (.writeBurstEnd pc id) s = .next t ∧
      (h.unheard = false → (readCell t pc h.key).1 = encodeLine h.data h.poison) ∧ (h.unheard = true → t.array = s.array) ∧
      (∀ k, k ≠ cellKey pc h.key → tget? t.array.lines k = tget? s.array.lines k ∧ lineFill t.array k = lineFill s.array k) ∧
      (isInternal h = true ∨ h.hold = .test ∨ furtherKeys s pc h = [] → heldOf t pc id = none) ∧
      (∀ k l, isInternal h = false → h.hold ≠ .test → furtherKeys s pc h = k :: l →
        (heldOf t pc id).map (fun x => (x.key, x.issued, x.data)) = some (k, none, h.data))) ∧
  (∀ (s : State) (pc id n : Nat) (e : BitVec 576) (h : Held) (c : Codeword), heldOf s pc id = some h → h.issued = some n →
    h.reading = none → h.hold = .read ∨ (isInternal h = true ∧ writesLine h.purpose = false) → h.unheard = false →
    id < (pchOf s pc).next → tget? s.array.lines (cellKey pc h.key) = some c →
    (decodeLine (markedLanes s pc) (c ^^^ e)).out = .clean →
    ∃ t, exec (.readDecode pc id e .good) s = .next t ∧ heldOf t pc id = none ∧ t.array = s.array)

/-- Sequencer commands on the core-die interface (08 R204 to R209, R224, Tables CDI-3, CDI-5, CDI-6): a write reaches the mode
register it names, and is counted by channel and slice; a slice that receives a bad word notes it and executes nothing; a read's value
is awaited, comes back as it was read where no lane alters it, and once MR3 shows no error proves its SID; the training FIFOs and WCK
dividers take theirs; a repair remaps the row that MR24 to MR26 name, whose sixteen lines are not kept. -/
def Obligations.SequencerCommandsReachTheDies : Prop :=
  (∀ (s : State) (c sid ma data nck : Nat) (flips : Flips) (x : Issued), sid < 4 → ma < 32 →
    x = seqIssued nck cMrw 0 sid 0 (ma * 256 + data % 256) → MaySend s c x →
    ∃ t, exec (.mrw c sid ma data nck flips) s = .next t ∧ Sent s t c x ∧ t.array = s.array ∧
      (executes s c x flips sid = true →
        (∀ m, mrMask ma = some m → tget (sliceOf t c sid).mr ma 0 = data % 256 &&& m) ∧
        (mrMask ma = none → ma ≠ 3 → (sliceOf t c sid).mr = (sliceOf s c sid).mr) ∧
        (ma = 3 → tget (sliceOf t c sid).mr 3 0 =
          tget (sliceOf s c sid).mr 3 0 - (tget (sliceOf s c sid).mr 3 0 &&& data % 256 &&& 0xE0))) ∧
      (∀ b, received s c x flips sid = some b → inError (sliceOf s c sid) = false →
        tget (sliceOf t c sid).mr 3 0 = tget (sliceOf s c sid).mr 3 0 ||| (if b.parity then 0x80 else 0x40) ∧
        tget (sliceOf t c sid).mr 4 0 = field b.word 0 8 ∧ tget (sliceOf t c sid).mr 5 0 = field b.word 8 8 ∧
        tget (sliceOf t c sid).mr 6 0 = field b.word 16 4 + (if b.row then 0 else 0x80) ∧
        (mrMask ma ≠ none → tget (sliceOf t c sid).mr ma 0 = tget (sliceOf s c sid).mr ma 0)) ∧
      (unproven s c sid < 3583 →
        tget (chanOf t c).counts sid 0 = (tget (chanOf s c).counts sid 0 + 1) % 65536 ∧
        (sliceOf t c sid).exec =
          (if executes s c x flips sid then ((sliceOf s c sid).exec + 1) % 65536 else (sliceOf s c sid).exec))) ∧
  (∀ (s : State) (c sid ma nck : Nat) (flips : Flips), sid < 4 → ma < 32 → c < nChannels s → rdi s R.CDI_CHANNEL_STATE c = 0 →
    timingMet s c (mrrCommand s c sid ma nck) = true → (chanOf s c).selfRef = false ∨ (chanOf s c).ck = true →
    ∃ t, exec (.mrr c sid ma nck flips) s = .next t ∧ Sent s t c (mrrCommand s c sid ma nck) ∧
      (chanOf t c).mrrs = (chanOf s c).mrrs ++ [mrRead s c (mrrCommand s c sid ma nck) flips] ∧ t.array = s.array) ∧
  (∀ (s : State) (c sid nck : Nat) (flips : Flips), sid < 4 → (chanOf s c).selfRef = false → pollDue s c sid = true →
    MaySend s c (mrrCommand s c sid 3 nck) →
    ∃ t, exec (.statusPoll c sid nck flips) s = .next t ∧ Sent s t c (mrrCommand s c sid 3 nck) ∧
      (chanOf t c).mrrs = (chanOf s c).mrrs ++ [mrRead s c (mrrCommand s c sid 3 nck) flips] ∧ t.array = s.array) ∧
  (∀ (r : MrRead) (own tie : Nat), r.value < 256 →
    readBack r own 0 tie = if dieOwn r.ma then own % 256 else r.value) ∧
  (∀ (s : State) (c sid ma own : Nat) (err : BitVec 576) (r : MrRead),
    (chanOf s c).mrrs.find? (fun r => r.sid = sid && r.ma = ma) = some r →
    ∃ t, exec (.mrrResult c sid ma own err) s = .next t ∧ (∀ d, d ≠ c → chanOf t d = chanOf s d) ∧
      (r.heard = false ∨ ma ≠ 3 → chanOf t c = { chanOf s c with mrrs := (chanOf s c).mrrs.erase r }) ∧
      ∀ v, v = readBack r own err (Config.freeValue s.free).toNat → r.heard = true → ma = 3 →
        (v &&& 0xC0 = 0 → chanOf t c = { chanOf s c with
          mrrs := (chanOf s c).mrrs.erase r, proven := tset (chanOf s c).proven sid r.count,
          provenAt := tset (chanOf s c).provenAt sid s.now }) ∧
        (v &&& 0xC0 ≠ 0 → chanOf t c = { chanOf s c with mrrs := (chanOf s c).mrrs.erase r, trouble := true }) ∧
        (bitOf v 5 = true → s.time.run = true → statusBit t 6 10 = true)) ∧
  (∀ (s : State) (pc sid entry nck : Nat) (data : BitVec 608) (flips : Flips) (x : Issued), pcCommanded s pc sid = true → entry < 8 →
    x = seqIssued nck cWrFifo pc sid 0 entry → MaySend s (pc / 2) x → ∃ t, exec (.wrFifo pc sid entry nck data flips) s = .next t ∧
      Sent s t (pc / 2) x ∧ t.array = s.array ∧
      (executes s (pc / 2) x flips sid = true → tget? (sliceOf t (pc / 2) sid).fifo entry = some data) ∧
      (∀ e, e ≠ entry ∨ executes s (pc / 2) x flips sid = false →
        tget? (sliceOf t (pc / 2) sid).fifo e = tget? (sliceOf s (pc / 2) sid).fifo e)) ∧
  (∀ (s : State) (pc sid entry nck : Nat) (flips : Flips) (x : Issued), pcCommanded s pc sid = true → entry < 8 →
    x = seqIssued nck cRdFifo pc sid 0 entry → MaySend s (pc / 2) x → ∃ t, exec (.rdFifo pc sid entry nck flips) s = .next t ∧
      Sent s t (pc / 2) x ∧ (sliceOf t (pc / 2) sid).fifo = (sliceOf s (pc / 2) sid).fifo ∧ t.array = s.array ∧
      (executes s (pc / 2) x flips sid = true → unproven t (pc / 2) sid = 0 ∧ tget (chanOf t (pc / 2)).provenAt sid 0 = s.now)) ∧
  (∀ (s : State) (pc sid pattern nck : Nat) (flips : Flips) (x : Issued), pcCommanded s pc sid = true → pattern < 4 →
    x = seqIssued nck cRdCal pc sid 0 pattern → MaySend s (pc / 2) x → ∃ t, exec (.rdCal pc sid pattern nck flips) s = .next t ∧
      Sent s t (pc / 2) x ∧ t.array = s.array ∧
      (executes s (pc / 2) x flips sid = true → unproven t (pc / 2) sid = 0 ∧ tget (chanOf t (pc / 2)).provenAt sid 0 = s.now)) ∧
  (∀ (s : State) (pc sid nck : Nat) (flips : Flips) (x : Issued), pcCommanded s pc sid = true →
    x = seqIssued nck cWckSync pc sid 0 0 → MaySend s (pc / 2) x → ∃ t, exec (.wckSync pc sid nck flips) s = .next t ∧
      Sent s t (pc / 2) x ∧ (chanOf t (pc / 2)).wck = true ∧ t.array = s.array ∧
      (sliceOf t (pc / 2) sid).synced = (if executes s (pc / 2) x flips sid then putBit (sliceOf s (pc / 2) sid).synced (pc % 2) true
        else (sliceOf s (pc / 2) sid).synced)) ∧
  (∀ (s : State) (c sid nck p bank row : Nat) (flips : Flips), repairRow s c sid = (p, bank, row) →
    pcCommanded s (c * 2 + p) sid = true →
    (sagAt s (c * 2 + p) (sagNo sid bank 0)).row = none → (sagAt s (c * 2 + p) (sagNo sid bank 1)).row = none →
    (∀ x, x = seqIssued nck cSoft p sid bank row → MaySend s c x → ∃ t, exec (.softRepair c sid nck flips) s = .next t ∧
      Sent s t c x ∧ (executes s c x flips sid = false → t.array = s.array ∧ (sliceOf t c sid).soft = (sliceOf s c sid).soft) ∧
      (executes s c x flips sid = true →
        (sliceOf t c sid).soft = ((p * 32 + bank) * 16384 + row) :: (sliceOf s c sid).soft ∧
        ∀ i, i < 16 → tget? t.array.lines (cellKey (c * 2 + p) (locKey sid bank row i)) = none ∧
          tget? t.array.lost (cellKey (c * 2 + p) (locKey sid bank row i)) = some true)) ∧
    (∀ x, x = seqIssued nck cHard p sid bank row → MaySend s c x → ∃ t, exec (.hardRepair c sid nck flips) s = .next t ∧
      Sent s t c x ∧ (executes s c x flips sid = false → t.array = s.array ∧ (sliceOf t c sid).hard = (sliceOf s c sid).hard) ∧
      (executes s c x flips sid = true →
        (sliceOf t c sid).hard = ((p * 32 + bank) * 16384 + row) :: (sliceOf s c sid).hard ∧
        ∀ i, i < 16 → tget? t.array.lines (cellKey (c * 2 + p) (locKey sid bank row i)) = none)))

/-- Self-refresh and its confirmation (08 R226, 11 R299, 09 R238): SRE drops what the planner passed and makes the next passes
catch-ups; from tCKSRE on counts that agree stop the clocks, a SID that missed it is recovered and the SRE reissued; tCKSRX after the
clocks have restarted SRX ends it, with empty latches. -/
def Obligations.SelfRefreshIsConfirmed : Prop :=
  (∀ (s : State) (c nck : Nat) (flips : Flips), entersRefresh s c = true → channelQuiet s c = true →
    MaySend s c (seqIssued nck cSre 0 0 0 0) →
    ∃ t, exec (.sre c nck flips) s = .next t ∧ Sent s t c (seqIssued nck cSre 0 0 0 0) ∧ (chanOf t c).selfRef = true ∧
      (chanOf t c).sreConfirmed = false ∧ (chanOf t c).sreNow = s.now ∧ (∀ sid, sid < 4 → (planOf t (c * 4 + sid)).fresh = true) ∧
      (∀ k, k < 2 → (pchOf t (c * 2 + k)).refresh = [] ∧ (pchOf t (c * 2 + k)).refab = []) ∧ t.array = s.array) ∧
  (∀ (s : State) (c : Nat), c < nChannels s → (chanOf s c).selfRef = true → (chanOf s c).sreConfirmed = false →
    (chanOf s c).sreNow + 10 ≤ s.now → (confirmCounts s c (nckNow s)).1 = [] →
    ∃ t, exec (.sreConfirmed c) s = .next t ∧ (chanOf t c).sreConfirmed = true ∧ (chanOf t c).ck = false ∧
      (chanOf t c).wck = false ∧ (chanOf t c).selfRef = true ∧ (∀ i, i < 4 → (sliceOf t c i).synced = 0) ∧ t.array = s.array) ∧
  (∀ (s : State) (c : Nat) (l : List Nat), c < nChannels s → (chanOf s c).selfRef = true → (chanOf s c).sreConfirmed = false →
    (chanOf s c).sreNow + 10 ≤ s.now → (confirmCounts s c (nckNow s)).1 = l → l ≠ [] → s.time.run = true →
    ∃ t, exec (.sreConfirmed c) s = .next t ∧ (chanOf t c).sreConfirmed = false ∧ (chanOf t c).ck = (chanOf s c).ck ∧
      statusBit t 6 5 = true ∧ ((chanOf t c).hist.head?.map (·.cmd)) = some cSre ∧ (chanOf t c).sreNow = s.now ∧
      (∀ i, i ∈ l → tget (chanOf t c).counts i 0 = (sliceOf t c i).exec)) ∧
  (∀ (s : State) (c : Nat), c < nChannels s → (chanOf s c).selfRef = true → (chanOf s c).sreConfirmed = false →
    s.now < (chanOf s c).sreNow + 10 → exec (.sreConfirmed c) s = .next s) ∧
  (∀ (s : State) (c nck : Nat) (flips : Flips), c < nChannels s → (chanOf s c).selfRef = true → (chanOf s c).sreConfirmed = true →
    (chanOf s c).ck = true → (chanOf s c).ckFrom * 8 + 80 ≤ nck * 5 → s.stack.trip = false → staysAsleep s c = false →
    rdi s R.CDI_CHANNEL_STATE c = 0 → timingMet s c (seqIssued nck cSrx 0 0 0 0) = true →
    ∃ t, exec (.srx c nck flips) s = .next t ∧ (∀ d, d ≠ c → chanOf t d = chanOf s d) ∧ (chanOf t c).selfRef = false ∧
      (chanOf t c).srx = true ∧ (∀ k i, k < 2 → (sagAt t (c * 2 + k) i).latch = none) ∧ t.array = s.array)

/-- Tracking, retraining, recovery and the host's mode-register reads (08 R214, R217 to R219, R224 to R227, R230): a retrain that falls
due holds its pseudo-channel and is probed at once, waits where it may not start, and is counted late past 10 µs but for the one that
an exit from S2 owes; a lane that fails it is counted and its SID's next retrain is due at once; a recovery closes every row, gives up
the hold and raises EV.06.05; a retraining of the command buses ends with every row closed; a mode register read of a channel held or
failed ends at once, another with the value read. -/
def Obligations.RetrainingAndRecoveryComplete : Prop :=
  (∀ (s : State) (pc sid : Nat), pcServes s pc = true → sid < 4 →
    (tget (pchOf s pc).heardAt sid 0 + rd s R.CDI_TRACK_GAP ≤ s.now → ∃ t, exec (.preambleGapRequest pc sid) s = .next t ∧
      Answered (modPch s pc fun p => { p with gaps := putBit p.gaps sid true }) t) ∧
    (s.now < tget (pchOf s pc).heardAt sid 0 + rd s R.CDI_TRACK_GAP → exec (.preambleGapRequest pc sid) s = .next s)) ∧
  (∀ (s : State) (pc : Nat), pcServes s pc = true → (pchOf s pc).hold = false → retrainDue s pc = true →
    (retrainFree s pc = false → exec (.periodicRetrain pc) s =
      .next (modPch s pc fun p => { p with late := some ((pchOf s pc).late.getD s.now) })) ∧
    (retrainFree s pc = true → ∃ t, exec (.periodicRetrain pc) s = .next t ∧ (pchOf t pc).hold = true ∧
      (pchOf t pc).holdAt = s.now ∧ (pchOf t pc).late = none ∧ (pchOf t pc).due = none ∧ (pchOf t pc).turn = retrainTurn s pc ∧
      ((chanOf t (pc / 2)).hist.head?.map fun x => (x.cmd, x.arg)) = some (cRdFifo, 7) ∧
      unproven t (pc / 2) (pchOf s pc).sid = 0 ∧ t.array = s.array ∧
      rdi t R.CDI_RETRAIN_LATE pc =
        (if (pchOf s pc).late.any (fun l => decide (l + 10000 < s.now)) = true ∧ rd s R.SLP_STATE ≠ 7 then
          min (rdi s R.CDI_RETRAIN_LATE pc + 1) satMax else rdi s R.CDI_RETRAIN_LATE pc))) ∧
  (∀ (s : State) (pc : Nat), retrainDue s pc = false → exec (.periodicRetrain pc) s = .next s) ∧
  (∀ (s : State) (pc : Nat) (r : RetrainReport), (pchOf s pc).hold = true → (chanOf s (pc / 2)).cbt ≠ .held →
    ∃ t, exec (.retrainComplete pc r) s = .next t ∧
      (pchOf t pc).hold = false ∧ (pchOf t pc).sid = ((pchOf s pc).sid + 1) % 4 ∧ t.array = s.array) ∧
  (∀ (s : State) (pc : Nat) (r : RetrainReport), pc < nPcs s → (pchOf s pc).hold = true → (chanOf s (pc / 2)).cbt ≠ .held →
    r.lanes = [] → r.verified = [] → val s (wrVrefKey pc (pchOf s pc).sid) 0 ≤ 255 → ∃ t, exec (.retrainComplete pc r) s = .next t ∧
      Answered (modStack (modPch (wri (bumpi s R.CDI_RETRAINS pc) R.CDI_HOLD_MAX pc
        (min 65535 (max (rdi s R.CDI_HOLD_MAX pc) (s.now - (pchOf s pc).holdAt)))) pc
        fun p => { p with hold := false, sid := (p.sid + 1) % 4 })
        fun x => { x with tracks := x.tracks.filter fun (k, _) => k / 64 ≠ pc * 4 + (pchOf s pc).sid }) t) ∧
  (∀ (s : State) (pc : Nat) (r : RetrainReport), pc < nPcs s → (pchOf s pc).hold = true → (chanOf s (pc / 2)).cbt ≠ .held →
    (∃ x ∈ r.lanes, x.lane < 38 ∧ laneFails x = true) → s.time.run = true → ∃ t, exec (.retrainComplete pc r) s = .next t ∧
      (pchOf t pc).due = some s.now ∧ statusBit t 6 3 = true ∧
      rdi t R.CDI_RETRAIN_FAILS pc = min (rdi s R.CDI_RETRAIN_FAILS pc + 1) satMax) ∧
  (∀ (s : State) (c : Nat), channelServes s c = true → (chanOf s c).trouble = true → (chanOf s c).cbt ≠ .held → s.time.run = true →
    ∃ t, exec (.commandErrorRecovery c) s = .next t ∧ statusBit t 6 5 = true ∧ (chanOf t c).trouble = false ∧
      (∀ r ∈ (chanOf t c).mrrs, 4 ≤ r.sid) ∧ (chanOf t c).recoveries.head? = some s.now ∧
      (∀ k, k < 2 → (pchOf t (c * 2 + k)).hold = false ∧ ∀ i, i < 256 → (sagAt t (c * 2 + k) i).row = none)) ∧
  (∀ (s : State) (c : Nat) (rs cs : List Nat), channelServes s c = true → (chanOf s c).cbt = .held →
    ∃ t, exec (.commandBusRetrain c rs cs) s = .next t ∧ (chanOf t c).recoveries = [] ∧ (chanOf t c).cbt = .none ∧
      (∀ k, k < 2 → (pchOf t (c * 2 + k)).hold = false ∧ ∀ i, i < 256 → (sagAt t (c * 2 + k) i).row = none)) ∧
  (∀ (s : State) (a : Access), Permitted s a 0x6600 0 →
    (nChannels s ≤ field a.value 11 5 → RefusedWith (.cdiMrRead a) s a 3) ∧
    (field a.value 11 5 < nChannels s → rdi s R.CDI_CHANNEL_STATE (field a.value 11 5) = 1 ∨
      (pchOf s (field a.value 11 5 * 2)).hold = true ∨ (pchOf s (field a.value 11 5 * 2 + 1)).hold = true →
      Done (.cdiMrRead a) s a (wr s R.CDI_MR_VALUE 0xC000)) ∧
    (field a.value 11 5 < nChannels s → rdi s R.CDI_CHANNEL_STATE (field a.value 11 5) ≠ 1 →
      (pchOf s (field a.value 11 5 * 2)).hold = false → (pchOf s (field a.value 11 5 * 2 + 1)).hold = false →
      ∃ t r, exec (.cdiMrRead a) s = .next t ∧ .answer a.src a.mtag 0x22 0 0 [] ∈ t.out ∧ rd t R.CDI_MR_VALUE = 0 ∧
        t.stack.mrRead = some (field a.value 11 5, r) ∧ r.sid = field a.value 8 2 ∧ r.ma = field a.value 0 5 ∧
        r.value = mrValue s (field a.value 11 5) (field a.value 8 2) (field a.value 0 5) (nckNow s) ∧
        ((chanOf t (field a.value 11 5)).hist.head?.map fun x => (x.cmd, x.sid, x.arg)) =
          some (cMrr, field a.value 8 2, field a.value 0 5))) ∧
  (∀ (s : State) (own c : Nat) (r : MrRead), s.stack.mrRead = some (c, r) → ∃ t, exec (.cdiMrReadDone own) s = .next t ∧
    t.stack.mrRead = none ∧ rd t R.CDI_MR_VALUE = 0x8000 + readBack r own 0 0 ∧ t.array = s.array) ∧
  (∀ (s : State) (own : Nat), s.stack.mrRead = none → exec (.cdiMrReadDone own) s = .next s)

/-- The refresh planner (09 R234, R235, R238, R243): a step begins at the scale last set and a pass ends after step 511; after
self-refresh a catch-up pass begins; a slot whose group is due is passed to the engine once, with its deadline, and the oldest that is
not urgent becomes so; a slice's temperature is polled by reads of MR9 and MR10 (R241). -/
def Obligations.RefreshIsPlannedByStep : Prop :=
  (∀ (s : State) (sl : Nat), channelServes s (sl / 4) = true → (planOf s sl).fresh = false → stepOver s sl = true → stepNo s sl < 511 →
    exec (.refreshStepStart sl) s = .next (put (setPlan s sl { planOf s sl with
      begin_ := s.now, scale := sliceScale s sl, started := true, fresh := false, used := usedNow s sl }) (passKey sl) 0 (passWord s sl + 1))) ∧
  (∀ (s : State) (sl : Nat), channelServes s (sl / 4) = true → (planOf s sl).fresh = false → stepOver s sl = true → 511 ≤ stepNo s sl →
    ∃ t, exec (.refreshStepStart sl) s = .next t ∧ stepNo t sl = 0 ∧ catchUp t sl = (planOf s sl).catchNext ∧
      passNo t sl = (if catchUp s sl then (passNo s sl / 8 + 1) * 8 else passNo s sl + 1) % 2 ^ 22 ∧
      planOf t sl = { planOf s sl with
        begin_ := s.now, scale := sliceScale s sl, started := true, fresh := false, catchNext := false, used := usedNow s sl } ∧ t.array = s.array) ∧
  (∀ (s : State) (sl : Nat), channelServes s (sl / 4) = true → (planOf s sl).fresh = true → s.stack.parks = [] →
    ∃ t, exec (.refreshStepStart sl) s = .next t ∧ stepNo t sl = 0 ∧ catchUp t sl = true ∧
      passNo t sl = (if (planOf s sl).started then passNo s sl + 1 else passNo s sl) % 2 ^ 22 ∧
      (planOf t sl).fresh = false ∧ t.array = s.array) ∧
  (∀ (s : State) (sl : Nat), stepOver s sl = false → exec (.refreshStepStart sl) s = .next s) ∧
  (∀ (s : State) (pc sid bank sag g n at' len d : Nat) (c : Bool), pc < nPcs s → sid < 4 → bank < 32 → sag < 2 →
    channelServes s (pc / 2) = true → (planOf s (pc / 2 * 4 + sid)).started = true → rd s R.RFH_MODE_ACTIVE ≠ 2 →
    releaseStep s (pc / 2 * 4 + sid) (fun len => slotOff len sid bank sag pc) = (g, n, c, at', len) → d = at' + len / 4 →
    (s.now + len / 4 < at' → exec (.refreshRelease pc sid bank sag) s = .next s) ∧
    (groupDue s pc sid bank sag g n c = false → exec (.refreshRelease pc sid bank sag) s = .next s) ∧
    (pcFailed s pc = true → exec (.refreshRelease pc sid bank sag) s = .next s) ∧
    (groupDue s pc sid bank sag g n c = true → pcFailed s pc = false → at' ≤ s.now + len / 4 →
      ((∃ r ∈ tget (pchOf s pc).refresh (sagNo sid bank sag) [], r.step = n * 512 + g ∧ r.extra = false) →
        exec (.refreshRelease pc sid bank sag) s = .next s) ∧
      ((∀ r ∈ tget (pchOf s pc).refresh (sagNo sid bank sag) [], r.step = n * 512 + g → r.extra = true) →
        ∃ t, exec (.refreshRelease pc sid bank sag) s = .next t ∧ Answered (modPch s pc fun p => { p with
          refresh := tset p.refresh (sagNo sid bank sag) (tget p.refresh (sagNo sid bank sag) [] ++
            [{ group := g, urgent := false, deadline := d, cover := covered s pc d, step := n * 512 + g }]) }) t))) ∧
  (∀ (s : State) (pc sid bank sag : Nat) (old new : List Refresh) (r : Refresh), rd s R.RFH_MODE_ACTIVE ≠ 2 →
    tget (pchOf s pc).refresh (sagNo sid bank sag) [] = old ++ r :: new → (∀ x ∈ old, x.urgent = true) → r.urgent = false →
    (s.now + lenOf s (pc / 2 * 4 + sid) / 8 < r.deadline → exec (.refreshUrgent pc sid bank sag) s = .next s) ∧
    (r.deadline ≤ s.now + lenOf s (pc / 2 * 4 + sid) / 8 → ∃ t, exec (.refreshUrgent pc sid bank sag) s = .next t ∧ Answered (bumpi (modPch s pc fun p => { p with
      refresh := tset p.refresh (sagNo sid bank sag) (old ++ { r with urgent := true } :: new) }) R.RFH_REF_URGENT pc) t)) ∧
  (∀ (s : State) (sl : Nat), slicesRead s (sl / 4) = true →
    (∀ n, tget? s.stack.pollAt sl = some n → n + rd s R.RFH_TEMP_POLL * 1000 ≤ s.now) → ∃ t, exec (.sliceTempPoll sl) s = .next t ∧
    (sliceOf t (sl / 4) (sl % 4)).exec = ((sliceOf s (sl / 4) (sl % 4)).exec + 2) % 65536 ∧
    ((chanOf t (sl / 4)).hist.take 2).map (fun x => (x.cmd, x.sid, x.arg)) = [(cMrr, sl % 4, 10), (cMrr, sl % 4, 9)] ∧
    t.stack.pollAt = tset s.stack.pollAt sl s.now ∧ t.array = s.array) ∧
  (∀ (s : State) (sl n : Nat), tget? s.stack.pollAt sl = some n → s.now < n + rd s R.RFH_TEMP_POLL * 1000 →
    exec (.sliceTempPoll sl) s = .next s)

/-- Temperature (09 R241 to R243, R251 to R254, 07 R185): a valid reading is kept, an invalid one counted; 105.0 C from any sensor, or
a die's own alarm, trips the block, and the trip ends once every sensor is cool and every flag that counts low; the scale and the allowance move by
one row as readings fall; the band is the hottest die's. -/
def Obligations.HeatIsMeasuredAndAnswered : Prop :=
  (∀ (s : State) (sl : Nat) (v : Int), slicesRead s (sl / 4) = true →
    (-320 ≤ v → v ≤ 2080 → ∃ t, exec (.sliceTempReading sl v true) s = .next t ∧ sensorOf t sl = ⟨some v, 0⟩ ∧
      (1680 ≤ v → t.stack.trip = true) ∧ (v < 1680 → t.stack.trip = s.stack.trip)) ∧
    (∃ t, exec (.sliceTempReading sl v false) s = .next t ∧
      sensorOf t sl = { sensorOf s sl with invalid := (sensorOf s sl).invalid + 1 } ∧ t.stack.trip = s.stack.trip)) ∧
  (∀ (s : State) (vs : List (Int × Bool)) (n : Nat) (v : Int), mgmtUp s = true → n < 12 → ¬ (s.ply16 = true ∧ 4 ≤ n ∧ n ≤ 7) →
    vs[n]? = some (v, true) → -320 ≤ v → v ≤ 2080 → ∃ t, exec (.blockSensorRead vs) s = .next t ∧
      sensorOf t (0x100 + n) = ⟨some v, 0⟩ ∧ (1680 ≤ v → t.stack.trip = true)) ∧
  (∀ (s : State) (sl : Nat) (t : Int), taken s sl = some t → sl < nChannels s * 4 → 0 < sliceScale s sl →
    t < scaleUp s (if sliceScale s sl = 2 then R.RFH_SCALE_UP_4 else R.RFH_SCALE_UP_2) - 32 → s.time.run = true →
    tget s.stack.hotAt sl 0 + rd s R.RFH_SCALE_HOLD * 1000000 ≤ s.now →
    ∃ u, exec (.scaleFall sl) s = .next u ∧ sliceScale u sl = sliceScale s sl - 1 ∧ statusBit u 7 1 = true ∧
      u.array = s.array) ∧
  (∀ (s : State) (c r : Nat), c < nChannels s → allowanceRow (rdi s R.RFH_ALLOWANCE c) = r → 0 < r →
    rdS s R.RFH_THETA c ≤ limit s R.RFH_THROTTLE_START + 16 * (r - 1 : Nat) - 8 →
    tget s.stack.warmAt c 0 + rd s R.RFH_THROTTLE_HOLD * 1000000 ≤ s.now →
    RunsTo (.allowanceRise c) s (markWarm (wri (noteAllowance s c) R.RFH_ALLOWANCE c (rowAllowance (r - 1))) c)) ∧
  (∀ (s : State) (sl : Nat), s.now < tget s.stack.hotAt sl 0 + rd s R.RFH_SCALE_HOLD * 1000000 → exec (.scaleFall sl) s = .next s) ∧
  (∀ (s : State) (c : Nat), s.now < tget s.stack.warmAt c 0 + rd s R.RFH_THROTTLE_HOLD * 1000000 →
    exec (.allowanceRise c) s = .next s) ∧
  (∀ s : State, s.now < s.stack.tripHotAt + rd s R.RFH_TRIP_HOLD * 1000000 → exec .thermalTripEnd s = .next s) ∧
  (∀ s : State, s.stack.trip = true → cattripHigh s = false →
    (∀ k ∈ liveSensors s, ∀ t, taken s k = some t → t < limit s R.RFH_TRIP_CLEAR) → s.time.run = true →
    s.stack.tripHotAt + rd s R.RFH_TRIP_HOLD * 1000000 ≤ s.now →
    ∃ t, exec .thermalTripEnd s = .next t ∧ t.stack.trip = false ∧ t.tree.holdTrip = false ∧
      t.pins.thermAlarmN = decide (s.pins.dieCattrip = 0) ∧
      rd t R.RFH_TRIP_STATE = 0 ∧ statusBit t 7 5 = true ∧ t.array = s.array) ∧
  (∀ (s : State) (die edges : Nat), die < 16 → (s.ply16 = true → die < 8) → inputArmed s die = true → s.pins.porN = true →
    rd s R.SLP_STATE ≠ 3 → mgmtUp s = true → s.time.run = true → ∃ t, exec (.dieCattripRise die edges) s = .next t ∧
      t.stack.trip = true ∧ t.pins.dieCattrip = putBit s.pins.dieCattrip die true ∧ t.pins.thermAlarmN = false ∧
      statusBit t 7 6 = true) ∧
  (∀ (s : State) (die : Nat), die < 16 → (s.ply16 = true → die < 8) → s.pins.porN = true →
    ∃ t, exec (.dieCattripFall die) s = .next t ∧ t.pins.dieCattrip = putBit s.pins.dieCattrip die false ∧
      rdi t R.FLT_INPUT_LEVEL die = 0 ∧ t = { s with pins := t.pins, regs := t.regs, stack := { s.stack with tripHotAt := t.stack.tripHotAt } }) ∧
  (∀ (s : State) (t : Int) (k : Nat), rd s R.ENG_QUAL_BAND = 5 →
    s.stack.bandAt + rd s R.ENG_QUAL_SETTLE * 1000000 ≤ s.now →
    hottestOf s ((liveSensors s).filter (· < 0x100)) = some (t, k) →
    exec .qualBandSettle s = .next (wr s R.ENG_QUAL_BAND (bandOf t))) ∧
  (∀ s : State, rd s R.ENG_QUAL_BAND ≠ 5 ∨ s.now < s.stack.bandAt + rd s R.ENG_QUAL_SETTLE * 1000000 →
    exec .qualBandSettle s = .next s)

/-- The margin qualifier (07 R186 to R188, R192, Table ENG-8): a test takes 16 rows of each SAG among the rows named; a re-test that
is due goes first, then a raising test under the cap; once every row has been tested a pass raises the class by one up to the cap, a
failed re-test drops it to 0, a failed test is remembered for its band; a cap lowered below the class lowers it and abandons its
test, and disabling drops every class. -/
def Obligations.ClassesRiseByTest : Prop :=
  (∀ rows l spare : List Nat, qualRows rows = some (l, spare) → l.length = 32 ∧ l.Nodup ∧ (∀ r ∈ l, r ∈ rows ∧ r < 16384) ∧
    ∀ g, g < 2 → (l.filter fun r => sagOf r = g).length = 16) ∧
  (∀ (s : State) (pc sid bank band : Nat) (rows l spare : List Nat) (c : BankClass), bankClass s pc sid bank = c → awake s = true →
    pcServes s pc = true → sid < 4 → bank < 32 → bankOut s pc sid bank = false → rd s R.ENG_QUAL_ENABLE = 1 →
    rd s R.ENG_QUAL_BAND = band → band < 4 → c.test = 0 → (pchOf s pc).qual = none → qualRows rows = some (l, spare) →
    (1 ≤ c.cls → c.since + qualPeriod s ≤ s.now → ∃ t, exec (.qualTestStart pc sid bank rows) s = .next t ∧
      Answered (modPch (setClass s pc sid bank { c with test := c.cls + 1, retest := true }) pc fun p => { p with
        qual := some { bank := sid * 32 + bank, cls := c.cls + 1, rows := l, spare := spare, chosen := l } }) t) ∧
    (c.cls = 0 ∨ s.now < c.since + qualPeriod s → c.cls ≤ 2 → c.cls + 1 ≤ bankCap s pc sid bank →
      (∀ k t, k = 0 ∨ k = c.cls + 2 → tget? c.failedAt (band * 8 + k) = some t → t + qualPeriod s ≤ s.now) →
      ∃ t, exec (.qualTestStart pc sid bank rows) s = .next t ∧
      Answered (modPch (setClass s pc sid bank { c with test := c.cls + 2, retest := false }) pc fun p => { p with
        qual := some { bank := sid * 32 + bank, cls := c.cls + 2, rows := l, spare := spare, chosen := l } }) t)) ∧
  (∀ (s : State) (pc sid bank : Nat) (c : BankClass) (q : QualRun), bankClass s pc sid bank = c → c.test ≠ 0 →
    qualOf s pc sid bank = some q → q.rows = [] → q.failed = false →
    exec (.qualTestDone pc sid bank) s = .next (bump (setClass (modPch s pc fun p => { p with qual := none }) pc sid bank { c with
      test := 0, retest := false, since := s.now
      cls := if c.retest then c.cls else min (c.cls + 1) (bankCap s pc sid bank) }) R.ENG_QUAL_PASSES)) ∧
  (∀ (s : State) (pc sid bank : Nat) (c : BankClass) (q : QualRun), bankClass s pc sid bank = c → c.test ≠ 0 →
    qualOf s pc sid bank = some q → q.rows = [] → q.failed = true → s.time.run = true →
    Raises (.qualTestDone pc sid bank) s (wri (bump (setClass (modPch s pc fun p => { p with qual := none }) pc sid bank
        (if c.retest then { c with
          test := 0, retest := false, cls := 0, failedAt := tset c.failedAt (rd s R.ENG_QUAL_BAND * 8 + c.test) s.now }
        else { c with
          test := 0, retest := false,
          failedAt := tset (tset c.failedAt (rd s R.ENG_QUAL_BAND * 8) s.now) (rd s R.ENG_QUAL_BAND * 8 + c.test) s.now }))
        R.ENG_QUAL_FAILS)
      R.ENG_EVENT_CHANNELS 2 (putBit (rdi s R.ENG_EVENT_CHANNELS 2) (pc / 2) true)) 5 2) ∧
  (∀ (s : State) (pc sid bank : Nat) (q : QualRun), qualOf s pc sid bank = some q → q.rows ≠ [] →
    exec (.qualTestDone pc sid bank) s = .next s) ∧
  (∀ (s : State) (a : Access), Permitted s a 0x5001 0 →
    (a.value = 0 → Done (.engQualEnable a) s a (dropAllClasses (wr s R.ENG_QUAL_ENABLE 0))) ∧
    (a.value ≠ 0 → Done (.engQualEnable a) s a (wr s R.ENG_QUAL_ENABLE a.value))) ∧
  (∀ (s : State) (a : Access) (ch pcb sid bank : Nat), ch < 32 → pcb < 2 → sid < 4 → bank < 32 →
    Permitted s a (0x5440 + ch) (pcb * 128 + sid * 32 + bank) →
    ((bankClass s (ch * 2 + pcb) sid bank).cls ≤ a.value → Done (.engBankClassCap a ch (pcb * 128 + sid * 32 + bank)) s a
      (put s (capKey (ch * 2 + pcb) sid bank) 3 a.value)) ∧
    (a.value < (bankClass s (ch * 2 + pcb) sid bank).cls → Done (.engBankClassCap a ch (pcb * 128 + sid * 32 + bank)) s a
      (setClass (abandonTest (put s (capKey (ch * 2 + pcb) sid bank) 3 a.value) (ch * 2 + pcb) (sid * 32 + bank)) (ch * 2 + pcb) sid
        bank { bankClass s (ch * 2 + pcb) sid bank with cls := a.value, test := 0, retest := false })))

/-- The retention profiler (09 R233, R245 to R248): a walk starts at the first group; a group parks its rows on a test block and is
written raw, its own refreshes withdrawn; a pass whose rows differ fails; a candidate that passed twice rises by one bin, one that
failed returns and is verified in a park of its own, a group that fails at its own bin falls by one, or is weak; the master's commands tighten or reset every group, and disabling ends every test. -/
def Obligations.GroupsAreProfiledInParks : Prop :=
  (∀ s : State, mgmtUp s = true → s.mram.binSavedAt + rd s R.RFH_BIN_SAVE_PERIOD * 1000000000 ≤ s.now → exec .binTableSave s =
    .next { s with mram := { s.mram with bins := s.stack.bins, binTime := some (poolNs s), binSavedAt := s.now } }) ∧
  (∀ s : State, s.now < s.mram.binSavedAt + rd s R.RFH_BIN_SAVE_PERIOD * 1000000000 → exec .binTableSave s = .next s) ∧
  (∀ (s : State) (pc : Nat), profiles s pc = true → tget? s.stack.walkAt pc = none →
    (∀ n, tget? s.stack.walkFrom pc = some n → n + rd s R.RFH_PROF_WALK_MIN * 3600000000000 ≤ s.now) →
    ∃ t, exec (.profilerWalkStart pc) s = .next t ∧ tget? t.stack.walkAt pc = some 0 ∧ tget? t.stack.walkFrom pc = some s.now) ∧
  (∀ (s : State) (pc n : Nat), tget? s.stack.walkFrom pc = some n → s.now < n + rd s R.RFH_PROF_WALK_MIN * 3600000000000 →
    exec (.profilerWalkStart pc) s = .next s) ∧
  (∀ (s : State) (pc group n sid block k : Nat), k = pc * 131072 + group → profiles s pc = true → group < 131072 →
    group / 1024 % 32 ≠ 31 → tget? s.stack.walkAt pc = some n →
    s.stack.verify.contains k = true ∨ walkReaches s pc group = true → targeted s pc (fun r => r / 16 = group) = false →
    (parksWhere s fun j _ => j / 131072 = pc).length < rd s R.RFH_PROF_PARALLEL → testable s pc k = true →
    freeBlock s pc (freeSpares s pc (some (parkSid k))) = some (sid, block) → 64 ≤ freeEntries s pc →
    ∃ t p, exec (.groupPark pc group) s = .next t ∧ tget? t.stack.parks k = some p ∧ p.pass = 1 ∧ p.failed = none ∧
      p.spareSid = sid ∧ p.block = block ∧ p.idle = false ∧
      tget? t.stack.walkAt pc = some (if s.stack.verify.contains k then n else groupAfter group) ∧
      (∀ r ∈ tget (pchOf t pc).refresh (group / 1024 * 2 + group / 512 % 2) [], r.group ≠ group % 512) ∧
      ∀ i c, i < 16 → c < 16 → (readCell t pc (rowKey (parkSid k) (parkBank k) (parkRow k + i) * 16 + c)).1 = BitVec.allOnes 576) ∧
  (∀ (s : State) (pc group : Nat) (d : Bool) (p : Park), tget? s.stack.parks (pc * 131072 + group) = some p → p.idle = false →
    p.failed = none →
    (holdOver s (pc * 131072 + group) p = true → exec (.retentionHoldEnd pc group d) s = .next (modStack s fun t =>
      { t with parks := tset t.parks (pc * 131072 + group) { p with failed := some d } })) ∧
    (holdOver s (pc * 131072 + group) p = false → exec (.retentionHoldEnd pc group d) s = .next s)) ∧
  (∀ (s : State) (pc group k : Nat) (p : Park), k = pc * 131072 + group → tget? s.stack.parks k = some p → p.idle = false →
    (p.failed = some false → p.pass = 1 → ∃ t, exec (.retentionTestResult pc group) s = .next t ∧
      tget? t.stack.parks k = some { p with pass := 2, failed := none, usedFrom := usedNow s (parkSlice k) } ∧ t.stack.bins = s.stack.bins) ∧
    (p.failed = some true → p.candidate = true → ∃ t, exec (.retentionTestResult pc group) s = .next t ∧
      tget? t.stack.parks k = none ∧ t.stack.verify = s.stack.verify ++ [k] ∧
      tget t.stack.bins k 0 ≤ tget s.stack.bins k 0) ∧
    (p.failed = some true → p.candidate = false → tget s.stack.bins k 0 = 0 → s.time.run = true →
      ∃ t, exec (.retentionTestResult pc group) s = .next t ∧ tget? t.stack.parks k = none ∧ statusBit t 7 11 = true) ∧
    (p.failed = some false → p.pass ≠ 1 → p.candidate = true → tget s.stack.bins k 0 < rd s R.RFH_BIN_MAX →
      ∃ t, exec (.retentionTestResult pc group) s = .next t ∧ tget? t.stack.parks k = none ∧
        tget t.stack.bins k 0 ≤ tget s.stack.bins k 0 + 1) ∧
    (p.failed = some false → p.pass ≠ 1 → p.candidate = false ∨ rd s R.RFH_BIN_MAX ≤ tget s.stack.bins k 0 →
      ∃ t, exec (.retentionTestResult pc group) s = .next t ∧ tget? t.stack.parks k = none ∧
        tget t.stack.bins k 0 ≤ tget s.stack.bins k 0) ∧
    (p.failed = some true → p.candidate = false → 0 < tget s.stack.bins k 0 →
      ∃ t, exec (.retentionTestResult pc group) s = .next t ∧ tget? t.stack.parks k = none ∧
        tget t.stack.bins k 0 < tget s.stack.bins k 0)) ∧
  (∀ (s : State) (a : Access), Permitted s a 0x7102 1 →
    ∃ e, Done (.rfhBinReset a) s a e ∧ (∀ k, tget e.stack.bins k 0 = 0) ∧ e.regs = s.regs ∧ e.array = s.array) ∧
  (∀ (s : State) (a : Access), Permitted s a 0x7102 0 →
    ∃ e, Done (.rfhBinMax a) s a e ∧ rd e R.RFH_BIN_MAX = a.value ∧ (∀ k, tget e.stack.bins k 0 ≤ a.value) ∧
      (∀ k, a.value < tget s.stack.bins k 0 → tget e.stack.bins k 0 = a.value) ∧ e.array = s.array) ∧
  (∀ (s : State) (a : Access), Permitted s a 0x7103 0 →
    (a.value ≠ 0 → Done (.rfhProfEnable a) s a (wr s R.RFH_PROF_ENABLE a.value)) ∧
    (a.value = 0 → s.stack.parks = [] → Done (.rfhProfEnable a) s a (wr s R.RFH_PROF_ENABLE 0)) ∧
    (a.value = 0 → ∃ t, exec (.rfhProfEnable a) s = .next t ∧
      ∀ k p, tget? t.stack.parks k = some p → p.idle = true))

/-- The scrubber (10 R271 to R273): a row's sixteen lines are read through the repair tables, at the pace INT_SCRUB_PERIOD sets,
and the walk moves on, rows within banks
within SIDs, over the 31 logical banks; a suspect bank's rows are read in order, and its last one ends it with EV.08.10. -/
def Obligations.ScrubbersWalkEveryRow : Prop :=
  (∀ (s : State) (pc sid bank row : Nat), scrubFree s pc = true → rd s R.INT_SCRUB_ENABLE = 1 → tget s.stack.suspects pc [] = [] →
    sid < 4 → bank < 31 → row < 16384 → rdi s R.INT_SCRUB_ROW pc = sid * 2 ^ 21 + bank * 2 ^ 14 + row →
    (∀ n, tget? s.stack.scrubAt pc = some n → n + rd s R.INT_SCRUB_PERIOD * 1000000000 / 2031616 ≤ s.now) →
    ∃ t, exec (.scrubRowStart pc) s = .next t ∧ t.array = s.array ∧
      (∀ c, c < 16 → Queued t pc (heldFor s ⟨pc, sid, bank, row, c⟩ .internal .scrub)) ∧
      rdi t R.INT_SCRUB_ROW pc = (if row < 16383 then sid * 2 ^ 21 + bank * 2 ^ 14 + (row + 1)
        else if bank < 30 then sid * 2 ^ 21 + (bank + 1) * 2 ^ 14 else if sid < 3 then (sid + 1) * 2 ^ 21 else 0)) ∧
  (∀ (s : State) (pc n : Nat), tget? s.stack.scrubAt pc = some n →
    (s.now < n + rd s R.INT_SCRUB_PERIOD * 1000000000 / 2031616 → exec (.scrubRowStart pc) s = .next s) ∧
    (s.now < n + 2000 → exec (.suspectScrubRow pc) s = .next s)) ∧
  (∀ (s : State) (pc b row : Nat) (bs : List Nat), tget s.stack.suspects pc [] = b :: bs → scrubFree s pc = true →
    tget s.stack.suspectRow pc 0 = row →
    (∀ n, tget? s.stack.scrubAt pc = some n → n + 2000 ≤ s.now) →
    (row < 16383 → ∃ t, exec (.suspectScrubRow pc) s = .next t ∧ tget t.stack.suspectRow pc 0 = row + 1 ∧
      t.stack.suspects = s.stack.suspects ∧ t.array = s.array ∧
      ∀ l, servedRow s pc (b / 32 % 4) (b % 32) row = some l → ∀ c, c < 16 → Queued t pc { heldFor s { l with col := c } .internal
        .suspect with key := locKey (b / 32 % 4) (b % 32) row c }) ∧
    (16383 ≤ row → s.time.run = true → ∃ t, exec (.suspectScrubRow pc) s = .next t ∧ tget t.stack.suspects pc [] = bs ∧
      tget t.stack.suspectRow pc 0 = 0 ∧ rd t R.INT_LAST_SUSPECT = b ∧ statusBit t 8 10 = true ∧ t.array = s.array))

/-- Repair commands and jobs (10 R283 to R286): a command that passes the checks starts a job, one that does not is refused with its
cause and EV.08.07; a prepared job copies, a copied one switches its grafts or its bank's replacement, and one whose source is quiet
is done, with EV.08.06. -/
def Obligations.RepairJobsRunToTheirEnd : Prop :=
  (∀ (s : State) (a : Access) (lb row n : Nat), Permitted s a 0x8003 0 → field a.value 51 13 = lb → field a.value 37 14 = row →
    field a.value 32 5 = n →
    (lb / 128 < nPcs s → lb % 32 < 31 → a.value % 2 ^ 32 = 0 → 1 ≤ n → n ≤ 16 → row + n ≤ 16384 → sagOf row = sagOf (row + n - 1) →
      ¬ (1 ≤ rdi s R.INT_REPAIR_STATE (lb / 128) ∧ rdi s R.INT_REPAIR_STATE (lb / 128) ≤ 3) → pcFailed s (lb / 128) = false →
      (∀ b sp, replacement s (lb / 128) (lb / 32 % 4) = some (b, sp) → b ≠ lb % 32) →
      n ≤ freeEntries s (lb / 128) + (parksWhere s fun k _ => k / 131072 = lb / 128).length * 16 →
      n ≤ (allocRows s (lb / 128) (sagOf row) n (freeSpares s (lb / 128) (some (lb / 32 % 4)))).length →
      Done (.intRetireRow a) s a (modStack (wri (wri s R.INT_REPAIR_STATE (lb / 128) 1) R.INT_REPAIR_PROGRESS (lb / 128) 0)
        fun t => { t with jobs := tset t.jobs (lb / 128) ⟨false, lb, row, n, [], 0, 0⟩ })) ∧
    (nPcs s ≤ lb / 128 ∨ lb % 32 = 31 ∨ a.value % 2 ^ 32 ≠ 0 ∨ n = 0 ∨ 16 < n ∨ 16384 < row + n ∨ sagOf row ≠ sagOf (row + n - 1) →
      s.time.run = true → RefusedRaising (.intRetireRow a) s a (repairRefused s lb 12) 3 8 7)) ∧
  (∀ (s : State) (a : Access) (lb : Nat), Permitted s a 0x8003 1 → a.value = lb →
    (lb < 8192 → lb / 128 < nPcs s → lb % 32 < 31 →
      ¬ (1 ≤ rdi s R.INT_REPAIR_STATE (lb / 128) ∧ rdi s R.INT_REPAIR_STATE (lb / 128) ≤ 3) → pcFailed s (lb / 128) = false →
      (∀ b sp, replacement s (lb / 128) (lb / 32 % 4) = some (b, sp) → b = lb % 32) →
      1 < (freeSpares s (lb / 128) none).length →
      Done (.intRetireBank a) s a (modStack (wri (wri s R.INT_REPAIR_STATE (lb / 128) 1) R.INT_REPAIR_PROGRESS (lb / 128) 0)
        fun t => { t with jobs := tset t.jobs (lb / 128) ⟨true, lb, 0, 16384, [], 0, 0⟩ })) ∧
    (lb < 8192 → lb / 128 < nPcs s → lb % 32 < 31 → 1 ≤ rdi s R.INT_REPAIR_STATE (lb / 128) →
      rdi s R.INT_REPAIR_STATE (lb / 128) ≤ 3 → s.time.run = true →
      RefusedRaising (.intRetireBank a) s a (repairRefused s lb 6) 5 8 7)) ∧
  (∀ (s : State) (pc : Nat) (j : Job), jobOf s pc = some j → rdi s R.INT_REPAIR_STATE pc = 1 → 
    (∀ k p, tget? s.stack.parks k = some p → k / 131072 ≠ pc) → pc < nPcs s →
    (j.bank = false →
      (allocRows s pc (sagOf j.row) j.rows (freeSpares s pc (some (j.lbank / 32 % 4)))).length = j.rows →
      ∃ t, exec (.repairPrepared pc) s = .next t ∧ rdi t R.INT_REPAIR_STATE pc = 2 ∧ t.array = s.array ∧
        jobOf t pc = some { j with dest := allocRows s pc (sagOf j.row) j.rows (freeSpares s pc (some (j.lbank / 32 % 4))) }) ∧
    (∀ b bs, j.bank = true → freeSpares s pc none = b :: bs → (∀ e ∈ pcGrafts s pc, e.2.1 ≠ b) →
      targeted s pc (fun r => r / 16384 = b * 32 + 31) = false →
      ∃ t, exec (.repairPrepared pc) s = .next t ∧ rdi t R.INT_REPAIR_STATE pc = 2 ∧ t.array = s.array ∧
        jobOf t pc = some { j with spare := b })) ∧
  (∀ (s : State) (pc : Nat) (j : Job), jobOf s pc = some j → rdi s R.INT_REPAIR_STATE pc = 2 → jobLines j ≤ j.copied → pc < nPcs s →
    ∃ t, exec (.repairSwitch pc) s = .next t ∧ rdi t R.INT_REPAIR_STATE pc = 3 ∧ t.array = s.array ∧
      (j.bank = true → rdi t R.MAP_BANK_REPLACE (pc * 4 + j.lbank / 32 % 4) = 2 ^ 15 + j.lbank % 32 * 256 + j.spare) ∧
      (j.bank = false → ∀ i, i < j.rows → i < j.dest.length →
        tget? t.stack.grafts (graftKey pc (j.lbank / 32 % 4) (j.lbank % 32) (j.row + i)) = j.dest[i]?)) ∧
  (∀ (s : State) (pc : Nat) (j : Job), jobOf s pc = some j → rdi s R.INT_REPAIR_STATE pc = 3 → sourceBusy s pc j = false →
    pc < nPcs s → s.time.run = true → ∃ t, exec (.repairDone pc) s = .next t ∧ rdi t R.INT_REPAIR_STATE pc = 4 ∧ jobOf t pc = none ∧
      statusBit t 8 6 = true ∧ t.array = s.array)

/-- The checker test mode (10 R270, 12 R427): a command is taken where none is under way, and refused at once for a pseudo-channel not
in service; its end stores the line encoded or raw, or shows the line as stored or as decoded. -/
def Obligations.CheckerCommandsActBelowTheCodec : Prop :=
  (∀ (s : State) (a : Access) (c : Instr), c ∈ [.testWriteEncoded a, .testWriteRaw a, .testReadRaw a, .testReadDecoded a] →
    Permitted s a 0x8004 3 →
    (s.stack.testCmd ≠ 0 → RefusedWith c s a 5) ∧
    (s.stack.testCmd = 0 → pcServes s (testPc (rd s R.INT_TEST_LOC)) = true →
      Done c s a (modStack (wr (wr s R.INT_TEST_RESULT 0) R.INT_TEST_SYNDROME 0) fun t => { t with testCmd := a.value })) ∧
    (s.stack.testCmd = 0 → pcServes s (testPc (rd s R.INT_TEST_LOC)) = false →
      Done c s a (wr (wr (wr s R.INT_TEST_RESULT 0) R.INT_TEST_SYNDROME 0) R.INT_TEST_RESULT (2 ^ 63 + 2 ^ 62)))) ∧
  (∀ (s : State) (e : BitVec 576) (pc key : Nat), testPc (rd s R.INT_TEST_LOC) = pc → testKey (rd s R.INT_TEST_LOC) = key →
    (s.stack.testCmd = 1 → ∃ t, exec (.intTestDone e) s = .next t ∧ t.stack.testCmd = 0 ∧ rd t R.INT_TEST_RESULT = 2 ^ 63 ∧
      (readCell t pc key).1 = encodeLine (testData s) false ∧
      (∀ k, k ≠ cellKey pc key → tget? t.array.lines k = tget? s.array.lines k)) ∧
    (s.stack.testCmd = 2 → ∃ t, exec (.intTestDone e) s = .next t ∧ t.stack.testCmd = 0 ∧ rd t R.INT_TEST_RESULT = 2 ^ 63 ∧
      (readCell t pc key).1 = BitVec.ofNat 576 ((testData s).toNat + 2 ^ 512 * rd s R.INT_TEST_CHECK) ∧
      (∀ k, k ≠ cellKey pc key → tget? t.array.lines k = tget? s.array.lines k)) ∧
    (∀ c, s.stack.testCmd = 3 → tget? s.array.lines (cellKey pc key) = some c →
      ∃ t, exec (.intTestDone e) s = .next t ∧ t.stack.testCmd = 0 ∧ rd t R.INT_TEST_RESULT = 2 ^ 63 ∧ t.array = s.array ∧
        tget? t.dict.blobs (keyOf 0x8004 1) = some (lineBytes (BitVec.ofNat 512 (c ^^^ e).toNat)) ∧
        rd t R.INT_TEST_CHECK = (c ^^^ e).toNat / 2 ^ 512) ∧
    (∀ c d, s.stack.testCmd = 4 → tget? s.array.lines (cellKey pc key) = some c → decodeLine (markedLanes s pc) (c ^^^ e) = d →
      ∃ t, exec (.intTestDone e) s = .next t ∧ t.stack.testCmd = 0 ∧
        rd t R.INT_TEST_RESULT = 2 ^ 63 + outcomeCode d.out * 2 ^ 56 ∧
        tget? t.dict.blobs (keyOf 0x8004 1) = some (lineBytes d.data)))

/-- The host ports' FDI states (02 R29 to R33, Table BND-3, 03 R85, 14 R389): a configuration the port does not take, an error of the
adapter and a transition that Table BND-3 does not list are LinkError; an Active port that retrains keeps its place; a retrain that
lasts too long, or the manager's command, resets the link, in L1 once it is Active again; the handshakes are answered, and each error signal is counted. -/
def Obligations.PortsFollowTheirAdapters : Prop :=
  ∀ (s : State) (p : Nat), p < nPorts s → mgmtUp s = true →
    (∀ c, configOk c = true → exec (.plProtocolVld p c) s = .next s) ∧
    (∀ c, configOk c = false → (linkOf s p).fdi ≠ .linkError → s.time.run = true →
      ∃ t, exec (.plProtocolVld p c) s = .next t ∧ InError t p ∧ (linkOf t p).cfgRefused = true ∧ statusBit t 1 3 = true) ∧
    (∃ t, exec (.plInbandPres p) s = .next t ∧ (linkOf t p).inband = true ∧
      ((linkOf s p).fdi = .reset → s.pins.rstCmplAck = true → bitOf (rd s R.LNK_PORT_ENABLE) p = true → s.start.phase = .service →
        (linkOf s p).faulty = false → (linkOf s p).cfgRefused = false → s.start.commanded = none → (linkOf t p).req = 1)) ∧
    ((linkOf s p).fdi = .reset → (linkOf s p).req = 1 → ∃ t, exec (.fdiActive p) s = .next t ∧ (linkOf t p).fdi = .active ∧
      portState t p = portNegotiating ∧ (linkOf t p).offered = rd s R.LNK_REV_ALLOWED &&& rd s R.BLK_CTP_REVISIONS) ∧
    ((linkOf s p).fdi = .linkReset ∨ (linkOf s p).fdi = .disabled → s.time.run = true →
      ∃ t, exec (.fdiActive p) s = .next t ∧ InError t p) ∧
    ((linkOf s p).fdi = .active → s.time.run = true → ∃ t, exec (.retrainEntry p) s = .next t ∧ (linkOf t p).fdi = .retrain ∧
      portState t p = portRetrain ∧ statusBit t 1 4 = true ∧
      rdi t R.LNK_RETRAINS p = min (rdi s R.LNK_RETRAINS p + 1) satMax) ∧
    ((linkOf s p).fdi = .retrain → ∃ t, exec (.retrainExit p) s = .next t ∧ (linkOf t p).fdi = .active ∧
      portState t p = (if (linkOf s p).up then portUp else portNegotiating)) ∧
    ((linkOf s p).fdi = .retrain → portState s p = portRetrain → s.time.run = true →
      (linkOf s p).retrainAt + rd s R.BLK_FDI_RETRAIN_LIMIT * 1000 ≤ s.now →
      ∃ t, exec (.retrainLimitExpiry p) s = .next t ∧ (linkOf t p).fdi = .linkReset ∧ portState t p = portDown ∧
        statusBit t 1 5 = true ∧ statusBit t 1 1 = true) ∧
    ((linkOf s p).fdi = .linkReset → ∃ t, exec (.linkResetDone p) s = .next t ∧ (linkOf t p).fdi = .reset ∧ t.regs = s.regs) ∧
    ((linkOf s p).fdi ≠ .linkError → s.time.run = true → ∃ t, exec (.adapterLinkerror p) s = .next t ∧ InError t p) ∧
    exec (.plStallreq p) s = .next (modLink s p fun l => { l with stallAck := true }) ∧
    (∃ t, exec (.plStallreqRelease p) s = .next t ∧ (linkOf t p).stallAck = false ∧ t.regs = s.regs) ∧
    exec (.plClkReq p) s = .next (modLink s p fun l => { l with clkAck := true }) ∧
    ((linkOf s p).fdi ≠ .disabled → rd s R.SLP_STATE ≠ 3 →
      exec (.plRxActiveReq p) s = .next (modLink s p fun l => { l with rxActive := true })) ∧
    ((linkOf s p).fdi = .disabled → exec (.plRxActiveReq p) s = .next s) ∧
    (s.time.run = true → Raises (.plError p) s (bumpi s R.LNK_FDI_PL_ERROR p) 1 6 ∧
      Raises (.plNferror p) s (bumpi s R.LNK_FDI_PL_NFERROR p) 1 7) ∧
    (∃ t, exec (.plError p) s = .next t ∧ (linkOf t p).fdi = (linkOf s p).fdi) ∧
    (∃ t, exec (.plNferror p) s = .next t ∧ (linkOf t p).fdi = (linkOf s p).fdi) ∧
    exec (.plCerror p) s = .next (bumpi s R.LNK_FDI_PL_CERROR p) ∧
    exec (.plPhyinrecenter p) s = .next (bumpi s R.LNK_FDI_RECENTER p) ∧
    (∀ a : Access, Permitted s a 0xB401 0 →
      (nPorts s ≤ a.value → RefusedWith (.fltLinkReset a) s a 3) ∧
      (a.value = p → carries s p = true → (linkOf s p).fdi ≠ .l1 → ∃ e, Done (.fltLinkReset a) s a e ∧
        (linkOf e p).fdi = .linkReset ∧ portState e p = portDown) ∧
      (a.value = p → carries s p = true → (linkOf s p).fdi = .l1 →
        Done (.fltLinkReset a) s a (modLink s p fun l => { l with resetWaits := true }))) ∧
    (∀ a : Access, Permitted s a 0x1000 0 →
      (∀ n, n < nPorts s → n ≠ p → bitOf (a.value &&& portMask s) n = bitOf (rd s R.LNK_PORT_ENABLE) n) →
      (bitOf (rd s R.LNK_PORT_ENABLE) p = true → bitOf (a.value &&& portMask s) p = false → ∃ e, Done (.lnkPortEnable a) s a e ∧
        (linkOf e p).fdi = .disabled ∧ portState e p = portDisabled) ∧
      (bitOf (rd s R.LNK_PORT_ENABLE) p = false → bitOf (a.value &&& portMask s) p = true → (linkOf s p).fdi = .disabled →
        (linkOf s p).faulty = false → ∃ e, Done (.lnkPortEnable a) s a e ∧ rd e R.LNK_PORT_ENABLE = a.value &&& portMask s ∧
          (linkOf e p).fdi = .reset ∧ (linkOf e p).linkError = false ∧ portState e p = portDown))

/-- Flits (03 R56, R58, R60 to R63, R67, R72, R83 to R85): one in order is accepted, and its messages act as their own rows do, in slot
order but that the answers to snoops go ahead of requests; a malformed one is LinkError; one whose CRC fails, or that comes too early, is discarded and
draws a NAK; one seen before is dropped; a NAK replays every unacknowledged flit, and one past the limit, or that names no flit held,
is LinkError; the highest common revision brings a port up, and none, or no answer in time, is LinkError. -/
def Obligations.FlitsAreKeptInOrder : Prop :=
  ∀ (s : State) (p : Nat), p < nPorts s → mgmtUp s = true → (linkOf s p).fdi = .active →
    (∀ f : BitVec 2048, crc32 (bytesLE (f.toNat - f.toNat % 2 ^ 32) 256) = f.toNat % 2 ^ 32 → field f.toNat 126 2 = 0 →
      bitOf s.sleep.nakOwed p = false →
      (field f.toNat 116 10 = (linkOf s p).rxNext % 1024 → (linkOf s p).rxNext < 1024 →
        noReplayRoom s (reqCount (portRev s p) f.toNat) = false →
        (linkOf s p).txq = [] → (linkOf s p).evq = [] →
        (scanFlit (portRev s p) (linkOf s p).up f.toNat 15 1 (linkOf s p).rxUsed = ([], .fine) →
          ∃ t, exec (.flitReceive p f) s = .next t ∧ (linkOf t p).rxNext = ((linkOf s p).rxNext + 1) % 1024 ∧
            (linkOf t p).waitSeq = false ∧ (linkOf t p).dirty = true ∧ (linkOf t p).fdi = .active ∧ t.regs = s.regs) ∧
        (∀ k c, scanFlit (portRev s p) (linkOf s p).up f.toNat 15 1 (linkOf s p).rxUsed = ([k], .fine) →
          (linkOf s p).up = true ∨ classAt f.toNat k = 8 → messageOf p f.toNat k = some c →
          ∃ u, exec (.flitReceive p f) s = exec c u ∧ (linkOf u p).rxNext = ((linkOf s p).rxNext + 1) % 1024 ∧
            u.regs = s.regs ∧ u.flights = s.flights ∧ u.home = s.home) ∧
        (scanFlit (portRev s p) (linkOf s p).up f.toNat 15 1 (linkOf s p).rxUsed = ([], .malformed) → s.time.run = true →
          ∃ t, exec (.flitReceive p f) s = .next t ∧ InError t p)) ∧
      (∀ d, d = (field f.toNat 116 10 + 1024 - (linkOf s p).rxNext) % 1024 → 0 < d →
        (d < 512 → ∃ t, exec (.flitReceive p f) s = .next t ∧ (linkOf t p).waitSeq = true ∧
          (linkOf t p).rxNext = (linkOf s p).rxNext ∧ rdi t R.LNK_CRC_ERRORS p = min (rdi s R.LNK_CRC_ERRORS p + 1) satMax) ∧
        (512 ≤ d → exec (.flitReceive p f) s = .next (ungate s p)))) ∧
    (∀ f : BitVec 2048, crc32 (bytesLE (f.toNat - f.toNat % 2 ^ 32) 256) ≠ f.toNat % 2 ^ 32 →
      ∃ t, exec (.flitReceive p f) s = .next t ∧ (linkOf t p).rxNext = (linkOf s p).rxNext ∧
        rdi t R.LNK_CRC_ERRORS p = min (rdi s R.LNK_CRC_ERRORS p + 1) satMax ∧
        (field f.toNat 126 2 = 0 → (linkOf s p).waitSeq = false → (linkOf s p).frozen = none → (linkOf t p).waitSeq = true ∧
          ∃ g, t.out = .flit p g :: s.out)) ∧
    (∀ (a : Nat) (l : Link), adoptAck (linkOf s p) a = l →
      ((linkOf s p).peerAck = a ∨ (∃ e ∈ (linkOf s p).txBuf, e.1 = a) → l.peerAck = a → (if l.nakSeq = a then l.naks else 0) + 1 < rd s R.LNK_REPLAY_LIMIT → l.txBuf ≠ [] →
        ∃ t, exec (.nakReceive p a) s = .next t ∧ (linkOf t p).fdi = .active ∧ (linkOf t p).peerAck = a ∧
          rdi t R.LNK_REPLAYS p = min (rdi s R.LNK_REPLAYS p + 1) satMax ∧ ∀ e ∈ l.txBuf, .flit p e.2 ∈ t.out) ∧
      ((linkOf s p).peerAck ≠ a ∧ (∀ e ∈ (linkOf s p).txBuf, e.1 ≠ a) ∨ rd s R.LNK_REPLAY_LIMIT ≤ (if l.nakSeq = a then l.naks else 0) + 1 →
        s.time.run = true → ∃ t, exec (.nakReceive p a) s = .next t ∧ InError t p)) ∧
    ((linkOf s p).waitSeq = true → (linkOf s p).frozen = none → (linkOf s p).nakAt + 128 ≤ s.now → ∃ t f, exec (.nakRepeat p) s = .next t ∧
      t.out = .flit p f :: s.out ∧ (linkOf t p).rxNext = (linkOf s p).rxNext ∧ (linkOf t p).nakAt = s.now ∧ t.regs = s.regs) ∧
    (s.now < (linkOf s p).nakAt + 128 → exec (.nakRepeat p) s = .next s) ∧
    ((linkOf s p).stallAck = false → (linkOf s p).dirty = true → ∃ t f, exec (.idleFlitSend p) s = .next t ∧
      t.out = .flit p f :: s.out ∧ (linkOf t p).dirty = false ∧ (linkOf t p).txSeq = (linkOf s p).txSeq ∧ t.regs = s.regs) ∧
    (∀ (revs : Nat) (cr : List Nat), carries s p = true → portState s p ≠ portNegotiating →
      exec (.negOffer p revs cr) s = .next (bumpi s R.LNK_DISCARDS p)) ∧
    (∀ (revs : Nat) (cr : List Nat), portState s p = portNegotiating → s.time.run = true →
      (bitOf (revs &&& (linkOf s p).offered) 3 = true → ∃ t, exec (.negOffer p revs cr) s = .next t ∧ portState t p = portUp ∧
        portRev t p = 3 ∧ statusBit t 1 0 = true) ∧
      (bitOf (revs &&& (linkOf s p).offered) 3 = false → bitOf (revs &&& (linkOf s p).offered) 2 = true →
        ∃ t, exec (.negOffer p revs cr) s = .next t ∧ portState t p = portUp ∧ portRev t p = 2 ∧ statusBit t 1 0 = true) ∧
      (bitOf (revs &&& (linkOf s p).offered) 3 = false → bitOf (revs &&& (linkOf s p).offered) 2 = false →
        ∃ t, exec (.negOffer p revs cr) s = .next t ∧ InError t p)) ∧
    (portState s p = portNegotiating → s.time.run = true → (linkOf s p).negAt + rd s R.LNK_NEG_TIMEOUT * 1000 ≤ s.now →
      ∃ t, exec (.negTimeout p) s = .next t ∧ InError t p) ∧
    (s.now < (linkOf s p).negAt + rd s R.LNK_NEG_TIMEOUT * 1000 → exec (.negTimeout p) s = .next s) ∧

    (∀ (flit : Nat) (slots : List Nat), (deliveryOrder flit slots).Perm slots ∧
      (deliveryOrder flit slots).Pairwise (fun a b => ¬ (classAt flit a = 1 ∧ classAt flit b = 4)) ∧
      (deliveryOrder flit slots).filter (fun k => classAt flit k ≠ 4) = slots.filter (fun k => classAt flit k ≠ 4)) ∧
    (∀ h : ReqHdr, h.port = p → h.fn < 2 ^ 4 → h.label < 2 ^ 14 → h.agent < 2 ^ 12 → h.tag < 2 ^ 16 → h.line < 2 ^ 46 →
      ∀ op low, op < 2 ^ 6 → low < 2 ^ 26 →
        reqHdrOf p (2 ^ 124 + op * 2 ^ 118 + h.fn * 2 ^ 114 + h.label * 2 ^ 100 + h.agent * 2 ^ 88 + h.tag * 2 ^ 72 +
          h.line * 2 ^ 26 + low) = h)

/-- Power-state commands (11 R291, R292, R294, R310, 03 R78, Table SLP-2): one that its port may not give, or that is malformed, is
answered with its status; one that fails a check is answered with its refuser and EV.09.02; one that passes begins an entry, and A0
with nothing asleep is done at once. -/
def Obligations.PowerCommandsAreChecked : Prop :=
  ∀ (s : State) (p fn mtag g st : Nat) (c : Instr), (st, c) ∈ powerRow (.inband p fn) mtag g → g < 256 →
    reaches s (.inband p fn) = true →
    (portBound s p fn = false → ∃ t, exec c s = .next t ∧ Answered s t ∧
      .answer (.inband p fn) mtag 0x23 7 (pwrWord 0 g 0) [] ∈ t.out) ∧
    (portBound s p fn = true → bitOf (rd s R.LNK_PWR_CMD_PORTS) p = false → ∃ t, exec c s = .next t ∧ Answered s t ∧
      .answer (.inband p fn) mtag 0x23 2 (pwrWord 0 g 0) [] ∈ t.out) ∧
    (MayCommand s p fn → pwrMalformed s st g = true → ∃ t, exec c s = .next t ∧ Answered s t ∧
      .answer (.inband p fn) mtag 0x23 3 (pwrWord 0 g 0) [] ∈ t.out) ∧
    (∀ r, MayCommand s p fn → pwrMalformed s st g = false → s.sleep.entry = none → pwrRefuser s st = some r → s.time.run = true →
      ∃ t, exec c s = .next t ∧ .answer (.inband p fn) mtag 0x23 0 (pwrWord 1 g r) [] ∈ t.out ∧ statusBit t 9 2 = true ∧
        t.sleep = s.sleep ∧ t.array = s.array) ∧
    (MayCommand s p fn → pwrMalformed s st g = false → s.sleep.entry = none → pwrRefuser s st = none → st ≠ 0 →
      targetReached s st g = false → s.sleep.pastE4 = false → ∃ t, exec c s = .next t ∧
        t.sleep.entry = some ⟨st - 1, g - (g &&& rd s R.SLP_GROUPS_ASLEEP), [(.inband p fn, mtag, g)], ident 2 p, s.now, none, false⟩ ∧
        rd t R.SLP_ENTRY_POINT = 1 ∧ rd t R.SLP_ENTRY_SEQ = (rd s R.SLP_ENTRY_SEQ + 1) % 2 ^ 64 ∧
        (st ≠ 3 → rd t R.SLP_STATE = 3 + st ∧ t.tree.holdPower = true) ∧ t.array = s.array) ∧
    (MayCommand s p fn → s.sleep.entry = none → pwrRefuser s 0 = none → st = 0 →
      (s.sleep.pastE4 = false → rd s R.SLP_GROUPS_ASLEEP = 0 → pwrMalformed s 0 g = false → ∃ t, exec c s = .next t ∧ Answered s t ∧
        .answer (.inband p fn) mtag 0x23 0 (pwrWord 0 g 0) [] ∈ t.out) ∧
      (s.sleep.pastE4 = true → s.sleep.wake = none → s.sleep.exit = none → pwrMalformed s 0 g = false →
        ∃ t, exec c s = .next t ∧ t.sleep.wake = some (ident 2 p) ∧
          t.sleep.exitFor = s.sleep.exitFor ++ [(.inband p fn, mtag, g)] ∧ t.array = s.array))

/-- The points of an entry (11 R294 to R299, Tables SLP-4, SLP-5, 09 R233, 02 R43): each passes once what it waits for is done; E4 answers
the command and cannot be undone; an entry that takes too long is abandoned, and undone at its next point with EV.09.01; S2 goes on
to save the bins, to bring every port to L1, and to stop the beat. -/
def Obligations.EntriesPassTheirPoints : Prop :=
  (∀ (s : State) (e : Entering), entryAt s 1 = some e → crossingClear s e = true → homeClear s e = true →
    ∃ t, exec .entryE1 s = .next t ∧ rd t R.SLP_ENTRY_POINT = 2 ∧
      t.sleep.entry = some { e with undoing := e.abort.isSome } ∧ t.array = s.array) ∧
  (∀ (s : State) (e : Entering), entryAt s 2 = some e → (∀ pc ∈ entryPcs s, flushed s pc = true) → exec .entryE2 s =
    .next { wr s R.SLP_ENTRY_POINT 3 with sleep := { s.sleep with entry := some { e with undoing := e.abort.isSome } } }) ∧
  (∀ (s : State) (e : Entering) (temps : List (Nat × Int)), entryAt s 3 = some e → (∀ pc ∈ entryPcs s, saplingsDone s pc = true) →
    e.abort = none → ∃ t, exec (.entryE3 temps) s = .next t ∧ rd t R.SLP_ENTRY_POINT = 4 ∧
      t.sleep.entry = some { e with undoing := false } ∧ t.array = s.array ∧ (e.st ≠ 1 → t.mram = s.mram) ∧
      (e.st = 1 → mgmtUp s = true → t.mram.bins = s.stack.bins)) ∧
  (∀ (s : State) (e : Entering), entryAt s 4 = some e → e.abort = none → (∀ c ∈ entryChannels s, (chanOf s c).selfRef = true) →
    s.time.run = true →
    (e.st = 0 → ∃ t, exec .entryE4 s = .next t ∧ t.sleep.pastE4 = true ∧ t.sleep.entry = none ∧ rd t R.SLP_STATE = 2 ∧
      rd t R.SLP_ENTRY_POINT = 0 ∧ statusBit t 9 0 = true ∧ t.array = s.array) ∧
    (e.st = 1 → ∃ t, exec .entryE4 s = .next t ∧ t.sleep.pastE4 = true ∧ t.sleep.entry = some { e with sources := [] } ∧
      t.sleep.step = 2 ∧ rd t R.SLP_ENTRY_POINT = 5 ∧ t.array = s.array) ∧
    (e.st = 2 → ∃ t, exec .entryE4 s = .next t ∧ t.sleep.pastE4 = s.sleep.pastE4 ∧ t.sleep.entry = none ∧
      rd t R.SLP_GROUPS_ASLEEP = rd s R.SLP_GROUPS_ASLEEP ||| e.groups ∧ statusBit t 9 0 = true ∧ t.array = s.array)) ∧
  (∀ (s : State) (e : Entering), s.sleep.entry = some e → s.sleep.pastE4 = false → e.abort = none →
    e.start + rd s R.SLP_ENTRY_LIMIT * 1000 ≤ s.now → ∃ t, exec .entryTimeout s = .next t ∧ t.sleep.entry = some { e with abort := some (firstUnfinished s e) } ∧
      t.array = s.array) ∧
  (∀ (s : State) (e : Entering) (r : Nat), s.sleep.entry = some e → e.abort = some r → s.sleep.pastE4 = false →
    e.undoing = true ∨ rd s R.SLP_ENTRY_POINT = 4 → (∀ c ∈ entryChannels s, (chanOf s c).selfRef = false) → s.sleep.exitFor = [] →
    s.time.run = true → ∃ t, exec .entryUndo s = .next t ∧ t.sleep.entry = none ∧ rd t R.SLP_ENTRY_POINT = 0 ∧
      (e.st ≠ 2 → rd t R.SLP_STATE = 0 ∧ t.tree.holdPower = false) ∧ statusBit t 9 1 = true ∧ t.array = s.array) ∧
  (∀ s : State, descending s = true → s.sleep.wake = none → s.sleep.step = 2 → allConfirmed s = true →
    ∃ t, exec .binTableSaveDone s = .next t ∧ t.sleep.step = 4 ∧ (∀ n ∈ upPorts s, (linkOf s n).fdi = .active → (linkOf t n).req = 2) ∧ t.regs = s.regs) ∧
  (∀ (s : State) (p : Nat), p < nPorts s → mgmtUp s = true → (linkOf s p).fdi = .active → (linkOf s p).req = 2 →
    exec (.l1Reached p) s = .next (setPortState (modLink s p fun l =>
      { l with fdi := .l1, powered := false, retained := decide (0 < l.ingress), wakeReq := false, wakeAck := false }) p portL1)) ∧
  (∀ s : State, descending s = true → s.sleep.wake = none → s.sleep.step = 4 → upPorts s = [] →
    ∃ t, exec .beatStop s = .next t ∧ rd t R.SLP_STATE = 3 ∧ rd t R.SLP_ENTRY_POINT = 0 ∧ t.time.run = false ∧ t.sleep.step = 6 ∧
      t.sleep.entry = none ∧ t.pins.pwrReq = putBit s.pins.pwrReq 1 false ∧ t.obs.ring = [] ∧ t.array = s.array) ∧
  (∀ (s : State) (u : Nat), u < 10 + nChannels s → ¬ (s.ply16 = true ∧ 4 ≤ u ∧ u < 8) → mgmtUp s = true → rd s R.SLP_A1_ENABLE = 1 →
    rd s R.SLP_STATE = 0 → islandIdle s u = true → bitOf s.sleep.gated u = false →
    ∃ t, exec (.islandIdleGate u) s = .next t ∧
      Answered { s with sleep := { s.sleep with gated := putBit s.sleep.gated u true } } t)

/-- Wakes and exits (11 R296, R299, R302 to R304, R319, 02 R45): a wake past E4 is latched, an abort trigger before it abandons the entry;
S2's wake requests its supply and the beat starts with every port powered; an exit restarts the clocks, and dispatch resumes once
every channel is out of self-refresh, with EV.09.03. -/
def Obligations.WakesBeginExits : Prop :=
  (∀ s : State, rd s R.SLP_WAKE_AT ≠ 0 → rd s R.SLP_WAKE_AT ≤ countedPool s →
    (s.sleep.pastE4 = true → s.sleep.wake = none → s.sleep.exit = none → ∃ t, exec .wakeAt s = .next t ∧
      t.sleep.wake = some (ident 6 1) ∧ rd t R.SLP_WAKE_AT = 0 ∧ t.array = s.array) ∧
    (∀ e, s.sleep.pastE4 = false → s.sleep.entry = some e → e.abort = none → ∃ t, exec .wakeAt s = .next t ∧
      t.sleep.entry = some { e with abort := some (ident 6 1) } ∧ t.array = s.array)) ∧
  (∀ (s : State) (n : Nat), inputArmed s 16 = true → s.pins.porN = true → s.sleep.pastE4 = true → s.sleep.wake = none →
    s.sleep.exit = none → ∃ t, exec (.extWake n) s = .next t ∧ t.sleep.wake = some (ident 6 0) ∧ t.pins.extWake = true ∧
      t.array = s.array) ∧
  (∀ (s : State) (w : Nat), s.sleep.wake = some w → rd s R.SLP_STATE = 3 → s.sleep.exit = none → s.sleep.pastE4 = true →
    ∃ t, exec .s2Wake s = .next t ∧ rd t R.SLP_STATE = 7 ∧ t.sleep.exit = some (0, s.sleep.wakeNow, true) ∧
      t.sleep.exitWho = w ∧ t.pins.pwrReq = putBit s.pins.pwrReq 1 (bitOf s.pins.pwrAck 0) ∧ t.pins.wakeN = false ∧
      t.array = s.array ∧ ∀ code, code = (if rd s R.BLK_AVS_ENABLE = 1 then s.avs.saved else 200) →
        (s.avs.busy = false → rd t R.BLK_AVS_CODE = code ∧ t.pins.avsReq = true) ∧
        (s.avs.busy = true → rd t R.BLK_AVS_CODE = rd s R.BLK_AVS_CODE ∧ t.avs.want = some code)) ∧
  (∀ (s : State) (g f : Nat), s.sleep.exit = some (g, f, true) → s.time.run = false → bitOf s.pins.pwrAck 1 = true →
    s.pins.avsReq = false → s.avs.want = none → s.pins.ref100 = true → ∃ t, exec .beatRestart s = .next t ∧ t.time.run = true ∧ t.sleep.gated = 0 ∧
      (∀ c, c < nChannels s → rdi s R.CDI_CHANNEL_STATE c ≠ 1 → (chanOf t c).ck = true ∧ (chanOf t c).wck = true) ∧
      (∀ n, n < nPorts s → (linkOf s n).fdi = .l1 → (linkOf s n).errWaits = false → (linkOf t n).powered = true ∧ (linkOf t n).req = 1)) ∧
  (∀ (s : State) (w : Nat), s.sleep.wake = some w → s.sleep.exit = none → s.sleep.pastE4 = true → rd s R.SLP_STATE = 2 →
    allConfirmed s = true → (∀ n, n < nPorts s → (linkOf s n).req ≠ 2 ∧ (linkOf s n).errWaits = false) → ∃ t, exec (.s1Exit 0) s = .next t ∧ rd t R.SLP_STATE = 6 ∧
      t.sleep.exit = some (0, s.sleep.wakeNow, false) ∧
      (∀ c, c < nChannels s → rdi s R.CDI_CHANNEL_STATE c ≠ 1 → (chanOf t c).ck = true ∧ (chanOf t c).wck = true) ∧
      t.array = s.array) ∧
  (∀ (s : State) (g : Nat), g ≠ 0 → s.sleep.exit = none → s.sleep.pastE4 = false → g &&& s.sleep.groupWake = g →
    (∀ c, c < nChannels s → bitOf g (c / 4) = true → sleepConfirmed s c = true) → ∃ t, exec (.s1Exit g) s = .next t ∧
      t.sleep.exit = some (g, s.sleep.groupNow, false) ∧ t.sleep.groupWake = s.sleep.groupWake - g ∧ t.array = s.array) ∧
  (∀ (s : State) (p : Nat), p < nPorts s → (linkOf s p).fdi = .l1 →
    (mgmtUp s = true → (linkOf s p).req = 1 → (linkOf s p).resetWaits = false → ∃ t, exec (.portL1Exit p) s = .next t ∧
      (linkOf t p).fdi = .active ∧ portState t p = portUp) ∧
    (mgmtUp s = true → (linkOf s p).req = 1 → (linkOf s p).resetWaits = true → ∃ t, exec (.portL1Exit p) s = .next t ∧
      (linkOf t p).fdi = .linkReset ∧ portState t p = portDown) ∧
    ((linkOf s p).req ≠ 1 → bitOf (rd s R.LNK_PORT_ENABLE) p = true → s.sleep.pastE4 = true → s.sleep.wake = none →
      s.sleep.exit = none → ∃ t, exec (.portL1Exit p) s = .next t ∧ t.sleep.wake = some (ident 2 p))) ∧
  (∀ (s : State) (k : WakeReport) (g f : Nat) (b : Bool), s.sleep.exit = some (g, f, b) → s.time.run = true → s.stack.trip = false →
    (∀ c, c < nChannels s → (chanOf s c).selfRef = false) → s.stack.jobs = [] →
    (rd s R.SLP_STATE = 7 → (∀ n, n < nPorts s → ¬ ((linkOf s n).fdi = .l1 ∧ (linkOf s n).req = 1)) ∧
      ∀ pc, pc < nPcs s → pcFailed s pc = true ∨ ((pchOf s pc).late = none ∧ (pchOf s pc).hold = false)) →
    (g = 0 → s.sleep.queue = [] → (∀ n, (linkOf s n).ctl = []) → ∃ t, exec (.exitDispatchResume k) s = .next t ∧
      rd t R.SLP_STATE = 0 ∧ rd t R.SLP_GROUPS_ASLEEP = 0 ∧ t.sleep.pastE4 = false ∧ t.sleep.exit = none ∧ t.sleep.wake = none ∧
      t.tree.holdPower = false ∧ t.pins.wakeN = true ∧ statusBit t 9 3 = true) ∧
    (g ≠ 0 → ∃ t, exec (.exitDispatchResume k) s = .next t ∧ t.sleep.exit = none ∧ statusBit t 9 3 = true ∧
      rd t R.SLP_GROUPS_ASLEEP = rd s R.SLP_GROUPS_ASLEEP - (rd s R.SLP_GROUPS_ASLEEP &&& g)))

/-- The dictionary and its stores (12 R323, R326, R328 to R331, R427, Tables MGT-4, MGT-5): an access that fails a check is answered with
its status and counted; a read shows the entry's value and a write of an ordinary entry puts its kept bits; staging that waits too
long is dropped; locking, erasing, describing and storing do what their rows say. -/
def Obligations.TheDictionaryAnswers : Prop :=
  (∀ (s : State) (d : DictMsg) (st : Nat), reaches s d.src = true → st ≠ 0 →
    (accessStatus s d.src false d.index d.sub 0 d.offset d.nslots = st → ∃ t, exec (.dictRd d) s = .next t ∧
      Answered (bumpi s R.MGT_REFUSALS st) t ∧ .answer d.src d.mtag 0x21 st 0 [] ∈ t.out) ∧
    (accessStatus s d.src true d.index d.sub d.value d.offset d.nslots = st → ∃ t, exec (.dictWr d) s = .next t ∧
      Answered (bumpi s R.MGT_REFUSALS st) t ∧ .answer d.src d.mtag 0x22 st 0 [] ∈ t.out)) ∧
  (∀ (s : State) (d : DictMsg) (e : Entry), reaches s d.src = true → findEntry d.index d.sub = some e → e.ty ≠ 10 →
    (accessStatus s d.src false d.index d.sub 0 d.offset d.nslots = 0 → ¬ (0xA100 ≤ d.index ∧ d.index < 0xA140) → d.index ≠ 0xA301 →
      ¬ (0xB000 ≤ d.index ∧ d.index < 0xB010) → (s.ply16 && absent16 e d.index d.sub) = false → s.obs.faulty = false →
      ∃ t, exec (.dictRd d) s = .next t ∧ Answered s t ∧ .answer d.src d.mtag 0x21 0
        (viewOf (takeMgtCredit s d.src) (masterOf s d.src) d.index d.sub) [] ∈ t.out) ∧
    (accessStatus s d.src true d.index d.sub d.value d.offset d.nslots = 0 → singleAct e (keyOf d.index d.sub) = none →
      arrayAct e d.index d.sub = none →
      mapWrite d.index d.sub (keptBits (takeMgtCredit s d.src) e d.index d.sub d.value) (takeMgtCredit s d.src) = none →
      epochWrite d.index d.sub d.value (takeMgtCredit s d.src) = none →
      treeWrite (masterOf s d.src) d.index d.sub d.value (takeMgtCredit s d.src) = none →
      ∃ t, exec (.dictWr d) s = .next t ∧ Answered (put s (keyOf d.index d.sub) (dfltAt s (keyOf d.index d.sub))
        (keptBits s e d.index d.sub d.value)) t ∧ .answer d.src d.mtag 0x22 0 0 [] ∈ t.out)) ∧
  (∀ (s : State) (m : Nat) (g : Staging), tget? s.dict.staging m = some g →
    (g.at_ + 1000000 ≤ s.now → exec (.blobStagingTimeout m) s =
      .next { s with dict := { s.dict with staging := tdel s.dict.staging m } }) ∧
    (s.now < g.at_ + 1000000 → exec (.blobStagingTimeout m) s = .next s)) ∧
  (∀ (s : State) (a : Access), Permitted s a 0xA001 0 → Done (.mgtDictLock a) s a (wr s R.MGT_DICT_LOCKED 1)) ∧
  (∀ (s : State) (a : Access), Permitted s a 0xA002 1 →
    Done (.mgtPersistErase a) s a { s with mram := { s.mram with erased := true } }) ∧
  (∀ (s : State) (k d : Nat), s.mram.erased = true → s.pins.porN = true → persistentKey k = true → ownStore k = false →
    ∃ t, exec .blockResetAssert s = .next t ∧ t.mram.params = [] ∧ val t k d = (namedDefault k).getD d) ∧
  (∀ (s : State) (k : Nat), mgmtUp s = true → ownStore k = false → persistentKey k = true →
    (∀ w : Bool, (s.mram.erased = true → exec (.persistStore (.entry k) w) s = .next s) ∧
      (∀ n, tget? s.mram.storedAt k = some n → countedNs s < n + rd s R.MGT_PERSIST_PERIOD * 1000000 →
        exec (.persistStore (.entry k) w) s = .next s)) ∧
    (s.mram.erased = false →
      (∀ n, tget? s.mram.storedAt k = some n → n + rd s R.MGT_PERSIST_PERIOD * 1000000 ≤ countedNs s) →
      ∃ t, exec (.persistStore (.entry k) false) s = .next t ∧ t = { s with mram := t.mram } ∧
      (t.mram ≠ s.mram → tget? t.mram.storedAt k = some (countedNs s) ∧ ∃ u, exec (.persistStore (.entry k) true) s = .next u ∧
        u.mram = t.mram ∧ (s.time.run = true → statusBit u 10 9 = true)) ∧
      (∀ j, j ≠ k → tget? t.mram.params j = tget? s.mram.params j) ∧
      (tget? s.mram.params k = none → val s k (dfltAt s k) ≠ dfltAt s k →
        tget? t.mram.params k = some ⟨val s k (dfltAt s k), 0, none⟩) ∧
      (∀ c, tget? s.mram.params k = some c → c.value = val s k (dfltAt s k) → t = s) ∧
      (∀ c, tget? s.mram.params k = some c → c.value ≠ val s k (dfltAt s k) → tget? t.mram.params k =
        some ⟨val s k (dfltAt s k), (c.seq + 1) % 2 ^ 32, some (c.value, c.seq)⟩))) ∧
  (∀ (s : State) (a : Access), Permitted s a 0xA004 0 → Done (.mgtDescribe a) s a { s with dict := { s.dict with
    descReq := tset s.dict.descReq (masterOf s a.src) a.value, desc := tdel s.dict.desc (masterOf s a.src) } }) ∧
  (∀ (s : State) (m v : Nat), tget? s.dict.descReq m = some v → mgmtUp s = true → exec (.mgtDescriptorDone m) s =
    .next { s with dict := { s.dict with descReq := tdel s.dict.descReq m, desc := tset s.dict.desc m (descriptorOf s v) } })

/-- The sideband's frames (12 R335, R337 to R340, R342, R343, 02 R49): a frame in S2 is a wake; one that does not fit or fails its check leaves
nothing behind and is counted; a good one is read whole; frames leave whole, an in-band interrupt is repeated while they wait, and a
flush takes those of its kind. -/
def Obligations.FramesPassWhole : Prop :=
  (∀ (s : State) (b : List Nat) (f : FrameFault), rd s R.SLP_STATE = 3 → rd s R.MGT_I3C_ADDRESS = 0 →
    exec (.inboundFrame b f) s = .next s) ∧
  (∀ (s : State) (b : List Nat) (f : FrameFault), rd s R.SLP_STATE = 3 → rd s R.MGT_I3C_ADDRESS ≠ 0 → s.sleep.pastE4 = true →
    s.sleep.wake = none → s.sleep.exit = none → ∃ t, exec (.inboundFrame b f) s = .next t ∧ t.sleep.wake = some (ident 6 2) ∧ t.side = s.side) ∧
  (∀ (s : State) (b : List Nat) (f : FrameFault), mgmtUp s = true → rd s R.MGT_I3C_ADDRESS ≠ 0 → b ≠ [] → s.time.run = true →
    (s.side.inb.free < (b.length + 31) / 32 → ∃ t, exec (.inboundFrame b f) s = .next t ∧ t.side.overrun = true ∧
      t.side.inb = { s.side.inb with w := s.side.inb.c } ∧ statusBit t 10 10 = true ∧ statusBit t 10 12 = true ∧
      rd t R.MGT_SB_OVERRUNS = min (rd s R.MGT_SB_OVERRUNS + 1) satMax ∧
      rd t R.MGT_SB_BAD_FRAMES = min (rd s R.MGT_SB_BAD_FRAMES + 1) satMax) ∧
    ((b.length + 31) / 32 ≤ s.side.inb.free → f ≠ .none → f ≠ .corrected → ∃ t, exec (.inboundFrame b f) s = .next t ∧
      t.side.inb = { s.side.inb with w := s.side.inb.c } ∧ statusBit t 10 12 = true ∧
      rd t R.MGT_SB_BAD_FRAMES = min (rd s R.MGT_SB_BAD_FRAMES + 1) satMax) ∧
    ((b.length + 31) / 32 ≤ s.side.inb.free → f = .none ∨ f = .corrected → s.side.inb.ok → s.side.inb.r = s.side.inb.c →
      s.side.inb.w = s.side.inb.c → ∃ t, exec (.inboundFrame b f) s = .next t ∧ t.side.inb.isEmpty = true)) ∧
  (∀ (s : State) (ws : List Nat), mgmtUp s = true → s.side.outb.isEmpty = false → (s.side.outb.frameAt s.side.outb.r 512).1 = ws →
    (∃ t, exec (.outboundFrameRead .whole) s = .next t ∧ .frame (wordsBytes ws) ∈ t.out ∧ t.regs = s.regs ∧ t.side.inb = s.side.inb) ∧
    (∃ t, exec (.outboundFrameRead .corrected) s = .next t ∧ .frame (wordsBytes ws) ∈ t.out ∧ t.side.inb = s.side.inb ∧
      (s.time.run = true → statusBit t 10 11 = true) ∧
      rd t R.MGT_SB_CORRECTED = min (rd s R.MGT_SB_CORRECTED + 1) satMax) ∧
    (∀ n, n < ws.length → ∃ t, exec (.outboundFrameRead (.cut n)) s = .next t ∧ .frameCut (wordsBytes (ws.take n)) ∈ t.out ∧
      t.side.inb = s.side.inb ∧ rd t R.MGT_SB_DISCARDS = min (rd s R.MGT_SB_DISCARDS + 1) satMax)) ∧
  (∀ s : State, mgmtUp s = true → s.side.ibi = true → s.side.outb.isEmpty = false →
    (s.side.ibiAt + 1000000 ≤ s.now → exec .ibiRepeat s = .next (emit { s with side := { s.side with ibiAt := s.now } } (.ibi 0xAE))) ∧
    (s.now < s.side.ibiAt + 1000000 → exec .ibiRepeat s = .next s)) ∧
  (∀ (s : State) (a : Access) (c : Instr), c ∈ [.sbFlushTelemetry a, .sbFlushControl a, .sbFlushBoth a] → Permitted s a 0xA011 1 →
    ∃ e, Done c s a e ∧ e.side.inb = s.side.inb ∧
      (a.value = 1 → (∀ x ∈ e.side.outWait, x.1 = false) ∧ rd e R.MGT_SB_DISCARDS = min (rd s R.MGT_SB_DISCARDS +
        (countFrames s.side.outb true s.side.outb.r 512 + (s.side.outWait.filter (·.1)).length)) satMax) ∧
      (a.value = 2 → (∀ x ∈ e.side.outWait, x.1 = true) ∧ rd e R.MGT_SB_DISCARDS = min (rd s R.MGT_SB_DISCARDS +
        (countFrames s.side.outb false s.side.outb.r 512 + (s.side.outWait.filter (!·.1)).length)) satMax) ∧
      (a.value = 3 → e.side.outWait = []))

/-- The umpires' MCTP control and SPDM services (12 R333, R336, R355 to R358, Tables MGT-6, MGT-13): an endpoint ID from 8 to 254 is
taken, and the first names a manager where none is set; SPDM goes on in its order for the requester that holds the connection, and
signs what is to be signed. -/
def Obligations.SidebandServicesAnswer : Prop :=
  (∀ (s : State) (src : Nat), umpiresUp s = true →
    (∀ eid, 8 ≤ eid → eid ≤ 254 → ∃ t, exec (.setEndpointId src eid) s = .next t ∧ rd t R.MGT_EID = eid ∧ t.side.setSeen = true ∧
      rd t R.MGT_MANAGER_EID = (if s.side.setSeen = false ∧ rd s R.MGT_MANAGER_EID = 0 then src else rd s R.MGT_MANAGER_EID)) ∧
    (∀ eid, eid < 8 ∨ 254 < eid → exec (.setEndpointId src eid) s = .next (mctpAnswer s src 0 1 2 [])) ∧
    exec (.getEndpointId src) s = .next (mctpAnswer s src 0 2 0 [rd s R.MGT_EID, 0, 0]) ∧
    exec (.getMctpVersionSupport src 0) s = .next (mctpAnswer s src 0 4 0 [1, 0xF1, 0xF3, 0xFF, 0]) ∧
    exec (.getMctpVersionSupport src 5) s = .next (mctpAnswer s src 0 4 0 [1, 0xF1, 0xF0, 0xFF, 0]) ∧
    exec (.getMessageTypeSupport src) s = .next (mctpAnswer s src 0 5 0 [2, 5, 0x7F]) ∧
    exec (.getVendorDefinedMessageSupport src 0) s =
      .next (mctpAnswer s src 0 6 0 ([0xFF, 1] ++ bytesBE (rd s R.MGT_IANA_PEN) 4 ++ [0, 3])) ∧
    (∀ code, exec (.unsupportedMctpCommand src code) s = .next (mctpAnswer s src 0 code 5 []))) ∧
  (∀ (s : State) (src : Nat) (c : Instr), c ∈ [.getEndpointId src, .getMessageTypeSupport src, .getVersion src] → mgmtUp s = true →
    umpiresServe s = false → exec c s = .next (bump s R.MGT_SB_DISCARDS)) ∧
  (∀ (s : State) (src : Nat), umpiresUp s = true → masterOf s (.sideband src) ≠ 0 → s.ump.signing = none →
    ∃ t, exec (.getVersion src) s = .next t ∧ t.ump.spdm = 1 ∧ rd t R.MGT_SPDM_REQUESTER = src ∧
      t = spdmSend { s with regs := t.regs, ump := t.ump } src [0x10, 4, 0, 0, 0, 1, 0, 0x12]) ∧
  (∀ (s : State) (src : Nat), SpdmAt s src 1 → exec (.getCapabilities src) s =
    .next (spdmSend { s with ump := { s.ump with spdm := 2 } } src
      ([0x12, 0x61, 0, 0, 0, 16, 0, 0] ++ bytesLE 0x16 4 ++ bytesLE 4096 4 ++ bytesLE 4096 4))) ∧
  (∀ (s : State) (src : Nat), SpdmAt s src 2 →
    (∃ t, exec (.negotiateAlgorithms src true) s = .next t ∧ t.ump = { s.ump with spdm := 3 } ∧ t.regs = s.regs) ∧
    exec (.negotiateAlgorithms src false) s = .next (spdmError s src errInvalid 0)) ∧
  (∀ (s : State) (src k : Nat), SpdmAt s src k → k ≠ 3 →
    exec (.getDigests src) s = .next (spdmError s src errUnexpected 0) ∧
    ∀ sl sm n, exec (.challenge src sl sm n) s = .next (spdmError s src errUnexpected 0)) ∧
  (∀ (s : State) (src : Nat), SpdmAt s src 3 →
    (s.ump.certOk = true → exec (.getDigests src) s = .next (spdmSend s src ([0x12, 1, 0, 1] ++ certDigest))) ∧
    (∀ off len, s.ump.certOk = true → exec (.getCertificate src 0 off len) s = .next
      (if Config.certChain.length ≤ off then spdmError s src errInvalid 0
       else spdmSend s src ([0x12, 2, 0, 0] ++ bytesLE ((Config.certChain.drop off).take (min len 4088)).length 2 ++
        bytesLE (Config.certChain.length - off - ((Config.certChain.drop off).take (min len 4088)).length) 2 ++
        (Config.certChain.drop off).take (min len 4088)))) ∧
    (∀ sm n, s.ump.certOk = true → sm = 0 ∨ sm = 1 ∨ sm = 0xFF → exec (.challenge src 0 sm n) s =
      .next { s with ump := { s.ump with signing := some (.challenge src 0 sm n) } }) ∧
    (∀ i n, i ≤ 4 ∨ i = 0xFF → exec (.getMeasurements src i true n) s =
      .next { s with ump := { s.ump with signing := some (.measurements src i n) } }) ∧
    (∀ i n, i ≤ 4 ∨ i = 0xFF → exec (.getMeasurements src i false n) s = .next (spdmSend
      { s with ump := { s.ump with nonceNo := s.ump.nonceNo + 1 } } src
      (measurementsMsg { s with ump := { s.ump with nonceNo := s.ump.nonceNo + 1 } } i
        (bytesBE (Config.nonce s.ump.nonceNo).toNat 32)))) ∧
    (∀ code, exec (.unsupportedSpdmRequest src code) s = .next (spdmError s src errUnsupported code))) ∧
  (∀ (s : State) (x : Signing), umpiresUp s = true → s.ump.signing = some x → ∃ t, exec .spdmSigningDone s = .next t ∧
    t.ump.signing = none ∧ t.ump.nonceNo = s.ump.nonceNo + 1 ∧ t.regs = s.regs)

/-- Mailboxes (12 R344 to R351, R360): a permitted sender's word is held until its receiver takes it; a strict channel is posted to by
the holder of its lock alone, and refuses a word while one is held; only the holder releases the lock; a word held too long times
out, and crossed waits show on both channels. -/
def Obligations.MailboxesCarryWords : Prop :=
  (∀ (s : State) (src : Sender) (mtag ch v m : Nat), ch < 64 → masterOf s src = m → Permitted s ⟨src, mtag, v⟩ (0xA100 + ch) 1 →
    (maySend s ch m = false → RefusedWith (.mgtMbxPost src mtag ch v) s ⟨src, mtag, v⟩ 2) ∧
    (maySend s ch m = true → rdi s R.MGT_MBX_MODE ch ≠ 0 → (mbxOf s ch).lock ≠ m →
      RefusedWith (.mgtMbxPost src mtag ch v) s ⟨src, mtag, v⟩ 4) ∧
    (maySend s ch m = true → rdi s R.MGT_MBX_MODE ch ≠ 0 → (mbxOf s ch).lock = m → (mbxOf s ch).full = true →
      RefusedWith (.mgtMbxPost src mtag ch v) s ⟨src, mtag, v⟩ 5) ∧
    (maySend s ch m = true → rdi s R.MGT_MBX_MODE ch = 0 ∨ ((mbxOf s ch).lock = m ∧ (mbxOf s ch).full = false) →
      ∃ e, Done (.mgtMbxPost src mtag ch v) s ⟨src, mtag, v⟩ e ∧ (mbxOf e ch).word = v ∧ (mbxOf e ch).full = true ∧
        (mbxOf e ch).poster = m ∧ (mbxOf e ch).collision = ((mbxOf s ch).collision || (mbxOf s ch).full) ∧
        ∀ k, k ≠ ch → mbxOf e k = mbxOf s k)) ∧
  (∀ (s : State) (src : Sender) (mtag ch : Nat), ch < 64 → reaches s src = true →
    accessStatus s src false (0xA100 + ch) 1 0 0 0 = 0 → masterOf s src = mbxReceiver s ch → mbxReceiver s ch ≠ 0 →
    ((mbxOf s ch).full = true → ∃ t, exec (.mgtMbxTake src mtag ch) s = .next t ∧
      Answered (modMbx s ch fun b => { b with word := 0, full := false, late := false, orphaned := false }) t ∧
      .answer src mtag 0x21 0 (mbxOf s ch).word [] ∈ t.out) ∧
    ((mbxOf s ch).full = false → ∃ t, exec (.mgtMbxTake src mtag ch) s = .next t ∧ Answered (bumpi s R.MGT_REFUSALS 5) t ∧
      .answer src mtag 0x21 5 0 [] ∈ t.out)) ∧
  (∀ (s : State) (src : Sender) (mtag ch m : Nat), ch < 64 → reaches s src = true → masterOf s src = m →
    accessStatus s src false (0xA100 + ch) 4 0 0 0 = 0 → maySend s ch m = true →
    ((mbxOf s ch).lock = 0 → ∃ t, exec (.mgtMbxLockAcquire src mtag ch) s = .next t ∧
      Answered (modMbx s ch fun b => { b with lock := m }) t ∧ .answer src mtag 0x21 0 0 [] ∈ t.out) ∧
    ((mbxOf s ch).lock ≠ 0 → (mbxOf s ch).lock ≠ m → ∃ t, exec (.mgtMbxLockAcquire src mtag ch) s = .next t ∧
      Answered s t ∧ .answer src mtag 0x21 0 (mbxOf s ch).lock [] ∈ t.out)) ∧
  (∀ (s : State) (src : Sender) (mtag ch v : Nat), ch < 64 → Permitted s ⟨src, mtag, v⟩ (0xA100 + ch) 4 →
    (v = 0 → (mbxOf s ch).lock = masterOf s src →
      Done (.mgtMbxLockRelease src mtag ch v) s ⟨src, mtag, v⟩ (modMbx s ch fun b => { b with lock := 0 })) ∧
    (v ≠ 0 ∨ (mbxOf s ch).lock ≠ masterOf s src → RefusedWith (.mgtMbxLockRelease src mtag ch v) s ⟨src, mtag, v⟩ 2)) ∧
  (∀ (s : State) (a : Access) (ch : Nat), ch < 64 → Permitted s a (0xA100 + ch) 0 →
    (isIdentity (a.value % 256) = true → a.value / 256 = 0 ∨ (isIdentity (a.value / 256) = true ∧ a.value / 256 ≠ a.value % 256) →
      ((mbxOf s ch).full = false → Done (.mgtMbxBind a ch) s a (wri s R.MGT_MBX_BIND ch a.value)) ∧
      ((mbxOf s ch).full = true → RefusedWith (.mgtMbxBind a ch) s a 5)) ∧
    (isIdentity (a.value % 256) = false → RefusedWith (.mgtMbxBind a ch) s a 3)) ∧
  (∀ (s : State) (a : Access), Permitted s a 0xA140 0 → Done (.mgtMbxTableLock a) s a (wr s R.MGT_MBX_TABLE_LOCKED 1)) ∧
  (∀ (s : State) (a : Access) (m : Nat), Permitted s a 0xA143 m → isIdentity m = true →
    ∃ e, Done (.mgtMasterSleep a m) s a e ∧ rdi e R.MGT_MASTER_SLEEP m = a.value ∧ e.array = s.array) ∧
  (∀ (s : State) (ch : Nat), mgmtUp s = true → (mbxOf s ch).full = true → (mbxOf s ch).late = false → s.time.run = true →
    (mbxOf s ch).since + rdi s R.MGT_MBX_TIMEOUT ch * 1000 ≤ s.now →
    ∃ t, exec (.mbxTimeout ch) s = .next t ∧ (mbxOf t ch).late = true ∧ (mbxOf t ch).timeout = true ∧
      ((mbxOf s ch).timeout = false → statusBit t 10 2 = true) ∧
      (∀ k, k ∈ mbxPairs s ch → (mbxOf s k).full = true → (mbxOf s k).late = true →
        (mbxOf t k).crossed = true ∧ (mbxOf t ch).crossed = true ∧ statusBit t 10 3 = true))

/-- The umpires (12 R352, R353, 13 R365, R366, R368): a mismatch or a watchdog expiry restarts them, or resets the block once too many
came within a second; a restart ends with the active image's schema, in its trial where it was activated. -/
def Obligations.UmpiresRestart : Prop :=
  (∀ (s : State) (c : Instr) (cause ev : Nat),
    (c, cause, ev) ∈ [(Instr.umpireLockstepMismatch, 1, 5), (Instr.umpireWatchdogExpiry, 2, 6)] →
    umpiresUp s = true → rd s R.UPG_STATE ≠ 2 →
    ((s.ump.restarts.filter fun t => s.now < t + 1000000000).length + 1 < rd s R.MGT_UMPIRE_ESCALATE → ∃ t, exec c s = .next t ∧
      rd t R.MGT_UMPIRE_STATE = 1 ∧ rd t R.MGT_UMPIRE_RESETS = min (rd s R.MGT_UMPIRE_RESETS + 1) satMax ∧
      rd t R.MGT_UMPIRE_RESET_CAUSE = cause ∧ t.ump.spdm = 0 ∧ t.ump.signing = none ∧
      t.ump.restarts = s.now :: s.ump.restarts.filter (fun t => s.now < t + 1000000000) ∧ statusBit t 10 ev = true ∧
      t.array = s.array) ∧
    (rd s R.MGT_UMPIRE_ESCALATE ≤ (s.ump.restarts.filter fun t => s.now < t + 1000000000).length + 1 → s.start.commanded = none →
      s.start.phase = .service → diesAsleep s = false → ∃ t, exec c s = .next t ∧ t.start.commanded = some 3 ∧
        t.tree.holdReset = true ∧ statusBit t 10 ev = true ∧ t.array = s.array)) ∧
  (∀ (s : State) (a : Access), Permitted s a 0xA200 5 →
    (rd s R.MGT_UMPIRE_STATE ≠ 2 → ∃ e, Done (.mgtUmpireRestart a) s a e ∧ rd e R.MGT_UMPIRE_STATE = 1 ∧
      rd e R.MGT_UMPIRE_RESET_CAUSE = 4 ∧ e.ump = { s.ump with spdm := 0, signing := none } ∧ e.array = s.array) ∧
    (rd s R.MGT_UMPIRE_STATE = 2 → Done (.mgtUmpireRestart a) s a s)) ∧
  (∀ s : State, rd s R.MGT_UMPIRE_STATE = 1 → ∃ t, exec .umpireRestartDone s = .next t ∧ rd t R.MGT_UMPIRE_STATE = 0 ∧
    rd t R.MGT_SCHEMA_VERSION = 0x300 + ((tget? s.images (rd s R.UPG_ACTIVE_SLOT)).map (·.minor)).getD 0 ∧
    (rd s R.UPG_STATE = 1 → rd t R.UPG_STATE = 2 ∧ t.ump.trialFrom = s.now) ∧ (rd s R.UPG_STATE ≠ 1 → t.ump = s.ump) ∧
    t.array = s.array)

/-- Firmware upgrades (13 R362 to R367): a load fills the inactive slot, whose verification names the first check it fails; an image that
passed may be activated, is committed or rolled back by command, and rolls back when its trial ends; the SVN floor only rises. -/
def Obligations.ImagesAreTriedBeforeTheyStay : Prop :=
  ∀ (s : State) (i : Nat), inactiveSlot s = i → rd s R.UPG_ACTIVE_SLOT ≤ 1 →
    (∀ a : Access, Permitted s a 0xA810 0 →
      (rd s R.UPG_STATE = 2 → RefusedWith (.upgLoadBegin a) s a 5) ∧
      (rd s R.UPG_STATE ≠ 2 → ∃ e, Done (.upgLoadBegin a) s a e ∧ imageOf e i = {} ∧ rd e R.UPG_LOAD_STATUS = 1 ∧
        rdi e R.UPG_IMAGE_STATE i = 1 ∧ rdi e R.UPG_IMAGE_SVN i = 0 ∧ imageOf e (1 - i) = imageOf s (1 - i))) ∧
    (∀ (a : Access) (b : BitVec 32768), Permitted s a 0xA810 2 →
      (rdi s R.UPG_IMAGE_STATE i ≠ 1 → RefusedWith (.upgLoadData a b) s a 5) ∧
      (rdi s R.UPG_IMAGE_STATE i = 1 → ∃ e, Done (.upgLoadData a b) s a e ∧
        tget? (imageOf e i).blocks (rd s R.UPG_LOAD_OFFSET) = some b ∧
        (∀ k, k ≠ rd s R.UPG_LOAD_OFFSET → tget? (imageOf e i).blocks k = tget? (imageOf s i).blocks k) ∧
        rd e R.UPG_LOAD_OFFSET = (rd s R.UPG_LOAD_OFFSET + 1) % 512)) ∧
    (∀ a : Access, Permitted s a 0xA810 3 → ∃ e, Done (.upgVerify a) s a e ∧ rd e R.UPG_LOAD_STATUS = 2 ∧ e.ump.verifying = i ∧
      e.images = s.images) ∧
    (∀ v : ImageCheck, rd s R.UPG_LOAD_STATUS = 2 → s.ump.verifying = i → mgmtUp s = true →
      (imageCheck s i v ≠ 0 → exec (.upgVerifyDone v) s =
        .next (wri (wr s R.UPG_LOAD_STATUS (imageCheck s i v)) R.UPG_IMAGE_STATE i 4)) ∧
      (imageCheck s i v = 0 → ∃ t, exec (.upgVerifyDone v) s = .next t ∧ rd t R.UPG_LOAD_STATUS = 3 ∧
        rdi t R.UPG_IMAGE_STATE i = 2 ∧ ((imageOf s i).known = true →
          rdi t R.UPG_IMAGE_SVN i = headerField (imageOf s i) 12 4 ∧ rdi t R.UPG_IMAGE_VERSION i = headerField (imageOf s i) 8 4))) ∧
    (∀ a : Access, Permitted s a 0xA811 0 →
      (activateStatus s ≠ 0 → RefusedWith (.upgActivate a) s a (activateStatus s)) ∧
      (activateStatus s = 0 → ∃ e, Done (.upgActivate a) s a e ∧ rd e R.UPG_ACTIVE_SLOT = i ∧ rd e R.UPG_STATE = 1 ∧
        rd e R.MGT_UMPIRE_STATE = 1 ∧ rd e R.MGT_UMPIRE_RESET_CAUSE = 3)) ∧
    (∀ a : Access, Permitted s a 0xA811 1 →
      (rd s R.UPG_STATE = 2 → Done (.upgCommit a) s a (wr s R.UPG_STATE 0)) ∧
      (rd s R.UPG_STATE ≠ 2 → RefusedWith (.upgCommit a) s a 5)) ∧
    (∀ a : Access, Permitted s a 0xA811 2 → rd s R.UPG_STATE = 2 → ∃ e, Done (.upgRollback a) s a e ∧ rd e R.UPG_ACTIVE_SLOT = i ∧
      rdi e R.UPG_IMAGE_STATE (1 - i) = 3 ∧ rd e R.UPG_STATE = 0 ∧ rd e R.UPG_LAST_ROLLBACK_CAUSE = 4 ∧
      rd e R.MGT_UMPIRE_STATE = 1) ∧
    (∀ a : Access, Permitted s a 0xA811 2 → rd s R.UPG_STATE ≠ 2 →
      (activateStatus s ≠ 0 → RefusedWith (.upgRollback a) s a (activateStatus s)) ∧
      (activateStatus s = 0 → ∃ e, Done (.upgRollback a) s a e ∧ rd e R.UPG_ACTIVE_SLOT = i ∧ rd e R.UPG_STATE = 1 ∧
        rd e R.MGT_UMPIRE_STATE = 1 ∧ rd e R.MGT_UMPIRE_RESET_CAUSE = 3)) ∧
    (rd s R.UPG_STATE = 2 → mgmtUp s = true → trialLeft s ≠ 0 → exec .trialPeriodExpiry s = .next s) ∧
    (rd s R.UPG_STATE = 2 → mgmtUp s = true → trialLeft s = 0 → ∃ t, exec .trialPeriodExpiry s = .next t ∧ rd t R.UPG_ACTIVE_SLOT = i ∧
      rdi t R.UPG_IMAGE_STATE (1 - i) = 3 ∧ rd t R.UPG_STATE = 0 ∧ rd t R.UPG_LAST_ROLLBACK_CAUSE = 1) ∧
    (∀ a : Access, Permitted s a 0xA800 4 →
      (a.value < rd s R.UPG_SVN_FLOOR ∨ rdi s R.UPG_IMAGE_SVN (1 - i) < a.value → RefusedWith (.upgSvnFloor a) s a 3) ∧
      (rd s R.UPG_SVN_FLOOR ≤ a.value → a.value ≤ rdi s R.UPG_IMAGE_SVN (1 - i) → ∃ e, Done (.upgSvnFloor a) s a e ∧
        rd e R.UPG_SVN_FLOOR = a.value ∧ (rdi s R.UPG_IMAGE_STATE i = 2 ∨ rdi s R.UPG_IMAGE_STATE i = 3 → rdi s R.UPG_IMAGE_SVN i < a.value →
          rdi e R.UPG_IMAGE_STATE i = 4)))

/-- Event groups (14 R380 to R384): status bits are cleared by writing ones, and with the last enabled fault bit the fault state ends;
an enable bit set over a status bit is taken by the latch; forced sources wait for the next beat; the latch is cleared whole; a quiet
timer's end recovers the group and is counted; what waited for its microsecond is sent. -/
def Obligations.EventGroupsLatchAndRecover : Prop :=
  (∀ (s : State) (a : Access) (g : Nat), g < 16 →
    (Permitted s a (0xB000 + g) 0 → ∃ e, Done (.fltGrpStatus a g) s a e ∧
      grpStatus e g = grpStatus s g - (grpStatus s g &&& a.value) ∧ (∀ k, k ≠ g → grpStatus e k = grpStatus s k) ∧
      e.ev.first = s.ev.first ∧
      (grpStatus e g &&& grpEnable s g &&& rdi s R.FLT_GRP_FAULT_MASK g = 0 → bitOf e.ev.fault g = false) ∧
      (grpStatus e g &&& grpEnable s g &&& rdi s R.FLT_GRP_FAULT_MASK g ≠ 0 → e.ev.fault = s.ev.fault)) ∧
    (Permitted s a (0xB000 + g) 1 → ∃ e, Done (.fltGrpEnable a g) s a e ∧ grpEnable e g = a.value &&& definedMask g ∧
      e.ev.status = s.ev.status ∧
      ∀ i, i < 32 → grpStatus s g &&& (a.value &&& definedMask g) = 2 ^ i → bitOf (grpEnable s g) i = false →
        bitOf (grpFirst s g) 31 = false → field (grpFirst e g) 0 9 = g * 32 + i ∧ bitOf (grpFirst e g) 31 = true) ∧
    (Permitted s a (0xB000 + g) 2 → ∃ e, Done (.fltGrpForce a g) s a e ∧ e.ev.status = s.ev.status ∧
      tget e.ev.forces g 0 = tget s.ev.forces g 0 ||| (a.value &&& definedMask g)) ∧
    (Permitted s a (0xB000 + g) 6 → ∃ e, Done (.fltGrpLatchClear a g) s a e ∧ grpFirst e g = 0 ∧ tget e.ev.firstTime g 0 = 0 ∧
      tget e.ev.firstDetail g 0 = 0 ∧ e.ev.status = s.ev.status ∧ ∀ k, k ≠ g → grpFirst e k = grpFirst s k) ∧
    (Permitted s a (0xB000 + g) 9 → ∃ e, Done (.fltGrpQuiet a g) s a e ∧ rdi e R.FLT_GRP_QUIET g = a.value ∧
      e.ev.fault = s.ev.fault ∧ bitOf e.ev.quiet g = (bitOf s.ev.fault g && decide (a.value ≠ 0)) ∧
      tget e.ev.quietFrom g 0 = countedNs s)) ∧
  (∀ (s : State) (g : Nat), g < 16 → bitOf s.ev.fault g = true → bitOf s.ev.quiet g = true →
    tget s.ev.quietFrom g 0 + rdi s R.FLT_GRP_QUIET g * 1000000 ≤ elapsedNs s →
    ∃ t, exec (.quietTimerExpiry g) s = .next t ∧
      rdi t R.FLT_GRP_RECOVERIES g = min (rdi s R.FLT_GRP_RECOVERIES g + 1) satMax ∧
      (s.time.run = true → statusBit t 11 4 = true) ∧
      ((g ≠ 11 ∧ g ≠ 12) ∨ s.time.run = false → bitOf t.ev.fault g = false ∧
        grpStatus t g = grpStatus s g - (grpStatus s g &&& rdi s R.FLT_GRP_FAULT_MASK g))) ∧
  (∀ (s : State) (g : Nat), bitOf s.ev.fault g = false ∨ bitOf s.ev.quiet g = false ∨
    elapsedNs s < tget s.ev.quietFrom g 0 + rdi s R.FLT_GRP_QUIET g * 1000000 → exec (.quietTimerExpiry g) s = .next s) ∧
  (∀ (s : State) (g : Nat), mgmtUp s = true → ∃ t, exec (.eventMessageSend g) s = .next t ∧
    ∀ d, d ∈ destinations s g → tget s.ev.waiting (g * 16 + d) false = true → tget s.ev.pace (g * 16 + d) 0 ≤ s.now →
      d ≠ 8 ∨ umpiresServe s = true →
      tget t.ev.waiting (g * 16 + d) false = false ∧ tget t.ev.pace (g * 16 + d) 0 = s.now + 1000)

/-- Commanded block resets and function resets (14 R388, R390, R391, R394): a commanded reset in service first holds dispatch, and takes
effect with the dies asleep and their contents kept; a function reset is taken once, ends with no agent, lock or sleep flag of its
function left, and its ledger is cleared only while no reset involves it. -/
def Obligations.CommandedAndFunctionResets : Prop :=
  (∀ (s : State) (a : Access), Permitted s a 0xB400 0 → s.start.commanded = none →
    (s.start.phase = .service → diesAsleep s = false → ∃ e, Done (.fltBlockReset a) s a e ∧ e.start.commanded = some 2 ∧
      e.start.commandedAt = s.now ∧ e.tree.holdReset = true ∧ e.array = s.array) ∧
    (s.start.phase = .service → diesAsleep s = true → ∃ e, Done (.fltBlockReset a) s a e ∧ e.start.phase = .reset ∧
      rd e R.BLK_RESET_CAUSE = resetCause s 2 ∧ rd e R.BUP_START_PATH = 3 ∧ e.array = s.array)) ∧
  (∀ (s : State) (cause : Nat), s.start.commanded = some cause →
    ((∀ c, c < nChannels s → rdi s R.CDI_CHANNEL_STATE c = 1 ∨ ((chanOf s c).selfRef = true ∧ (chanOf s c).sreConfirmed = true)) →
      ∃ t, exec .commandedResetEffect s = .next t ∧ t.start.phase = .reset ∧ t.start.commanded = none ∧
        rd t R.BLK_RESET_CAUSE = resetCause s cause ∧ rd t R.BUP_START_PATH = (if diesAsleep s then 3 else 4) ∧ t.array = s.array ∧
        t.home = {} ∧ t.flights = []) ∧
    ((∃ c, c < nChannels s ∧ rdi s R.CDI_CHANNEL_STATE c ≠ 1 ∧ ((chanOf s c).selfRef = false ∨ (chanOf s c).sreConfirmed = false)) →
      exec .commandedResetEffect s = .next s)) ∧
  (∀ (s : State) (a : Access) (f : Nat), f < 16 → Permitted s a (0xE000 + f) 0 →
    (tget? s.funs f = none → Done (.funReset a f) s a { s with funs := tset s.funs f ⟨0, false, false, s.now⟩ }) ∧
    (tget? s.funs f ≠ none → RefusedWith (.funReset a f) s a 5)) ∧
  (∀ (s : State) (f : Nat) (r : FunReset), tget? s.funs f = some r → r.started = true → r.draining = true →
    r.from_ + rdi s R.FUN_RESET_DRAIN_LIMIT f * 1000 ≤ s.now →
    ∃ t, exec (.funResetDrainLimitExpiry f) s = .next t ∧ tget? t.funs f = some { r with draining := false } ∧
      ∀ uid x, flightOf t uid = some x → x.h.fn = f → x.stage ≠ .queued) ∧
  (∀ (s : State) (f : Nat), f < 16 → inReset s f = true → funSettled s f = true → ∃ t, exec (.funResetComplete f) s = .next t ∧
    tget? t.funs f = none ∧ rdi t R.FUN_RESET_STATE f = 0 ∧ rdi t R.MGT_MASTER_SLEEP (f + 1) = 0 ∧
    (∀ b x, agentOf t b = some x → x.fn ≠ f) ∧ (∀ ch, (mbxOf t ch).lock ≠ f + 1) ∧ (s.time.run = true → statusBit t 14 f = true)) ∧
  (∀ (s : State) (f : Nat), inReset s f = false ∨ funSettled s f = false → exec (.funResetComplete f) s = .next s) ∧
  (∀ (s : State) (a : Access) (f : Nat), f < 16 → Permitted s a (0xE000 + f) 10 →
    (tget? s.funs f ≠ none ∨ ledgerBusy s f = true → RefusedWith (.funLedgerClear a f) s a 5) ∧
    (tget? s.funs f = none → ledgerBusy s f = false → ∃ e, Done (.funLedgerClear a f) s a e ∧ rdi e R.FUN_LEDGER_COUNT f = 0 ∧
      rdi e R.FUN_LEDGER_OVERFLOW f = 0 ∧ (∀ k, k < 4096 → tget? e.ledgers (f * 4096 + k) = none) ∧
      ∀ g k, g ≠ f → k < 4096 → tget? e.ledgers (g * 4096 + k) = tget? s.ledgers (g * 4096 + k)))

/-- Counters, captures and the trace port (15 R397, R400, R404, R406 to R408): a counter that passes 2^48 − 1 wraps, sets its
overflow bit and is reported; one global command waits at a time and acts on its capture beat; clears empty what they name; the trace
port leads with 16 idle cycles and a SYNC, queues whole records and sends a word a cycle. -/
def Obligations.CountersCaptureAndTrace : Prop :=
  (∀ (s : State) (u k : Nat), u < 52 → (s.ply16 && unitAbsent16 u) = false → k = 8 ∨ (k < 8 ∧ bitOf (obsCtrl s u k) 31 = true) →
    s.obs.frozen = false → mgmtUp s = true → obsVal s u k < 2 ^ 48 → ∃ t, exec (.counterOverflow u k) s = .next t ∧
      bitOf (tget t.obs.status u 0) k = true ∧ statusBit t 12 0 = true ∧ (k = 8 ∨ (8 ≤ u ∧ u ≠ 51) → obsVal t u k = 0) ∧
      (k < 7 → 8 ≤ u → u ≠ 51 → bitOf (obsCtrl s u (k + 1)) 30 = true → obsVal s u (k + 1) + 1 < 2 ^ 48 →
        obsVal t u (k + 1) = obsVal s u (k + 1) + 1)) ∧
  (∀ (s : State) (u k : Nat), s.obs.frozen = true → exec (.counterOverflow u k) s = .next s) ∧
  (∀ (s : State) (a : Access) (c : Instr), c ∈ [Instr.obsFreeze a, .obsUnfreeze a, .obsSnapshot a, .obsClear a] →
    Permitted s a 0xC800 0 →
    (s.obs.pendingCmd = none → ∃ t, exec c s = .next t ∧ t.obs.pendingCmd = some a.value ∧ t.obs.frozen = s.obs.frozen ∧
      .answer a.src a.mtag 0x22 0 0 [] ∈ t.out) ∧
    (s.obs.pendingCmd ≠ none → RefusedWith c s a 5)) ∧
  (∀ (s : State) (v : Nat), s.obs.pendingCmd = some v →
    (poolNs s < rd s R.OBS_GLOBAL_TIME → exec .obsCaptureBeat s = .next s) ∧
    (s.time.run = true → rd s R.OBS_GLOBAL_TIME ≤ poolNs s → ∃ t, exec .obsCaptureBeat s = .next t ∧ t.obs.pendingCmd = none ∧
      (v = 1 → t.obs.frozen = true ∧ t.obs.counts = s.obs.counts) ∧ (v = 2 → t.obs.frozen = false ∧ t.obs.counts = s.obs.counts) ∧
      (v = 1 ∨ v = 3 → t.obs.snaps = s.obs.counts ∧ rd t R.OBS_SNAP_TIME = poolNs s ∧ statusBit t 12 1 = true) ∧
      (v = 4 → t.obs.counts = [] ∧ t.obs.frozen = s.obs.frozen ∧ ∀ u k, k < 9 → bitOf (tget t.obs.status u 0) k = false))) ∧
  (∀ (s : State) (a : Access) (u : Nat), u < 52 → Permitted s a (0xC000 + u) 18 → ∃ t, exec (.obsUnitClear a u) s = .next t ∧
    .answer a.src a.mtag 0x22 0 0 [] ∈ t.out ∧ obsVal t u 8 = 0 ∧
    (8 ≤ u → u ≠ 51 → tget t.obs.status u 0 = 0 ∧ ∀ k, k < 9 → obsVal t u k = 0)) ∧
  (∀ (s : State) (a : Access), Permitted s a 0xC900 11 →
    (s.obs.faulty = true → RefusedWith (.obsRingClear a) s a 5) ∧
    (s.obs.faulty = false → ∃ t, exec (.obsRingClear a) s = .next t ∧ .answer a.src a.mtag 0x22 0 0 [] ∈ t.out ∧ t.obs.ring = [] ∧
      rd t R.OBS_RING_NEXT = 0 ∧ rd t R.OBS_RING_COUNT = 0)) ∧
  (∀ (s : State) (a : Access), Permitted s a 0xCA00 0 →
    (s.obs.faulty = true → RefusedWith (.obsTraceEnable a) s a 5) ∧
    (s.obs.faulty = false → rd s R.OBS_TRACE_ENABLE ≠ a.value → ∃ t, exec (.obsTraceEnable a) s = .next t ∧
      .answer a.src a.mtag 0x22 0 0 [] ∈ t.out ∧ rd t R.OBS_TRACE_ENABLE = a.value ∧ t.obs.lead = 16 ∧
      (a.value = 1 → t.pins.trcClk = true ∧ t.obs.fifo = syncRecord s :: s.obs.fifo) ∧
      (a.value = 0 → t.obs.fifo = [] ∧ t.pins = s.pins))) ∧
  (∀ s : State, tracing s = true → mgmtUp s = true → bitOf (rd s R.OBS_TRACE_SOURCES) 2 = true → rd s R.OBS_TRACE_DUMP_PERIOD ≠ 0 →
    s.obs.dumpAt + rd s R.OBS_TRACE_DUMP_PERIOD * 1000 ≤ s.now →
    ∃ t, exec .traceDump s = .next t ∧ t.obs.dumpNo = s.obs.dumpNo + 1 ∧ t.obs.dumpAt = s.now ∧ t.array = s.array ∧
      (s.obs.dropped = 0 → traceWords s + 3 ≤ 2048 →
        [0x52000000 + s.obs.dumpNo % 2 ^ 24, poolNs s % 2 ^ 32, poolNs s / 2 ^ 32 % 2 ^ 32] ∈ t.obs.fifo)) ∧
  (∀ s : State, tracing s = true → mgmtUp s = true → s.obs.lastSync + 1000000000 ≤ poolNs s → s.obs.dropped = 0 →
    traceWords s + 3 ≤ 2048 → exec .traceSyncTimer s = .next { s with obs := { s.obs with
      fifo := s.obs.fifo ++ [syncRecord s], records := 0, syncNo := s.obs.syncNo + 1, lastSync := poolNs s } }) ∧
  (∀ s : State, mgmtUp s = true → s.pins.trcClk = true →
    (∀ w rest, s.obs.sending = w :: rest → ∃ t, exec .traceWordSend s = .next t ∧ t.pins.trcValid = true ∧ t.pins.trcData = w ∧
      t.obs.sending = rest ∧ .trace w ∈ t.out ∧ rd t R.OBS_TRACE_WORDS = (rd s R.OBS_TRACE_WORDS + 1) % 2 ^ 64) ∧
    (s.obs.sending = [] → s.obs.lead ≠ 0 → ∃ t, exec .traceWordSend s = .next t ∧ t.pins.trcValid = false ∧
      t.obs.lead = s.obs.lead - 1 ∧ (s.obs.lead = 1 → rd s R.OBS_TRACE_ENABLE = 0 → t.pins.trcClk = false)) ∧
    (∀ w rest more, s.obs.sending = [] → s.obs.lead = 0 → s.obs.fifo = (w :: rest) :: more → ∃ t, exec .traceWordSend s = .next t ∧
      t.pins.trcValid = true ∧ t.pins.trcData = w ∧ t.obs.sending = rest ∧ .trace w ∈ t.out) ∧
    (s.obs.sending = [] → s.obs.lead = 0 → s.obs.fifo = [] → exec .traceWordSend s =
      .next { s with pins := { s.pins with trcValid := false } }))

/-- Every command and every beat keeps the invariant: the core dies' contents stay in canonical form, the counters and FIFO pointers
within their widths, the time quality a code of Table SLP-7 and pool time a TIME64 (11 R311, 12 R337, R338, 15 R397). -/
def Obligations.EveryStepKeepsIntact : Prop := ∀ s t : State, Intact s → step s = .next t → Intact t

/-- The invariant holds at reset. -/
def Obligations.ResetIsIntact : Prop :=
  Intact State.reset ∧ State.reset.pending = [] ∧ State.reset.start.phase = .por ∧ State.reset.array = {} ∧ State.reset.flights = []

/-- A step takes the command at the front of the queue, with the rest of the queue left to wait; where none waits one beat passes,
which is the model's choice (log entry 10). -/
def Obligations.StepsTakeTheFrontOfTheQueue : Prop :=
  (∀ (s : State) (c : Instr) (rest : List Instr), step { s with pending := c :: rest } = exec c { s with pending := rest }) ∧
  (∀ s : State, s.pending = [] → ∃ t, step s = .next t ∧ t.pending = [] ∧ t.now = s.now + 1 ∧ t.array = s.array ∧
    (s.time.run = false → t = passTime s))

/-- Every command answers a next state, and changes no part of the machine but those named for it; none changes the variant or the
commands that wait. -/
def Obligations.CommandsStayWithinTheirParts : Prop :=
  (∀ (c : Instr) (s : State), ∃ t, exec c s = .next t ∧ ∀ p, p ∉ mayChange c → p.same s t) ∧
  ∀ c : Instr, Part.ply16 ∉ mayChange c ∧ Part.pending ∉ mayChange c

/-- An access that fails a check of 12 Table MGT-4 changes nothing but the count of refusals with its status: for every command that
writes an entry of its own (12 R326). An access to any index in 0xF000 to 0xFFFF is refused as one to an index that does not exist (00 R9). -/
def Obligations.RefusedAccessesChangeNothing : Prop :=
  (∀ (c : Instr) (a : Access) (index sub st : Nat) (s : State), accessRow c = some (a, index, sub) → reaches s a.src = true →
    accessStatus s a.src true index sub a.value 0 0 = st → st ≠ 0 → RefusedWith c s a st) ∧
  ∀ (s : State) (d : DictMsg) (index : Nat), 0xF000 ≤ d.index → d.index ≤ 0xFFFF → (∀ sub, findEntry index sub = none) →
    reaches s d.src = true →
    (∃ t st, exec (.dictRd d) s = .next t ∧ st = accessStatus s d.src false index d.sub 0 d.offset d.nslots ∧ st ≠ 0 ∧
      Answered (bumpi s R.MGT_REFUSALS st) t ∧ .answer d.src d.mtag 0x21 st 0 [] ∈ t.out) ∧
    (∃ t st, exec (.dictWr d) s = .next t ∧ st = accessStatus s d.src true index d.sub d.value d.offset d.nslots ∧ st ≠ 0 ∧
      Answered (bumpi s R.MGT_REFUSALS st) t ∧ .answer d.src d.mtag 0x22 st 0 [] ∈ t.out)
end

