-- ==== Sys2Proof/Laws/Table.lean ====
section
/-!
SUPPORT. Laws of the sparse tables: a read after a write, other keys, and the canonical form.
-/
namespace Sys2Proof.Machine
variable {α : Type}

@[simp] theorem tget?_nil (k : Nat) : tget? ([] : Tbl α) k = none := rfl

theorem tget?_tset (t : Tbl α) (k j : Nat) (v : α) : tget? (tset t k v) j = if j = k then some v else tget? t j := by
  induction t with
  | nil => simp [tset, tget?]
  | cons p t ih =>
    obtain ⟨i, w⟩ := p
    unfold tset
    split
    · subst_vars; simp only [tget?]; split <;> rfl
    · split
      · simp only [tget?]
      · simp only [tget?, ih]; split
        · subst_vars; rw [if_neg]; omega
        · rfl

theorem tget?_mem {t : Tbl α} {k : Nat} {v : α} (h : tget? t k = some v) : (k, v) ∈ t := by
  induction t with
  | nil => cases h
  | cons p t ih =>
    obtain ⟨i, w⟩ := p
    unfold tget? at h
    split at h
    · cases h; subst_vars; exact List.mem_cons_self
    · exact List.mem_cons_of_mem _ (ih h)

@[simp] theorem tget?_tset_same (t : Tbl α) (k : Nat) (v : α) : tget? (tset t k v) k = some v := by simp [tget?_tset]
theorem tget?_tset_ne (t : Tbl α) {k j : Nat} (v : α) (h : j ≠ k) : tget? (tset t k v) j = tget? t j := by simp [tget?_tset, h]

theorem tget?_tdel (t : Tbl α) (k j : Nat) : tget? (tdel t k) j = if j = k then none else tget? t j := by
  induction t with
  | nil => simp [tdel]
  | cons p t ih =>
    obtain ⟨i, w⟩ := p
    unfold tdel
    split
    · subst_vars; rw [ih]; simp only [tget?]; split <;> rfl
    · simp only [tget?, ih]; split
      · subst_vars; rw [if_neg]; omega
      · rfl

@[simp] theorem tget?_tdel_same (t : Tbl α) (k : Nat) : tget? (tdel t k) k = none := by simp [tget?_tdel]
theorem tget?_tdel_ne (t : Tbl α) {k j : Nat} (h : j ≠ k) : tget? (tdel t k) j = tget? t j := by simp [tget?_tdel, h]

@[simp] theorem tget_tset_same (t : Tbl α) (k : Nat) (v d : α) : tget (tset t k v) k d = v := by simp [tget]
theorem tget_tset_ne (t : Tbl α) {k j : Nat} (v d : α) (h : j ≠ k) : tget (tset t k v) j d = tget t j d := by
  simp [tget, tget?_tset_ne t v h]
@[simp] theorem tget_tdel_same (t : Tbl α) (k : Nat) (d : α) : tget (tdel t k) k d = d := by simp [tget]
theorem tget_tdel_ne (t : Tbl α) {k j : Nat} (d : α) (h : j ≠ k) : tget (tdel t k) j d = tget t j d := by
  simp [tget, tget?_tdel_ne t h]

variable [DecidableEq α]

/-- What is read after a write of a table whose unlisted keys hold `d`. -/
@[simp] theorem tget_tput_same (t : Tbl α) (k : Nat) (v d : α) : tget (tput t k v d) k d = v := by
  unfold tput; split
  · simp_all
  · simp
theorem tget_tput_ne (t : Tbl α) {k j : Nat} (v d e : α) (h : j ≠ k) : tget (tput t k v d) j e = tget t j e := by
  unfold tput; split
  · exact tget_tdel_ne t e h
  · exact tget_tset_ne t v e h

omit [DecidableEq α]

/-- Every key of `t` lies above `k`. -/
theorem tsorted_cons {k : Nat} {v : α} {t : Tbl α} : tsorted ((k, v) :: t) = true ↔ (∀ p ∈ t, k < p.1) ∧ tsorted t = true := by
  induction t generalizing k v with
  | nil => simp [tsorted]
  | cons p t ih =>
    obtain ⟨j, w⟩ := p
    have e : tsorted ((k, v) :: (j, w) :: t) = (decide (k < j) && tsorted ((j, w) :: t)) := rfl
    rw [e, Bool.and_eq_true, decide_eq_true_iff, ih]
    constructor
    · rintro ⟨a, b, c⟩
      refine ⟨?_, b, c⟩
      intro q hq
      rcases List.mem_cons.1 hq with rfl | hq
      · exact a
      · exact Nat.lt_trans a (b q hq)
    · rintro ⟨a, b, c⟩
      exact ⟨a (j, w) (List.mem_cons_self ..), b, c⟩

theorem mem_tset {t : Tbl α} {k : Nat} {v : α} {p : Nat × α} (h : p ∈ tset t k v) : p = (k, v) ∨ p ∈ t := by
  induction t with
  | nil => simp only [tset, List.mem_singleton] at h; exact .inl h
  | cons q t ih =>
    obtain ⟨j, w⟩ := q
    unfold tset at h
    split at h
    · rcases List.mem_cons.1 h with h | h
      · exact .inl h
      · exact .inr (List.mem_cons_of_mem _ h)
    · split at h
      · rcases List.mem_cons.1 h with h | h
        · exact .inl h
        · exact .inr h
      · rcases List.mem_cons.1 h with h | h
        · exact .inr (h ▸ List.mem_cons_self ..)
        · rcases ih h with h | h
          · exact .inl h
          · exact .inr (List.mem_cons_of_mem _ h)

theorem mem_tdel {t : Tbl α} {k : Nat} {p : Nat × α} (h : p ∈ tdel t k) : p ∈ t ∧ p.1 ≠ k := by
  induction t with
  | nil => exact absurd h (List.not_mem_nil)
  | cons q t ih =>
    obtain ⟨j, w⟩ := q
    unfold tdel at h
    split at h
    · exact ⟨List.mem_cons_of_mem _ (ih h).1, (ih h).2⟩
    · rcases List.mem_cons.1 h with h | h
      · subst h; exact ⟨List.mem_cons_self .., fun e => by simp at e; omega⟩
      · exact ⟨List.mem_cons_of_mem _ (ih h).1, (ih h).2⟩

theorem tsorted_tset {t : Tbl α} (k : Nat) (v : α) (h : tsorted t = true) : tsorted (tset t k v) = true := by
  induction t with
  | nil => rfl
  | cons q t ih =>
    obtain ⟨j, w⟩ := q
    obtain ⟨hj, ht⟩ := tsorted_cons.1 h
    unfold tset
    split
    · subst_vars; exact tsorted_cons.2 ⟨hj, ht⟩
    · split
      · refine tsorted_cons.2 ⟨?_, h⟩
        intro p hp
        rcases List.mem_cons.1 hp with rfl | hp
        · assumption
        · have := hj p hp; omega
      · refine tsorted_cons.2 ⟨?_, ih ht⟩
        intro p hp
        rcases mem_tset hp with rfl | h
        · show j < k
          omega
        · exact hj p h

theorem tsorted_tdel {t : Tbl α} (k : Nat) (h : tsorted t = true) : tsorted (tdel t k) = true := by
  induction t with
  | nil => rfl
  | cons q t ih =>
    obtain ⟨j, w⟩ := q
    obtain ⟨hj, ht⟩ := tsorted_cons.1 h
    unfold tdel
    split
    · exact ih ht
    · exact tsorted_cons.2 ⟨fun p hp => hj p (mem_tdel hp).1, ih ht⟩

end Sys2Proof.Machine
end

