-- ==== Sys2Proof/Laws/Fifo.lean ====
section
/-!
SUPPORT. Laws of the frame FIFOs: what each operation on them keeps (12 R337 to R342).
-/
namespace Sys2Proof.Machine

theorem ite_ind {α : Type} {c : Prop} [Decidable c] {a b : α} (P : α → Prop) (ha : P a) (hb : P b) : P (if c then a else b) := by
  split <;> assumption

theorem Fifo.ok_empty : ({} : Fifo).ok := by unfold Fifo.ok Fifo.occupancy; decide

/-- Words written keep a FIFO in order where they fit. -/
theorem Fifo.write_ok {f : Fifo} {ws : List Nat} (h : f.ok) (hl : ws.length ≤ f.free) : (f.write ws).ok := by
  have key : ∀ (ws : List Nat) (g : Fifo), g.w < 1024 →
      (ws.foldl (fun f w => { f with words := tset f.words (f.w % 512) w, w := (f.w + 1) % 1024 }) g).w = (g.w + ws.length) % 1024 ∧
      (ws.foldl (fun f w => { f with words := tset f.words (f.w % 512) w, w := (f.w + 1) % 1024 }) g).r = g.r := by
    intro ws
    induction ws with
    | nil => intro g h; exact ⟨by simp [Nat.mod_eq_of_lt h], rfl⟩
    | cons a ws ih =>
      intro g h
      have := ih { g with words := tset g.words (g.w % 512) a, w := (g.w + 1) % 1024 } (Nat.mod_lt _ (by decide))
      simp only [List.foldl_cons, List.length_cons]
      refine ⟨this.1.trans ?_, this.2⟩
      dsimp only
      omega
  obtain ⟨h1, h2, h3, h4, h5⟩ := h
  have k := key ws f h3
  unfold Fifo.ok Fifo.occupancy Fifo.write
  unfold Fifo.free Fifo.occupancy at *
  dsimp only
  rw [k.1, k.2]
  refine ⟨h1, ?_, ?_, ?_, ?_⟩ <;> omega


/-- The reader's pointer after a frame stays between where it was and what is committed. -/
theorem Fifo.frameAt_ok {f : Fifo} {r n : Nat} (hr : r < 1024) (hc : f.c < 1024) (hne : r ≠ f.c) :
    (f.frameAt r n).2 < 1024 ∧ (f.c + 1024 - (f.frameAt r n).2) % 1024 ≤ (f.c + 1024 - r) % 1024 := by
  induction n generalizing r with
  | zero => exact ⟨hr, Nat.le_refl _⟩
  | succ n ih =>
    unfold Fifo.frameAt
    dsimp only
    split
    · dsimp only; constructor <;> omega
    · rename_i hcond
      have hne' : (r + 1) % 1024 ≠ f.c := fun e => hcond (.inr e)
      have := ih (r := (r + 1) % 1024) (Nat.mod_lt _ (by decide)) hne'
      generalize f.frameAt ((r + 1) % 1024) n = x at this
      obtain ⟨a, b⟩ := x
      dsimp only at *
      constructor <;> omega


theorem Fifo.ok_read {f : Fifo} {r : Nat} (h : f.ok) (hr : r < 1024) (hle : (f.c + 1024 - r) % 1024 ≤ (f.c + 1024 - f.r) % 1024) :
    ({ f with r := r } : Fifo).ok := by
  obtain ⟨h1, h2, h3, h4, h5⟩ := h
  unfold Fifo.ok Fifo.occupancy at *
  dsimp only at *
  refine ⟨hr, h2, h3, ?_, ?_⟩ <;> omega


theorem Fifo.ok_frame {f : Fifo} {n : Nat} (h : f.ok) (hne : f.isEmpty ≠ true) : ({ f with r := (f.frameAt f.r n).2 } : Fifo).ok := by
  have hne' : f.r ≠ f.c := fun e => hne (by simp [Fifo.isEmpty, e])
  have := Fifo.frameAt_ok (n := n) h.1 h.2.1 hne'
  exact Fifo.ok_read h this.1 this.2


theorem Fifo.ok_rewind {f : Fifo} (h : f.ok) : ({ f with w := f.c } : Fifo).ok := by
  obtain ⟨h1, h2, h3, h4, h5⟩ := h
  unfold Fifo.ok Fifo.occupancy at *
  dsimp only at *
  exact ⟨h1, h2, h2, Nat.le_refl _, by omega⟩


theorem skipFrames_side (s : Sideband) (n : Nat) : (skipFrames s n).outWait = s.outWait ∧ (skipFrames s n).inb = s.inb := by
  induction n generalizing s with
  | zero => exact ⟨rfl, rfl⟩
  | succ n ih =>
    unfold skipFrames
    split
    · exact ⟨rfl, rfl⟩
    · dsimp only
      exact ite_ind (fun x : Sideband => x.outWait = s.outWait ∧ x.inb = s.inb) (ih _) ⟨rfl, rfl⟩

theorem skipFrames_ok (s : Sideband) (n : Nat) (h : s.outb.ok) : (skipFrames s n).outb.ok := by
  induction n generalizing s with
  | zero => exact h
  | succ n ih =>
    unfold skipFrames
    split
    · exact h
    · rename_i he
      have h' := Fifo.ok_frame (n := 512) h he
      dsimp only
      exact ite_ind (fun x : Sideband => x.outb.ok) (ih _ h') h

theorem settleOut_side (s : Sideband) (n : Nat) : (settleOut s n).ibi = s.ibi ∧ (settleOut s n).inb = s.inb := by
  induction n generalizing s with
  | zero => exact ⟨rfl, rfl⟩
  | succ n ih =>
    unfold settleOut
    split
    · exact ⟨rfl, rfl⟩
    · dsimp only
      split
      · exact ih _
      · exact ⟨rfl, rfl⟩

theorem settleOut_ok (s : Sideband) (n : Nat) (h : s.outb.ok) : (settleOut s n).outb.ok := by
  induction n generalizing s with
  | zero => exact h
  | succ n ih =>
    unfold settleOut
    split
    · exact h
    · dsimp only
      split
      · rename_i hf
        exact ih _ (Fifo.write_ok h hf)
      · exact h

theorem pieces_length {α : Type} (n f : Nat) (l : List α) (hn : 0 < n) (hl : l ≠ []) : (pieces n f l).length ≤ (l.length + n - 1) / n := by
  induction f generalizing l with
  | zero => exact Nat.zero_le _
  | succ f ih =>
    unfold pieces
    have hpos : 0 < l.length := List.length_pos_iff.2 hl
    split
    · rw [List.length_singleton, Nat.le_div_iff_mul_le hn]; omega
    · rename_i h
      have h1 : l.drop n ≠ [] := by
        intro e; have := congrArg List.length e; rw [List.length_drop, List.length_nil] at this; omega
      have := ih (l.drop n) h1
      rw [List.length_drop] at this
      rw [List.length_cons]
      have e : (l.length + n - 1) / n = (l.length - n + n - 1) / n + 1 := by
        rw [← Nat.add_div_right _ hn]; congr 1; omega
      omega

/-- A frame of `n` bytes takes a FIFO word for each 32 bytes or part of them (12 R337). -/
theorem frameWords_length (t : Bool) (b : List Nat) (h : b ≠ []) : (frameWords t b).length ≤ (b.length + 31) / 32 := by
  unfold frameWords nums
  have := pieces_length 32 512 b (by decide) h
  simp only [List.length_map, List.length_zip]
  omega

end Sys2Proof.Machine
end

