-- ==== Sys2Proof/Laws/State.lean ====
section
/-!
SUPPORT. What each update of State leaves alone, one lemma a field.
-/
namespace Sys2Proof.Machine
variable (s : State)

@[simp] theorem put_ply16 (k d v : Nat) : (put s k d v).ply16 = s.ply16 := rfl
@[simp] theorem put_dict (k d v : Nat) : (put s k d v).dict = s.dict := rfl
@[simp] theorem put_mram (k d v : Nat) : (put s k d v).mram = s.mram := rfl
@[simp] theorem put_pins (k d v : Nat) : (put s k d v).pins = s.pins := rfl
@[simp] theorem put_start (k d v : Nat) : (put s k d v).start = s.start := rfl
@[simp] theorem put_fuses (k d v : Nat) : (put s k d v).fuses = s.fuses := rfl
@[simp] theorem put_time (k d v : Nat) : (put s k d v).time = s.time := rfl
@[simp] theorem put_avs (k d v : Nat) : (put s k d v).avs = s.avs := rfl
@[simp] theorem put_links (k d v : Nat) : (put s k d v).links = s.links := rfl
@[simp] theorem put_agents (k d v : Nat) : (put s k d v).agents = s.agents := rfl
@[simp] theorem put_flights (k d v : Nat) : (put s k d v).flights = s.flights := rfl
@[simp] theorem put_tree (k d v : Nat) : (put s k d v).tree = s.tree := rfl
@[simp] theorem put_home (k d v : Nat) : (put s k d v).home = s.home := rfl
@[simp] theorem put_pchs (k d v : Nat) : (put s k d v).pchs = s.pchs := rfl
@[simp] theorem put_chans (k d v : Nat) : (put s k d v).chans = s.chans := rfl
@[simp] theorem put_slices (k d v : Nat) : (put s k d v).slices = s.slices := rfl
@[simp] theorem put_array (k d v : Nat) : (put s k d v).array = s.array := rfl
@[simp] theorem put_stack (k d v : Nat) : (put s k d v).stack = s.stack := rfl
@[simp] theorem put_sleep (k d v : Nat) : (put s k d v).sleep = s.sleep := rfl
@[simp] theorem put_mbx (k d v : Nat) : (put s k d v).mbx = s.mbx := rfl
@[simp] theorem put_masters (k d v : Nat) : (put s k d v).masters = s.masters := rfl
@[simp] theorem put_side (k d v : Nat) : (put s k d v).side = s.side := rfl
@[simp] theorem put_ump (k d v : Nat) : (put s k d v).ump = s.ump := rfl
@[simp] theorem put_images (k d v : Nat) : (put s k d v).images = s.images := rfl
@[simp] theorem put_ev (k d v : Nat) : (put s k d v).ev = s.ev := rfl
@[simp] theorem put_funs (k d v : Nat) : (put s k d v).funs = s.funs := rfl
@[simp] theorem put_ledgers (k d v : Nat) : (put s k d v).ledgers = s.ledgers := rfl
@[simp] theorem put_obs (k d v : Nat) : (put s k d v).obs = s.obs := rfl
@[simp] theorem put_out (k d v : Nat) : (put s k d v).out = s.out := rfl
@[simp] theorem put_now (k d v : Nat) : (put s k d v).now = s.now := rfl
@[simp] theorem put_uid (k d v : Nat) : (put s k d v).uid = s.uid := rfl
@[simp] theorem put_free (k d v : Nat) : (put s k d v).free = s.free := rfl
@[simp] theorem put_pending (k d v : Nat) : (put s k d v).pending = s.pending := rfl

@[simp] theorem wri_ply16 (r : Reg) (i v : Nat) : (wri s r i v).ply16 = s.ply16 := rfl
@[simp] theorem wri_dict (r : Reg) (i v : Nat) : (wri s r i v).dict = s.dict := rfl
@[simp] theorem wri_mram (r : Reg) (i v : Nat) : (wri s r i v).mram = s.mram := rfl
@[simp] theorem wri_pins (r : Reg) (i v : Nat) : (wri s r i v).pins = s.pins := rfl
@[simp] theorem wri_start (r : Reg) (i v : Nat) : (wri s r i v).start = s.start := rfl
@[simp] theorem wri_fuses (r : Reg) (i v : Nat) : (wri s r i v).fuses = s.fuses := rfl
@[simp] theorem wri_time (r : Reg) (i v : Nat) : (wri s r i v).time = s.time := rfl
@[simp] theorem wri_avs (r : Reg) (i v : Nat) : (wri s r i v).avs = s.avs := rfl
@[simp] theorem wri_links (r : Reg) (i v : Nat) : (wri s r i v).links = s.links := rfl
@[simp] theorem wri_agents (r : Reg) (i v : Nat) : (wri s r i v).agents = s.agents := rfl
@[simp] theorem wri_flights (r : Reg) (i v : Nat) : (wri s r i v).flights = s.flights := rfl
@[simp] theorem wri_tree (r : Reg) (i v : Nat) : (wri s r i v).tree = s.tree := rfl
@[simp] theorem wri_home (r : Reg) (i v : Nat) : (wri s r i v).home = s.home := rfl
@[simp] theorem wri_pchs (r : Reg) (i v : Nat) : (wri s r i v).pchs = s.pchs := rfl
@[simp] theorem wri_chans (r : Reg) (i v : Nat) : (wri s r i v).chans = s.chans := rfl
@[simp] theorem wri_slices (r : Reg) (i v : Nat) : (wri s r i v).slices = s.slices := rfl
@[simp] theorem wri_array (r : Reg) (i v : Nat) : (wri s r i v).array = s.array := rfl
@[simp] theorem wri_stack (r : Reg) (i v : Nat) : (wri s r i v).stack = s.stack := rfl
@[simp] theorem wri_sleep (r : Reg) (i v : Nat) : (wri s r i v).sleep = s.sleep := rfl
@[simp] theorem wri_mbx (r : Reg) (i v : Nat) : (wri s r i v).mbx = s.mbx := rfl
@[simp] theorem wri_masters (r : Reg) (i v : Nat) : (wri s r i v).masters = s.masters := rfl
@[simp] theorem wri_side (r : Reg) (i v : Nat) : (wri s r i v).side = s.side := rfl
@[simp] theorem wri_ump (r : Reg) (i v : Nat) : (wri s r i v).ump = s.ump := rfl
@[simp] theorem wri_images (r : Reg) (i v : Nat) : (wri s r i v).images = s.images := rfl
@[simp] theorem wri_ev (r : Reg) (i v : Nat) : (wri s r i v).ev = s.ev := rfl
@[simp] theorem wri_funs (r : Reg) (i v : Nat) : (wri s r i v).funs = s.funs := rfl
@[simp] theorem wri_ledgers (r : Reg) (i v : Nat) : (wri s r i v).ledgers = s.ledgers := rfl
@[simp] theorem wri_obs (r : Reg) (i v : Nat) : (wri s r i v).obs = s.obs := rfl
@[simp] theorem wri_out (r : Reg) (i v : Nat) : (wri s r i v).out = s.out := rfl
@[simp] theorem wri_now (r : Reg) (i v : Nat) : (wri s r i v).now = s.now := rfl
@[simp] theorem wri_uid (r : Reg) (i v : Nat) : (wri s r i v).uid = s.uid := rfl
@[simp] theorem wri_free (r : Reg) (i v : Nat) : (wri s r i v).free = s.free := rfl
@[simp] theorem wri_pending (r : Reg) (i v : Nat) : (wri s r i v).pending = s.pending := rfl

@[simp] theorem wr_ply16 (r : Reg) (v : Nat) : (wr s r v).ply16 = s.ply16 := rfl
@[simp] theorem wr_dict (r : Reg) (v : Nat) : (wr s r v).dict = s.dict := rfl
@[simp] theorem wr_mram (r : Reg) (v : Nat) : (wr s r v).mram = s.mram := rfl
@[simp] theorem wr_pins (r : Reg) (v : Nat) : (wr s r v).pins = s.pins := rfl
@[simp] theorem wr_start (r : Reg) (v : Nat) : (wr s r v).start = s.start := rfl
@[simp] theorem wr_fuses (r : Reg) (v : Nat) : (wr s r v).fuses = s.fuses := rfl
@[simp] theorem wr_time (r : Reg) (v : Nat) : (wr s r v).time = s.time := rfl
@[simp] theorem wr_avs (r : Reg) (v : Nat) : (wr s r v).avs = s.avs := rfl
@[simp] theorem wr_links (r : Reg) (v : Nat) : (wr s r v).links = s.links := rfl
@[simp] theorem wr_agents (r : Reg) (v : Nat) : (wr s r v).agents = s.agents := rfl
@[simp] theorem wr_flights (r : Reg) (v : Nat) : (wr s r v).flights = s.flights := rfl
@[simp] theorem wr_tree (r : Reg) (v : Nat) : (wr s r v).tree = s.tree := rfl
@[simp] theorem wr_home (r : Reg) (v : Nat) : (wr s r v).home = s.home := rfl
@[simp] theorem wr_pchs (r : Reg) (v : Nat) : (wr s r v).pchs = s.pchs := rfl
@[simp] theorem wr_chans (r : Reg) (v : Nat) : (wr s r v).chans = s.chans := rfl
@[simp] theorem wr_slices (r : Reg) (v : Nat) : (wr s r v).slices = s.slices := rfl
@[simp] theorem wr_array (r : Reg) (v : Nat) : (wr s r v).array = s.array := rfl
@[simp] theorem wr_stack (r : Reg) (v : Nat) : (wr s r v).stack = s.stack := rfl
@[simp] theorem wr_sleep (r : Reg) (v : Nat) : (wr s r v).sleep = s.sleep := rfl
@[simp] theorem wr_mbx (r : Reg) (v : Nat) : (wr s r v).mbx = s.mbx := rfl
@[simp] theorem wr_masters (r : Reg) (v : Nat) : (wr s r v).masters = s.masters := rfl
@[simp] theorem wr_side (r : Reg) (v : Nat) : (wr s r v).side = s.side := rfl
@[simp] theorem wr_ump (r : Reg) (v : Nat) : (wr s r v).ump = s.ump := rfl
@[simp] theorem wr_images (r : Reg) (v : Nat) : (wr s r v).images = s.images := rfl
@[simp] theorem wr_ev (r : Reg) (v : Nat) : (wr s r v).ev = s.ev := rfl
@[simp] theorem wr_funs (r : Reg) (v : Nat) : (wr s r v).funs = s.funs := rfl
@[simp] theorem wr_ledgers (r : Reg) (v : Nat) : (wr s r v).ledgers = s.ledgers := rfl
@[simp] theorem wr_obs (r : Reg) (v : Nat) : (wr s r v).obs = s.obs := rfl
@[simp] theorem wr_out (r : Reg) (v : Nat) : (wr s r v).out = s.out := rfl
@[simp] theorem wr_now (r : Reg) (v : Nat) : (wr s r v).now = s.now := rfl
@[simp] theorem wr_uid (r : Reg) (v : Nat) : (wr s r v).uid = s.uid := rfl
@[simp] theorem wr_free (r : Reg) (v : Nat) : (wr s r v).free = s.free := rfl
@[simp] theorem wr_pending (r : Reg) (v : Nat) : (wr s r v).pending = s.pending := rfl

@[simp] theorem bumpTo_ply16 (r : Reg) (i n m : Nat) : (bumpTo s r i n m).ply16 = s.ply16 := rfl
@[simp] theorem bumpTo_dict (r : Reg) (i n m : Nat) : (bumpTo s r i n m).dict = s.dict := rfl
@[simp] theorem bumpTo_mram (r : Reg) (i n m : Nat) : (bumpTo s r i n m).mram = s.mram := rfl
@[simp] theorem bumpTo_pins (r : Reg) (i n m : Nat) : (bumpTo s r i n m).pins = s.pins := rfl
@[simp] theorem bumpTo_start (r : Reg) (i n m : Nat) : (bumpTo s r i n m).start = s.start := rfl
@[simp] theorem bumpTo_fuses (r : Reg) (i n m : Nat) : (bumpTo s r i n m).fuses = s.fuses := rfl
@[simp] theorem bumpTo_time (r : Reg) (i n m : Nat) : (bumpTo s r i n m).time = s.time := rfl
@[simp] theorem bumpTo_avs (r : Reg) (i n m : Nat) : (bumpTo s r i n m).avs = s.avs := rfl
@[simp] theorem bumpTo_links (r : Reg) (i n m : Nat) : (bumpTo s r i n m).links = s.links := rfl
@[simp] theorem bumpTo_agents (r : Reg) (i n m : Nat) : (bumpTo s r i n m).agents = s.agents := rfl
@[simp] theorem bumpTo_flights (r : Reg) (i n m : Nat) : (bumpTo s r i n m).flights = s.flights := rfl
@[simp] theorem bumpTo_tree (r : Reg) (i n m : Nat) : (bumpTo s r i n m).tree = s.tree := rfl
@[simp] theorem bumpTo_home (r : Reg) (i n m : Nat) : (bumpTo s r i n m).home = s.home := rfl
@[simp] theorem bumpTo_pchs (r : Reg) (i n m : Nat) : (bumpTo s r i n m).pchs = s.pchs := rfl
@[simp] theorem bumpTo_chans (r : Reg) (i n m : Nat) : (bumpTo s r i n m).chans = s.chans := rfl
@[simp] theorem bumpTo_slices (r : Reg) (i n m : Nat) : (bumpTo s r i n m).slices = s.slices := rfl
@[simp] theorem bumpTo_array (r : Reg) (i n m : Nat) : (bumpTo s r i n m).array = s.array := rfl
@[simp] theorem bumpTo_stack (r : Reg) (i n m : Nat) : (bumpTo s r i n m).stack = s.stack := rfl
@[simp] theorem bumpTo_sleep (r : Reg) (i n m : Nat) : (bumpTo s r i n m).sleep = s.sleep := rfl
@[simp] theorem bumpTo_mbx (r : Reg) (i n m : Nat) : (bumpTo s r i n m).mbx = s.mbx := rfl
@[simp] theorem bumpTo_masters (r : Reg) (i n m : Nat) : (bumpTo s r i n m).masters = s.masters := rfl
@[simp] theorem bumpTo_side (r : Reg) (i n m : Nat) : (bumpTo s r i n m).side = s.side := rfl
@[simp] theorem bumpTo_ump (r : Reg) (i n m : Nat) : (bumpTo s r i n m).ump = s.ump := rfl
@[simp] theorem bumpTo_images (r : Reg) (i n m : Nat) : (bumpTo s r i n m).images = s.images := rfl
@[simp] theorem bumpTo_ev (r : Reg) (i n m : Nat) : (bumpTo s r i n m).ev = s.ev := rfl
@[simp] theorem bumpTo_funs (r : Reg) (i n m : Nat) : (bumpTo s r i n m).funs = s.funs := rfl
@[simp] theorem bumpTo_ledgers (r : Reg) (i n m : Nat) : (bumpTo s r i n m).ledgers = s.ledgers := rfl
@[simp] theorem bumpTo_obs (r : Reg) (i n m : Nat) : (bumpTo s r i n m).obs = s.obs := rfl
@[simp] theorem bumpTo_out (r : Reg) (i n m : Nat) : (bumpTo s r i n m).out = s.out := rfl
@[simp] theorem bumpTo_now (r : Reg) (i n m : Nat) : (bumpTo s r i n m).now = s.now := rfl
@[simp] theorem bumpTo_uid (r : Reg) (i n m : Nat) : (bumpTo s r i n m).uid = s.uid := rfl
@[simp] theorem bumpTo_free (r : Reg) (i n m : Nat) : (bumpTo s r i n m).free = s.free := rfl
@[simp] theorem bumpTo_pending (r : Reg) (i n m : Nat) : (bumpTo s r i n m).pending = s.pending := rfl

@[simp] theorem bumpi_ply16 (r : Reg) (i : Nat) : (bumpi s r i).ply16 = s.ply16 := rfl
@[simp] theorem bumpi_dict (r : Reg) (i : Nat) : (bumpi s r i).dict = s.dict := rfl
@[simp] theorem bumpi_mram (r : Reg) (i : Nat) : (bumpi s r i).mram = s.mram := rfl
@[simp] theorem bumpi_pins (r : Reg) (i : Nat) : (bumpi s r i).pins = s.pins := rfl
@[simp] theorem bumpi_start (r : Reg) (i : Nat) : (bumpi s r i).start = s.start := rfl
@[simp] theorem bumpi_fuses (r : Reg) (i : Nat) : (bumpi s r i).fuses = s.fuses := rfl
@[simp] theorem bumpi_time (r : Reg) (i : Nat) : (bumpi s r i).time = s.time := rfl
@[simp] theorem bumpi_avs (r : Reg) (i : Nat) : (bumpi s r i).avs = s.avs := rfl
@[simp] theorem bumpi_links (r : Reg) (i : Nat) : (bumpi s r i).links = s.links := rfl
@[simp] theorem bumpi_agents (r : Reg) (i : Nat) : (bumpi s r i).agents = s.agents := rfl
@[simp] theorem bumpi_flights (r : Reg) (i : Nat) : (bumpi s r i).flights = s.flights := rfl
@[simp] theorem bumpi_tree (r : Reg) (i : Nat) : (bumpi s r i).tree = s.tree := rfl
@[simp] theorem bumpi_home (r : Reg) (i : Nat) : (bumpi s r i).home = s.home := rfl
@[simp] theorem bumpi_pchs (r : Reg) (i : Nat) : (bumpi s r i).pchs = s.pchs := rfl
@[simp] theorem bumpi_chans (r : Reg) (i : Nat) : (bumpi s r i).chans = s.chans := rfl
@[simp] theorem bumpi_slices (r : Reg) (i : Nat) : (bumpi s r i).slices = s.slices := rfl
@[simp] theorem bumpi_array (r : Reg) (i : Nat) : (bumpi s r i).array = s.array := rfl
@[simp] theorem bumpi_stack (r : Reg) (i : Nat) : (bumpi s r i).stack = s.stack := rfl
@[simp] theorem bumpi_sleep (r : Reg) (i : Nat) : (bumpi s r i).sleep = s.sleep := rfl
@[simp] theorem bumpi_mbx (r : Reg) (i : Nat) : (bumpi s r i).mbx = s.mbx := rfl
@[simp] theorem bumpi_masters (r : Reg) (i : Nat) : (bumpi s r i).masters = s.masters := rfl
@[simp] theorem bumpi_side (r : Reg) (i : Nat) : (bumpi s r i).side = s.side := rfl
@[simp] theorem bumpi_ump (r : Reg) (i : Nat) : (bumpi s r i).ump = s.ump := rfl
@[simp] theorem bumpi_images (r : Reg) (i : Nat) : (bumpi s r i).images = s.images := rfl
@[simp] theorem bumpi_ev (r : Reg) (i : Nat) : (bumpi s r i).ev = s.ev := rfl
@[simp] theorem bumpi_funs (r : Reg) (i : Nat) : (bumpi s r i).funs = s.funs := rfl
@[simp] theorem bumpi_ledgers (r : Reg) (i : Nat) : (bumpi s r i).ledgers = s.ledgers := rfl
@[simp] theorem bumpi_obs (r : Reg) (i : Nat) : (bumpi s r i).obs = s.obs := rfl
@[simp] theorem bumpi_out (r : Reg) (i : Nat) : (bumpi s r i).out = s.out := rfl
@[simp] theorem bumpi_now (r : Reg) (i : Nat) : (bumpi s r i).now = s.now := rfl
@[simp] theorem bumpi_uid (r : Reg) (i : Nat) : (bumpi s r i).uid = s.uid := rfl
@[simp] theorem bumpi_free (r : Reg) (i : Nat) : (bumpi s r i).free = s.free := rfl
@[simp] theorem bumpi_pending (r : Reg) (i : Nat) : (bumpi s r i).pending = s.pending := rfl

@[simp] theorem bump_ply16 (r : Reg) : (bump s r).ply16 = s.ply16 := rfl
@[simp] theorem bump_dict (r : Reg) : (bump s r).dict = s.dict := rfl
@[simp] theorem bump_mram (r : Reg) : (bump s r).mram = s.mram := rfl
@[simp] theorem bump_pins (r : Reg) : (bump s r).pins = s.pins := rfl
@[simp] theorem bump_start (r : Reg) : (bump s r).start = s.start := rfl
@[simp] theorem bump_fuses (r : Reg) : (bump s r).fuses = s.fuses := rfl
@[simp] theorem bump_time (r : Reg) : (bump s r).time = s.time := rfl
@[simp] theorem bump_avs (r : Reg) : (bump s r).avs = s.avs := rfl
@[simp] theorem bump_links (r : Reg) : (bump s r).links = s.links := rfl
@[simp] theorem bump_agents (r : Reg) : (bump s r).agents = s.agents := rfl
@[simp] theorem bump_flights (r : Reg) : (bump s r).flights = s.flights := rfl
@[simp] theorem bump_tree (r : Reg) : (bump s r).tree = s.tree := rfl
@[simp] theorem bump_home (r : Reg) : (bump s r).home = s.home := rfl
@[simp] theorem bump_pchs (r : Reg) : (bump s r).pchs = s.pchs := rfl
@[simp] theorem bump_chans (r : Reg) : (bump s r).chans = s.chans := rfl
@[simp] theorem bump_slices (r : Reg) : (bump s r).slices = s.slices := rfl
@[simp] theorem bump_array (r : Reg) : (bump s r).array = s.array := rfl
@[simp] theorem bump_stack (r : Reg) : (bump s r).stack = s.stack := rfl
@[simp] theorem bump_sleep (r : Reg) : (bump s r).sleep = s.sleep := rfl
@[simp] theorem bump_mbx (r : Reg) : (bump s r).mbx = s.mbx := rfl
@[simp] theorem bump_masters (r : Reg) : (bump s r).masters = s.masters := rfl
@[simp] theorem bump_side (r : Reg) : (bump s r).side = s.side := rfl
@[simp] theorem bump_ump (r : Reg) : (bump s r).ump = s.ump := rfl
@[simp] theorem bump_images (r : Reg) : (bump s r).images = s.images := rfl
@[simp] theorem bump_ev (r : Reg) : (bump s r).ev = s.ev := rfl
@[simp] theorem bump_funs (r : Reg) : (bump s r).funs = s.funs := rfl
@[simp] theorem bump_ledgers (r : Reg) : (bump s r).ledgers = s.ledgers := rfl
@[simp] theorem bump_obs (r : Reg) : (bump s r).obs = s.obs := rfl
@[simp] theorem bump_out (r : Reg) : (bump s r).out = s.out := rfl
@[simp] theorem bump_now (r : Reg) : (bump s r).now = s.now := rfl
@[simp] theorem bump_uid (r : Reg) : (bump s r).uid = s.uid := rfl
@[simp] theorem bump_free (r : Reg) : (bump s r).free = s.free := rfl
@[simp] theorem bump_pending (r : Reg) : (bump s r).pending = s.pending := rfl

@[simp] theorem bumpKey_ply16 (k : Nat) : (bumpKey s k).ply16 = s.ply16 := rfl
@[simp] theorem bumpKey_dict (k : Nat) : (bumpKey s k).dict = s.dict := rfl
@[simp] theorem bumpKey_mram (k : Nat) : (bumpKey s k).mram = s.mram := rfl
@[simp] theorem bumpKey_pins (k : Nat) : (bumpKey s k).pins = s.pins := rfl
@[simp] theorem bumpKey_start (k : Nat) : (bumpKey s k).start = s.start := rfl
@[simp] theorem bumpKey_fuses (k : Nat) : (bumpKey s k).fuses = s.fuses := rfl
@[simp] theorem bumpKey_time (k : Nat) : (bumpKey s k).time = s.time := rfl
@[simp] theorem bumpKey_avs (k : Nat) : (bumpKey s k).avs = s.avs := rfl
@[simp] theorem bumpKey_links (k : Nat) : (bumpKey s k).links = s.links := rfl
@[simp] theorem bumpKey_agents (k : Nat) : (bumpKey s k).agents = s.agents := rfl
@[simp] theorem bumpKey_flights (k : Nat) : (bumpKey s k).flights = s.flights := rfl
@[simp] theorem bumpKey_tree (k : Nat) : (bumpKey s k).tree = s.tree := rfl
@[simp] theorem bumpKey_home (k : Nat) : (bumpKey s k).home = s.home := rfl
@[simp] theorem bumpKey_pchs (k : Nat) : (bumpKey s k).pchs = s.pchs := rfl
@[simp] theorem bumpKey_chans (k : Nat) : (bumpKey s k).chans = s.chans := rfl
@[simp] theorem bumpKey_slices (k : Nat) : (bumpKey s k).slices = s.slices := rfl
@[simp] theorem bumpKey_array (k : Nat) : (bumpKey s k).array = s.array := rfl
@[simp] theorem bumpKey_stack (k : Nat) : (bumpKey s k).stack = s.stack := rfl
@[simp] theorem bumpKey_sleep (k : Nat) : (bumpKey s k).sleep = s.sleep := rfl
@[simp] theorem bumpKey_mbx (k : Nat) : (bumpKey s k).mbx = s.mbx := rfl
@[simp] theorem bumpKey_masters (k : Nat) : (bumpKey s k).masters = s.masters := rfl
@[simp] theorem bumpKey_side (k : Nat) : (bumpKey s k).side = s.side := rfl
@[simp] theorem bumpKey_ump (k : Nat) : (bumpKey s k).ump = s.ump := rfl
@[simp] theorem bumpKey_images (k : Nat) : (bumpKey s k).images = s.images := rfl
@[simp] theorem bumpKey_ev (k : Nat) : (bumpKey s k).ev = s.ev := rfl
@[simp] theorem bumpKey_funs (k : Nat) : (bumpKey s k).funs = s.funs := rfl
@[simp] theorem bumpKey_ledgers (k : Nat) : (bumpKey s k).ledgers = s.ledgers := rfl
@[simp] theorem bumpKey_obs (k : Nat) : (bumpKey s k).obs = s.obs := rfl
@[simp] theorem bumpKey_out (k : Nat) : (bumpKey s k).out = s.out := rfl
@[simp] theorem bumpKey_now (k : Nat) : (bumpKey s k).now = s.now := rfl
@[simp] theorem bumpKey_uid (k : Nat) : (bumpKey s k).uid = s.uid := rfl
@[simp] theorem bumpKey_free (k : Nat) : (bumpKey s k).free = s.free := rfl
@[simp] theorem bumpKey_pending (k : Nat) : (bumpKey s k).pending = s.pending := rfl

@[simp] theorem bumpWrap_ply16 (r : Reg) (i n w : Nat) : (bumpWrap s r i n w).ply16 = s.ply16 := rfl
@[simp] theorem bumpWrap_dict (r : Reg) (i n w : Nat) : (bumpWrap s r i n w).dict = s.dict := rfl
@[simp] theorem bumpWrap_mram (r : Reg) (i n w : Nat) : (bumpWrap s r i n w).mram = s.mram := rfl
@[simp] theorem bumpWrap_pins (r : Reg) (i n w : Nat) : (bumpWrap s r i n w).pins = s.pins := rfl
@[simp] theorem bumpWrap_start (r : Reg) (i n w : Nat) : (bumpWrap s r i n w).start = s.start := rfl
@[simp] theorem bumpWrap_fuses (r : Reg) (i n w : Nat) : (bumpWrap s r i n w).fuses = s.fuses := rfl
@[simp] theorem bumpWrap_time (r : Reg) (i n w : Nat) : (bumpWrap s r i n w).time = s.time := rfl
@[simp] theorem bumpWrap_avs (r : Reg) (i n w : Nat) : (bumpWrap s r i n w).avs = s.avs := rfl
@[simp] theorem bumpWrap_links (r : Reg) (i n w : Nat) : (bumpWrap s r i n w).links = s.links := rfl
@[simp] theorem bumpWrap_agents (r : Reg) (i n w : Nat) : (bumpWrap s r i n w).agents = s.agents := rfl
@[simp] theorem bumpWrap_flights (r : Reg) (i n w : Nat) : (bumpWrap s r i n w).flights = s.flights := rfl
@[simp] theorem bumpWrap_tree (r : Reg) (i n w : Nat) : (bumpWrap s r i n w).tree = s.tree := rfl
@[simp] theorem bumpWrap_home (r : Reg) (i n w : Nat) : (bumpWrap s r i n w).home = s.home := rfl
@[simp] theorem bumpWrap_pchs (r : Reg) (i n w : Nat) : (bumpWrap s r i n w).pchs = s.pchs := rfl
@[simp] theorem bumpWrap_chans (r : Reg) (i n w : Nat) : (bumpWrap s r i n w).chans = s.chans := rfl
@[simp] theorem bumpWrap_slices (r : Reg) (i n w : Nat) : (bumpWrap s r i n w).slices = s.slices := rfl
@[simp] theorem bumpWrap_array (r : Reg) (i n w : Nat) : (bumpWrap s r i n w).array = s.array := rfl
@[simp] theorem bumpWrap_stack (r : Reg) (i n w : Nat) : (bumpWrap s r i n w).stack = s.stack := rfl
@[simp] theorem bumpWrap_sleep (r : Reg) (i n w : Nat) : (bumpWrap s r i n w).sleep = s.sleep := rfl
@[simp] theorem bumpWrap_mbx (r : Reg) (i n w : Nat) : (bumpWrap s r i n w).mbx = s.mbx := rfl
@[simp] theorem bumpWrap_masters (r : Reg) (i n w : Nat) : (bumpWrap s r i n w).masters = s.masters := rfl
@[simp] theorem bumpWrap_side (r : Reg) (i n w : Nat) : (bumpWrap s r i n w).side = s.side := rfl
@[simp] theorem bumpWrap_ump (r : Reg) (i n w : Nat) : (bumpWrap s r i n w).ump = s.ump := rfl
@[simp] theorem bumpWrap_images (r : Reg) (i n w : Nat) : (bumpWrap s r i n w).images = s.images := rfl
@[simp] theorem bumpWrap_ev (r : Reg) (i n w : Nat) : (bumpWrap s r i n w).ev = s.ev := rfl
@[simp] theorem bumpWrap_funs (r : Reg) (i n w : Nat) : (bumpWrap s r i n w).funs = s.funs := rfl
@[simp] theorem bumpWrap_ledgers (r : Reg) (i n w : Nat) : (bumpWrap s r i n w).ledgers = s.ledgers := rfl
@[simp] theorem bumpWrap_obs (r : Reg) (i n w : Nat) : (bumpWrap s r i n w).obs = s.obs := rfl
@[simp] theorem bumpWrap_out (r : Reg) (i n w : Nat) : (bumpWrap s r i n w).out = s.out := rfl
@[simp] theorem bumpWrap_now (r : Reg) (i n w : Nat) : (bumpWrap s r i n w).now = s.now := rfl
@[simp] theorem bumpWrap_uid (r : Reg) (i n w : Nat) : (bumpWrap s r i n w).uid = s.uid := rfl
@[simp] theorem bumpWrap_free (r : Reg) (i n w : Nat) : (bumpWrap s r i n w).free = s.free := rfl
@[simp] theorem bumpWrap_pending (r : Reg) (i n w : Nat) : (bumpWrap s r i n w).pending = s.pending := rfl

@[simp] theorem wrS_ply16 (r : Reg) (i : Nat) (v : Int) : (wrS s r i v).ply16 = s.ply16 := rfl
@[simp] theorem wrS_dict (r : Reg) (i : Nat) (v : Int) : (wrS s r i v).dict = s.dict := rfl
@[simp] theorem wrS_mram (r : Reg) (i : Nat) (v : Int) : (wrS s r i v).mram = s.mram := rfl
@[simp] theorem wrS_pins (r : Reg) (i : Nat) (v : Int) : (wrS s r i v).pins = s.pins := rfl
@[simp] theorem wrS_start (r : Reg) (i : Nat) (v : Int) : (wrS s r i v).start = s.start := rfl
@[simp] theorem wrS_fuses (r : Reg) (i : Nat) (v : Int) : (wrS s r i v).fuses = s.fuses := rfl
@[simp] theorem wrS_time (r : Reg) (i : Nat) (v : Int) : (wrS s r i v).time = s.time := rfl
@[simp] theorem wrS_avs (r : Reg) (i : Nat) (v : Int) : (wrS s r i v).avs = s.avs := rfl
@[simp] theorem wrS_links (r : Reg) (i : Nat) (v : Int) : (wrS s r i v).links = s.links := rfl
@[simp] theorem wrS_agents (r : Reg) (i : Nat) (v : Int) : (wrS s r i v).agents = s.agents := rfl
@[simp] theorem wrS_flights (r : Reg) (i : Nat) (v : Int) : (wrS s r i v).flights = s.flights := rfl
@[simp] theorem wrS_tree (r : Reg) (i : Nat) (v : Int) : (wrS s r i v).tree = s.tree := rfl
@[simp] theorem wrS_home (r : Reg) (i : Nat) (v : Int) : (wrS s r i v).home = s.home := rfl
@[simp] theorem wrS_pchs (r : Reg) (i : Nat) (v : Int) : (wrS s r i v).pchs = s.pchs := rfl
@[simp] theorem wrS_chans (r : Reg) (i : Nat) (v : Int) : (wrS s r i v).chans = s.chans := rfl
@[simp] theorem wrS_slices (r : Reg) (i : Nat) (v : Int) : (wrS s r i v).slices = s.slices := rfl
@[simp] theorem wrS_array (r : Reg) (i : Nat) (v : Int) : (wrS s r i v).array = s.array := rfl
@[simp] theorem wrS_stack (r : Reg) (i : Nat) (v : Int) : (wrS s r i v).stack = s.stack := rfl
@[simp] theorem wrS_sleep (r : Reg) (i : Nat) (v : Int) : (wrS s r i v).sleep = s.sleep := rfl
@[simp] theorem wrS_mbx (r : Reg) (i : Nat) (v : Int) : (wrS s r i v).mbx = s.mbx := rfl
@[simp] theorem wrS_masters (r : Reg) (i : Nat) (v : Int) : (wrS s r i v).masters = s.masters := rfl
@[simp] theorem wrS_side (r : Reg) (i : Nat) (v : Int) : (wrS s r i v).side = s.side := rfl
@[simp] theorem wrS_ump (r : Reg) (i : Nat) (v : Int) : (wrS s r i v).ump = s.ump := rfl
@[simp] theorem wrS_images (r : Reg) (i : Nat) (v : Int) : (wrS s r i v).images = s.images := rfl
@[simp] theorem wrS_ev (r : Reg) (i : Nat) (v : Int) : (wrS s r i v).ev = s.ev := rfl
@[simp] theorem wrS_funs (r : Reg) (i : Nat) (v : Int) : (wrS s r i v).funs = s.funs := rfl
@[simp] theorem wrS_ledgers (r : Reg) (i : Nat) (v : Int) : (wrS s r i v).ledgers = s.ledgers := rfl
@[simp] theorem wrS_obs (r : Reg) (i : Nat) (v : Int) : (wrS s r i v).obs = s.obs := rfl
@[simp] theorem wrS_out (r : Reg) (i : Nat) (v : Int) : (wrS s r i v).out = s.out := rfl
@[simp] theorem wrS_now (r : Reg) (i : Nat) (v : Int) : (wrS s r i v).now = s.now := rfl
@[simp] theorem wrS_uid (r : Reg) (i : Nat) (v : Int) : (wrS s r i v).uid = s.uid := rfl
@[simp] theorem wrS_free (r : Reg) (i : Nat) (v : Int) : (wrS s r i v).free = s.free := rfl
@[simp] theorem wrS_pending (r : Reg) (i : Nat) (v : Int) : (wrS s r i v).pending = s.pending := rfl

@[simp] theorem setPortState_ply16 (n v : Nat) : (setPortState s n v).ply16 = s.ply16 := rfl
@[simp] theorem setPortState_dict (n v : Nat) : (setPortState s n v).dict = s.dict := rfl
@[simp] theorem setPortState_mram (n v : Nat) : (setPortState s n v).mram = s.mram := rfl
@[simp] theorem setPortState_pins (n v : Nat) : (setPortState s n v).pins = s.pins := rfl
@[simp] theorem setPortState_start (n v : Nat) : (setPortState s n v).start = s.start := rfl
@[simp] theorem setPortState_fuses (n v : Nat) : (setPortState s n v).fuses = s.fuses := rfl
@[simp] theorem setPortState_time (n v : Nat) : (setPortState s n v).time = s.time := rfl
@[simp] theorem setPortState_avs (n v : Nat) : (setPortState s n v).avs = s.avs := rfl
@[simp] theorem setPortState_links (n v : Nat) : (setPortState s n v).links = s.links := rfl
@[simp] theorem setPortState_agents (n v : Nat) : (setPortState s n v).agents = s.agents := rfl
@[simp] theorem setPortState_flights (n v : Nat) : (setPortState s n v).flights = s.flights := rfl
@[simp] theorem setPortState_tree (n v : Nat) : (setPortState s n v).tree = s.tree := rfl
@[simp] theorem setPortState_home (n v : Nat) : (setPortState s n v).home = s.home := rfl
@[simp] theorem setPortState_pchs (n v : Nat) : (setPortState s n v).pchs = s.pchs := rfl
@[simp] theorem setPortState_chans (n v : Nat) : (setPortState s n v).chans = s.chans := rfl
@[simp] theorem setPortState_slices (n v : Nat) : (setPortState s n v).slices = s.slices := rfl
@[simp] theorem setPortState_array (n v : Nat) : (setPortState s n v).array = s.array := rfl
@[simp] theorem setPortState_stack (n v : Nat) : (setPortState s n v).stack = s.stack := rfl
@[simp] theorem setPortState_sleep (n v : Nat) : (setPortState s n v).sleep = s.sleep := rfl
@[simp] theorem setPortState_mbx (n v : Nat) : (setPortState s n v).mbx = s.mbx := rfl
@[simp] theorem setPortState_masters (n v : Nat) : (setPortState s n v).masters = s.masters := rfl
@[simp] theorem setPortState_side (n v : Nat) : (setPortState s n v).side = s.side := rfl
@[simp] theorem setPortState_ump (n v : Nat) : (setPortState s n v).ump = s.ump := rfl
@[simp] theorem setPortState_images (n v : Nat) : (setPortState s n v).images = s.images := rfl
@[simp] theorem setPortState_ev (n v : Nat) : (setPortState s n v).ev = s.ev := rfl
@[simp] theorem setPortState_funs (n v : Nat) : (setPortState s n v).funs = s.funs := rfl
@[simp] theorem setPortState_ledgers (n v : Nat) : (setPortState s n v).ledgers = s.ledgers := rfl
@[simp] theorem setPortState_obs (n v : Nat) : (setPortState s n v).obs = s.obs := rfl
@[simp] theorem setPortState_out (n v : Nat) : (setPortState s n v).out = s.out := rfl
@[simp] theorem setPortState_now (n v : Nat) : (setPortState s n v).now = s.now := rfl
@[simp] theorem setPortState_uid (n v : Nat) : (setPortState s n v).uid = s.uid := rfl
@[simp] theorem setPortState_free (n v : Nat) : (setPortState s n v).free = s.free := rfl
@[simp] theorem setPortState_pending (n v : Nat) : (setPortState s n v).pending = s.pending := rfl

@[simp] theorem emit_ply16 (o : Out) : (emit s o).ply16 = s.ply16 := rfl
@[simp] theorem emit_regs (o : Out) : (emit s o).regs = s.regs := rfl
@[simp] theorem emit_dict (o : Out) : (emit s o).dict = s.dict := rfl
@[simp] theorem emit_mram (o : Out) : (emit s o).mram = s.mram := rfl
@[simp] theorem emit_pins (o : Out) : (emit s o).pins = s.pins := rfl
@[simp] theorem emit_start (o : Out) : (emit s o).start = s.start := rfl
@[simp] theorem emit_fuses (o : Out) : (emit s o).fuses = s.fuses := rfl
@[simp] theorem emit_time (o : Out) : (emit s o).time = s.time := rfl
@[simp] theorem emit_avs (o : Out) : (emit s o).avs = s.avs := rfl
@[simp] theorem emit_links (o : Out) : (emit s o).links = s.links := rfl
@[simp] theorem emit_agents (o : Out) : (emit s o).agents = s.agents := rfl
@[simp] theorem emit_flights (o : Out) : (emit s o).flights = s.flights := rfl
@[simp] theorem emit_tree (o : Out) : (emit s o).tree = s.tree := rfl
@[simp] theorem emit_home (o : Out) : (emit s o).home = s.home := rfl
@[simp] theorem emit_pchs (o : Out) : (emit s o).pchs = s.pchs := rfl
@[simp] theorem emit_chans (o : Out) : (emit s o).chans = s.chans := rfl
@[simp] theorem emit_slices (o : Out) : (emit s o).slices = s.slices := rfl
@[simp] theorem emit_array (o : Out) : (emit s o).array = s.array := rfl
@[simp] theorem emit_stack (o : Out) : (emit s o).stack = s.stack := rfl
@[simp] theorem emit_sleep (o : Out) : (emit s o).sleep = s.sleep := rfl
@[simp] theorem emit_mbx (o : Out) : (emit s o).mbx = s.mbx := rfl
@[simp] theorem emit_masters (o : Out) : (emit s o).masters = s.masters := rfl
@[simp] theorem emit_side (o : Out) : (emit s o).side = s.side := rfl
@[simp] theorem emit_ump (o : Out) : (emit s o).ump = s.ump := rfl
@[simp] theorem emit_images (o : Out) : (emit s o).images = s.images := rfl
@[simp] theorem emit_ev (o : Out) : (emit s o).ev = s.ev := rfl
@[simp] theorem emit_funs (o : Out) : (emit s o).funs = s.funs := rfl
@[simp] theorem emit_ledgers (o : Out) : (emit s o).ledgers = s.ledgers := rfl
@[simp] theorem emit_obs (o : Out) : (emit s o).obs = s.obs := rfl
@[simp] theorem emit_now (o : Out) : (emit s o).now = s.now := rfl
@[simp] theorem emit_uid (o : Out) : (emit s o).uid = s.uid := rfl
@[simp] theorem emit_free (o : Out) : (emit s o).free = s.free := rfl
@[simp] theorem emit_pending (o : Out) : (emit s o).pending = s.pending := rfl

@[simp] theorem setLink_ply16 (n : Nat) (l : Link) : (setLink s n l).ply16 = s.ply16 := rfl
@[simp] theorem setLink_regs (n : Nat) (l : Link) : (setLink s n l).regs = s.regs := rfl
@[simp] theorem setLink_dict (n : Nat) (l : Link) : (setLink s n l).dict = s.dict := rfl
@[simp] theorem setLink_mram (n : Nat) (l : Link) : (setLink s n l).mram = s.mram := rfl
@[simp] theorem setLink_pins (n : Nat) (l : Link) : (setLink s n l).pins = s.pins := rfl
@[simp] theorem setLink_start (n : Nat) (l : Link) : (setLink s n l).start = s.start := rfl
@[simp] theorem setLink_fuses (n : Nat) (l : Link) : (setLink s n l).fuses = s.fuses := rfl
@[simp] theorem setLink_time (n : Nat) (l : Link) : (setLink s n l).time = s.time := rfl
@[simp] theorem setLink_avs (n : Nat) (l : Link) : (setLink s n l).avs = s.avs := rfl
@[simp] theorem setLink_agents (n : Nat) (l : Link) : (setLink s n l).agents = s.agents := rfl
@[simp] theorem setLink_flights (n : Nat) (l : Link) : (setLink s n l).flights = s.flights := rfl
@[simp] theorem setLink_tree (n : Nat) (l : Link) : (setLink s n l).tree = s.tree := rfl
@[simp] theorem setLink_home (n : Nat) (l : Link) : (setLink s n l).home = s.home := rfl
@[simp] theorem setLink_pchs (n : Nat) (l : Link) : (setLink s n l).pchs = s.pchs := rfl
@[simp] theorem setLink_chans (n : Nat) (l : Link) : (setLink s n l).chans = s.chans := rfl
@[simp] theorem setLink_slices (n : Nat) (l : Link) : (setLink s n l).slices = s.slices := rfl
@[simp] theorem setLink_array (n : Nat) (l : Link) : (setLink s n l).array = s.array := rfl
@[simp] theorem setLink_stack (n : Nat) (l : Link) : (setLink s n l).stack = s.stack := rfl
@[simp] theorem setLink_sleep (n : Nat) (l : Link) : (setLink s n l).sleep = s.sleep := rfl
@[simp] theorem setLink_mbx (n : Nat) (l : Link) : (setLink s n l).mbx = s.mbx := rfl
@[simp] theorem setLink_masters (n : Nat) (l : Link) : (setLink s n l).masters = s.masters := rfl
@[simp] theorem setLink_side (n : Nat) (l : Link) : (setLink s n l).side = s.side := rfl
@[simp] theorem setLink_ump (n : Nat) (l : Link) : (setLink s n l).ump = s.ump := rfl
@[simp] theorem setLink_images (n : Nat) (l : Link) : (setLink s n l).images = s.images := rfl
@[simp] theorem setLink_ev (n : Nat) (l : Link) : (setLink s n l).ev = s.ev := rfl
@[simp] theorem setLink_funs (n : Nat) (l : Link) : (setLink s n l).funs = s.funs := rfl
@[simp] theorem setLink_ledgers (n : Nat) (l : Link) : (setLink s n l).ledgers = s.ledgers := rfl
@[simp] theorem setLink_obs (n : Nat) (l : Link) : (setLink s n l).obs = s.obs := rfl
@[simp] theorem setLink_out (n : Nat) (l : Link) : (setLink s n l).out = s.out := rfl
@[simp] theorem setLink_now (n : Nat) (l : Link) : (setLink s n l).now = s.now := rfl
@[simp] theorem setLink_uid (n : Nat) (l : Link) : (setLink s n l).uid = s.uid := rfl
@[simp] theorem setLink_free (n : Nat) (l : Link) : (setLink s n l).free = s.free := rfl
@[simp] theorem setLink_pending (n : Nat) (l : Link) : (setLink s n l).pending = s.pending := rfl

@[simp] theorem modLink_ply16 (n : Nat) (f : Link → Link) : (modLink s n f).ply16 = s.ply16 := rfl
@[simp] theorem modLink_regs (n : Nat) (f : Link → Link) : (modLink s n f).regs = s.regs := rfl
@[simp] theorem modLink_dict (n : Nat) (f : Link → Link) : (modLink s n f).dict = s.dict := rfl
@[simp] theorem modLink_mram (n : Nat) (f : Link → Link) : (modLink s n f).mram = s.mram := rfl
@[simp] theorem modLink_pins (n : Nat) (f : Link → Link) : (modLink s n f).pins = s.pins := rfl
@[simp] theorem modLink_start (n : Nat) (f : Link → Link) : (modLink s n f).start = s.start := rfl
@[simp] theorem modLink_fuses (n : Nat) (f : Link → Link) : (modLink s n f).fuses = s.fuses := rfl
@[simp] theorem modLink_time (n : Nat) (f : Link → Link) : (modLink s n f).time = s.time := rfl
@[simp] theorem modLink_avs (n : Nat) (f : Link → Link) : (modLink s n f).avs = s.avs := rfl
@[simp] theorem modLink_agents (n : Nat) (f : Link → Link) : (modLink s n f).agents = s.agents := rfl
@[simp] theorem modLink_flights (n : Nat) (f : Link → Link) : (modLink s n f).flights = s.flights := rfl
@[simp] theorem modLink_tree (n : Nat) (f : Link → Link) : (modLink s n f).tree = s.tree := rfl
@[simp] theorem modLink_home (n : Nat) (f : Link → Link) : (modLink s n f).home = s.home := rfl
@[simp] theorem modLink_pchs (n : Nat) (f : Link → Link) : (modLink s n f).pchs = s.pchs := rfl
@[simp] theorem modLink_chans (n : Nat) (f : Link → Link) : (modLink s n f).chans = s.chans := rfl
@[simp] theorem modLink_slices (n : Nat) (f : Link → Link) : (modLink s n f).slices = s.slices := rfl
@[simp] theorem modLink_array (n : Nat) (f : Link → Link) : (modLink s n f).array = s.array := rfl
@[simp] theorem modLink_stack (n : Nat) (f : Link → Link) : (modLink s n f).stack = s.stack := rfl
@[simp] theorem modLink_sleep (n : Nat) (f : Link → Link) : (modLink s n f).sleep = s.sleep := rfl
@[simp] theorem modLink_mbx (n : Nat) (f : Link → Link) : (modLink s n f).mbx = s.mbx := rfl
@[simp] theorem modLink_masters (n : Nat) (f : Link → Link) : (modLink s n f).masters = s.masters := rfl
@[simp] theorem modLink_side (n : Nat) (f : Link → Link) : (modLink s n f).side = s.side := rfl
@[simp] theorem modLink_ump (n : Nat) (f : Link → Link) : (modLink s n f).ump = s.ump := rfl
@[simp] theorem modLink_images (n : Nat) (f : Link → Link) : (modLink s n f).images = s.images := rfl
@[simp] theorem modLink_ev (n : Nat) (f : Link → Link) : (modLink s n f).ev = s.ev := rfl
@[simp] theorem modLink_funs (n : Nat) (f : Link → Link) : (modLink s n f).funs = s.funs := rfl
@[simp] theorem modLink_ledgers (n : Nat) (f : Link → Link) : (modLink s n f).ledgers = s.ledgers := rfl
@[simp] theorem modLink_obs (n : Nat) (f : Link → Link) : (modLink s n f).obs = s.obs := rfl
@[simp] theorem modLink_out (n : Nat) (f : Link → Link) : (modLink s n f).out = s.out := rfl
@[simp] theorem modLink_now (n : Nat) (f : Link → Link) : (modLink s n f).now = s.now := rfl
@[simp] theorem modLink_uid (n : Nat) (f : Link → Link) : (modLink s n f).uid = s.uid := rfl
@[simp] theorem modLink_free (n : Nat) (f : Link → Link) : (modLink s n f).free = s.free := rfl
@[simp] theorem modLink_pending (n : Nat) (f : Link → Link) : (modLink s n f).pending = s.pending := rfl

@[simp] theorem modTree_ply16 (f : Tree → Tree) : (modTree s f).ply16 = s.ply16 := rfl
@[simp] theorem modTree_regs (f : Tree → Tree) : (modTree s f).regs = s.regs := rfl
@[simp] theorem modTree_dict (f : Tree → Tree) : (modTree s f).dict = s.dict := rfl
@[simp] theorem modTree_mram (f : Tree → Tree) : (modTree s f).mram = s.mram := rfl
@[simp] theorem modTree_pins (f : Tree → Tree) : (modTree s f).pins = s.pins := rfl
@[simp] theorem modTree_start (f : Tree → Tree) : (modTree s f).start = s.start := rfl
@[simp] theorem modTree_fuses (f : Tree → Tree) : (modTree s f).fuses = s.fuses := rfl
@[simp] theorem modTree_time (f : Tree → Tree) : (modTree s f).time = s.time := rfl
@[simp] theorem modTree_avs (f : Tree → Tree) : (modTree s f).avs = s.avs := rfl
@[simp] theorem modTree_links (f : Tree → Tree) : (modTree s f).links = s.links := rfl
@[simp] theorem modTree_agents (f : Tree → Tree) : (modTree s f).agents = s.agents := rfl
@[simp] theorem modTree_flights (f : Tree → Tree) : (modTree s f).flights = s.flights := rfl
@[simp] theorem modTree_home (f : Tree → Tree) : (modTree s f).home = s.home := rfl
@[simp] theorem modTree_pchs (f : Tree → Tree) : (modTree s f).pchs = s.pchs := rfl
@[simp] theorem modTree_chans (f : Tree → Tree) : (modTree s f).chans = s.chans := rfl
@[simp] theorem modTree_slices (f : Tree → Tree) : (modTree s f).slices = s.slices := rfl
@[simp] theorem modTree_array (f : Tree → Tree) : (modTree s f).array = s.array := rfl
@[simp] theorem modTree_stack (f : Tree → Tree) : (modTree s f).stack = s.stack := rfl
@[simp] theorem modTree_sleep (f : Tree → Tree) : (modTree s f).sleep = s.sleep := rfl
@[simp] theorem modTree_mbx (f : Tree → Tree) : (modTree s f).mbx = s.mbx := rfl
@[simp] theorem modTree_masters (f : Tree → Tree) : (modTree s f).masters = s.masters := rfl
@[simp] theorem modTree_side (f : Tree → Tree) : (modTree s f).side = s.side := rfl
@[simp] theorem modTree_ump (f : Tree → Tree) : (modTree s f).ump = s.ump := rfl
@[simp] theorem modTree_images (f : Tree → Tree) : (modTree s f).images = s.images := rfl
@[simp] theorem modTree_ev (f : Tree → Tree) : (modTree s f).ev = s.ev := rfl
@[simp] theorem modTree_funs (f : Tree → Tree) : (modTree s f).funs = s.funs := rfl
@[simp] theorem modTree_ledgers (f : Tree → Tree) : (modTree s f).ledgers = s.ledgers := rfl
@[simp] theorem modTree_obs (f : Tree → Tree) : (modTree s f).obs = s.obs := rfl
@[simp] theorem modTree_out (f : Tree → Tree) : (modTree s f).out = s.out := rfl
@[simp] theorem modTree_now (f : Tree → Tree) : (modTree s f).now = s.now := rfl
@[simp] theorem modTree_uid (f : Tree → Tree) : (modTree s f).uid = s.uid := rfl
@[simp] theorem modTree_free (f : Tree → Tree) : (modTree s f).free = s.free := rfl
@[simp] theorem modTree_pending (f : Tree → Tree) : (modTree s f).pending = s.pending := rfl

@[simp] theorem modHome_ply16 (f : Home → Home) : (modHome s f).ply16 = s.ply16 := rfl
@[simp] theorem modHome_regs (f : Home → Home) : (modHome s f).regs = s.regs := rfl
@[simp] theorem modHome_dict (f : Home → Home) : (modHome s f).dict = s.dict := rfl
@[simp] theorem modHome_mram (f : Home → Home) : (modHome s f).mram = s.mram := rfl
@[simp] theorem modHome_pins (f : Home → Home) : (modHome s f).pins = s.pins := rfl
@[simp] theorem modHome_start (f : Home → Home) : (modHome s f).start = s.start := rfl
@[simp] theorem modHome_fuses (f : Home → Home) : (modHome s f).fuses = s.fuses := rfl
@[simp] theorem modHome_time (f : Home → Home) : (modHome s f).time = s.time := rfl
@[simp] theorem modHome_avs (f : Home → Home) : (modHome s f).avs = s.avs := rfl
@[simp] theorem modHome_links (f : Home → Home) : (modHome s f).links = s.links := rfl
@[simp] theorem modHome_agents (f : Home → Home) : (modHome s f).agents = s.agents := rfl
@[simp] theorem modHome_flights (f : Home → Home) : (modHome s f).flights = s.flights := rfl
@[simp] theorem modHome_tree (f : Home → Home) : (modHome s f).tree = s.tree := rfl
@[simp] theorem modHome_pchs (f : Home → Home) : (modHome s f).pchs = s.pchs := rfl
@[simp] theorem modHome_chans (f : Home → Home) : (modHome s f).chans = s.chans := rfl
@[simp] theorem modHome_slices (f : Home → Home) : (modHome s f).slices = s.slices := rfl
@[simp] theorem modHome_array (f : Home → Home) : (modHome s f).array = s.array := rfl
@[simp] theorem modHome_stack (f : Home → Home) : (modHome s f).stack = s.stack := rfl
@[simp] theorem modHome_sleep (f : Home → Home) : (modHome s f).sleep = s.sleep := rfl
@[simp] theorem modHome_mbx (f : Home → Home) : (modHome s f).mbx = s.mbx := rfl
@[simp] theorem modHome_masters (f : Home → Home) : (modHome s f).masters = s.masters := rfl
@[simp] theorem modHome_side (f : Home → Home) : (modHome s f).side = s.side := rfl
@[simp] theorem modHome_ump (f : Home → Home) : (modHome s f).ump = s.ump := rfl
@[simp] theorem modHome_images (f : Home → Home) : (modHome s f).images = s.images := rfl
@[simp] theorem modHome_ev (f : Home → Home) : (modHome s f).ev = s.ev := rfl
@[simp] theorem modHome_funs (f : Home → Home) : (modHome s f).funs = s.funs := rfl
@[simp] theorem modHome_ledgers (f : Home → Home) : (modHome s f).ledgers = s.ledgers := rfl
@[simp] theorem modHome_obs (f : Home → Home) : (modHome s f).obs = s.obs := rfl
@[simp] theorem modHome_out (f : Home → Home) : (modHome s f).out = s.out := rfl
@[simp] theorem modHome_now (f : Home → Home) : (modHome s f).now = s.now := rfl
@[simp] theorem modHome_uid (f : Home → Home) : (modHome s f).uid = s.uid := rfl
@[simp] theorem modHome_free (f : Home → Home) : (modHome s f).free = s.free := rfl
@[simp] theorem modHome_pending (f : Home → Home) : (modHome s f).pending = s.pending := rfl

@[simp] theorem modFlight_ply16 (u : Nat) (f : Flight → Flight) : (modFlight s u f).ply16 = s.ply16 := by unfold modFlight; split <;> rfl
@[simp] theorem modFlight_regs (u : Nat) (f : Flight → Flight) : (modFlight s u f).regs = s.regs := by unfold modFlight; split <;> rfl
@[simp] theorem modFlight_dict (u : Nat) (f : Flight → Flight) : (modFlight s u f).dict = s.dict := by unfold modFlight; split <;> rfl
@[simp] theorem modFlight_mram (u : Nat) (f : Flight → Flight) : (modFlight s u f).mram = s.mram := by unfold modFlight; split <;> rfl
@[simp] theorem modFlight_pins (u : Nat) (f : Flight → Flight) : (modFlight s u f).pins = s.pins := by unfold modFlight; split <;> rfl
@[simp] theorem modFlight_start (u : Nat) (f : Flight → Flight) : (modFlight s u f).start = s.start := by unfold modFlight; split <;> rfl
@[simp] theorem modFlight_fuses (u : Nat) (f : Flight → Flight) : (modFlight s u f).fuses = s.fuses := by unfold modFlight; split <;> rfl
@[simp] theorem modFlight_time (u : Nat) (f : Flight → Flight) : (modFlight s u f).time = s.time := by unfold modFlight; split <;> rfl
@[simp] theorem modFlight_avs (u : Nat) (f : Flight → Flight) : (modFlight s u f).avs = s.avs := by unfold modFlight; split <;> rfl
@[simp] theorem modFlight_links (u : Nat) (f : Flight → Flight) : (modFlight s u f).links = s.links := by unfold modFlight; split <;> rfl
@[simp] theorem modFlight_agents (u : Nat) (f : Flight → Flight) : (modFlight s u f).agents = s.agents := by unfold modFlight; split <;> rfl
@[simp] theorem modFlight_tree (u : Nat) (f : Flight → Flight) : (modFlight s u f).tree = s.tree := by unfold modFlight; split <;> rfl
@[simp] theorem modFlight_home (u : Nat) (f : Flight → Flight) : (modFlight s u f).home = s.home := by unfold modFlight; split <;> rfl
@[simp] theorem modFlight_pchs (u : Nat) (f : Flight → Flight) : (modFlight s u f).pchs = s.pchs := by unfold modFlight; split <;> rfl
@[simp] theorem modFlight_chans (u : Nat) (f : Flight → Flight) : (modFlight s u f).chans = s.chans := by unfold modFlight; split <;> rfl
@[simp] theorem modFlight_slices (u : Nat) (f : Flight → Flight) : (modFlight s u f).slices = s.slices := by unfold modFlight; split <;> rfl
@[simp] theorem modFlight_array (u : Nat) (f : Flight → Flight) : (modFlight s u f).array = s.array := by unfold modFlight; split <;> rfl
@[simp] theorem modFlight_stack (u : Nat) (f : Flight → Flight) : (modFlight s u f).stack = s.stack := by unfold modFlight; split <;> rfl
@[simp] theorem modFlight_sleep (u : Nat) (f : Flight → Flight) : (modFlight s u f).sleep = s.sleep := by unfold modFlight; split <;> rfl
@[simp] theorem modFlight_mbx (u : Nat) (f : Flight → Flight) : (modFlight s u f).mbx = s.mbx := by unfold modFlight; split <;> rfl
@[simp] theorem modFlight_masters (u : Nat) (f : Flight → Flight) : (modFlight s u f).masters = s.masters := by unfold modFlight; split <;> rfl
@[simp] theorem modFlight_side (u : Nat) (f : Flight → Flight) : (modFlight s u f).side = s.side := by unfold modFlight; split <;> rfl
@[simp] theorem modFlight_ump (u : Nat) (f : Flight → Flight) : (modFlight s u f).ump = s.ump := by unfold modFlight; split <;> rfl
@[simp] theorem modFlight_images (u : Nat) (f : Flight → Flight) : (modFlight s u f).images = s.images := by unfold modFlight; split <;> rfl
@[simp] theorem modFlight_ev (u : Nat) (f : Flight → Flight) : (modFlight s u f).ev = s.ev := by unfold modFlight; split <;> rfl
@[simp] theorem modFlight_funs (u : Nat) (f : Flight → Flight) : (modFlight s u f).funs = s.funs := by unfold modFlight; split <;> rfl
@[simp] theorem modFlight_ledgers (u : Nat) (f : Flight → Flight) : (modFlight s u f).ledgers = s.ledgers := by unfold modFlight; split <;> rfl
@[simp] theorem modFlight_obs (u : Nat) (f : Flight → Flight) : (modFlight s u f).obs = s.obs := by unfold modFlight; split <;> rfl
@[simp] theorem modFlight_out (u : Nat) (f : Flight → Flight) : (modFlight s u f).out = s.out := by unfold modFlight; split <;> rfl
@[simp] theorem modFlight_now (u : Nat) (f : Flight → Flight) : (modFlight s u f).now = s.now := by unfold modFlight; split <;> rfl
@[simp] theorem modFlight_uid (u : Nat) (f : Flight → Flight) : (modFlight s u f).uid = s.uid := by unfold modFlight; split <;> rfl
@[simp] theorem modFlight_free (u : Nat) (f : Flight → Flight) : (modFlight s u f).free = s.free := by unfold modFlight; split <;> rfl
@[simp] theorem modFlight_pending (u : Nat) (f : Flight → Flight) : (modFlight s u f).pending = s.pending := by unfold modFlight; split <;> rfl

@[simp] theorem modPch_ply16 (p : Nat) (f : Pch → Pch) : (modPch s p f).ply16 = s.ply16 := rfl
@[simp] theorem modPch_regs (p : Nat) (f : Pch → Pch) : (modPch s p f).regs = s.regs := rfl
@[simp] theorem modPch_dict (p : Nat) (f : Pch → Pch) : (modPch s p f).dict = s.dict := rfl
@[simp] theorem modPch_mram (p : Nat) (f : Pch → Pch) : (modPch s p f).mram = s.mram := rfl
@[simp] theorem modPch_pins (p : Nat) (f : Pch → Pch) : (modPch s p f).pins = s.pins := rfl
@[simp] theorem modPch_start (p : Nat) (f : Pch → Pch) : (modPch s p f).start = s.start := rfl
@[simp] theorem modPch_fuses (p : Nat) (f : Pch → Pch) : (modPch s p f).fuses = s.fuses := rfl
@[simp] theorem modPch_time (p : Nat) (f : Pch → Pch) : (modPch s p f).time = s.time := rfl
@[simp] theorem modPch_avs (p : Nat) (f : Pch → Pch) : (modPch s p f).avs = s.avs := rfl
@[simp] theorem modPch_links (p : Nat) (f : Pch → Pch) : (modPch s p f).links = s.links := rfl
@[simp] theorem modPch_agents (p : Nat) (f : Pch → Pch) : (modPch s p f).agents = s.agents := rfl
@[simp] theorem modPch_flights (p : Nat) (f : Pch → Pch) : (modPch s p f).flights = s.flights := rfl
@[simp] theorem modPch_tree (p : Nat) (f : Pch → Pch) : (modPch s p f).tree = s.tree := rfl
@[simp] theorem modPch_home (p : Nat) (f : Pch → Pch) : (modPch s p f).home = s.home := rfl
@[simp] theorem modPch_chans (p : Nat) (f : Pch → Pch) : (modPch s p f).chans = s.chans := rfl
@[simp] theorem modPch_slices (p : Nat) (f : Pch → Pch) : (modPch s p f).slices = s.slices := rfl
@[simp] theorem modPch_array (p : Nat) (f : Pch → Pch) : (modPch s p f).array = s.array := rfl
@[simp] theorem modPch_stack (p : Nat) (f : Pch → Pch) : (modPch s p f).stack = s.stack := rfl
@[simp] theorem modPch_sleep (p : Nat) (f : Pch → Pch) : (modPch s p f).sleep = s.sleep := rfl
@[simp] theorem modPch_mbx (p : Nat) (f : Pch → Pch) : (modPch s p f).mbx = s.mbx := rfl
@[simp] theorem modPch_masters (p : Nat) (f : Pch → Pch) : (modPch s p f).masters = s.masters := rfl
@[simp] theorem modPch_side (p : Nat) (f : Pch → Pch) : (modPch s p f).side = s.side := rfl
@[simp] theorem modPch_ump (p : Nat) (f : Pch → Pch) : (modPch s p f).ump = s.ump := rfl
@[simp] theorem modPch_images (p : Nat) (f : Pch → Pch) : (modPch s p f).images = s.images := rfl
@[simp] theorem modPch_ev (p : Nat) (f : Pch → Pch) : (modPch s p f).ev = s.ev := rfl
@[simp] theorem modPch_funs (p : Nat) (f : Pch → Pch) : (modPch s p f).funs = s.funs := rfl
@[simp] theorem modPch_ledgers (p : Nat) (f : Pch → Pch) : (modPch s p f).ledgers = s.ledgers := rfl
@[simp] theorem modPch_obs (p : Nat) (f : Pch → Pch) : (modPch s p f).obs = s.obs := rfl
@[simp] theorem modPch_out (p : Nat) (f : Pch → Pch) : (modPch s p f).out = s.out := rfl
@[simp] theorem modPch_now (p : Nat) (f : Pch → Pch) : (modPch s p f).now = s.now := rfl
@[simp] theorem modPch_uid (p : Nat) (f : Pch → Pch) : (modPch s p f).uid = s.uid := rfl
@[simp] theorem modPch_free (p : Nat) (f : Pch → Pch) : (modPch s p f).free = s.free := rfl
@[simp] theorem modPch_pending (p : Nat) (f : Pch → Pch) : (modPch s p f).pending = s.pending := rfl

@[simp] theorem modChan_ply16 (c : Nat) (f : Chan → Chan) : (modChan s c f).ply16 = s.ply16 := rfl
@[simp] theorem modChan_regs (c : Nat) (f : Chan → Chan) : (modChan s c f).regs = s.regs := rfl
@[simp] theorem modChan_dict (c : Nat) (f : Chan → Chan) : (modChan s c f).dict = s.dict := rfl
@[simp] theorem modChan_mram (c : Nat) (f : Chan → Chan) : (modChan s c f).mram = s.mram := rfl
@[simp] theorem modChan_pins (c : Nat) (f : Chan → Chan) : (modChan s c f).pins = s.pins := rfl
@[simp] theorem modChan_start (c : Nat) (f : Chan → Chan) : (modChan s c f).start = s.start := rfl
@[simp] theorem modChan_fuses (c : Nat) (f : Chan → Chan) : (modChan s c f).fuses = s.fuses := rfl
@[simp] theorem modChan_time (c : Nat) (f : Chan → Chan) : (modChan s c f).time = s.time := rfl
@[simp] theorem modChan_avs (c : Nat) (f : Chan → Chan) : (modChan s c f).avs = s.avs := rfl
@[simp] theorem modChan_links (c : Nat) (f : Chan → Chan) : (modChan s c f).links = s.links := rfl
@[simp] theorem modChan_agents (c : Nat) (f : Chan → Chan) : (modChan s c f).agents = s.agents := rfl
@[simp] theorem modChan_flights (c : Nat) (f : Chan → Chan) : (modChan s c f).flights = s.flights := rfl
@[simp] theorem modChan_tree (c : Nat) (f : Chan → Chan) : (modChan s c f).tree = s.tree := rfl
@[simp] theorem modChan_home (c : Nat) (f : Chan → Chan) : (modChan s c f).home = s.home := rfl
@[simp] theorem modChan_pchs (c : Nat) (f : Chan → Chan) : (modChan s c f).pchs = s.pchs := rfl
@[simp] theorem modChan_slices (c : Nat) (f : Chan → Chan) : (modChan s c f).slices = s.slices := rfl
@[simp] theorem modChan_array (c : Nat) (f : Chan → Chan) : (modChan s c f).array = s.array := rfl
@[simp] theorem modChan_stack (c : Nat) (f : Chan → Chan) : (modChan s c f).stack = s.stack := rfl
@[simp] theorem modChan_sleep (c : Nat) (f : Chan → Chan) : (modChan s c f).sleep = s.sleep := rfl
@[simp] theorem modChan_mbx (c : Nat) (f : Chan → Chan) : (modChan s c f).mbx = s.mbx := rfl
@[simp] theorem modChan_masters (c : Nat) (f : Chan → Chan) : (modChan s c f).masters = s.masters := rfl
@[simp] theorem modChan_side (c : Nat) (f : Chan → Chan) : (modChan s c f).side = s.side := rfl
@[simp] theorem modChan_ump (c : Nat) (f : Chan → Chan) : (modChan s c f).ump = s.ump := rfl
@[simp] theorem modChan_images (c : Nat) (f : Chan → Chan) : (modChan s c f).images = s.images := rfl
@[simp] theorem modChan_ev (c : Nat) (f : Chan → Chan) : (modChan s c f).ev = s.ev := rfl
@[simp] theorem modChan_funs (c : Nat) (f : Chan → Chan) : (modChan s c f).funs = s.funs := rfl
@[simp] theorem modChan_ledgers (c : Nat) (f : Chan → Chan) : (modChan s c f).ledgers = s.ledgers := rfl
@[simp] theorem modChan_obs (c : Nat) (f : Chan → Chan) : (modChan s c f).obs = s.obs := rfl
@[simp] theorem modChan_out (c : Nat) (f : Chan → Chan) : (modChan s c f).out = s.out := rfl
@[simp] theorem modChan_now (c : Nat) (f : Chan → Chan) : (modChan s c f).now = s.now := rfl
@[simp] theorem modChan_uid (c : Nat) (f : Chan → Chan) : (modChan s c f).uid = s.uid := rfl
@[simp] theorem modChan_free (c : Nat) (f : Chan → Chan) : (modChan s c f).free = s.free := rfl
@[simp] theorem modChan_pending (c : Nat) (f : Chan → Chan) : (modChan s c f).pending = s.pending := rfl

@[simp] theorem modSlice_ply16 (c d : Nat) (f : Slice → Slice) : (modSlice s c d f).ply16 = s.ply16 := rfl
@[simp] theorem modSlice_regs (c d : Nat) (f : Slice → Slice) : (modSlice s c d f).regs = s.regs := rfl
@[simp] theorem modSlice_dict (c d : Nat) (f : Slice → Slice) : (modSlice s c d f).dict = s.dict := rfl
@[simp] theorem modSlice_mram (c d : Nat) (f : Slice → Slice) : (modSlice s c d f).mram = s.mram := rfl
@[simp] theorem modSlice_pins (c d : Nat) (f : Slice → Slice) : (modSlice s c d f).pins = s.pins := rfl
@[simp] theorem modSlice_start (c d : Nat) (f : Slice → Slice) : (modSlice s c d f).start = s.start := rfl
@[simp] theorem modSlice_fuses (c d : Nat) (f : Slice → Slice) : (modSlice s c d f).fuses = s.fuses := rfl
@[simp] theorem modSlice_time (c d : Nat) (f : Slice → Slice) : (modSlice s c d f).time = s.time := rfl
@[simp] theorem modSlice_avs (c d : Nat) (f : Slice → Slice) : (modSlice s c d f).avs = s.avs := rfl
@[simp] theorem modSlice_links (c d : Nat) (f : Slice → Slice) : (modSlice s c d f).links = s.links := rfl
@[simp] theorem modSlice_agents (c d : Nat) (f : Slice → Slice) : (modSlice s c d f).agents = s.agents := rfl
@[simp] theorem modSlice_flights (c d : Nat) (f : Slice → Slice) : (modSlice s c d f).flights = s.flights := rfl
@[simp] theorem modSlice_tree (c d : Nat) (f : Slice → Slice) : (modSlice s c d f).tree = s.tree := rfl
@[simp] theorem modSlice_home (c d : Nat) (f : Slice → Slice) : (modSlice s c d f).home = s.home := rfl
@[simp] theorem modSlice_pchs (c d : Nat) (f : Slice → Slice) : (modSlice s c d f).pchs = s.pchs := rfl
@[simp] theorem modSlice_chans (c d : Nat) (f : Slice → Slice) : (modSlice s c d f).chans = s.chans := rfl
@[simp] theorem modSlice_array (c d : Nat) (f : Slice → Slice) : (modSlice s c d f).array = s.array := rfl
@[simp] theorem modSlice_stack (c d : Nat) (f : Slice → Slice) : (modSlice s c d f).stack = s.stack := rfl
@[simp] theorem modSlice_sleep (c d : Nat) (f : Slice → Slice) : (modSlice s c d f).sleep = s.sleep := rfl
@[simp] theorem modSlice_mbx (c d : Nat) (f : Slice → Slice) : (modSlice s c d f).mbx = s.mbx := rfl
@[simp] theorem modSlice_masters (c d : Nat) (f : Slice → Slice) : (modSlice s c d f).masters = s.masters := rfl
@[simp] theorem modSlice_side (c d : Nat) (f : Slice → Slice) : (modSlice s c d f).side = s.side := rfl
@[simp] theorem modSlice_ump (c d : Nat) (f : Slice → Slice) : (modSlice s c d f).ump = s.ump := rfl
@[simp] theorem modSlice_images (c d : Nat) (f : Slice → Slice) : (modSlice s c d f).images = s.images := rfl
@[simp] theorem modSlice_ev (c d : Nat) (f : Slice → Slice) : (modSlice s c d f).ev = s.ev := rfl
@[simp] theorem modSlice_funs (c d : Nat) (f : Slice → Slice) : (modSlice s c d f).funs = s.funs := rfl
@[simp] theorem modSlice_ledgers (c d : Nat) (f : Slice → Slice) : (modSlice s c d f).ledgers = s.ledgers := rfl
@[simp] theorem modSlice_obs (c d : Nat) (f : Slice → Slice) : (modSlice s c d f).obs = s.obs := rfl
@[simp] theorem modSlice_out (c d : Nat) (f : Slice → Slice) : (modSlice s c d f).out = s.out := rfl
@[simp] theorem modSlice_now (c d : Nat) (f : Slice → Slice) : (modSlice s c d f).now = s.now := rfl
@[simp] theorem modSlice_uid (c d : Nat) (f : Slice → Slice) : (modSlice s c d f).uid = s.uid := rfl
@[simp] theorem modSlice_free (c d : Nat) (f : Slice → Slice) : (modSlice s c d f).free = s.free := rfl
@[simp] theorem modSlice_pending (c d : Nat) (f : Slice → Slice) : (modSlice s c d f).pending = s.pending := rfl

@[simp] theorem modStack_ply16 (f : Stack → Stack) : (modStack s f).ply16 = s.ply16 := rfl
@[simp] theorem modStack_regs (f : Stack → Stack) : (modStack s f).regs = s.regs := rfl
@[simp] theorem modStack_dict (f : Stack → Stack) : (modStack s f).dict = s.dict := rfl
@[simp] theorem modStack_mram (f : Stack → Stack) : (modStack s f).mram = s.mram := rfl
@[simp] theorem modStack_pins (f : Stack → Stack) : (modStack s f).pins = s.pins := rfl
@[simp] theorem modStack_start (f : Stack → Stack) : (modStack s f).start = s.start := rfl
@[simp] theorem modStack_fuses (f : Stack → Stack) : (modStack s f).fuses = s.fuses := rfl
@[simp] theorem modStack_time (f : Stack → Stack) : (modStack s f).time = s.time := rfl
@[simp] theorem modStack_avs (f : Stack → Stack) : (modStack s f).avs = s.avs := rfl
@[simp] theorem modStack_links (f : Stack → Stack) : (modStack s f).links = s.links := rfl
@[simp] theorem modStack_agents (f : Stack → Stack) : (modStack s f).agents = s.agents := rfl
@[simp] theorem modStack_flights (f : Stack → Stack) : (modStack s f).flights = s.flights := rfl
@[simp] theorem modStack_tree (f : Stack → Stack) : (modStack s f).tree = s.tree := rfl
@[simp] theorem modStack_home (f : Stack → Stack) : (modStack s f).home = s.home := rfl
@[simp] theorem modStack_pchs (f : Stack → Stack) : (modStack s f).pchs = s.pchs := rfl
@[simp] theorem modStack_chans (f : Stack → Stack) : (modStack s f).chans = s.chans := rfl
@[simp] theorem modStack_slices (f : Stack → Stack) : (modStack s f).slices = s.slices := rfl
@[simp] theorem modStack_array (f : Stack → Stack) : (modStack s f).array = s.array := rfl
@[simp] theorem modStack_sleep (f : Stack → Stack) : (modStack s f).sleep = s.sleep := rfl
@[simp] theorem modStack_mbx (f : Stack → Stack) : (modStack s f).mbx = s.mbx := rfl
@[simp] theorem modStack_masters (f : Stack → Stack) : (modStack s f).masters = s.masters := rfl
@[simp] theorem modStack_side (f : Stack → Stack) : (modStack s f).side = s.side := rfl
@[simp] theorem modStack_ump (f : Stack → Stack) : (modStack s f).ump = s.ump := rfl
@[simp] theorem modStack_images (f : Stack → Stack) : (modStack s f).images = s.images := rfl
@[simp] theorem modStack_ev (f : Stack → Stack) : (modStack s f).ev = s.ev := rfl
@[simp] theorem modStack_funs (f : Stack → Stack) : (modStack s f).funs = s.funs := rfl
@[simp] theorem modStack_ledgers (f : Stack → Stack) : (modStack s f).ledgers = s.ledgers := rfl
@[simp] theorem modStack_obs (f : Stack → Stack) : (modStack s f).obs = s.obs := rfl
@[simp] theorem modStack_out (f : Stack → Stack) : (modStack s f).out = s.out := rfl
@[simp] theorem modStack_now (f : Stack → Stack) : (modStack s f).now = s.now := rfl
@[simp] theorem modStack_uid (f : Stack → Stack) : (modStack s f).uid = s.uid := rfl
@[simp] theorem modStack_free (f : Stack → Stack) : (modStack s f).free = s.free := rfl
@[simp] theorem modStack_pending (f : Stack → Stack) : (modStack s f).pending = s.pending := rfl

@[simp] theorem modSleep_ply16 (f : Sleep → Sleep) : (modSleep s f).ply16 = s.ply16 := rfl
@[simp] theorem modSleep_regs (f : Sleep → Sleep) : (modSleep s f).regs = s.regs := rfl
@[simp] theorem modSleep_dict (f : Sleep → Sleep) : (modSleep s f).dict = s.dict := rfl
@[simp] theorem modSleep_mram (f : Sleep → Sleep) : (modSleep s f).mram = s.mram := rfl
@[simp] theorem modSleep_pins (f : Sleep → Sleep) : (modSleep s f).pins = s.pins := rfl
@[simp] theorem modSleep_start (f : Sleep → Sleep) : (modSleep s f).start = s.start := rfl
@[simp] theorem modSleep_fuses (f : Sleep → Sleep) : (modSleep s f).fuses = s.fuses := rfl
@[simp] theorem modSleep_time (f : Sleep → Sleep) : (modSleep s f).time = s.time := rfl
@[simp] theorem modSleep_avs (f : Sleep → Sleep) : (modSleep s f).avs = s.avs := rfl
@[simp] theorem modSleep_links (f : Sleep → Sleep) : (modSleep s f).links = s.links := rfl
@[simp] theorem modSleep_agents (f : Sleep → Sleep) : (modSleep s f).agents = s.agents := rfl
@[simp] theorem modSleep_flights (f : Sleep → Sleep) : (modSleep s f).flights = s.flights := rfl
@[simp] theorem modSleep_tree (f : Sleep → Sleep) : (modSleep s f).tree = s.tree := rfl
@[simp] theorem modSleep_home (f : Sleep → Sleep) : (modSleep s f).home = s.home := rfl
@[simp] theorem modSleep_pchs (f : Sleep → Sleep) : (modSleep s f).pchs = s.pchs := rfl
@[simp] theorem modSleep_chans (f : Sleep → Sleep) : (modSleep s f).chans = s.chans := rfl
@[simp] theorem modSleep_slices (f : Sleep → Sleep) : (modSleep s f).slices = s.slices := rfl
@[simp] theorem modSleep_array (f : Sleep → Sleep) : (modSleep s f).array = s.array := rfl
@[simp] theorem modSleep_stack (f : Sleep → Sleep) : (modSleep s f).stack = s.stack := rfl
@[simp] theorem modSleep_mbx (f : Sleep → Sleep) : (modSleep s f).mbx = s.mbx := rfl
@[simp] theorem modSleep_masters (f : Sleep → Sleep) : (modSleep s f).masters = s.masters := rfl
@[simp] theorem modSleep_side (f : Sleep → Sleep) : (modSleep s f).side = s.side := rfl
@[simp] theorem modSleep_ump (f : Sleep → Sleep) : (modSleep s f).ump = s.ump := rfl
@[simp] theorem modSleep_images (f : Sleep → Sleep) : (modSleep s f).images = s.images := rfl
@[simp] theorem modSleep_ev (f : Sleep → Sleep) : (modSleep s f).ev = s.ev := rfl
@[simp] theorem modSleep_funs (f : Sleep → Sleep) : (modSleep s f).funs = s.funs := rfl
@[simp] theorem modSleep_ledgers (f : Sleep → Sleep) : (modSleep s f).ledgers = s.ledgers := rfl
@[simp] theorem modSleep_obs (f : Sleep → Sleep) : (modSleep s f).obs = s.obs := rfl
@[simp] theorem modSleep_out (f : Sleep → Sleep) : (modSleep s f).out = s.out := rfl
@[simp] theorem modSleep_now (f : Sleep → Sleep) : (modSleep s f).now = s.now := rfl
@[simp] theorem modSleep_uid (f : Sleep → Sleep) : (modSleep s f).uid = s.uid := rfl
@[simp] theorem modSleep_free (f : Sleep → Sleep) : (modSleep s f).free = s.free := rfl
@[simp] theorem modSleep_pending (f : Sleep → Sleep) : (modSleep s f).pending = s.pending := rfl

@[simp] theorem modMbx_ply16 (c : Nat) (f : Mbx → Mbx) : (modMbx s c f).ply16 = s.ply16 := rfl
@[simp] theorem modMbx_regs (c : Nat) (f : Mbx → Mbx) : (modMbx s c f).regs = s.regs := rfl
@[simp] theorem modMbx_dict (c : Nat) (f : Mbx → Mbx) : (modMbx s c f).dict = s.dict := rfl
@[simp] theorem modMbx_mram (c : Nat) (f : Mbx → Mbx) : (modMbx s c f).mram = s.mram := rfl
@[simp] theorem modMbx_pins (c : Nat) (f : Mbx → Mbx) : (modMbx s c f).pins = s.pins := rfl
@[simp] theorem modMbx_start (c : Nat) (f : Mbx → Mbx) : (modMbx s c f).start = s.start := rfl
@[simp] theorem modMbx_fuses (c : Nat) (f : Mbx → Mbx) : (modMbx s c f).fuses = s.fuses := rfl
@[simp] theorem modMbx_time (c : Nat) (f : Mbx → Mbx) : (modMbx s c f).time = s.time := rfl
@[simp] theorem modMbx_avs (c : Nat) (f : Mbx → Mbx) : (modMbx s c f).avs = s.avs := rfl
@[simp] theorem modMbx_links (c : Nat) (f : Mbx → Mbx) : (modMbx s c f).links = s.links := rfl
@[simp] theorem modMbx_agents (c : Nat) (f : Mbx → Mbx) : (modMbx s c f).agents = s.agents := rfl
@[simp] theorem modMbx_flights (c : Nat) (f : Mbx → Mbx) : (modMbx s c f).flights = s.flights := rfl
@[simp] theorem modMbx_tree (c : Nat) (f : Mbx → Mbx) : (modMbx s c f).tree = s.tree := rfl
@[simp] theorem modMbx_home (c : Nat) (f : Mbx → Mbx) : (modMbx s c f).home = s.home := rfl
@[simp] theorem modMbx_pchs (c : Nat) (f : Mbx → Mbx) : (modMbx s c f).pchs = s.pchs := rfl
@[simp] theorem modMbx_chans (c : Nat) (f : Mbx → Mbx) : (modMbx s c f).chans = s.chans := rfl
@[simp] theorem modMbx_slices (c : Nat) (f : Mbx → Mbx) : (modMbx s c f).slices = s.slices := rfl
@[simp] theorem modMbx_array (c : Nat) (f : Mbx → Mbx) : (modMbx s c f).array = s.array := rfl
@[simp] theorem modMbx_stack (c : Nat) (f : Mbx → Mbx) : (modMbx s c f).stack = s.stack := rfl
@[simp] theorem modMbx_sleep (c : Nat) (f : Mbx → Mbx) : (modMbx s c f).sleep = s.sleep := rfl
@[simp] theorem modMbx_masters (c : Nat) (f : Mbx → Mbx) : (modMbx s c f).masters = s.masters := rfl
@[simp] theorem modMbx_side (c : Nat) (f : Mbx → Mbx) : (modMbx s c f).side = s.side := rfl
@[simp] theorem modMbx_ump (c : Nat) (f : Mbx → Mbx) : (modMbx s c f).ump = s.ump := rfl
@[simp] theorem modMbx_images (c : Nat) (f : Mbx → Mbx) : (modMbx s c f).images = s.images := rfl
@[simp] theorem modMbx_ev (c : Nat) (f : Mbx → Mbx) : (modMbx s c f).ev = s.ev := rfl
@[simp] theorem modMbx_funs (c : Nat) (f : Mbx → Mbx) : (modMbx s c f).funs = s.funs := rfl
@[simp] theorem modMbx_ledgers (c : Nat) (f : Mbx → Mbx) : (modMbx s c f).ledgers = s.ledgers := rfl
@[simp] theorem modMbx_obs (c : Nat) (f : Mbx → Mbx) : (modMbx s c f).obs = s.obs := rfl
@[simp] theorem modMbx_out (c : Nat) (f : Mbx → Mbx) : (modMbx s c f).out = s.out := rfl
@[simp] theorem modMbx_now (c : Nat) (f : Mbx → Mbx) : (modMbx s c f).now = s.now := rfl
@[simp] theorem modMbx_uid (c : Nat) (f : Mbx → Mbx) : (modMbx s c f).uid = s.uid := rfl
@[simp] theorem modMbx_free (c : Nat) (f : Mbx → Mbx) : (modMbx s c f).free = s.free := rfl
@[simp] theorem modMbx_pending (c : Nat) (f : Mbx → Mbx) : (modMbx s c f).pending = s.pending := rfl

@[simp] theorem modStart_ply16 (f : StartUp → StartUp) : (modStart s f).ply16 = s.ply16 := rfl
@[simp] theorem modStart_regs (f : StartUp → StartUp) : (modStart s f).regs = s.regs := rfl
@[simp] theorem modStart_dict (f : StartUp → StartUp) : (modStart s f).dict = s.dict := rfl
@[simp] theorem modStart_mram (f : StartUp → StartUp) : (modStart s f).mram = s.mram := rfl
@[simp] theorem modStart_pins (f : StartUp → StartUp) : (modStart s f).pins = s.pins := rfl
@[simp] theorem modStart_fuses (f : StartUp → StartUp) : (modStart s f).fuses = s.fuses := rfl
@[simp] theorem modStart_time (f : StartUp → StartUp) : (modStart s f).time = s.time := rfl
@[simp] theorem modStart_avs (f : StartUp → StartUp) : (modStart s f).avs = s.avs := rfl
@[simp] theorem modStart_links (f : StartUp → StartUp) : (modStart s f).links = s.links := rfl
@[simp] theorem modStart_agents (f : StartUp → StartUp) : (modStart s f).agents = s.agents := rfl
@[simp] theorem modStart_flights (f : StartUp → StartUp) : (modStart s f).flights = s.flights := rfl
@[simp] theorem modStart_tree (f : StartUp → StartUp) : (modStart s f).tree = s.tree := rfl
@[simp] theorem modStart_home (f : StartUp → StartUp) : (modStart s f).home = s.home := rfl
@[simp] theorem modStart_pchs (f : StartUp → StartUp) : (modStart s f).pchs = s.pchs := rfl
@[simp] theorem modStart_chans (f : StartUp → StartUp) : (modStart s f).chans = s.chans := rfl
@[simp] theorem modStart_slices (f : StartUp → StartUp) : (modStart s f).slices = s.slices := rfl
@[simp] theorem modStart_array (f : StartUp → StartUp) : (modStart s f).array = s.array := rfl
@[simp] theorem modStart_stack (f : StartUp → StartUp) : (modStart s f).stack = s.stack := rfl
@[simp] theorem modStart_sleep (f : StartUp → StartUp) : (modStart s f).sleep = s.sleep := rfl
@[simp] theorem modStart_mbx (f : StartUp → StartUp) : (modStart s f).mbx = s.mbx := rfl
@[simp] theorem modStart_masters (f : StartUp → StartUp) : (modStart s f).masters = s.masters := rfl
@[simp] theorem modStart_side (f : StartUp → StartUp) : (modStart s f).side = s.side := rfl
@[simp] theorem modStart_ump (f : StartUp → StartUp) : (modStart s f).ump = s.ump := rfl
@[simp] theorem modStart_images (f : StartUp → StartUp) : (modStart s f).images = s.images := rfl
@[simp] theorem modStart_ev (f : StartUp → StartUp) : (modStart s f).ev = s.ev := rfl
@[simp] theorem modStart_funs (f : StartUp → StartUp) : (modStart s f).funs = s.funs := rfl
@[simp] theorem modStart_ledgers (f : StartUp → StartUp) : (modStart s f).ledgers = s.ledgers := rfl
@[simp] theorem modStart_obs (f : StartUp → StartUp) : (modStart s f).obs = s.obs := rfl
@[simp] theorem modStart_out (f : StartUp → StartUp) : (modStart s f).out = s.out := rfl
@[simp] theorem modStart_now (f : StartUp → StartUp) : (modStart s f).now = s.now := rfl
@[simp] theorem modStart_uid (f : StartUp → StartUp) : (modStart s f).uid = s.uid := rfl
@[simp] theorem modStart_free (f : StartUp → StartUp) : (modStart s f).free = s.free := rfl
@[simp] theorem modStart_pending (f : StartUp → StartUp) : (modStart s f).pending = s.pending := rfl

@[simp] theorem setObs_ply16 (u k v : Nat) : (setObs s u k v).ply16 = s.ply16 := rfl
@[simp] theorem setObs_regs (u k v : Nat) : (setObs s u k v).regs = s.regs := rfl
@[simp] theorem setObs_dict (u k v : Nat) : (setObs s u k v).dict = s.dict := rfl
@[simp] theorem setObs_mram (u k v : Nat) : (setObs s u k v).mram = s.mram := rfl
@[simp] theorem setObs_pins (u k v : Nat) : (setObs s u k v).pins = s.pins := rfl
@[simp] theorem setObs_start (u k v : Nat) : (setObs s u k v).start = s.start := rfl
@[simp] theorem setObs_fuses (u k v : Nat) : (setObs s u k v).fuses = s.fuses := rfl
@[simp] theorem setObs_time (u k v : Nat) : (setObs s u k v).time = s.time := rfl
@[simp] theorem setObs_avs (u k v : Nat) : (setObs s u k v).avs = s.avs := rfl
@[simp] theorem setObs_links (u k v : Nat) : (setObs s u k v).links = s.links := rfl
@[simp] theorem setObs_agents (u k v : Nat) : (setObs s u k v).agents = s.agents := rfl
@[simp] theorem setObs_flights (u k v : Nat) : (setObs s u k v).flights = s.flights := rfl
@[simp] theorem setObs_tree (u k v : Nat) : (setObs s u k v).tree = s.tree := rfl
@[simp] theorem setObs_home (u k v : Nat) : (setObs s u k v).home = s.home := rfl
@[simp] theorem setObs_pchs (u k v : Nat) : (setObs s u k v).pchs = s.pchs := rfl
@[simp] theorem setObs_chans (u k v : Nat) : (setObs s u k v).chans = s.chans := rfl
@[simp] theorem setObs_slices (u k v : Nat) : (setObs s u k v).slices = s.slices := rfl
@[simp] theorem setObs_array (u k v : Nat) : (setObs s u k v).array = s.array := rfl
@[simp] theorem setObs_stack (u k v : Nat) : (setObs s u k v).stack = s.stack := rfl
@[simp] theorem setObs_sleep (u k v : Nat) : (setObs s u k v).sleep = s.sleep := rfl
@[simp] theorem setObs_mbx (u k v : Nat) : (setObs s u k v).mbx = s.mbx := rfl
@[simp] theorem setObs_masters (u k v : Nat) : (setObs s u k v).masters = s.masters := rfl
@[simp] theorem setObs_side (u k v : Nat) : (setObs s u k v).side = s.side := rfl
@[simp] theorem setObs_ump (u k v : Nat) : (setObs s u k v).ump = s.ump := rfl
@[simp] theorem setObs_images (u k v : Nat) : (setObs s u k v).images = s.images := rfl
@[simp] theorem setObs_ev (u k v : Nat) : (setObs s u k v).ev = s.ev := rfl
@[simp] theorem setObs_funs (u k v : Nat) : (setObs s u k v).funs = s.funs := rfl
@[simp] theorem setObs_ledgers (u k v : Nat) : (setObs s u k v).ledgers = s.ledgers := rfl
@[simp] theorem setObs_out (u k v : Nat) : (setObs s u k v).out = s.out := rfl
@[simp] theorem setObs_now (u k v : Nat) : (setObs s u k v).now = s.now := rfl
@[simp] theorem setObs_uid (u k v : Nat) : (setObs s u k v).uid = s.uid := rfl
@[simp] theorem setObs_free (u k v : Nat) : (setObs s u k v).free = s.free := rfl
@[simp] theorem setObs_pending (u k v : Nat) : (setObs s u k v).pending = s.pending := rfl

@[simp] theorem setUnitStatus_ply16 (u v : Nat) : (setUnitStatus s u v).ply16 = s.ply16 := rfl
@[simp] theorem setUnitStatus_regs (u v : Nat) : (setUnitStatus s u v).regs = s.regs := rfl
@[simp] theorem setUnitStatus_dict (u v : Nat) : (setUnitStatus s u v).dict = s.dict := rfl
@[simp] theorem setUnitStatus_mram (u v : Nat) : (setUnitStatus s u v).mram = s.mram := rfl
@[simp] theorem setUnitStatus_pins (u v : Nat) : (setUnitStatus s u v).pins = s.pins := rfl
@[simp] theorem setUnitStatus_start (u v : Nat) : (setUnitStatus s u v).start = s.start := rfl
@[simp] theorem setUnitStatus_fuses (u v : Nat) : (setUnitStatus s u v).fuses = s.fuses := rfl
@[simp] theorem setUnitStatus_time (u v : Nat) : (setUnitStatus s u v).time = s.time := rfl
@[simp] theorem setUnitStatus_avs (u v : Nat) : (setUnitStatus s u v).avs = s.avs := rfl
@[simp] theorem setUnitStatus_links (u v : Nat) : (setUnitStatus s u v).links = s.links := rfl
@[simp] theorem setUnitStatus_agents (u v : Nat) : (setUnitStatus s u v).agents = s.agents := rfl
@[simp] theorem setUnitStatus_flights (u v : Nat) : (setUnitStatus s u v).flights = s.flights := rfl
@[simp] theorem setUnitStatus_tree (u v : Nat) : (setUnitStatus s u v).tree = s.tree := rfl
@[simp] theorem setUnitStatus_home (u v : Nat) : (setUnitStatus s u v).home = s.home := rfl
@[simp] theorem setUnitStatus_pchs (u v : Nat) : (setUnitStatus s u v).pchs = s.pchs := rfl
@[simp] theorem setUnitStatus_chans (u v : Nat) : (setUnitStatus s u v).chans = s.chans := rfl
@[simp] theorem setUnitStatus_slices (u v : Nat) : (setUnitStatus s u v).slices = s.slices := rfl
@[simp] theorem setUnitStatus_array (u v : Nat) : (setUnitStatus s u v).array = s.array := rfl
@[simp] theorem setUnitStatus_stack (u v : Nat) : (setUnitStatus s u v).stack = s.stack := rfl
@[simp] theorem setUnitStatus_sleep (u v : Nat) : (setUnitStatus s u v).sleep = s.sleep := rfl
@[simp] theorem setUnitStatus_mbx (u v : Nat) : (setUnitStatus s u v).mbx = s.mbx := rfl
@[simp] theorem setUnitStatus_masters (u v : Nat) : (setUnitStatus s u v).masters = s.masters := rfl
@[simp] theorem setUnitStatus_side (u v : Nat) : (setUnitStatus s u v).side = s.side := rfl
@[simp] theorem setUnitStatus_ump (u v : Nat) : (setUnitStatus s u v).ump = s.ump := rfl
@[simp] theorem setUnitStatus_images (u v : Nat) : (setUnitStatus s u v).images = s.images := rfl
@[simp] theorem setUnitStatus_ev (u v : Nat) : (setUnitStatus s u v).ev = s.ev := rfl
@[simp] theorem setUnitStatus_funs (u v : Nat) : (setUnitStatus s u v).funs = s.funs := rfl
@[simp] theorem setUnitStatus_ledgers (u v : Nat) : (setUnitStatus s u v).ledgers = s.ledgers := rfl
@[simp] theorem setUnitStatus_out (u v : Nat) : (setUnitStatus s u v).out = s.out := rfl
@[simp] theorem setUnitStatus_now (u v : Nat) : (setUnitStatus s u v).now = s.now := rfl
@[simp] theorem setUnitStatus_uid (u v : Nat) : (setUnitStatus s u v).uid = s.uid := rfl
@[simp] theorem setUnitStatus_free (u v : Nat) : (setUnitStatus s u v).free = s.free := rfl
@[simp] theorem setUnitStatus_pending (u v : Nat) : (setUnitStatus s u v).pending = s.pending := rfl

@[simp] theorem setSel_ply16 (m w v : Nat) : (setSel s m w v).ply16 = s.ply16 := rfl
@[simp] theorem setSel_regs (m w v : Nat) : (setSel s m w v).regs = s.regs := rfl
@[simp] theorem setSel_mram (m w v : Nat) : (setSel s m w v).mram = s.mram := rfl
@[simp] theorem setSel_pins (m w v : Nat) : (setSel s m w v).pins = s.pins := rfl
@[simp] theorem setSel_start (m w v : Nat) : (setSel s m w v).start = s.start := rfl
@[simp] theorem setSel_fuses (m w v : Nat) : (setSel s m w v).fuses = s.fuses := rfl
@[simp] theorem setSel_time (m w v : Nat) : (setSel s m w v).time = s.time := rfl
@[simp] theorem setSel_avs (m w v : Nat) : (setSel s m w v).avs = s.avs := rfl
@[simp] theorem setSel_links (m w v : Nat) : (setSel s m w v).links = s.links := rfl
@[simp] theorem setSel_agents (m w v : Nat) : (setSel s m w v).agents = s.agents := rfl
@[simp] theorem setSel_flights (m w v : Nat) : (setSel s m w v).flights = s.flights := rfl
@[simp] theorem setSel_tree (m w v : Nat) : (setSel s m w v).tree = s.tree := rfl
@[simp] theorem setSel_home (m w v : Nat) : (setSel s m w v).home = s.home := rfl
@[simp] theorem setSel_pchs (m w v : Nat) : (setSel s m w v).pchs = s.pchs := rfl
@[simp] theorem setSel_chans (m w v : Nat) : (setSel s m w v).chans = s.chans := rfl
@[simp] theorem setSel_slices (m w v : Nat) : (setSel s m w v).slices = s.slices := rfl
@[simp] theorem setSel_array (m w v : Nat) : (setSel s m w v).array = s.array := rfl
@[simp] theorem setSel_stack (m w v : Nat) : (setSel s m w v).stack = s.stack := rfl
@[simp] theorem setSel_sleep (m w v : Nat) : (setSel s m w v).sleep = s.sleep := rfl
@[simp] theorem setSel_mbx (m w v : Nat) : (setSel s m w v).mbx = s.mbx := rfl
@[simp] theorem setSel_masters (m w v : Nat) : (setSel s m w v).masters = s.masters := rfl
@[simp] theorem setSel_side (m w v : Nat) : (setSel s m w v).side = s.side := rfl
@[simp] theorem setSel_ump (m w v : Nat) : (setSel s m w v).ump = s.ump := rfl
@[simp] theorem setSel_images (m w v : Nat) : (setSel s m w v).images = s.images := rfl
@[simp] theorem setSel_ev (m w v : Nat) : (setSel s m w v).ev = s.ev := rfl
@[simp] theorem setSel_funs (m w v : Nat) : (setSel s m w v).funs = s.funs := rfl
@[simp] theorem setSel_ledgers (m w v : Nat) : (setSel s m w v).ledgers = s.ledgers := rfl
@[simp] theorem setSel_obs (m w v : Nat) : (setSel s m w v).obs = s.obs := rfl
@[simp] theorem setSel_out (m w v : Nat) : (setSel s m w v).out = s.out := rfl
@[simp] theorem setSel_now (m w v : Nat) : (setSel s m w v).now = s.now := rfl
@[simp] theorem setSel_uid (m w v : Nat) : (setSel s m w v).uid = s.uid := rfl
@[simp] theorem setSel_free (m w v : Nat) : (setSel s m w v).free = s.free := rfl
@[simp] theorem setSel_pending (m w v : Nat) : (setSel s m w v).pending = s.pending := rfl

end Sys2Proof.Machine
end

