-- ==== Sys2Proof/Laws/Kept.lean ====
section
/-!
SUPPORT. `Kept P W Z s`: state `s`, reached from `Z`, keeps `Intact` where `P` holds and differs from `Z` only in the parts that `W`
allows. One lemma per part says what a record update needs.
-/
namespace Sys2Proof.Machine

def Kept (P : Prop) (W : Part → Bool) (Z s : State) : Prop := (P → Intact s) ∧ Within W Z s

/-- Part `q` may differ. -/
class Can (w : Part → Bool) (q : Part) : Prop where
  ok : w q = true

variable {P : Prop} {W : Part → Bool} {Z : State}

theorem Kept.start {s : State} : Kept (Intact s) W s s := ⟨id, fun q _ => by cases q <;> rfl⟩

/-- A part may take any value where it is allowed and `Intact` does not read it. -/
theorem Kept.via {s t : State} (q : Part) (h : Kept P W Z s) (hq : W q = true) (hi : Intact s → Intact t)
    (hs : ∀ r, r ≠ q → r.same s t) : Kept P W Z t := by
  refine ⟨fun x => hi (h.1 x), fun r hr => ?_⟩
  have hne : r ≠ q := by rintro rfl; simp [hq] at hr
  have h1 := h.2 r hr
  have h2 := hs r hne
  cases r <;> exact Eq.trans h2 h1

theorem Kept.eta {s : State} (h : Kept P W Z s) : Kept P W Z (State.mk s.ply16 s.regs s.dict s.mram s.pins s.start s.fuses s.time s.avs s.links s.agents s.flights s.tree s.home s.pchs s.chans s.slices s.array s.stack s.sleep s.mbx s.masters s.side s.ump s.images s.ev s.funs s.ledgers s.obs s.out s.now s.uid s.free s.pending) := h
theorem Kept.set_regs {ply16 regs dict mram pins start fuses time avs links agents flights tree home pchs chans slices array stack sleep mbx masters side ump images ev funs ledgers obs out now uid free pending regs'} [hw : Can W .regs] (h : Kept P W Z (State.mk ply16 regs dict mram pins start fuses time avs links agents flights tree home pchs chans slices array stack sleep mbx masters side ump images ev funs ledgers obs out now uid free pending)) :
    Kept P W Z (State.mk ply16 regs' dict mram pins start fuses time avs links agents flights tree home pchs chans slices array stack sleep mbx masters side ump images ev funs ledgers obs out now uid free pending) := h.via .regs hw.ok (id) (fun r hr => by cases r <;> first | rfl | exact absurd rfl hr)
theorem Kept.set_dict {ply16 regs dict mram pins start fuses time avs links agents flights tree home pchs chans slices array stack sleep mbx masters side ump images ev funs ledgers obs out now uid free pending dict'} [hw : Can W .dict] (h : Kept P W Z (State.mk ply16 regs dict mram pins start fuses time avs links agents flights tree home pchs chans slices array stack sleep mbx masters side ump images ev funs ledgers obs out now uid free pending)) :
    Kept P W Z (State.mk ply16 regs dict' mram pins start fuses time avs links agents flights tree home pchs chans slices array stack sleep mbx masters side ump images ev funs ledgers obs out now uid free pending) := h.via .dict hw.ok (id) (fun r hr => by cases r <;> first | rfl | exact absurd rfl hr)
theorem Kept.set_mram {ply16 regs dict mram pins start fuses time avs links agents flights tree home pchs chans slices array stack sleep mbx masters side ump images ev funs ledgers obs out now uid free pending mram'} [hw : Can W .mram] (h : Kept P W Z (State.mk ply16 regs dict mram pins start fuses time avs links agents flights tree home pchs chans slices array stack sleep mbx masters side ump images ev funs ledgers obs out now uid free pending)) :
    Kept P W Z (State.mk ply16 regs dict mram' pins start fuses time avs links agents flights tree home pchs chans slices array stack sleep mbx masters side ump images ev funs ledgers obs out now uid free pending) := h.via .mram hw.ok (id) (fun r hr => by cases r <;> first | rfl | exact absurd rfl hr)
theorem Kept.set_pins {ply16 regs dict mram pins start fuses time avs links agents flights tree home pchs chans slices array stack sleep mbx masters side ump images ev funs ledgers obs out now uid free pending pins'} [hw : Can W .pins] (h : Kept P W Z (State.mk ply16 regs dict mram pins start fuses time avs links agents flights tree home pchs chans slices array stack sleep mbx masters side ump images ev funs ledgers obs out now uid free pending)) :
    Kept P W Z (State.mk ply16 regs dict mram pins' start fuses time avs links agents flights tree home pchs chans slices array stack sleep mbx masters side ump images ev funs ledgers obs out now uid free pending) := h.via .pins hw.ok (id) (fun r hr => by cases r <;> first | rfl | exact absurd rfl hr)
theorem Kept.set_start {ply16 regs dict mram pins start fuses time avs links agents flights tree home pchs chans slices array stack sleep mbx masters side ump images ev funs ledgers obs out now uid free pending start'} [hw : Can W .start] (h : Kept P W Z (State.mk ply16 regs dict mram pins start fuses time avs links agents flights tree home pchs chans slices array stack sleep mbx masters side ump images ev funs ledgers obs out now uid free pending)) :
    Kept P W Z (State.mk ply16 regs dict mram pins start' fuses time avs links agents flights tree home pchs chans slices array stack sleep mbx masters side ump images ev funs ledgers obs out now uid free pending) := h.via .start hw.ok (id) (fun r hr => by cases r <;> first | rfl | exact absurd rfl hr)
theorem Kept.set_fuses {ply16 regs dict mram pins start fuses time avs links agents flights tree home pchs chans slices array stack sleep mbx masters side ump images ev funs ledgers obs out now uid free pending fuses'} [hw : Can W .fuses] (h : Kept P W Z (State.mk ply16 regs dict mram pins start fuses time avs links agents flights tree home pchs chans slices array stack sleep mbx masters side ump images ev funs ledgers obs out now uid free pending)) :
    Kept P W Z (State.mk ply16 regs dict mram pins start fuses' time avs links agents flights tree home pchs chans slices array stack sleep mbx masters side ump images ev funs ledgers obs out now uid free pending) := h.via .fuses hw.ok (id) (fun r hr => by cases r <;> first | rfl | exact absurd rfl hr)
theorem Kept.set_time {ply16 regs dict mram pins start fuses time avs links agents flights tree home pchs chans slices array stack sleep mbx masters side ump images ev funs ledgers obs out now uid free pending time'} [hw : Can W .time] (h : Kept P W Z (State.mk ply16 regs dict mram pins start fuses time avs links agents flights tree home pchs chans slices array stack sleep mbx masters side ump images ev funs ledgers obs out now uid free pending)) (hi : time.quality ≤ 3 → time'.quality ≤ 3) (ho : time.t < 2 ^ 64 * nsUnit → time'.t < 2 ^ 64 * nsUnit) :
    Kept P W Z (State.mk ply16 regs dict mram pins start fuses time' avs links agents flights tree home pchs chans slices array stack sleep mbx masters side ump images ev funs ledgers obs out now uid free pending) := h.via .time hw.ok (fun i => ⟨i.1, i.2.1, i.2.2.1, i.2.2.2.1, hi i.2.2.2.2.1, ho i.2.2.2.2.2⟩) (fun r hr => by cases r <;> first | rfl | exact absurd rfl hr)
theorem Kept.set_avs {ply16 regs dict mram pins start fuses time avs links agents flights tree home pchs chans slices array stack sleep mbx masters side ump images ev funs ledgers obs out now uid free pending avs'} [hw : Can W .avs] (h : Kept P W Z (State.mk ply16 regs dict mram pins start fuses time avs links agents flights tree home pchs chans slices array stack sleep mbx masters side ump images ev funs ledgers obs out now uid free pending)) :
    Kept P W Z (State.mk ply16 regs dict mram pins start fuses time avs' links agents flights tree home pchs chans slices array stack sleep mbx masters side ump images ev funs ledgers obs out now uid free pending) := h.via .avs hw.ok (id) (fun r hr => by cases r <;> first | rfl | exact absurd rfl hr)
theorem Kept.set_links {ply16 regs dict mram pins start fuses time avs links agents flights tree home pchs chans slices array stack sleep mbx masters side ump images ev funs ledgers obs out now uid free pending links'} [hw : Can W .links] (h : Kept P W Z (State.mk ply16 regs dict mram pins start fuses time avs links agents flights tree home pchs chans slices array stack sleep mbx masters side ump images ev funs ledgers obs out now uid free pending)) :
    Kept P W Z (State.mk ply16 regs dict mram pins start fuses time avs links' agents flights tree home pchs chans slices array stack sleep mbx masters side ump images ev funs ledgers obs out now uid free pending) := h.via .links hw.ok (id) (fun r hr => by cases r <;> first | rfl | exact absurd rfl hr)
theorem Kept.set_agents {ply16 regs dict mram pins start fuses time avs links agents flights tree home pchs chans slices array stack sleep mbx masters side ump images ev funs ledgers obs out now uid free pending agents'} [hw : Can W .agents] (h : Kept P W Z (State.mk ply16 regs dict mram pins start fuses time avs links agents flights tree home pchs chans slices array stack sleep mbx masters side ump images ev funs ledgers obs out now uid free pending)) :
    Kept P W Z (State.mk ply16 regs dict mram pins start fuses time avs links agents' flights tree home pchs chans slices array stack sleep mbx masters side ump images ev funs ledgers obs out now uid free pending) := h.via .agents hw.ok (id) (fun r hr => by cases r <;> first | rfl | exact absurd rfl hr)
theorem Kept.set_flights {ply16 regs dict mram pins start fuses time avs links agents flights tree home pchs chans slices array stack sleep mbx masters side ump images ev funs ledgers obs out now uid free pending flights'} [hw : Can W .flights] (h : Kept P W Z (State.mk ply16 regs dict mram pins start fuses time avs links agents flights tree home pchs chans slices array stack sleep mbx masters side ump images ev funs ledgers obs out now uid free pending)) :
    Kept P W Z (State.mk ply16 regs dict mram pins start fuses time avs links agents flights' tree home pchs chans slices array stack sleep mbx masters side ump images ev funs ledgers obs out now uid free pending) := h.via .flights hw.ok (id) (fun r hr => by cases r <;> first | rfl | exact absurd rfl hr)
theorem Kept.set_tree {ply16 regs dict mram pins start fuses time avs links agents flights tree home pchs chans slices array stack sleep mbx masters side ump images ev funs ledgers obs out now uid free pending tree'} [hw : Can W .tree] (h : Kept P W Z (State.mk ply16 regs dict mram pins start fuses time avs links agents flights tree home pchs chans slices array stack sleep mbx masters side ump images ev funs ledgers obs out now uid free pending)) :
    Kept P W Z (State.mk ply16 regs dict mram pins start fuses time avs links agents flights tree' home pchs chans slices array stack sleep mbx masters side ump images ev funs ledgers obs out now uid free pending) := h.via .tree hw.ok (id) (fun r hr => by cases r <;> first | rfl | exact absurd rfl hr)
theorem Kept.set_home {ply16 regs dict mram pins start fuses time avs links agents flights tree home pchs chans slices array stack sleep mbx masters side ump images ev funs ledgers obs out now uid free pending home'} [hw : Can W .home] (h : Kept P W Z (State.mk ply16 regs dict mram pins start fuses time avs links agents flights tree home pchs chans slices array stack sleep mbx masters side ump images ev funs ledgers obs out now uid free pending)) :
    Kept P W Z (State.mk ply16 regs dict mram pins start fuses time avs links agents flights tree home' pchs chans slices array stack sleep mbx masters side ump images ev funs ledgers obs out now uid free pending) := h.via .home hw.ok (id) (fun r hr => by cases r <;> first | rfl | exact absurd rfl hr)
theorem Kept.set_pchs {ply16 regs dict mram pins start fuses time avs links agents flights tree home pchs chans slices array stack sleep mbx masters side ump images ev funs ledgers obs out now uid free pending pchs'} [hw : Can W .pchs] (h : Kept P W Z (State.mk ply16 regs dict mram pins start fuses time avs links agents flights tree home pchs chans slices array stack sleep mbx masters side ump images ev funs ledgers obs out now uid free pending)) :
    Kept P W Z (State.mk ply16 regs dict mram pins start fuses time avs links agents flights tree home pchs' chans slices array stack sleep mbx masters side ump images ev funs ledgers obs out now uid free pending) := h.via .pchs hw.ok (id) (fun r hr => by cases r <;> first | rfl | exact absurd rfl hr)
theorem Kept.set_chans {ply16 regs dict mram pins start fuses time avs links agents flights tree home pchs chans slices array stack sleep mbx masters side ump images ev funs ledgers obs out now uid free pending chans'} [hw : Can W .chans] (h : Kept P W Z (State.mk ply16 regs dict mram pins start fuses time avs links agents flights tree home pchs chans slices array stack sleep mbx masters side ump images ev funs ledgers obs out now uid free pending)) :
    Kept P W Z (State.mk ply16 regs dict mram pins start fuses time avs links agents flights tree home pchs chans' slices array stack sleep mbx masters side ump images ev funs ledgers obs out now uid free pending) := h.via .chans hw.ok (id) (fun r hr => by cases r <;> first | rfl | exact absurd rfl hr)
theorem Kept.set_slices {ply16 regs dict mram pins start fuses time avs links agents flights tree home pchs chans slices array stack sleep mbx masters side ump images ev funs ledgers obs out now uid free pending slices'} [hw : Can W .slices] (h : Kept P W Z (State.mk ply16 regs dict mram pins start fuses time avs links agents flights tree home pchs chans slices array stack sleep mbx masters side ump images ev funs ledgers obs out now uid free pending)) :
    Kept P W Z (State.mk ply16 regs dict mram pins start fuses time avs links agents flights tree home pchs chans slices' array stack sleep mbx masters side ump images ev funs ledgers obs out now uid free pending) := h.via .slices hw.ok (id) (fun r hr => by cases r <;> first | rfl | exact absurd rfl hr)
theorem Kept.set_array {ply16 regs dict mram pins start fuses time avs links agents flights tree home pchs chans slices array stack sleep mbx masters side ump images ev funs ledgers obs out now uid free pending array'} [hw : Can W .array] (h : Kept P W Z (State.mk ply16 regs dict mram pins start fuses time avs links agents flights tree home pchs chans slices array stack sleep mbx masters side ump images ev funs ledgers obs out now uid free pending)) (hi : Memory.wf array = true → Memory.wf array' = true) :
    Kept P W Z (State.mk ply16 regs dict mram pins start fuses time avs links agents flights tree home pchs chans slices array' stack sleep mbx masters side ump images ev funs ledgers obs out now uid free pending) := h.via .array hw.ok (fun i => ⟨hi i.1, i.2⟩) (fun r hr => by cases r <;> first | rfl | exact absurd rfl hr)
theorem Kept.set_stack {ply16 regs dict mram pins start fuses time avs links agents flights tree home pchs chans slices array stack sleep mbx masters side ump images ev funs ledgers obs out now uid free pending stack'} [hw : Can W .stack] (h : Kept P W Z (State.mk ply16 regs dict mram pins start fuses time avs links agents flights tree home pchs chans slices array stack sleep mbx masters side ump images ev funs ledgers obs out now uid free pending)) :
    Kept P W Z (State.mk ply16 regs dict mram pins start fuses time avs links agents flights tree home pchs chans slices array stack' sleep mbx masters side ump images ev funs ledgers obs out now uid free pending) := h.via .stack hw.ok (id) (fun r hr => by cases r <;> first | rfl | exact absurd rfl hr)
theorem Kept.set_sleep {ply16 regs dict mram pins start fuses time avs links agents flights tree home pchs chans slices array stack sleep mbx masters side ump images ev funs ledgers obs out now uid free pending sleep'} [hw : Can W .sleep] (h : Kept P W Z (State.mk ply16 regs dict mram pins start fuses time avs links agents flights tree home pchs chans slices array stack sleep mbx masters side ump images ev funs ledgers obs out now uid free pending)) :
    Kept P W Z (State.mk ply16 regs dict mram pins start fuses time avs links agents flights tree home pchs chans slices array stack sleep' mbx masters side ump images ev funs ledgers obs out now uid free pending) := h.via .sleep hw.ok (id) (fun r hr => by cases r <;> first | rfl | exact absurd rfl hr)
theorem Kept.set_mbx {ply16 regs dict mram pins start fuses time avs links agents flights tree home pchs chans slices array stack sleep mbx masters side ump images ev funs ledgers obs out now uid free pending mbx'} [hw : Can W .mbx] (h : Kept P W Z (State.mk ply16 regs dict mram pins start fuses time avs links agents flights tree home pchs chans slices array stack sleep mbx masters side ump images ev funs ledgers obs out now uid free pending)) :
    Kept P W Z (State.mk ply16 regs dict mram pins start fuses time avs links agents flights tree home pchs chans slices array stack sleep mbx' masters side ump images ev funs ledgers obs out now uid free pending) := h.via .mbx hw.ok (id) (fun r hr => by cases r <;> first | rfl | exact absurd rfl hr)
theorem Kept.set_masters {ply16 regs dict mram pins start fuses time avs links agents flights tree home pchs chans slices array stack sleep mbx masters side ump images ev funs ledgers obs out now uid free pending masters'} [hw : Can W .masters] (h : Kept P W Z (State.mk ply16 regs dict mram pins start fuses time avs links agents flights tree home pchs chans slices array stack sleep mbx masters side ump images ev funs ledgers obs out now uid free pending)) :
    Kept P W Z (State.mk ply16 regs dict mram pins start fuses time avs links agents flights tree home pchs chans slices array stack sleep mbx masters' side ump images ev funs ledgers obs out now uid free pending) := h.via .masters hw.ok (id) (fun r hr => by cases r <;> first | rfl | exact absurd rfl hr)
theorem Kept.set_side {ply16 regs dict mram pins start fuses time avs links agents flights tree home pchs chans slices array stack sleep mbx masters side ump images ev funs ledgers obs out now uid free pending side'} [hw : Can W .side] (h : Kept P W Z (State.mk ply16 regs dict mram pins start fuses time avs links agents flights tree home pchs chans slices array stack sleep mbx masters side ump images ev funs ledgers obs out now uid free pending)) (hi : side.inb.ok → side'.inb.ok) (ho : side.outb.ok → side'.outb.ok) :
    Kept P W Z (State.mk ply16 regs dict mram pins start fuses time avs links agents flights tree home pchs chans slices array stack sleep mbx masters side' ump images ev funs ledgers obs out now uid free pending) := h.via .side hw.ok (fun i => ⟨i.1, i.2.1, hi i.2.2.1, ho i.2.2.2.1, i.2.2.2.2⟩) (fun r hr => by cases r <;> first | rfl | exact absurd rfl hr)
theorem Kept.set_ump {ply16 regs dict mram pins start fuses time avs links agents flights tree home pchs chans slices array stack sleep mbx masters side ump images ev funs ledgers obs out now uid free pending ump'} [hw : Can W .ump] (h : Kept P W Z (State.mk ply16 regs dict mram pins start fuses time avs links agents flights tree home pchs chans slices array stack sleep mbx masters side ump images ev funs ledgers obs out now uid free pending)) :
    Kept P W Z (State.mk ply16 regs dict mram pins start fuses time avs links agents flights tree home pchs chans slices array stack sleep mbx masters side ump' images ev funs ledgers obs out now uid free pending) := h.via .ump hw.ok (id) (fun r hr => by cases r <;> first | rfl | exact absurd rfl hr)
theorem Kept.set_images {ply16 regs dict mram pins start fuses time avs links agents flights tree home pchs chans slices array stack sleep mbx masters side ump images ev funs ledgers obs out now uid free pending images'} [hw : Can W .images] (h : Kept P W Z (State.mk ply16 regs dict mram pins start fuses time avs links agents flights tree home pchs chans slices array stack sleep mbx masters side ump images ev funs ledgers obs out now uid free pending)) :
    Kept P W Z (State.mk ply16 regs dict mram pins start fuses time avs links agents flights tree home pchs chans slices array stack sleep mbx masters side ump images' ev funs ledgers obs out now uid free pending) := h.via .images hw.ok (id) (fun r hr => by cases r <;> first | rfl | exact absurd rfl hr)
theorem Kept.set_ev {ply16 regs dict mram pins start fuses time avs links agents flights tree home pchs chans slices array stack sleep mbx masters side ump images ev funs ledgers obs out now uid free pending ev'} [hw : Can W .ev] (h : Kept P W Z (State.mk ply16 regs dict mram pins start fuses time avs links agents flights tree home pchs chans slices array stack sleep mbx masters side ump images ev funs ledgers obs out now uid free pending)) :
    Kept P W Z (State.mk ply16 regs dict mram pins start fuses time avs links agents flights tree home pchs chans slices array stack sleep mbx masters side ump images ev' funs ledgers obs out now uid free pending) := h.via .ev hw.ok (id) (fun r hr => by cases r <;> first | rfl | exact absurd rfl hr)
theorem Kept.set_funs {ply16 regs dict mram pins start fuses time avs links agents flights tree home pchs chans slices array stack sleep mbx masters side ump images ev funs ledgers obs out now uid free pending funs'} [hw : Can W .funs] (h : Kept P W Z (State.mk ply16 regs dict mram pins start fuses time avs links agents flights tree home pchs chans slices array stack sleep mbx masters side ump images ev funs ledgers obs out now uid free pending)) :
    Kept P W Z (State.mk ply16 regs dict mram pins start fuses time avs links agents flights tree home pchs chans slices array stack sleep mbx masters side ump images ev funs' ledgers obs out now uid free pending) := h.via .funs hw.ok (id) (fun r hr => by cases r <;> first | rfl | exact absurd rfl hr)
theorem Kept.set_ledgers {ply16 regs dict mram pins start fuses time avs links agents flights tree home pchs chans slices array stack sleep mbx masters side ump images ev funs ledgers obs out now uid free pending ledgers'} [hw : Can W .ledgers] (h : Kept P W Z (State.mk ply16 regs dict mram pins start fuses time avs links agents flights tree home pchs chans slices array stack sleep mbx masters side ump images ev funs ledgers obs out now uid free pending)) :
    Kept P W Z (State.mk ply16 regs dict mram pins start fuses time avs links agents flights tree home pchs chans slices array stack sleep mbx masters side ump images ev funs ledgers' obs out now uid free pending) := h.via .ledgers hw.ok (id) (fun r hr => by cases r <;> first | rfl | exact absurd rfl hr)
theorem Kept.set_obs {ply16 regs dict mram pins start fuses time avs links agents flights tree home pchs chans slices array stack sleep mbx masters side ump images ev funs ledgers obs out now uid free pending obs'} [hw : Can W .obs] (h : Kept P W Z (State.mk ply16 regs dict mram pins start fuses time avs links agents flights tree home pchs chans slices array stack sleep mbx masters side ump images ev funs ledgers obs out now uid free pending)) (hi : countsOk obs.counts → countsOk obs'.counts) :
    Kept P W Z (State.mk ply16 regs dict mram pins start fuses time avs links agents flights tree home pchs chans slices array stack sleep mbx masters side ump images ev funs ledgers obs' out now uid free pending) := h.via .obs hw.ok (fun i => ⟨i.1, hi i.2.1, i.2.2⟩) (fun r hr => by cases r <;> first | rfl | exact absurd rfl hr)
theorem Kept.set_out {ply16 regs dict mram pins start fuses time avs links agents flights tree home pchs chans slices array stack sleep mbx masters side ump images ev funs ledgers obs out now uid free pending out'} [hw : Can W .out] (h : Kept P W Z (State.mk ply16 regs dict mram pins start fuses time avs links agents flights tree home pchs chans slices array stack sleep mbx masters side ump images ev funs ledgers obs out now uid free pending)) :
    Kept P W Z (State.mk ply16 regs dict mram pins start fuses time avs links agents flights tree home pchs chans slices array stack sleep mbx masters side ump images ev funs ledgers obs out' now uid free pending) := h.via .out hw.ok (id) (fun r hr => by cases r <;> first | rfl | exact absurd rfl hr)
theorem Kept.set_now {ply16 regs dict mram pins start fuses time avs links agents flights tree home pchs chans slices array stack sleep mbx masters side ump images ev funs ledgers obs out now uid free pending now'} [hw : Can W .now] (h : Kept P W Z (State.mk ply16 regs dict mram pins start fuses time avs links agents flights tree home pchs chans slices array stack sleep mbx masters side ump images ev funs ledgers obs out now uid free pending)) :
    Kept P W Z (State.mk ply16 regs dict mram pins start fuses time avs links agents flights tree home pchs chans slices array stack sleep mbx masters side ump images ev funs ledgers obs out now' uid free pending) := h.via .now hw.ok (id) (fun r hr => by cases r <;> first | rfl | exact absurd rfl hr)
theorem Kept.set_uid {ply16 regs dict mram pins start fuses time avs links agents flights tree home pchs chans slices array stack sleep mbx masters side ump images ev funs ledgers obs out now uid free pending uid'} [hw : Can W .uid] (h : Kept P W Z (State.mk ply16 regs dict mram pins start fuses time avs links agents flights tree home pchs chans slices array stack sleep mbx masters side ump images ev funs ledgers obs out now uid free pending)) :
    Kept P W Z (State.mk ply16 regs dict mram pins start fuses time avs links agents flights tree home pchs chans slices array stack sleep mbx masters side ump images ev funs ledgers obs out now uid' free pending) := h.via .uid hw.ok (id) (fun r hr => by cases r <;> first | rfl | exact absurd rfl hr)
theorem Kept.set_free {ply16 regs dict mram pins start fuses time avs links agents flights tree home pchs chans slices array stack sleep mbx masters side ump images ev funs ledgers obs out now uid free pending free'} [hw : Can W .free] (h : Kept P W Z (State.mk ply16 regs dict mram pins start fuses time avs links agents flights tree home pchs chans slices array stack sleep mbx masters side ump images ev funs ledgers obs out now uid free pending)) :
    Kept P W Z (State.mk ply16 regs dict mram pins start fuses time avs links agents flights tree home pchs chans slices array stack sleep mbx masters side ump images ev funs ledgers obs out now uid free' pending) := h.via .free hw.ok (id) (fun r hr => by cases r <;> first | rfl | exact absurd rfl hr)

theorem opt_none {α : Type} {Q : α → Prop} : ∀ f, (none : Option α) = some f → Q f := fun _ h => by cases h
theorem opt_some {α : Type} {Q : α → Prop} {a : α} (h : Q a) : ∀ f, some a = some f → Q f := fun _ e => by cases e; exact h
theorem opt_ite {α : Type} {Q : α → Prop} {c : Prop} [Decidable c] {a b : Option α} (ha : ∀ f, a = some f → Q f)
    (hb : ∀ f, b = some f → Q f) : ∀ f, (if c then a else b) = some f → Q f := by split <;> assumption
theorem Kept.ite {c : Prop} [Decidable c] {a b : State} (h : Kept P W Z a) (k : Kept P W Z b) : Kept P W Z (if c then a else b) := by
  split <;> assumption
theorem Kept.ite2 {α : Type} {c : Prop} [Decidable c] {a b : α × State} (h : Kept P W Z a.2) (k : Kept P W Z b.2) :
    Kept P W Z (if c then a else b).2 := by split <;> assumption
theorem Kept.ite3 {α β : Type} {c : Prop} [Decidable c] {a b : α × β × State} (h : Kept P W Z a.2.2) (k : Kept P W Z b.2.2) :
    Kept P W Z (if c then a else b).2.2 := by split <;> assumption
theorem Kept.snd {α : Type} {x : α × State} {a : α} {b : State} (e : x = (a, b)) (h : Kept P W Z x.2) : Kept P W Z b := by
  subst e; exact h
theorem Kept.snd3 {α β : Type} {x : α × β × State} {a : α} {c : β} {b : State} (e : x = (a, c, b)) (h : Kept P W Z x.2.2) :
    Kept P W Z b := by subst e; exact h
theorem forEach_kept {α : Type} (l : List α) (s : State) (f : State → α → State) (hf : ∀ s a, Kept P W Z s → Kept P W Z (f s a))
    (h : Kept P W Z s) : Kept P W Z (forEach l s f) := by
  unfold forEach; induction l generalizing s with
  | nil => exact h
  | cons a l ih => exact ih _ (hf _ _ h)

end Sys2Proof.Machine
end

