-- ==== Sys2Proof/Laws/KeptOps.lean ====
section
/-!
SUPPORT. What the operations of these areas keep, one lemma each: named operations, links, events, time base, reset and boundary. The parts a lemma asks for are those the
operation may change.
-/
namespace Sys2Proof.Machine
variable {P : Prop} {W : Part → Bool} {Z : State}

theorem put_kept (s : State) (key d v : Nat) [Can W .regs] (hK : Kept P W Z s) : Kept P W Z (put s key d v) := by
  unfold put; try dsimp only
  repeat' (with_reducible first | exact hK | (refine Kept.set_regs (Kept.eta ?_); first | exact hK))

theorem wri_kept (s : State) (r : Reg) (i v : Nat) [Can W .regs] (hK : Kept P W Z s) : Kept P W Z (wri s r i v) := by
  unfold wri; try dsimp only
  repeat' (with_reducible first | exact hK | apply put_kept)

theorem wr_kept (s : State) (r : Reg) (v : Nat) [Can W .regs] (hK : Kept P W Z s) : Kept P W Z (wr s r v) := by
  unfold wr; try dsimp only
  repeat' (with_reducible first | exact hK | apply wri_kept)

theorem bumpTo_kept (s : State) (r : Reg) (i n m : Nat) [Can W .regs] (hK : Kept P W Z s) : Kept P W Z (bumpTo s r i n m) := by
  unfold bumpTo; try dsimp only
  repeat' (with_reducible first | exact hK | apply wri_kept)

theorem bumpi_kept (s : State) (r : Reg) (i : Nat) [Can W .regs] (hK : Kept P W Z s) : Kept P W Z (bumpi s r i) := by
  unfold bumpi; try dsimp only
  repeat' (with_reducible first | exact hK | apply bumpTo_kept)

theorem bumpKey_kept (s : State) (key : Nat) [Can W .regs] (hK : Kept P W Z s) : Kept P W Z (bumpKey s key) := by
  unfold bumpKey; try dsimp only
  repeat' (with_reducible first | exact hK | apply put_kept)

theorem bump_kept (s : State) (r : Reg) [Can W .regs] (hK : Kept P W Z s) : Kept P W Z (bump s r) := by
  unfold bump; try dsimp only
  repeat' (with_reducible first | exact hK | apply bumpi_kept)

theorem bumpWrap_kept (s : State) (r : Reg) (i n w : Nat) [Can W .regs] (hK : Kept P W Z s) : Kept P W Z (bumpWrap s r i n w) := by
  unfold bumpWrap; try dsimp only
  repeat' (with_reducible first | exact hK | apply wri_kept)

theorem zeros_kept (s : State) (r : Reg) (i n : Nat) [Can W .regs] (hK : Kept P W Z s) : Kept P W Z (zeros s r i n) := by
  induction n generalizing s i with
  | zero => exact hK
  | succ n ih => exact ih _ _ (wri_kept _ _ _ _ hK)

theorem wrS_kept (s : State) (r : Reg) (i : Nat) (v : Int) [Can W .regs] (hK : Kept P W Z s) : Kept P W Z (wrS s r i v) := by
  unfold wrS; try dsimp only
  repeat' (with_reducible first | exact hK | apply wri_kept)

theorem emit_kept (s : State) (o : Out) [Can W .out] (hK : Kept P W Z s) : Kept P W Z (emit s o) := by
  unfold emit; try dsimp only
  repeat' (with_reducible first | exact hK | (refine Kept.set_out (Kept.eta ?_); first | exact hK))

theorem takeFree_kept (s : State) [Can W .free] (hK : Kept P W Z s) : Kept P W Z (takeFree s).2 := by
  unfold takeFree; try dsimp only
  repeat' (with_reducible first | exact hK | (refine Kept.set_free (Kept.eta ?_); first | exact hK))

theorem setLink_kept (s : State) (n : Nat) (l : Link) [Can W .links] (hK : Kept P W Z s) : Kept P W Z (setLink s n l) := by
  unfold setLink; try dsimp only
  repeat' (with_reducible first | exact hK | (refine Kept.set_links (Kept.eta ?_); first | exact hK))

theorem modLink_kept (s : State) (n : Nat) (f : Link → Link) [Can W .links] (hK : Kept P W Z s) : Kept P W Z (modLink s n f) := by
  unfold modLink; try dsimp only
  repeat' (with_reducible first | exact hK | apply setLink_kept)

theorem setPortState_kept (s : State) (n v : Nat) [Can W .regs] (hK : Kept P W Z s) : Kept P W Z (setPortState s n v) := by
  unfold setPortState; try dsimp only
  repeat' (with_reducible first | exact hK | apply wri_kept)

theorem persistKey_kept (s : State) (key : Nat) [Can W .mram] (hK : Kept P W Z s) : Kept P W Z (persistKey s key) := by
  unfold persistKey; try dsimp only
  repeat' (with_reducible first | exact hK | apply Kept.ite | (refine Kept.set_mram (Kept.eta ?_); first | exact hK) | split)

theorem persistClassLog_kept (s : State) [Can W .mram] (hK : Kept P W Z s) : Kept P W Z (persistClassLog s) := by
  unfold persistClassLog; try dsimp only
  repeat' (with_reducible first | exact hK | apply Kept.ite | (refine Kept.set_mram (Kept.eta ?_); first | exact hK) | split)

theorem persistLeaf_kept (s : State) (n : Nat) [Can W .mram] (hK : Kept P W Z s) : Kept P W Z (persistLeaf s n) := by
  unfold persistLeaf; try dsimp only
  repeat' (with_reducible first | exact hK | apply Kept.ite | (refine Kept.set_mram (Kept.eta ?_); first | exact hK) | split)

theorem persistAll_kept (s : State) [Can W .mram] (hK : Kept P W Z s) : Kept P W Z (persistAll s) := by
  unfold persistAll; try dsimp only
  repeat' (with_reducible first | exact hK | intro _ | assumption | exact id | decide | apply Kept.ite | apply Kept.ite2 | apply Kept.ite3 | apply forEach_kept | apply persistKey_kept | apply persistClassLog_kept | apply persistLeaf_kept | apply forEach_kept | refine Kept.snd (by assumption) ?_ | refine Kept.snd3 (by assumption) ?_ | split)

theorem setObs_kept (s : State) (u k v : Nat) [Can W .obs] (hK : Kept P W Z s) (hv : v < 2 ^ 48) : Kept P W Z (setObs s u k v) := by
  unfold setObs
  refine Kept.set_obs (Kept.eta hK) ?_
  intro h q hq
  simp only [tput] at hq
  split at hq
  · exact h q (mem_tdel hq).1
  · rcases mem_tset hq with rfl | hm
    · exact hv
    · exact h q hm

theorem setUnitStatus_kept (s : State) (u v : Nat) [Can W .obs] (hK : Kept P W Z s) : Kept P W Z (setUnitStatus s u v) := by
  unfold setUnitStatus; try dsimp only
  repeat' (with_reducible first | exact hK | exact id | (refine Kept.set_obs (Kept.eta ?_) ?_; first | exact hK))

theorem modStack_kept (s : State) (f : Stack → Stack) [Can W .stack] (hK : Kept P W Z s) : Kept P W Z (modStack s f) := by
  unfold modStack; try dsimp only
  repeat' (with_reducible first | exact hK | (refine Kept.set_stack (Kept.eta ?_); first | exact hK))

theorem pendingIbi_kept (s : State) [Can W .side] [Can W .out] (hK : Kept P W Z s) : Kept P W Z (pendingIbi s) := by
  unfold pendingIbi; try dsimp only
  repeat' (with_reducible first | exact hK | exact id | apply Kept.ite | apply emit_kept | (refine Kept.set_side (Kept.eta ?_) ?_ ?_; first | exact hK | apply emit_kept) | split)

theorem flushTelemetry_kept (s : State) [Can W .regs] [Can W .side] (hK : Kept P W Z s) : Kept P W Z (flushTelemetry s) := by
  unfold flushTelemetry
  exact Kept.set_side (Kept.eta (bumpTo_kept _ _ _ _ _ hK)) (fun h => by rw [(skipFrames_side _ _).2]; exact h) (fun h => skipFrames_ok _ _ h)

theorem flushControl_kept (s : State) [Can W .regs] [Can W .side] (hK : Kept P W Z s) : Kept P W Z (flushControl s) := by
  unfold flushControl
  exact Kept.set_side (Kept.eta (bumpTo_kept _ _ _ _ _ hK)) (fun h => by rw [(skipFrames_side _ _).2]; exact h) (fun h => skipFrames_ok _ _ h)

theorem queueControl_kept (s : State) (b : List Nat) [Can W .side] [Can W .out] (hK : Kept P W Z s) : Kept P W Z (queueControl s b) := by
  unfold queueControl
  exact pendingIbi_kept _ (Kept.set_side (Kept.eta hK) (fun h => by rw [(settleOut_side _ _).2]; exact h) (fun h => settleOut_ok _ _ h))

theorem queueTelemetry_kept (s : State) (b : List Nat) [Can W .regs] [Can W .side] [Can W .out] (hK : Kept P W Z s) : Kept P W Z (queueTelemetry s b) := by
  unfold queueTelemetry
  dsimp only
  have h1 : Kept P W Z (if s.side.outb.free < (frameWords true b).length + 128 then flushTelemetry s else s) :=
    Kept.ite (flushTelemetry_kept s hK) hK
  revert h1
  generalize (if s.side.outb.free < (frameWords true b).length + 128 then flushTelemetry s else s) = s1
  intro h1
  split
  · exact bump_kept _ _ h1
  · refine pendingIbi_kept _ (Kept.set_side (Kept.eta h1) id (fun h => Fifo.write_ok h ?_))
    omega

theorem sendMctp_kept (s : State) (eid : Nat) (msg : List Nat) [Can W .side] [Can W .out] (hK : Kept P W Z s) : Kept P W Z (sendMctp s eid msg) := by
  unfold sendMctp; try dsimp only
  repeat' (with_reducible first | exact hK | intro _ | assumption | exact id | decide | apply Kept.ite | apply Kept.ite2 | apply Kept.ite3 | apply forEach_kept | apply queueControl_kept | apply forEach_kept | refine Kept.snd (by assumption) ?_ | refine Kept.snd3 (by assumption) ?_ | split)

theorem sendTelemetry_kept (s : State) (slot : Slot) [Can W .regs] [Can W .side] [Can W .out] (hK : Kept P W Z s) : Kept P W Z (sendTelemetry s slot) := by
  unfold sendTelemetry; try dsimp only
  repeat' (with_reducible first | exact hK | intro _ | assumption | exact id | decide | apply Kept.ite | apply Kept.ite2 | apply Kept.ite3 | apply forEach_kept | apply queueTelemetry_kept | apply forEach_kept | refine Kept.snd (by assumption) ?_ | refine Kept.snd3 (by assumption) ?_ | (refine Kept.set_side (Kept.eta ?_) ?_ ?_; first | exact hK | assumption | apply Kept.ite | apply forEach_kept | apply queueTelemetry_kept | apply forEach_kept | refine Kept.snd (by assumption) ?_) | split)

theorem sendAlert_kept (s : State) (g : Nat) [Can W .side] [Can W .out] (hK : Kept P W Z s) : Kept P W Z (sendAlert s g) := by
  unfold sendAlert; try dsimp only
  repeat' (with_reducible first | exact hK | exact id | apply Kept.ite | apply emit_kept | (refine Kept.set_side (Kept.eta ?_) ?_ ?_; first | exact hK | apply emit_kept) | split)

theorem obsBump_kept (s : State) (u : Nat) (f k n : Nat) [Can W .obs] (hK : Kept P W Z s) : Kept P W Z (obsBump s u f k n) := by
  induction f generalizing s k n with
  | zero => exact hK
  | succ f ih =>
    have h1 : Kept P W Z (setObs s u k ((obsVal s u k + n) % 2 ^ 48)) := setObs_kept _ _ _ _ hK (Nat.mod_lt _ (by decide))
    unfold obsBump
    dsimp only
    split
    · exact h1
    · have h2 : ∀ l, Kept P W Z { setUnitStatus (setObs s u k ((obsVal s u k + n) % 2 ^ 48)) u l with
          obs := { (setUnitStatus (setObs s u k ((obsVal s u k + n) % 2 ^ 48)) u l).obs with
            wrapped := (setUnitStatus (setObs s u k ((obsVal s u k + n) % 2 ^ 48)) u l).obs.wrapped ++ [(u, k)] } } :=
        fun l => Kept.set_obs (Kept.eta (setUnitStatus_kept _ _ _ h1)) id
      split
      · exact ih _ _ _ (h2 _)
      · exact h2 _

theorem obsEventPc_kept (s : State) (u code : Nat) (pc : Option Nat) (n : Nat) [Can W .obs] (hK : Kept P W Z s) :
    Kept P W Z (obsEventPc s u code pc n) := by
  unfold obsEventPc; split
  · exact hK
  · exact forEach_kept _ _ _ (fun s k h => obsBump_kept _ _ _ _ _ h) hK

theorem obsEvent_kept (s : State) (u code n : Nat) [Can W .obs] (hK : Kept P W Z s) : Kept P W Z (obsEvent s u code n) := by
  unfold obsEvent; try dsimp only
  repeat' (with_reducible first | exact hK | apply obsEventPc_kept)

theorem sendFlit_kept (s : State) (n : Nat) (kind seq : Nat) (slots : List Slot) [Can W .links] [Can W .out] (hK : Kept P W Z s) : Kept P W Z (sendFlit s n kind seq slots) := by
  unfold sendFlit; try dsimp only
  repeat' (with_reducible first | exact hK | apply Kept.ite | apply emit_kept | apply setLink_kept | refine Kept.snd (by assumption) ?_ | split)

theorem returnCredit_kept (s : State) (n c k : Nat) [Can W .links] (hK : Kept P W Z s) : Kept P W Z (returnCredit s n c k) := by
  unfold returnCredit; try dsimp only
  repeat' (with_reducible first | exact hK | intro _ | assumption | apply modLink_kept)

theorem sendNow_kept (s : State) (n : Nat) (m : TxMsg) [Can W .links] [Can W .obs] [Can W .out] (hK : Kept P W Z s) : Kept P W Z (sendNow s n m) := by
  unfold sendNow; try dsimp only
  repeat' (with_reducible first | exact hK | intro _ | assumption | apply Kept.ite | apply modLink_kept | apply obsEvent_kept | apply returnCredit_kept | apply sendFlit_kept | split)

theorem drainTx_kept (s : State) (n : Nat) [Can W .links] [Can W .obs] [Can W .out] (hK : Kept P W Z s) : Kept P W Z (drainTx s n) := by
  unfold drainTx; try dsimp only
  repeat' (with_reducible first | exact hK | intro _ | assumption | apply Kept.ite | apply setLink_kept | apply forEach_kept | apply sendNow_kept | apply modLink_kept | apply forEach_kept | split)

theorem sendMsg_kept (s : State) (n : Nat) (m : TxMsg) [Can W .links] [Can W .obs] [Can W .out] (hK : Kept P W Z s) : Kept P W Z (sendMsg s n m) := by
  unfold sendMsg; try dsimp only
  repeat' (with_reducible first | exact hK | intro _ | assumption | apply Kept.ite | apply sendNow_kept | apply modLink_kept | split)

theorem sendEvt_kept (s : State) (n g : Nat) (m : TxMsg) [Can W .links] [Can W .obs] [Can W .out] (hK : Kept P W Z s) : Kept P W Z (sendEvt s n g m) := by
  unfold sendEvt; try dsimp only
  repeat' (with_reducible first | exact hK | intro _ | assumption | apply Kept.ite | apply sendNow_kept | apply modLink_kept | split)

theorem takeCredit_kept (s : State) (n c k : Nat) [Can W .links] (hK : Kept P W Z s) : Kept P W Z (takeCredit s n c k) := by
  unfold takeCredit; try dsimp only
  repeat' (with_reducible first | exact hK | intro _ | assumption | apply modLink_kept)

theorem takeSrs_kept (s : State) (n : Nat) (data : Bool) [Can W .links] (hK : Kept P W Z s) : Kept P W Z (takeSrs s n data) := by
  unfold takeSrs; try dsimp only
  repeat' (with_reducible first | exact hK | apply Kept.ite | apply returnCredit_kept | apply takeCredit_kept | split)

theorem deliverTo_kept (s : State) (g d : Nat) [Can W .regs] [Can W .links] [Can W .side] [Can W .ev] [Can W .obs] [Can W .out] (hK : Kept P W Z s) : Kept P W Z (deliverTo s g d) := by
  unfold deliverTo; try dsimp only
  repeat' (with_reducible first | exact hK | apply Kept.ite | apply obsEvent_kept | apply sendAlert_kept | apply sendTelemetry_kept | apply sendEvt_kept | (refine Kept.set_ev (Kept.eta ?_); first | exact hK | apply obsEvent_kept | apply sendAlert_kept | apply sendTelemetry_kept | apply sendEvt_kept) | split)

theorem deliver_kept (s : State) (g : Nat) [Can W .regs] [Can W .links] [Can W .side] [Can W .ev] [Can W .obs] [Can W .out] (hK : Kept P W Z s) : Kept P W Z (deliver s g) := by
  unfold deliver; try dsimp only
  repeat' (with_reducible first | exact hK | intro _ | assumption | exact id | decide | apply Kept.ite | apply Kept.ite2 | apply Kept.ite3 | apply forEach_kept | apply deliverTo_kept | apply forEach_kept | refine Kept.snd (by assumption) ?_ | refine Kept.snd3 (by assumption) ?_ | (refine Kept.set_ev (Kept.eta ?_); first | exact hK | assumption | apply Kept.ite | apply forEach_kept | apply deliverTo_kept | apply forEach_kept | refine Kept.snd (by assumption) ?_) | split)

theorem enabledEffects_kept (s : State) (g i det : Nat) (forced : Bool) [Can W .ev] (hK : Kept P W Z s) : Kept P W Z (enabledEffects s g i det forced) := by
  unfold enabledEffects; try dsimp only
  repeat' (with_reducible first | exact hK | intro _ | assumption | exact id | decide | apply Kept.ite | apply Kept.ite2 | apply Kept.ite3 | refine Kept.snd (by assumption) ?_ | refine Kept.snd3 (by assumption) ?_ | (refine Kept.set_ev (Kept.eta ?_); first | exact hK | assumption | apply Kept.ite | refine Kept.snd (by assumption) ?_) | split)

theorem raiseUntraced_kept (s : State) (g i det : Nat) (forced : Bool) [Can W .regs] [Can W .links] [Can W .side] [Can W .ev] [Can W .obs] [Can W .out] (hK : Kept P W Z s) : Kept P W Z (raiseUntraced s g i det forced) := by
  unfold raiseUntraced; try dsimp only
  repeat' (with_reducible first | exact hK | apply Kept.ite | apply enabledEffects_kept | apply deliver_kept | (refine Kept.set_ev (Kept.eta ?_); first | exact hK | apply enabledEffects_kept | apply deliver_kept) | split)

theorem traceAppend_kept (s : State) (r : List Nat) [Can W .obs] (hK : Kept P W Z s) : Kept P W Z (traceAppend s r) := by
  unfold traceAppend; try dsimp only
  repeat' (with_reducible first | exact hK | exact id | apply Kept.ite | (refine Kept.set_obs (Kept.eta ?_) ?_; first | exact hK) | split)

theorem traceDrop_kept (s : State) [Can W .obs] (hK : Kept P W Z s) : Kept P W Z (traceDrop s) := by
  unfold traceDrop; try dsimp only
  repeat' (with_reducible first | exact hK | exact id | apply Kept.ite | (refine Kept.set_obs (Kept.eta ?_) ?_; first | exact hK) | split)

theorem startTrace_kept (s : State) [Can W .pins] [Can W .obs] (hK : Kept P W Z s) : Kept P W Z (startTrace s) := by
  unfold startTrace; try dsimp only
  repeat' (with_reducible first | exact hK | exact id | apply Kept.ite | (refine Kept.set_obs (Kept.set_pins (Kept.eta ?_)) ?_; first | exact hK) | split)

theorem countDrop_kept (s : State) [Can W .regs] [Can W .obs] (hK : Kept P W Z s) : Kept P W Z (countDrop s) := by
  unfold countDrop; try dsimp only
  repeat' (with_reducible first | exact hK | exact id | apply bump_kept | (refine Kept.set_obs (Kept.eta ?_) ?_; first | exact hK | apply bump_kept))

theorem traceRecord_kept (s : State) (r : List Nat) [Can W .regs] [Can W .links] [Can W .side] [Can W .ev] [Can W .obs] [Can W .out] (hK : Kept P W Z s) : Kept P W Z (traceRecord s r) := by
  unfold traceRecord; try dsimp only
  repeat' (with_reducible first | exact hK | apply Kept.ite | apply traceDrop_kept | apply traceAppend_kept | apply countDrop_kept | apply raiseUntraced_kept | split)

theorem raiseDet_kept (s : State) (g i det : Nat) (forced : Bool) [Can W .regs] [Can W .links] [Can W .side] [Can W .ev] [Can W .obs] [Can W .out] (hK : Kept P W Z s) : Kept P W Z (raiseDet s g i det forced) := by
  unfold raiseDet; try dsimp only
  repeat' (with_reducible first | exact hK | apply Kept.ite | apply raiseUntraced_kept | apply traceRecord_kept | split)

theorem raiseEv_kept (s : State) (g i hi lo : Nat) [Can W .regs] [Can W .links] [Can W .side] [Can W .ev] [Can W .obs] [Can W .out] (hK : Kept P W Z s) : Kept P W Z (raiseEv s g i hi lo) := by
  unfold raiseEv; try dsimp only
  repeat' (with_reducible first | exact hK | apply Kept.ite | apply raiseDet_kept | (refine Kept.set_ev (Kept.eta ?_); first | exact hK | apply raiseDet_kept) | split)

theorem raiseFirst_kept (s : State) (g i hi lo : Nat) [Can W .regs] [Can W .links] [Can W .side] [Can W .ev] [Can W .obs] [Can W .out] (hK : Kept P W Z s) : Kept P W Z (raiseFirst s g i hi lo) := by
  unfold raiseFirst; try dsimp only
  repeat' (with_reducible first | exact hK | apply Kept.ite | apply raiseEv_kept | split)

theorem takeLatched_kept (s : State) [Can W .regs] [Can W .links] [Can W .side] [Can W .ev] [Can W .obs] [Can W .out] (hK : Kept P W Z s) : Kept P W Z (takeLatched s) := by
  unfold takeLatched; try dsimp only
  repeat' (with_reducible first | exact hK | intro _ | assumption | apply forEach_kept | apply raiseEv_kept | apply forEach_kept | (refine Kept.set_ev (Kept.eta ?_); first | exact hK | apply forEach_kept | apply raiseEv_kept | apply forEach_kept))

theorem takeForces_kept (s : State) [Can W .regs] [Can W .links] [Can W .side] [Can W .ev] [Can W .obs] [Can W .out] (hK : Kept P W Z s) : Kept P W Z (takeForces s) := by
  unfold takeForces; try dsimp only
  repeat' (with_reducible first | exact hK | intro _ | assumption | apply forEach_kept | apply raiseDet_kept | apply forEach_kept | (refine Kept.set_ev (Kept.eta ?_); first | exact hK | apply forEach_kept | apply raiseDet_kept | apply forEach_kept))

theorem takeWrapped_kept (s : State) [Can W .regs] [Can W .links] [Can W .side] [Can W .ev] [Can W .obs] [Can W .out] (hK : Kept P W Z s) : Kept P W Z (takeWrapped s) := by
  unfold takeWrapped; try dsimp only
  repeat' (with_reducible first | exact hK | intro _ | assumption | exact id | apply forEach_kept | apply raiseFirst_kept | apply forEach_kept | (refine Kept.set_obs (Kept.eta ?_) ?_; first | exact hK | apply forEach_kept | apply raiseFirst_kept | apply forEach_kept))

theorem settleFault_kept (s : State) (g : Nat) [Can W .ev] (hK : Kept P W Z s) : Kept P W Z (settleFault s g) := by
  unfold settleFault; try dsimp only
  repeat' (with_reducible first | exact hK | apply Kept.ite | (refine Kept.set_ev (Kept.eta ?_); first | exact hK) | split)

theorem raiseParity_kept (s : State) (g i u : Nat) [Can W .regs] [Can W .links] [Can W .side] [Can W .ev] [Can W .obs] [Can W .out] (hK : Kept P W Z s) : Kept P W Z (raiseParity s g i u) := by
  unfold raiseParity; try dsimp only
  repeat' (with_reducible first | exact hK | apply raiseEv_kept | apply obsEvent_kept | apply bump_kept)

theorem respond_kept (s : State) (src : Sender) (mtag op index sub offset status value : Nat) (data : List Nat) [Can W .links] [Can W .side] [Can W .obs] [Can W .out] (hK : Kept P W Z s) : Kept P W Z (respond s src mtag op index sub offset status value data) := by
  unfold respond; try dsimp only
  repeat' (with_reducible first | exact hK | intro _ | assumption | apply emit_kept | apply sendMsg_kept | apply sendMctp_kept | split)

theorem refuse_kept (s : State) (src : Sender) (mtag op index sub offset status : Nat) [Can W .regs] [Can W .links] [Can W .side] [Can W .obs] [Can W .out] (hK : Kept P W Z s) : Kept P W Z (refuse s src mtag op index sub offset status) := by
  unfold refuse; try dsimp only
  repeat' (with_reducible first | exact hK | apply obsEvent_kept | apply bumpi_kept | apply respond_kept)

theorem grant_kept (s : State) (src : Sender) (mtag op index sub offset value : Nat) (data : List Nat) [Can W .links] [Can W .side] [Can W .obs] [Can W .out] (hK : Kept P W Z s) : Kept P W Z (grant s src mtag op index sub offset value data) := by
  unfold grant; try dsimp only
  repeat' (with_reducible first | exact hK | apply respond_kept | apply obsEvent_kept)

theorem takeMgtCredit_kept (s : State) (src : Sender) [Can W .links] (hK : Kept P W Z s) : Kept P W Z (takeMgtCredit s src) := by
  unfold takeMgtCredit; try dsimp only
  repeat' (with_reducible first | exact hK | apply takeCredit_kept | split)

theorem turnAway_kept (s : State) (src : Sender) [Can W .regs] (hK : Kept P W Z s) : Kept P W Z (turnAway s src) := by
  unfold turnAway; try dsimp only
  repeat' (with_reducible first | exact hK | apply Kept.ite | apply bumpi_kept | split)

theorem accessWrite_kept (a : Access) (index sub : Nat) (body : Nat → Nat → State → Nat × State) (s : State) [Can W .regs] [Can W .links] [Can W .side] [Can W .obs] [Can W .out] (hK : Kept P W Z s) (hbody : ∀ m v s, Kept P W Z s → Kept P W Z (body m v s).2) : Kept P W Z (accessWrite a index sub body s) := by
  unfold accessWrite; try dsimp only
  repeat' (with_reducible first | exact hK | intro _ | apply hbody | assumption | apply Kept.ite | apply Kept.ite2 | apply turnAway_kept | apply takeMgtCredit_kept | apply refuse_kept | apply grant_kept | refine Kept.snd (by assumption) ?_ | split)

theorem setSel_kept (s : State) (m w v : Nat) [Can W .dict] (hK : Kept P W Z s) : Kept P W Z (setSel s m w v) := by
  unfold setSel; try dsimp only
  repeat' (with_reducible first | exact hK | (refine Kept.set_dict (Kept.eta ?_); first | exact hK))

theorem setQuality_kept (s : State) (q : Nat) [Can W .regs] [Can W .time] [Can W .links] [Can W .side] [Can W .ev] [Can W .obs] [Can W .out] (hK : Kept P W Z s) (hq : q ≤ 3) : Kept P W Z (setQuality s q) := by
  unfold setQuality; split
  · exact hK
  · exact raiseEv_kept _ _ _ _ _ (Kept.set_time (Kept.eta hK) (fun _ => hq) id)

theorem stopBeat_kept (s : State) [Can W .regs] [Can W .pins] [Can W .time] [Can W .links] [Can W .side] [Can W .ev] [Can W .obs] [Can W .out] (hK : Kept P W Z s) : Kept P W Z (stopBeat s) := by
  unfold stopBeat; try dsimp only
  repeat' (with_reducible first | exact hK | intro _ | assumption | exact id | decide | apply Kept.ite | apply Kept.ite2 | apply Kept.ite3 | apply setQuality_kept | refine Kept.snd (by assumption) ?_ | refine Kept.snd3 (by assumption) ?_ | (refine Kept.set_time (Kept.set_pins (Kept.eta ?_)) ?_ ?_; first | exact hK | assumption | apply Kept.ite | apply setQuality_kept | refine Kept.snd (by assumption) ?_) | split)

theorem switchToCrystal_kept (s : State) [Can W .regs] [Can W .time] [Can W .links] [Can W .side] [Can W .ev] [Can W .obs] [Can W .out] (hK : Kept P W Z s) : Kept P W Z (switchToCrystal s) := by
  unfold switchToCrystal; try dsimp only
  repeat' (with_reducible first | exact hK | intro _ | assumption | exact id | decide | apply Kept.ite | apply Kept.ite2 | apply Kept.ite3 | apply setQuality_kept | refine Kept.snd (by assumption) ?_ | refine Kept.snd3 (by assumption) ?_ | (refine Kept.set_time (Kept.eta ?_) ?_ ?_; first | exact hK | assumption | apply Kept.ite | apply setQuality_kept | refine Kept.snd (by assumption) ?_) | split)

theorem startBeat_kept (s : State) [Can W .regs] [Can W .time] [Can W .links] [Can W .side] [Can W .ev] [Can W .obs] [Can W .out] (hK : Kept P W Z s) : Kept P W Z (startBeat s) := by
  unfold startBeat; split
  · exact hK
  · exact takeLatched_kept _ (Kept.set_time (Kept.eta hK) id (fun _ => Nat.mod_lt _ (by decide)))

theorem missEdge_kept (s : State) [Can W .regs] [Can W .time] [Can W .links] [Can W .side] [Can W .ev] [Can W .obs] [Can W .out] (hK : Kept P W Z s) : Kept P W Z (missEdge s) := by
  unfold missEdge; try dsimp only
  repeat' (with_reducible first | exact hK | intro _ | assumption | exact id | decide | apply Kept.ite | apply Kept.ite2 | apply Kept.ite3 | apply bump_kept | apply raiseEv_kept | apply setQuality_kept | refine Kept.snd (by assumption) ?_ | refine Kept.snd3 (by assumption) ?_ | (refine Kept.set_time (Kept.eta ?_) ?_ ?_; first | exact hK | assumption | apply Kept.ite | apply bump_kept | apply raiseEv_kept | apply setQuality_kept | refine Kept.snd (by assumption) ?_) | split)

theorem learnTrim_kept (s : State) (r : Reg) (sample : Int) [Can W .regs] (hK : Kept P W Z s) : Kept P W Z (learnTrim s r sample) := by
  unfold learnTrim; try dsimp only
  repeat' (with_reducible first | exact hK | apply wrS_kept)

theorem disciplineEdge_kept (s : State) (o8 : Int) [Can W .regs] [Can W .time] [Can W .links] [Can W .side] [Can W .ev] [Can W .obs] [Can W .out] (hK : Kept P W Z s) : Kept P W Z (disciplineEdge s o8) := by
  unfold disciplineEdge
  dsimp only
  have h1 : Kept P W Z (if decide (o8 > 8000) = true then raiseEv (bump { s with time := { s.time with stepDue := (o8 * 8000000000).toNat } } R.SLP_TIME_STEPS) 9 7 0 0 else s) :=
    Kept.ite (raiseEv_kept _ _ _ _ _ (bump_kept _ _ (Kept.set_time (Kept.eta hK) id id))) hK
  revert h1
  generalize (if decide (o8 > 8000) = true then raiseEv (bump { s with time := { s.time with stepDue := (o8 * 8000000000).toNat } } R.SLP_TIME_STEPS) 9 7 0 0 else s) = s1
  intro h1
  generalize (if decide (o8 > 8000) = true then (0 : Int) else o8) = o
  have h2 : Kept P W Z (if o ≥ -8000 then wrS s1 R.SLP_TIME_FREQ 0 (clampInt (rdS s1 R.SLP_TIME_FREQ 0 + Int.tdiv o 64) (-200000) 200000) else s1) :=
    Kept.ite (wrS_kept _ _ _ _ h1) h1
  revert h2
  generalize (if o ≥ -8000 then wrS s1 R.SLP_TIME_FREQ 0 (clampInt (rdS s1 R.SLP_TIME_FREQ 0 + Int.tdiv o 64) (-200000) 200000) else s1) = s2
  intro h2
  have h3 : Kept P W Z { s2 with time := { s2.time with
      slew8 := clampInt o (-800000) 800000, slewLeft := o * 8000000000, offset8 := o8, missed := 0 } } :=
    Kept.set_time (Kept.eta h2) id id
  split
  · exact setQuality_kept _ _ (Kept.set_time (Kept.eta h2) id id) (by decide)
  · split
    · exact Kept.set_time (Kept.eta h2) id id
    · exact h3

theorem captureEdge_kept (s : State) (eighths c25 cx : Nat) [Can W .regs] [Can W .time] [Can W .links] [Can W .side] [Can W .ev] [Can W .obs] [Can W .out] (hK : Kept P W Z s) : Kept P W Z (captureEdge s eighths c25 cx) := by
  unfold captureEdge; try dsimp only
  repeat' (with_reducible first | exact hK | exact id | apply Kept.ite | apply bump_kept | apply missEdge_kept | apply disciplineEdge_kept | apply learnTrim_kept | (refine Kept.set_time (Kept.eta ?_) ?_ ?_; first | exact hK | apply bump_kept | apply missEdge_kept | apply disciplineEdge_kept | apply learnTrim_kept) | split)

theorem nameEdge_kept (s : State) (v : Nat) [Can W .regs] [Can W .time] [Can W .links] [Can W .side] [Can W .ev] [Can W .obs] [Can W .out] (hK : Kept P W Z s) : Kept P W Z (nameEdge s v) := by
  unfold nameEdge; try dsimp only
  repeat' (with_reducible first | exact hK | exact id | apply Kept.ite | apply raiseEv_kept | apply bump_kept | (refine Kept.set_time (Kept.eta ?_) ?_ ?_; first | exact hK | apply raiseEv_kept | apply bump_kept) | split)

theorem storeTraining_kept (s : State) (temp : Option Int) [Can W .mram] (hK : Kept P W Z s) : Kept P W Z (storeTraining s temp) := by
  unfold storeTraining; try dsimp only
  repeat' (with_reducible first | exact hK | intro _ | assumption | (refine Kept.set_mram (Kept.eta ?_); first | exact hK))

theorem storeEntry_kept (s : State) (key : Nat) [Can W .mram] (hK : Kept P W Z s) : Kept P W Z (storeEntry s key) := by
  unfold storeEntry; try dsimp only
  repeat' (with_reducible first | exact hK | (refine Kept.set_mram (Kept.eta ?_); first | exact hK))

theorem islandsCleared_kept (s : State) (path : Nat) (keep : Bool) [Can W .regs] [Can W .dict] [Can W .mram] [Can W .pins] [Can W .start] [Can W .fuses] [Can W .time] [Can W .avs] [Can W .links] [Can W .agents] [Can W .flights] [Can W .tree] [Can W .home] [Can W .pchs] [Can W .chans] [Can W .slices] [Can W .array] [Can W .stack] [Can W .sleep] [Can W .mbx] [Can W .masters] [Can W .side] [Can W .ump] [Can W .images] [Can W .ev] [Can W .funs] [Can W .ledgers] [Can W .obs] [Can W .out] [Can W .now] [Can W .uid] [Can W .free] (hK : Kept P W Z s) :
    Kept P W Z (islandsCleared s path keep) := by
  unfold islandsCleared
  refine ⟨fun hp => ?_, fun q hq => ?_⟩
  · have hI := hK.1 hp
    refine ⟨?_, ?_, ?_, ?_, hI.2.2.2.2⟩
    · dsimp only; split
      · exact hI.1
      · rfl
    · intro p hp; cases hp
    · exact Fifo.ok_empty
    · exact Fifo.ok_empty
  · have h := hK.2 q hq
    cases q <;> first
      | exact h
      | exact absurd (Can.ok.symm.trans hq) (by decide)

theorem islandsReset_kept (s : State) (cause path : Nat) (keep : Bool) [Can W .regs] [Can W .dict] [Can W .mram] [Can W .pins] [Can W .start] [Can W .fuses] [Can W .time] [Can W .avs] [Can W .links] [Can W .agents] [Can W .flights] [Can W .tree] [Can W .home] [Can W .pchs] [Can W .chans] [Can W .slices] [Can W .array] [Can W .stack] [Can W .sleep] [Can W .mbx] [Can W .masters] [Can W .side] [Can W .ump] [Can W .images] [Can W .ev] [Can W .funs] [Can W .ledgers] [Can W .obs] [Can W .out] [Can W .now] [Can W .uid] [Can W .free] (hK : Kept P W Z s) : Kept P W Z (islandsReset s cause path keep) := by
  unfold islandsReset; try dsimp only
  repeat' (with_reducible first | exact hK | intro _ | assumption | apply islandsCleared_kept | apply wr_kept | apply forEach_kept | apply wri_kept | apply forEach_kept)

theorem blockReset_kept (s : State) (cause : Nat) (ranSteps : Bool) [Can W .regs] [Can W .dict] [Can W .mram] [Can W .pins] [Can W .start] [Can W .fuses] [Can W .time] [Can W .avs] [Can W .links] [Can W .agents] [Can W .flights] [Can W .tree] [Can W .home] [Can W .pchs] [Can W .chans] [Can W .slices] [Can W .array] [Can W .stack] [Can W .sleep] [Can W .mbx] [Can W .masters] [Can W .side] [Can W .ump] [Can W .images] [Can W .ev] [Can W .funs] [Can W .ledgers] [Can W .obs] [Can W .out] [Can W .now] [Can W .uid] [Can W .free] (hK : Kept P W Z s) : Kept P W Z (blockReset s cause ranSteps) := by
  unfold blockReset; try dsimp only
  repeat' (with_reducible first | exact hK | apply Kept.ite | apply islandsReset_kept | (refine Kept.set_ev (Kept.set_pins (Kept.eta ?_)); first | exact hK | apply islandsReset_kept) | split)

theorem beginStart_kept (s : State) [Can W .regs] [Can W .start] (hK : Kept P W Z s) : Kept P W Z (beginStart s) := by
  unfold beginStart; try dsimp only
  repeat' (with_reducible first | exact hK | apply Kept.ite | apply bump_kept | apply wr_kept | (refine Kept.set_start (Kept.eta ?_); first | exact hK | apply bump_kept | apply wr_kept) | split)

theorem stopStart_kept (s : State) (cause : Nat) [Can W .regs] [Can W .start] [Can W .links] [Can W .side] [Can W .ev] [Can W .obs] [Can W .out] (hK : Kept P W Z s) : Kept P W Z (stopStart s cause) := by
  unfold stopStart; try dsimp only
  repeat' (with_reducible first | exact hK | apply raiseEv_kept | apply wr_kept | (refine Kept.set_start (Kept.eta ?_); first | exact hK | apply raiseEv_kept | apply wr_kept))

theorem alarmPin_kept (s : State) [Can W .pins] (hK : Kept P W Z s) : Kept P W Z (alarmPin s) := by
  unfold alarmPin; try dsimp only
  repeat' (with_reducible first | exact hK | (refine Kept.set_pins (Kept.eta ?_); first | exact hK))

theorem powerOnReset_kept (s : State) [Can W .regs] [Can W .dict] [Can W .mram] [Can W .pins] [Can W .start] [Can W .fuses] [Can W .time] [Can W .avs] [Can W .links] [Can W .agents] [Can W .flights] [Can W .tree] [Can W .home] [Can W .pchs] [Can W .chans] [Can W .slices] [Can W .array] [Can W .stack] [Can W .sleep] [Can W .mbx] [Can W .masters] [Can W .side] [Can W .ump] [Can W .images] [Can W .ev] [Can W .funs] [Can W .ledgers] [Can W .obs] [Can W .out] [Can W .now] [Can W .uid] [Can W .free] (hK : Kept P W Z s) : Kept P W Z (powerOnReset s) := by
  unfold powerOnReset
  have h1 := islandsReset_kept _ 0 0 false (Kept.set_ev (Kept.set_start (Kept.eta hK)) :
    Kept P W Z { s with ev := { s.ev with latched := [] }, start := { s.start with refLost := false } })
  have h2 := Kept.set_time (time' := {}) (Kept.set_sleep (sleep' := {}) (Kept.eta h1)) (fun _ => by decide) (fun _ => by decide)
  exact alarmPin_kept _ (wr_kept _ _ _ (Kept.set_start (Kept.eta (Kept.set_start (Kept.set_pins (Kept.eta h2))))))

theorem doPorAssert_kept (s : State) [Can W .regs] [Can W .dict] [Can W .mram] [Can W .pins] [Can W .start] [Can W .fuses] [Can W .time] [Can W .avs] [Can W .links] [Can W .agents] [Can W .flights] [Can W .tree] [Can W .home] [Can W .pchs] [Can W .chans] [Can W .slices] [Can W .array] [Can W .stack] [Can W .sleep] [Can W .mbx] [Can W .masters] [Can W .side] [Can W .ump] [Can W .images] [Can W .ev] [Can W .funs] [Can W .ledgers] [Can W .obs] [Can W .out] [Can W .now] [Can W .uid] [Can W .free] (hK : Kept P W Z s) : Kept P W Z (doPorAssert s) := by
  unfold doPorAssert; try dsimp only
  repeat' (with_reducible first | exact hK | apply powerOnReset_kept)

theorem doPorRelease_kept (s : State) [Can W .pins] [Can W .start] (hK : Kept P W Z s) : Kept P W Z (doPorRelease s) := by
  unfold doPorRelease; try dsimp only
  repeat' (with_reducible first | exact hK | apply Kept.ite | (refine Kept.set_start (Kept.set_pins (Kept.eta ?_)); first | exact hK) | split)

theorem doBlockResetAssert_kept (s : State) [Can W .regs] [Can W .dict] [Can W .mram] [Can W .pins] [Can W .start] [Can W .fuses] [Can W .time] [Can W .avs] [Can W .links] [Can W .agents] [Can W .flights] [Can W .tree] [Can W .home] [Can W .pchs] [Can W .chans] [Can W .slices] [Can W .array] [Can W .stack] [Can W .sleep] [Can W .mbx] [Can W .masters] [Can W .side] [Can W .ump] [Can W .images] [Can W .ev] [Can W .funs] [Can W .ledgers] [Can W .obs] [Can W .out] [Can W .now] [Can W .uid] [Can W .free] (hK : Kept P W Z s) : Kept P W Z (doBlockResetAssert s) := by
  unfold doBlockResetAssert; try dsimp only
  repeat' (with_reducible first | exact hK | apply Kept.ite | apply blockReset_kept | (refine Kept.set_pins (Kept.eta ?_); first | exact hK | apply blockReset_kept) | split)

theorem doResetRelease_kept (s : State) [Can W .regs] [Can W .pins] [Can W .start] (hK : Kept P W Z s) : Kept P W Z (doResetRelease s) := by
  unfold doResetRelease; try dsimp only
  repeat' (with_reducible first | exact hK | apply Kept.ite | apply beginStart_kept | (refine Kept.set_pins (Kept.eta ?_); first | exact hK | apply beginStart_kept) | split)

theorem doRstCmplAckRise_kept (s : State) [Can W .regs] [Can W .pins] [Can W .start] (hK : Kept P W Z s) : Kept P W Z (doRstCmplAckRise s) := by
  unfold doRstCmplAckRise; try dsimp only
  repeat' (with_reducible first | exact hK | apply Kept.ite | apply wr_kept | (refine Kept.set_start (Kept.set_pins (Kept.eta ?_)); first | exact hK | apply wr_kept) | split)

theorem doRstCmplAckFall_kept (s : State) [Can W .pins] [Can W .start] (hK : Kept P W Z s) : Kept P W Z (doRstCmplAckFall s) := by
  unfold doRstCmplAckFall; try dsimp only
  repeat' (with_reducible first | exact hK | (refine Kept.set_start (Kept.set_pins (Kept.eta ?_)); first | exact hK))

theorem doPwrAck_kept (supply : Nat) (level : Bool) (s : State) [Can W .regs] [Can W .dict] [Can W .mram] [Can W .pins] [Can W .start] [Can W .fuses] [Can W .time] [Can W .avs] [Can W .links] [Can W .agents] [Can W .flights] [Can W .tree] [Can W .home] [Can W .pchs] [Can W .chans] [Can W .slices] [Can W .array] [Can W .stack] [Can W .sleep] [Can W .mbx] [Can W .masters] [Can W .side] [Can W .ump] [Can W .images] [Can W .ev] [Can W .funs] [Can W .ledgers] [Can W .obs] [Can W .out] [Can W .now] [Can W .uid] [Can W .free] (hK : Kept P W Z s) : Kept P W Z (doPwrAck supply level s) := by
  unfold doPwrAck; try dsimp only
  repeat' (with_reducible first | exact hK | apply Kept.ite | apply islandsReset_kept | (refine Kept.set_pins (Kept.eta ?_); first | exact hK | apply islandsReset_kept) | split)

theorem doPwrAckTimeout_kept (supply : Nat) (s : State) [Can W .regs] [Can W .pins] [Can W .links] [Can W .side] [Can W .ev] [Can W .obs] [Can W .out] (hK : Kept P W Z s) : Kept P W Z (doPwrAckTimeout supply s) := by
  unfold doPwrAckTimeout; try dsimp only
  repeat' (with_reducible first | exact hK | apply Kept.ite | apply raiseEv_kept | apply bump_kept | (refine Kept.set_pins (Kept.eta ?_); first | exact hK | apply raiseEv_kept | apply bump_kept) | split)

theorem doRefclkLoss_kept (s : State) [Can W .regs] [Can W .dict] [Can W .mram] [Can W .pins] [Can W .start] [Can W .fuses] [Can W .time] [Can W .avs] [Can W .links] [Can W .agents] [Can W .flights] [Can W .tree] [Can W .home] [Can W .pchs] [Can W .chans] [Can W .slices] [Can W .array] [Can W .stack] [Can W .sleep] [Can W .mbx] [Can W .masters] [Can W .side] [Can W .ump] [Can W .images] [Can W .ev] [Can W .funs] [Can W .ledgers] [Can W .obs] [Can W .out] [Can W .now] [Can W .uid] [Can W .free] (hK : Kept P W Z s) : Kept P W Z (doRefclkLoss s) := by
  unfold doRefclkLoss; try dsimp only
  repeat' (with_reducible first | exact hK | apply Kept.ite | apply stopBeat_kept | apply bump_kept | apply blockReset_kept | (refine Kept.set_ev (Kept.set_start (Kept.set_pins (Kept.eta ?_))); first | exact hK | apply stopBeat_kept | apply bump_kept | apply blockReset_kept) | split)

theorem doRefclkReturn_kept (s : State) [Can W .regs] [Can W .pins] [Can W .start] [Can W .ev] (hK : Kept P W Z s) : Kept P W Z (doRefclkReturn s) := by
  unfold doRefclkReturn; try dsimp only
  repeat' (with_reducible first | exact hK | apply Kept.ite | apply beginStart_kept | (refine Kept.set_ev (Kept.set_start (Kept.set_pins (Kept.eta ?_))); first | exact hK | apply beginStart_kept) | split)

theorem doHoldoverClockSwitch_kept (s : State) [Can W .regs] [Can W .pins] [Can W .time] [Can W .links] [Can W .side] [Can W .ev] [Can W .obs] [Can W .out] (hK : Kept P W Z s) : Kept P W Z (doHoldoverClockSwitch s) := by
  unfold doHoldoverClockSwitch; try dsimp only
  repeat' (with_reducible first | exact hK | apply Kept.ite | apply switchToCrystal_kept | (refine Kept.set_pins (Kept.eta ?_); first | exact hK | apply switchToCrystal_kept) | split)

theorem doHoldoverClockLoss_kept (s : State) [Can W .regs] [Can W .pins] [Can W .time] [Can W .links] [Can W .side] [Can W .ev] [Can W .obs] [Can W .out] (hK : Kept P W Z s) : Kept P W Z (doHoldoverClockLoss s) := by
  unfold doHoldoverClockLoss; try dsimp only
  repeat' (with_reducible first | exact hK | intro _ | assumption | exact id | decide | apply Kept.ite | apply Kept.ite2 | apply Kept.ite3 | apply setQuality_kept | refine Kept.snd (by assumption) ?_ | refine Kept.snd3 (by assumption) ?_ | (refine Kept.set_pins (Kept.eta ?_); first | exact hK | assumption | apply Kept.ite | apply setQuality_kept | refine Kept.snd (by assumption) ?_) | split)

theorem doRefclk25Return_kept (s : State) [Can W .pins] (hK : Kept P W Z s) : Kept P W Z (doRefclk25Return s) := by
  unfold doRefclk25Return; try dsimp only
  repeat' (with_reducible first | exact hK | (refine Kept.set_pins (Kept.eta ?_); first | exact hK))

theorem doPllLockLoss_kept (pll : Nat) (s : State) [Can W .regs] [Can W .start] [Can W .links] [Can W .side] [Can W .ev] [Can W .obs] [Can W .out] (hK : Kept P W Z s) : Kept P W Z (doPllLockLoss pll s) := by
  unfold doPllLockLoss; try dsimp only
  repeat' (with_reducible first | exact hK | apply raiseEv_kept | (refine Kept.set_start (Kept.eta ?_); first | exact hK | apply raiseEv_kept))

theorem avsRequest_kept (s : State) (code : Nat) [Can W .regs] [Can W .pins] [Can W .avs] (hK : Kept P W Z s) : Kept P W Z (avsRequest s code) := by
  unfold avsRequest; try dsimp only
  repeat' (with_reducible first | exact hK | apply wr_kept | (refine Kept.set_avs (Kept.set_pins (Kept.eta ?_)); first | exact hK | apply wr_kept))

theorem avsOrder_kept (s : State) (code : Nat) [Can W .regs] [Can W .pins] [Can W .avs] (hK : Kept P W Z s) : Kept P W Z (avsOrder s code) := by
  unfold avsOrder; try dsimp only
  repeat' (with_reducible first | exact hK | apply Kept.ite | apply avsRequest_kept | (refine Kept.set_avs (Kept.eta ?_); first | exact hK | apply avsRequest_kept) | split)

theorem avsClimb_kept (s : State) [Can W .regs] [Can W .pins] [Can W .avs] (hK : Kept P W Z s) : Kept P W Z (avsClimb s) := by
  unfold avsClimb; try dsimp only
  repeat' (with_reducible first | exact hK | apply Kept.ite | apply avsRequest_kept | split)

theorem doAvsMarginLow_kept (step : Nat) (s : State) [Can W .regs] [Can W .pins] [Can W .avs] (hK : Kept P W Z s) : Kept P W Z (doAvsMarginLow step s) := by
  unfold doAvsMarginLow; try dsimp only
  repeat' (with_reducible first | exact hK | apply Kept.ite | apply avsRequest_kept | split)

theorem doAvsMarginHighHold_kept (step : Nat) (s : State) [Can W .regs] [Can W .pins] [Can W .avs] (hK : Kept P W Z s) : Kept P W Z (doAvsMarginHighHold step s) := by
  unfold doAvsMarginHighHold; try dsimp only
  repeat' (with_reducible first | exact hK | apply Kept.ite | apply avsRequest_kept | split)

theorem doAvsAck_kept (late : Bool) (s : State) [Can W .pins] (hK : Kept P W Z s) : Kept P W Z (doAvsAck late s) := by
  unfold doAvsAck; try dsimp only
  repeat' (with_reducible first | exact hK | (refine Kept.set_pins (Kept.eta ?_); first | exact hK))

theorem doAvsAckDrop_kept (s : State) [Can W .regs] [Can W .pins] [Can W .avs] (hK : Kept P W Z s) : Kept P W Z (doAvsAckDrop s) := by
  unfold doAvsAckDrop; try dsimp only
  repeat' (with_reducible first | exact hK | apply Kept.ite | apply avsRequest_kept | apply avsClimb_kept | (refine Kept.set_avs (Kept.set_pins (Kept.eta ?_)); first | exact hK | apply avsRequest_kept | apply avsClimb_kept) | split)

theorem doAvsAckTimeout_kept (s : State) [Can W .regs] [Can W .pins] [Can W .avs] [Can W .links] [Can W .side] [Can W .ev] [Can W .obs] [Can W .out] (hK : Kept P W Z s) : Kept P W Z (doAvsAckTimeout s) := by
  unfold doAvsAckTimeout; try dsimp only
  repeat' (with_reducible first | exact hK | apply Kept.ite | apply raiseEv_kept | apply bump_kept | apply wr_kept | apply avsRequest_kept | apply avsClimb_kept | (refine Kept.set_avs (Kept.set_pins (Kept.eta ?_)); first | exact hK | apply raiseEv_kept | apply bump_kept | apply wr_kept | apply avsRequest_kept | apply avsClimb_kept) | split)

theorem markInput_kept (s : State) (n : Nat) [Can W .ev] (hK : Kept P W Z s) : Kept P W Z (markInput s n) := by
  unfold markInput; try dsimp only
  repeat' (with_reducible first | exact hK | (refine Kept.set_ev (Kept.eta ?_); first | exact hK))

theorem sampleEdges_kept (s : State) (n edges : Nat) [Can W .regs] [Can W .links] [Can W .side] [Can W .ev] [Can W .obs] [Can W .out] (hK : Kept P W Z s) : Kept P W Z (sampleEdges s n edges) := by
  unfold sampleEdges; try dsimp only
  repeat' (with_reducible first | exact hK | apply Kept.ite | apply wri_kept | apply markInput_kept | apply raiseFirst_kept | apply bumpTo_kept | split)

theorem doTsyncEdge_kept (eighths edges c25 cx : Nat) (s : State) [Can W .regs] [Can W .time] [Can W .links] [Can W .side] [Can W .ev] [Can W .obs] [Can W .out] (hK : Kept P W Z s) : Kept P W Z (doTsyncEdge eighths edges c25 cx s) := by
  unfold doTsyncEdge; try dsimp only
  repeat' (with_reducible first | exact hK | apply Kept.ite | apply captureEdge_kept | apply sampleEdges_kept | split)

theorem doTimeErrorLimit_kept (s : State) [Can W .regs] [Can W .time] [Can W .links] [Can W .side] [Can W .ev] [Can W .obs] [Can W .out] (hK : Kept P W Z s) : Kept P W Z (doTimeErrorLimit s) := by
  unfold doTimeErrorLimit; try dsimp only
  repeat' (with_reducible first | exact hK | intro _ | assumption | exact id | decide | apply Kept.ite | apply Kept.ite2 | apply Kept.ite3 | apply setQuality_kept | refine Kept.snd (by assumption) ?_ | refine Kept.snd3 (by assumption) ?_ | split)

theorem doDynamicAddressAssign_kept (addr : Nat) (s : State) [Can W .regs] [Can W .out] (hK : Kept P W Z s) : Kept P W Z (doDynamicAddressAssign addr s) := by
  unfold doDynamicAddressAssign; try dsimp only
  repeat' (with_reducible first | exact hK | apply Kept.ite | apply emit_kept | apply wr_kept | split)

theorem doInputStuck_kept (input : Nat) (s : State) [Can W .regs] [Can W .links] [Can W .stack] [Can W .side] [Can W .ev] [Can W .obs] [Can W .out] (hK : Kept P W Z s) : Kept P W Z (doInputStuck input s) := by
  unfold doInputStuck; try dsimp only
  repeat' (with_reducible first | exact hK | intro _ | assumption | apply Kept.ite | apply modStack_kept | apply raiseEv_kept | apply bumpi_kept | apply wri_kept | apply markInput_kept | split)

theorem doInputReleaseCheck_kept (input : Nat) (level : Bool) (s : State) [Can W .regs] [Can W .links] [Can W .side] [Can W .ev] [Can W .obs] [Can W .out] (hK : Kept P W Z s) : Kept P W Z (doInputReleaseCheck input level s) := by
  unfold doInputReleaseCheck; try dsimp only
  repeat' (with_reducible first | exact hK | apply Kept.ite | apply wri_kept | apply markInput_kept | apply raiseEv_kept | split)

end Sys2Proof.Machine
end

