-- ==== Sys2Proof/Laws/Registers.lean ====
section
/-!
SUPPORT. Registers: a read after a write gives the value written, and every other register keeps its own.
-/
namespace Sys2Proof.Machine

/-- A register's value depends on the registers and the variant alone. -/
theorem rdi_congr {s t : State} (h : t.regs = s.regs) (p : t.ply16 = s.ply16) (r : Reg) (i : Nat) : rdi t r i = rdi s r i := by
  unfold rdi val; rw [h, p]

theorem rd_congr {s t : State} (h : t.regs = s.regs) (p : t.ply16 = s.ply16) (r : Reg) : rd t r = rd s r := rdi_congr h p r 0

theorem val_congr {s t : State} (h : t.regs = s.regs) (k d : Nat) : val t k d = val s k d := by unfold val; rw [h]

@[simp] theorem val_put_same (s : State) (k d v : Nat) : val (put s k d v) k d = v := by simp [val, put]

theorem val_put_ne (s : State) {k j : Nat} (d e v : Nat) (h : j ≠ k) : val (put s k d v) j e = val s j e := by
  simp [val, put, tget_tput_ne _ _ _ _ h]

@[simp] theorem rdi_wri_same (s : State) (r : Reg) (i v : Nat) : rdi (wri s r i v) r i = v := by
  unfold rdi wri; exact val_put_same ..

@[simp] theorem rd_wr_same (s : State) (r : Reg) (v : Nat) : rd (wr s r v) r = v := rdi_wri_same ..

theorem rdi_wri_ne (s : State) {r q : Reg} {i j : Nat} (v : Nat) (h : q.key + j * q.stride ≠ r.key + i * r.stride) :
    rdi (wri s r i v) q j = rdi s q j := by
  unfold rdi wri; exact val_put_ne _ _ _ _ h

theorem rd_wr_ne (s : State) {r q : Reg} (v : Nat) (h : q.key + 0 * q.stride ≠ r.key + 0 * r.stride) :
    rd (wr s r v) q = rd s q := rdi_wri_ne s v h

/-- A saturating count rises by one. -/
@[simp] theorem rdi_bumpi_same (s : State) (r : Reg) (i : Nat) : rdi (bumpi s r i) r i = min (rdi s r i + 1) satMax :=
  rdi_wri_same ..

theorem rdi_bumpi_ne (s : State) {r q : Reg} {i j : Nat} (h : q.key + j * q.stride ≠ r.key + i * r.stride) :
    rdi (bumpi s r i) q j = rdi s q j := rdi_wri_ne s _ h

@[simp] theorem rd_bump_same (s : State) (r : Reg) : rd (bump s r) r = min (rd s r + 1) satMax := rdi_wri_same ..

end Sys2Proof.Machine
end

