-- ==== Sys2Proof/Laws/Reported.lean ====
section
/-!
SUPPORT. What raising an event, counting and answering leave alone: each operation's state is `Reported` or `Answered` from the state
before it, and register writes carry both along.
-/
namespace Sys2Proof.Machine

theorem Within.refl (w : Part → Bool) (s : State) : Within w s s := fun p _ => by cases p <;> rfl
theorem Within.trans {w : Part → Bool} {s t u : State} (h : Within w s t) (k : Within w t u) : Within w s u := fun p hp => by
  have h1 := h p hp
  have h2 := k p hp
  cases p <;> exact Eq.trans h2 h1
theorem Within.mono {v w : Part → Bool} {s t : State} (h : Within v s t) (hw : ∀ p, w p = false → v p = false) : Within w s t :=
  fun p hp => h p (hw p hp)

theorem can_of {w : Part → Bool} (q : Part) (h : w q = true) : Can w q := ⟨h⟩

abbrev onAnswer : Part → Bool := fun p => decide (p ∈ [Part.links, .side, .obs, .out])
abbrev onReport : Part → Bool := fun p => decide (p ∈ [Part.regs, .links, .side, .ev, .obs, .out])

theorem Answered.refl (s : State) : Answered s s := Within.refl _ s
theorem Answered.trans {s t u : State} (h : Answered s t) (k : Answered t u) : Answered s u := Within.trans h k
theorem Reported.refl (s : State) : Reported s s := ⟨Within.refl _ s, fun _ _ _ => rfl⟩
theorem Reported.trans {s t u : State} (h : Reported s t) (k : Reported t u) : Reported s u :=
  ⟨h.1.trans k.1, fun key d hk => (k.2 key d hk).trans (h.2 key d hk)⟩

theorem val_regs {s t : State} (h : t.regs = s.regs) (key d : Nat) : val t key d = val s key d := by unfold val; rw [h]

theorem Answered.reported {s t : State} (h : Answered s t) : Reported s t :=
  ⟨Within.mono h (fun p => by cases p <;> decide), fun key d _ => val_regs (h .regs rfl) key d⟩

/-- An operation that leaves registers, and all parts outside reporting, is Reported. -/
theorem Reported.of_regs {s t : State} (h : Within onReport s t) (hr : t.regs = s.regs) : Reported s t :=
  ⟨h, fun key d _ => val_regs hr key d⟩

theorem obsEvent_answered (s : State) (u c n : Nat) : Answered s (obsEvent s u c n) := by
  haveI := can_of (w := onAnswer) .obs rfl
  exact (obsEvent_kept s u c n (Kept.start (s := s))).2
theorem emit_answered (s : State) (o : Out) : Answered s (emit s o) := by
  haveI := can_of (w := onAnswer) .out rfl
  exact (emit_kept s o (Kept.start (s := s))).2
theorem takeMgtCredit_answered (s : State) (src : Sender) : Answered s (takeMgtCredit s src) := by
  haveI := can_of (w := onAnswer) .links rfl
  exact (takeMgtCredit_kept s src (Kept.start (s := s))).2
theorem respond_answered (s : State) (src : Sender) (m o i b f st v : Nat) (d : List Nat) : Answered s (respond s src m o i b f st v d) := by
  haveI := can_of (w := onAnswer) .links rfl
  haveI := can_of (w := onAnswer) .side rfl
  haveI := can_of (w := onAnswer) .obs rfl
  haveI := can_of (w := onAnswer) .out rfl
  exact (respond_kept s src m o i b f st v d (Kept.start (s := s))).2
theorem grant_answered (s : State) (src : Sender) (m o i b f v : Nat) (d : List Nat) : Answered s (grant s src m o i b f v d) :=
  (obsEvent_answered s _ _ _).trans (respond_answered _ _ _ _ _ _ _ _ _ _)
theorem sendMsg_answered (s : State) (n : Nat) (m : TxMsg) : Answered s (sendMsg s n m) := by
  haveI := can_of (w := onAnswer) .links rfl
  haveI := can_of (w := onAnswer) .obs rfl
  haveI := can_of (w := onAnswer) .out rfl
  exact (sendMsg_kept s n m (Kept.start (s := s))).2
theorem sendEvt_answered (s : State) (n g : Nat) (m : TxMsg) : Answered s (sendEvt s n g m) := by
  haveI := can_of (w := onAnswer) .links rfl
  haveI := can_of (w := onAnswer) .obs rfl
  haveI := can_of (w := onAnswer) .out rfl
  exact (sendEvt_kept s n g m (Kept.start (s := s))).2

/-- A register write keeps two states Reported. -/
theorem Reported.put {s t : State} (h : Reported s t) (key d v : Nat) : Reported (put s key d v) (put t key d v) := by
  refine ⟨fun p hp => ?_, fun k e hk => ?_⟩
  · have := h.1 p hp
    cases p <;> first | exact this | cases hp
  · by_cases he : k = key
    · subst he
      unfold val Sys2Proof.Machine.put tput
      dsimp only
      split
      · simp only [tget, tget?_tdel_same]
      · simp only [tget, tget?_tset_same]
    · rw [val_put_ne _ _ _ _ he, val_put_ne _ _ _ _ he]; exact h.2 k e hk

theorem Reported.ply16 {s t : State} (h : Reported s t) : t.ply16 = s.ply16 := h.1 .ply16 rfl

theorem Reported.rdi {s t : State} (h : Reported s t) (r : Reg) (i : Nat) (hk : r.key + i * r.stride ∉ reportKeys) :
    rdi t r i = rdi s r i := by
  unfold Sys2Proof.Machine.rdi; rw [h.ply16]; exact h.2 _ _ hk

theorem Reported.rd {s t : State} (h : Reported s t) (r : Reg) (hk : r.key + 0 * r.stride ∉ reportKeys) : rd t r = rd s r := h.rdi r 0 hk

theorem Reported.wri {s t : State} (h : Reported s t) (r : Reg) (i v : Nat) : Reported (wri s r i v) (wri t r i v) := by
  unfold Sys2Proof.Machine.wri; rw [h.ply16]; exact h.put _ _ _
theorem Reported.wr {s t : State} (h : Reported s t) (r : Reg) (v : Nat) : Reported (wr s r v) (wr t r v) := h.wri r 0 v
theorem Reported.bumpi {s t : State} (h : Reported s t) (r : Reg) (i : Nat) (hk : r.key + i * r.stride ∉ reportKeys) :
    Reported (bumpi s r i) (bumpi t r i) := by
  unfold Sys2Proof.Machine.bumpi bumpTo; rw [h.rdi r i hk]; exact h.wri _ _ _
theorem Reported.bump {s t : State} (h : Reported s t) (r : Reg) (hk : r.key + 0 * r.stride ∉ reportKeys) :
    Reported (bump s r) (bump t r) := h.bumpi r 0 hk

variable {z : State}

/-- A write of one of the reporting counts. -/
theorem put_reported (s : State) (key d v : Nat) (hk : key ∈ reportKeys) (h : Reported z s) : Reported z (put s key d v) := by
  refine h.trans ⟨fun p hp => ?_, fun k e h => val_put_ne _ _ _ _ (fun he => h (he ▸ hk))⟩
  cases p <;> first | rfl | cases hp

theorem bump_reported (s : State) (r : Reg) (hk : r.key + 0 * r.stride ∈ reportKeys) (h : Reported z s) : Reported z (bump s r) :=
  put_reported _ _ _ _ hk h

theorem forEach_reported {α : Type} (l : List α) (s : State) (f : State → α → State) (hf : ∀ s a, Reported z s → Reported z (f s a))
    (h : Reported z s) : Reported z (forEach l s f) := by
  unfold forEach; induction l generalizing s with
  | nil => exact h
  | cons a l ih => exact ih _ (hf _ _ h)

theorem Reported.ite {c : Prop} [Decidable c] {s a b : State} (h : Reported s a) (k : Reported s b) : Reported s (if c then a else b) := by
  split <;> assumption

/-- Parts of reporting other than the registers may change. -/
theorem reported_of {s t : State} (h : Within (fun p => decide (p ∈ [Part.links, .side, .ev, .obs, .out])) s t) : Reported s t :=
  ⟨h.mono (fun p => by cases p <;> decide), fun key d _ => val_regs (h .regs rfl) key d⟩

theorem side_reported {s : State} {x : Sideband} (h : Reported z s) : Reported z { s with side := x } :=
  h.trans (reported_of fun p hp => by cases p <;> first | rfl | cases hp)
theorem ev_reported {s : State} {x : Events} (h : Reported z s) : Reported z { s with ev := x } :=
  h.trans (reported_of fun p hp => by cases p <;> first | rfl | cases hp)
theorem obs_reported {s : State} {x : Obs} (h : Reported z s) : Reported z { s with obs := x } :=
  h.trans (reported_of fun p hp => by cases p <;> first | rfl | cases hp)
theorem emit_reported (s : State) (o : Out) (h : Reported z s) : Reported z (emit s o) := h.trans (emit_answered s o).reported
theorem obsEvent_reported (s : State) (u c n : Nat) (h : Reported z s) : Reported z (obsEvent s u c n) :=
  h.trans (obsEvent_answered s u c n).reported
theorem grant_reported (s : State) (src : Sender) (m o i b f v : Nat) (d : List Nat) (h : Reported z s) :
    Reported z (grant s src m o i b f v d) := h.trans (grant_answered s src m o i b f v d).reported
theorem sendMsg_reported (s : State) (n : Nat) (m : TxMsg) (h : Reported z s) : Reported z (sendMsg s n m) :=
  h.trans (sendMsg_answered s n m).reported
theorem sendEvt_reported (s : State) (n g : Nat) (m : TxMsg) (h : Reported z s) : Reported z (sendEvt s n g m) :=
  h.trans (sendEvt_answered s n g m).reported
theorem takeMgtCredit_reported (s : State) (src : Sender) (h : Reported z s) : Reported z (takeMgtCredit s src) :=
  h.trans (takeMgtCredit_answered s src).reported

theorem flushTelemetry_reported (s : State) (h : Reported z s) : Reported z (flushTelemetry s) := by
  unfold flushTelemetry
  exact side_reported (put_reported s _ _ _ (by decide) h)

theorem pendingIbi_reported (s : State) (h : Reported z s) : Reported z (pendingIbi s) := by
  unfold pendingIbi; try dsimp only
  repeat' (with_reducible first | exact h | assumption | decide | intro _ | apply Reported.ite | apply emit_reported | apply side_reported | apply ev_reported | apply obs_reported | split)
theorem queueTelemetry_reported (s : State) (b : List Nat) (h : Reported z s) : Reported z (queueTelemetry s b) := by
  unfold queueTelemetry; try dsimp only
  repeat' (with_reducible first | exact h | assumption | decide | intro _ | apply Reported.ite | apply pendingIbi_reported | apply flushTelemetry_reported | apply bump_reported | apply side_reported | apply ev_reported | apply obs_reported | split)
theorem sendTelemetry_reported (s : State) (x : Slot) (h : Reported z s) : Reported z (sendTelemetry s x) := by
  unfold sendTelemetry; try dsimp only
  repeat' (with_reducible first | exact h | assumption | decide | intro _ | apply Reported.ite | apply queueTelemetry_reported | apply forEach_reported | apply side_reported | apply ev_reported | apply obs_reported | split)
theorem sendAlert_reported (s : State) (g : Nat) (h : Reported z s) : Reported z (sendAlert s g) := by
  unfold sendAlert; try dsimp only
  repeat' (with_reducible first | exact h | assumption | decide | intro _ | apply Reported.ite | apply emit_reported | apply side_reported | apply ev_reported | apply obs_reported | split)
theorem deliverTo_reported (s : State) (g d : Nat) (h : Reported z s) : Reported z (deliverTo s g d) := by
  unfold deliverTo; try dsimp only
  repeat' (with_reducible first | exact h | assumption | decide | intro _ | apply Reported.ite | apply sendAlert_reported | apply sendTelemetry_reported | apply sendEvt_reported | apply obsEvent_reported | apply side_reported | apply ev_reported | apply obs_reported | split)
theorem deliver_reported (s : State) (g : Nat) (h : Reported z s) : Reported z (deliver s g) := by
  unfold deliver; try dsimp only
  repeat' (with_reducible first | exact h | assumption | decide | intro _ | apply Reported.ite | apply deliverTo_reported | apply forEach_reported | apply side_reported | apply ev_reported | apply obs_reported | split)
theorem enabledEffects_reported (s : State) (g i d : Nat) (f : Bool) (h : Reported z s) : Reported z (enabledEffects s g i d f) := by
  unfold enabledEffects; try dsimp only
  repeat' (with_reducible first | exact h | assumption | decide | intro _ | apply Reported.ite | apply side_reported | apply ev_reported | apply obs_reported | split)
theorem raiseUntraced_reported (s : State) (g i d : Nat) (f : Bool) (h : Reported z s) : Reported z (raiseUntraced s g i d f) := by
  unfold raiseUntraced; try dsimp only
  repeat' (with_reducible first | exact h | assumption | decide | intro _ | apply Reported.ite | apply deliver_reported | apply enabledEffects_reported | apply side_reported | apply ev_reported | apply obs_reported | split)
theorem traceAppend_reported (s : State) (r : List Nat) (h : Reported z s) : Reported z (traceAppend s r) := by
  unfold traceAppend; try dsimp only
  repeat' (with_reducible first | exact h | assumption | decide | intro _ | apply Reported.ite | apply side_reported | apply ev_reported | apply obs_reported | split)
theorem traceDrop_reported (s : State) (h : Reported z s) : Reported z (traceDrop s) := by
  unfold traceDrop; try dsimp only
  repeat' (with_reducible first | exact h | assumption | decide | intro _ | apply Reported.ite | apply side_reported | apply ev_reported | apply obs_reported | split)
theorem countDrop_reported (s : State) (h : Reported z s) : Reported z (countDrop s) := by
  unfold countDrop; try dsimp only
  repeat' (with_reducible first | exact h | assumption | decide | intro _ | apply Reported.ite | apply bump_reported | apply side_reported | apply ev_reported | apply obs_reported | split)
theorem traceRecord_reported (s : State) (r : List Nat) (h : Reported z s) : Reported z (traceRecord s r) := by
  unfold traceRecord; try dsimp only
  repeat' (with_reducible first | exact h | assumption | decide | intro _ | apply Reported.ite | apply countDrop_reported | apply raiseUntraced_reported | apply traceAppend_reported | apply traceDrop_reported | apply side_reported | apply ev_reported | apply obs_reported | split)
theorem raiseDet_reported (s : State) (g i d : Nat) (f : Bool) (h : Reported z s) : Reported z (raiseDet s g i d f) := by
  unfold raiseDet; try dsimp only
  repeat' (with_reducible first | exact h | assumption | decide | intro _ | apply Reported.ite | apply traceRecord_reported | apply raiseUntraced_reported | apply side_reported | apply ev_reported | apply obs_reported | split)
theorem raiseEv_reported (s : State) (g i hi lo : Nat) (h : Reported z s) : Reported z (raiseEv s g i hi lo) := by
  unfold raiseEv; try dsimp only
  repeat' (with_reducible first | exact h | assumption | decide | intro _ | apply Reported.ite | apply raiseDet_reported | apply side_reported | apply ev_reported | apply obs_reported | split)
theorem raiseFirst_reported (s : State) (g i hi lo : Nat) (h : Reported z s) : Reported z (raiseFirst s g i hi lo) := by
  unfold raiseFirst; try dsimp only
  repeat' (with_reducible first | exact h | assumption | decide | intro _ | apply Reported.ite | apply raiseEv_reported | apply side_reported | apply ev_reported | apply obs_reported | split)

end Sys2Proof.Machine
end

