-- ==== Sys2Proof/Laws/Access.lean ====
section
/-!
SUPPORT. Dictionary accesses with a row of their own: a permitted one is answered with status 0 after its action, a refused one
changes its counts alone (12 R326).
-/
namespace Sys2Proof.Machine

section
variable {s t : State}

theorem Answered.regs (h : Answered s t) : t.regs = s.regs := h .regs rfl
theorem Answered.ply16 (h : Answered s t) : t.ply16 = s.ply16 := h .ply16 rfl
theorem Answered.rdi (h : Answered s t) (r : Reg) (i : Nat) : rdi t r i = rdi s r i := rdi_congr h.regs h.ply16 r i
theorem Answered.rd (h : Answered s t) (r : Reg) : rd t r = rd s r := h.rdi r 0
theorem Answered.masterOf (h : Answered s t) (src : Sender) : masterOf t src = masterOf s src := by
  unfold Sys2Proof.Machine.masterOf observers; cases src <;> simp only [h.rd]
theorem Answered.maySend (h : Answered s t) (c m : Nat) : maySend t c m = maySend s c m := by
  unfold Sys2Proof.Machine.maySend mbxReceiver mbxSender; simp only [h.rdi]
theorem Answered.hasRight (h : Answered s t) (m : Nat) (e : Entry) (i b : Nat) (w : Bool) : hasRight t m e i b w = hasRight s m e i b w := by
  unfold Sys2Proof.Machine.hasRight namedRight mbxReceiver; simp only [h.maySend, h.rdi]
theorem Answered.portBound (h : Answered s t) (p f : Nat) : portBound t p f = portBound s p f := by
  unfold Sys2Proof.Machine.portBound; simp only [h.rdi]
theorem Answered.inReset (h : Answered s t) (f : Nat) : inReset t f = inReset s f := by
  unfold Sys2Proof.Machine.inReset; rw [show t.funs = s.funs from h .funs rfl]
theorem Answered.chapterRange (h : Answered s t) (i b v : Nat) : chapterRange t i b v = chapterRange s i b v := by
  unfold Sys2Proof.Machine.chapterRange observers; simp only [h.rd, h.ply16]
theorem Answered.accessStatus (h : Answered s t) (src : Sender) (w : Bool) (i b v o n : Nat) :
    accessStatus t src w i b v o n = accessStatus s src w i b v o n := by
  unfold Sys2Proof.Machine.accessStatus
  simp only [h.masterOf, h.hasRight, h.portBound, h.inReset, h.chapterRange, h.rd, h.ply16]
end

/-- Records of what left the block stay. -/
def Records (s t : State) : Prop := ∀ x ∈ s.out, x ∈ t.out

variable {z : State}

theorem Records.refl (s : State) : Records s s := fun _ h => h
theorem records_of {s t : State} (h : Records z s) (e : t.out = s.out) : Records z t := fun x hx => e ▸ h x hx
theorem emit_records (s : State) (o : Out) (h : Records z s) : Records z (emit s o) := fun x hx => List.mem_cons_of_mem _ (h x hx)
theorem obsEvent_out (s : State) (u c n : Nat) : (obsEvent s u c n).out = s.out := by
  haveI := can_of (w := fun p => p == Part.obs) .obs rfl
  exact (obsEvent_kept (W := fun p => p == Part.obs) s u c n (Kept.start (s := s))).2 .out rfl
theorem obsEvent_records (s : State) (u c n : Nat) (h : Records z s) : Records z (obsEvent s u c n) := records_of h (obsEvent_out ..)
theorem modLink_records (s : State) (n : Nat) (f : Link → Link) (h : Records z s) : Records z (modLink s n f) := h
theorem setLink_records (s : State) (n : Nat) (l : Link) (h : Records z s) : Records z (setLink s n l) := h
theorem returnCredit_records (s : State) (n c k : Nat) (h : Records z s) : Records z (returnCredit s n c k) := h
theorem forEach_records {α : Type} (l : List α) (s : State) (f : State → α → State) (hf : ∀ s a, Records z s → Records z (f s a))
    (h : Records z s) : Records z (forEach l s f) := by
  unfold forEach; induction l generalizing s with
  | nil => exact h
  | cons a l ih => exact ih _ (hf _ _ h)
theorem Records.ite {c : Prop} [Decidable c] {s a b : State} (h : Records s a) (k : Records s b) : Records s (if c then a else b) := by
  split <;> assumption
theorem sendFlit_records (s : State) (n k q : Nat) (l : List Slot) (h : Records z s) : Records z (sendFlit s n k q l) := by
  unfold sendFlit; exact emit_records _ _ (setLink_records _ _ _ h)
theorem sendNow_records (s : State) (n : Nat) (m : TxMsg) (h : Records z s) : Records z (sendNow s n m) := by
  unfold sendNow
  exact sendFlit_records _ _ _ _ _ (Records.ite (returnCredit_records _ _ _ _ (obsEvent_records _ _ _ _ h)) (obsEvent_records _ _ _ _ h))
theorem sendMsg_records (s : State) (n : Nat) (m : TxMsg) (h : Records z s) : Records z (sendMsg s n m) := by
  unfold sendMsg
  exact Records.ite h (Records.ite (sendNow_records _ _ _ h) (modLink_records _ _ _ h))
theorem pendingIbi_records (s : State) (h : Records z s) : Records z (pendingIbi s) := by
  unfold pendingIbi
  exact Records.ite h (emit_records _ _ h)
theorem queueControl_records (s : State) (b : List Nat) (h : Records z s) : Records z (queueControl s b) := by
  unfold queueControl; exact pendingIbi_records _ h
theorem sendMctp_records (s : State) (e : Nat) (m : List Nat) (h : Records z s) : Records z (sendMctp s e m) := by
  unfold sendMctp; exact forEach_records _ _ _ (fun s b h => queueControl_records s b h) h

/-- The answer to an access is on record. -/
theorem respond_out (s : State) (src : Sender) (m o i b f st v : Nat) (d : List Nat) :
    .answer src m o st v d ∈ (respond s src m o i b f st v d).out := by
  have h : Records (emit s (.answer src m o st v d)) (respond s src m o i b f st v d) := by
    cases src
    · exact sendMsg_records _ _ _ (Records.refl _)
    · exact sendMctp_records _ _ _ (Records.refl _)
    · exact Records.refl _
  exact h _ List.mem_cons_self
theorem grant_out (s : State) (src : Sender) (m o i b f v : Nat) (d : List Nat) :
    .answer src m o 0 v d ∈ (grant s src m o i b f v d).out := respond_out ..

/-- A permitted access whose action is done is granted. -/
theorem accessWrite_done {a : Access} {index sub : Nat} {body : Nat → Nat → State → Nat × State} {s e : State}
    (h1 : reaches s a.src = true) (h2 : accessStatus s a.src true index sub a.value 0 0 = 0)
    (h3 : body (masterOf s a.src) a.value (takeMgtCredit s a.src) = (0, e)) :
    accessWrite a index sub body s = grant e a.src a.mtag 0x22 index sub 0 0 [] := by
  unfold accessWrite
  have hc := takeMgtCredit_answered s a.src
  rw [if_neg (by simp [h1])]
  dsimp only
  rw [hc.accessStatus, hc.masterOf, h2, if_neg (by decide), h3]
  dsimp only
  rw [if_neg (by decide)]

/-- A permitted access that its chapter refuses. -/
theorem accessWrite_refused {a : Access} {index sub : Nat} {body : Nat → Nat → State → Nat × State} {s e : State} {st : Nat}
    (h1 : reaches s a.src = true) (h2 : accessStatus s a.src true index sub a.value 0 0 = 0) (hs : st ≠ 0)
    (h3 : body (masterOf s a.src) a.value (takeMgtCredit s a.src) = (st, e)) :
    accessWrite a index sub body s = refuse e a.src a.mtag 0x22 index sub 0 st := by
  unfold accessWrite
  have hc := takeMgtCredit_answered s a.src
  rw [if_neg (by simp [h1])]
  dsimp only
  rw [hc.accessStatus, hc.masterOf, h2, if_neg (by decide), h3]
  dsimp only
  rw [if_pos hs]

/-- An access that fails a check of Table MGT-4 is refused with its status. -/
theorem accessWrite_checked {a : Access} {index sub : Nat} {body : Nat → Nat → State → Nat × State} {s : State}
    (h1 : reaches s a.src = true) (h2 : accessStatus s a.src true index sub a.value 0 0 ≠ 0) :
    accessWrite a index sub body s =
      refuse (takeMgtCredit s a.src) a.src a.mtag 0x22 index sub 0 (accessStatus s a.src true index sub a.value 0 0) := by
  unfold accessWrite
  have hc := takeMgtCredit_answered s a.src
  rw [if_neg (by simp [h1])]
  dsimp only
  rw [hc.accessStatus, if_pos h2]

theorem accessRead_done {src : Sender} {mtag index sub v : Nat} {body : Nat → State → Nat × Nat × State} {s e : State}
    (h1 : reaches s src = true) (h2 : accessStatus s src false index sub 0 0 0 = 0)
    (h3 : body (masterOf s src) (takeMgtCredit s src) = (0, v, e)) :
    accessRead src mtag index sub body s = grant e src mtag 0x21 index sub 0 v [] := by
  unfold accessRead
  have hc := takeMgtCredit_answered s src
  rw [if_neg (by simp [h1])]
  dsimp only
  rw [hc.accessStatus, hc.masterOf, h2, if_neg (by decide), h3]
  dsimp only
  rw [if_neg (by decide)]

/-- Taking the credit of a request changes link state alone. -/
theorem takeMgtCredit_eq (s : State) (src : Sender) : takeMgtCredit s src = { s with links := (takeMgtCredit s src).links } := by
  cases src <;> rfl

/-- States that differ in link state alone. -/
theorem answered_links (s : State) (l : Tbl Link) : Answered s { s with links := l } := by
  intro p hp; cases p <;> first | rfl | exact absurd hp (by decide)

theorem refuse_answered (s : State) (src : Sender) (m o i b f st : Nat) :
    Answered (bumpi s R.MGT_REFUSALS st) (refuse s src m o i b f st) :=
  Answered.trans (obsEvent_answered _ _ _ _) (respond_answered _ _ _ _ _ _ _ _ _ _)
theorem refuse_out (s : State) (src : Sender) (m o i b f st : Nat) : .answer src m o st 0 [] ∈ (refuse s src m o i b f st).out :=
  respond_out _ _ _ _ _ _ _ _ _ _

/-- A count of states that differ in an answer. -/
theorem bumpi_answered {s t : State} (h : Answered s t) (r : Reg) (i : Nat) : Answered (bumpi s r i) (bumpi t r i) := by
  have hv : (bumpi t r i).regs = (bumpi s r i).regs := by
    unfold bumpi bumpTo wri put; dsimp only; rw [h.rdi, h.regs, h.ply16]
  intro p hq
  have k := h p hq
  cases p <;> first | exact k | exact hv

/-- A permitted access whose action answers 0 is done. -/
theorem done_of {c : Instr} {s e e' : State} {a : Access} {i b : Nat} {body : Nat → Nat → State → Nat × State}
    (hc : exec c s = .next (accessWrite a i b body s)) (hp : Permitted s a i b)
    (hb : body (masterOf s a.src) a.value (takeMgtCredit s a.src) = (0, e')) (he : Answered e e') : Done c s a e := by
  refine ⟨grant e' a.src a.mtag 0x22 i b 0 0 [], ?_, Answered.trans he (grant_answered _ _ _ _ _ _ _ _ _), grant_out _ _ _ _ _ _ _ _ _⟩
  rw [hc, accessWrite_done hp.1 hp.2 hb]

/-- A permitted access that its chapter refuses in a state that differs in an answer alone. -/
theorem refused_of {c : Instr} {s e' : State} {a : Access} {i b st : Nat} {body : Nat → Nat → State → Nat × State}
    (hc : exec c s = .next (accessWrite a i b body s)) (hp : Permitted s a i b) (hst : st ≠ 0)
    (hb : body (masterOf s a.src) a.value (takeMgtCredit s a.src) = (st, e')) (he : Answered s e') : RefusedWith c s a st := by
  refine ⟨refuse e' a.src a.mtag 0x22 i b 0 st, ?_, Answered.trans (bumpi_answered he _ _) (refuse_answered _ _ _ _ _ _ _ _),
    refuse_out _ _ _ _ _ _ _ _⟩
  rw [hc, accessWrite_refused hp.1 hp.2 hst hb]

/-- An access that fails a check of Table MGT-4 is refused. -/
theorem refused_checked {c : Instr} {s : State} {a : Access} {i b st : Nat} {body : Nat → Nat → State → Nat × State}
    (hc : exec c s = .next (accessWrite a i b body s)) (hr : reaches s a.src = true)
    (hs : accessStatus s a.src true i b a.value 0 0 = st) (hst : st ≠ 0) : RefusedWith c s a st := by
  subst hs
  refine ⟨_, hc.trans (congrArg _ (accessWrite_checked hr hst)),
    Answered.trans (bumpi_answered (takeMgtCredit_answered s a.src) _ _) (refuse_answered _ _ _ _ _ _ _ _), refuse_out _ _ _ _ _ _ _ _⟩

end Sys2Proof.Machine
end

