-- ==== Sys2Proof/Laws/KeptTree.lean ====
section
/-!
SUPPORT. What the operations of these areas keep, one lemma each: address map, responses, wake, tree and requests. The parts a lemma asks for are those the
operation may change.
-/
namespace Sys2Proof.Machine
variable {P : Prop} {W : Part → Bool} {Z : State}

theorem beginXlate_kept (result : Nat) (s : State) [Can W .regs] [Can W .home] (hK : Kept P W Z s) : Kept P W Z (beginXlate result s) := by
  unfold beginXlate; try dsimp only
  repeat' (with_reducible first | exact hK | apply wr_kept | (refine Kept.set_home (Kept.eta ?_); first | exact hK | apply wr_kept))

theorem doMapXlateAddr_kept (a : Access) (s : State) [Can W .regs] [Can W .links] [Can W .home] [Can W .side] [Can W .obs] [Can W .out] (hK : Kept P W Z s) : Kept P W Z (doMapXlateAddr a s) := by
  unfold doMapXlateAddr; try dsimp only
  repeat' (with_reducible first | exact hK | intro _ | assumption | apply accessWrite_kept | apply beginXlate_kept)

theorem actXlateSlot_kept (x1_ v : Nat) (s : State) [Can W .regs] [Can W .home] (hK : Kept P W Z s) : Kept P W Z (actXlateSlot x1_ v s).2 := by
  unfold actXlateSlot; try dsimp only
  repeat' (with_reducible first | exact hK | apply Kept.ite | apply Kept.ite2 | apply beginXlate_kept | split)

theorem doMapXlateSlot_kept (a : Access) (s : State) [Can W .regs] [Can W .links] [Can W .home] [Can W .side] [Can W .obs] [Can W .out] (hK : Kept P W Z s) : Kept P W Z (doMapXlateSlot a s) := by
  unfold doMapXlateSlot; try dsimp only
  repeat' (with_reducible first | exact hK | intro _ | assumption | apply accessWrite_kept | apply actXlateSlot_kept)

theorem doMapXlateDone_kept (s : State) [Can W .regs] [Can W .home] (hK : Kept P W Z s) : Kept P W Z (doMapXlateDone s) := by
  unfold doMapXlateDone; try dsimp only
  repeat' (with_reducible first | exact hK | apply wr_kept | (refine Kept.set_home (Kept.eta ?_); first | exact hK | apply wr_kept) | split)

theorem putTable_kept (s : State) (shadow : Bool) (t : Tbl Nat) [Can W .regs] (hK : Kept P W Z s) : Kept P W Z (putTable s shadow t) := by
  unfold putTable; try dsimp only
  repeat' (with_reducible first | exact hK | intro _ | assumption | apply Kept.ite | (refine Kept.set_regs (Kept.eta ?_); first | exact hK) | split)

theorem applyCommit_kept (s : State) (late : Bool) [Can W .regs] [Can W .mram] (hK : Kept P W Z s) : Kept P W Z (applyCommit s late) := by
  unfold applyCommit; try dsimp only
  repeat' (with_reducible first | exact hK | apply Kept.ite | apply putTable_kept | apply wr_kept | (refine Kept.set_mram (Kept.eta ?_); first | exact hK | apply putTable_kept | apply wr_kept) | split)

theorem doMapTableStoreDone_kept (s : State) [Can W .mram] (hK : Kept P W Z s) : Kept P W Z (doMapTableStoreDone s) := by
  unfold doMapTableStoreDone; try dsimp only
  repeat' (with_reducible first | exact hK | (refine Kept.set_mram (Kept.eta ?_); first | exact hK) | split)

theorem modFlight_kept (s : State) (uid : Nat) (f : Flight → Flight) [Can W .flights] (hK : Kept P W Z s) : Kept P W Z (modFlight s uid f) := by
  unfold modFlight; try dsimp only
  repeat' (with_reducible first | exact hK | (refine Kept.set_flights (Kept.eta ?_); first | exact hK) | split)

theorem freeCredits_kept (s : State) (f : Flight) [Can W .links] (hK : Kept P W Z s) : Kept P W Z (freeCredits s f) := by
  unfold freeCredits; try dsimp only
  repeat' (with_reducible first | exact hK | intro _ | assumption | apply Kept.ite | apply returnCredit_kept | apply modLink_kept | split)

theorem freeTag_kept (s : State) (uid : Nat) [Can W .flights] [Can W .tree] (hK : Kept P W Z s) : Kept P W Z (freeTag s uid) := by
  unfold freeTag; try dsimp only
  repeat' (with_reducible first | exact hK | intro _ | assumption | apply Kept.ite | apply modFlight_kept | (refine Kept.set_tree (Kept.eta ?_); first | exact hK | apply modFlight_kept) | split)

theorem giveRoom_kept (s : State) (kind pc : Nat) [Can W .tree] (hK : Kept P W Z s) : Kept P W Z (giveRoom s kind pc) := by
  unfold giveRoom; try dsimp only
  repeat' (with_reducible first | exact hK | apply Kept.ite | (refine Kept.set_tree (Kept.eta ?_); first | exact hK) | split)

theorem freeRoom_kept (s : State) (uid : Nat) [Can W .flights] [Can W .tree] (hK : Kept P W Z s) : Kept P W Z (freeRoom s uid) := by
  unfold freeRoom; try dsimp only
  repeat' (with_reducible first | exact hK | intro _ | assumption | apply modFlight_kept | apply giveRoom_kept | split)

theorem dropFlight_kept (s : State) (uid : Nat) [Can W .flights] (hK : Kept P W Z s) : Kept P W Z (dropFlight s uid) := by
  unfold dropFlight; try dsimp only
  repeat' (with_reducible first | exact hK | (refine Kept.set_flights (Kept.eta ?_); first | exact hK))

theorem retireFlight_kept (s : State) (uid : Nat) [Can W .flights] (hK : Kept P W Z s) : Kept P W Z (retireFlight s uid) := by
  unfold retireFlight; try dsimp only
  repeat' (with_reducible first | exact hK | intro _ | assumption | apply Kept.ite | apply modFlight_kept | apply dropFlight_kept | split)

theorem noteLedger_kept (s : State) (uid : Nat) (final sent : Bool) [Can W .ledgers] (hK : Kept P W Z s) : Kept P W Z (noteLedger s uid final sent) := by
  unfold noteLedger; try dsimp only
  repeat' (with_reducible first | exact hK | (refine Kept.set_ledgers (Kept.eta ?_); first | exact hK) | split)

theorem decide'_kept (s : State) (uid : Nat) (r : Rsp) (outcome : Nat) [Can W .flights] [Can W .tree] [Can W .ledgers] (hK : Kept P W Z s) : Kept P W Z (decide' s uid r outcome) := by
  unfold decide'; try dsimp only
  repeat' (with_reducible first | exact hK | intro _ | assumption | apply Kept.ite | apply modFlight_kept | apply noteLedger_kept | apply retireFlight_kept | apply freeTag_kept | split)

theorem ringWrite_kept (s : State) (r : Nat) [Can W .regs] [Can W .links] [Can W .side] [Can W .ev] [Can W .obs] [Can W .out] (hK : Kept P W Z s) : Kept P W Z (ringWrite s r) := by
  unfold ringWrite; try dsimp only
  repeat' (with_reducible first | exact hK | intro _ | assumption | exact id | apply Kept.ite | apply wr_kept | apply bumpTo_kept | apply raiseEv_kept | apply bump_kept | apply traceRecord_kept | (refine Kept.set_obs (Kept.eta ?_) ?_; first | exact hK | apply wr_kept | apply bumpTo_kept | apply raiseEv_kept | apply bump_kept | apply traceRecord_kept) | split)

theorem ringSample_kept (s : State) (f : Flight) [Can W .regs] [Can W .links] [Can W .side] [Can W .ev] [Can W .obs] [Can W .out] (hK : Kept P W Z s) : Kept P W Z (ringSample s f) := by
  unfold ringSample; try dsimp only
  repeat' (with_reducible first | exact hK | exact id | apply Kept.ite | apply bump_kept | apply ringWrite_kept | (refine Kept.set_obs (Kept.eta ?_) ?_; first | exact hK | apply bump_kept | apply ringWrite_kept) | split)

theorem sendResponse_kept (s : State) (uid : Nat) [Can W .regs] [Can W .links] [Can W .flights] [Can W .tree] [Can W .side] [Can W .ev] [Can W .ledgers] [Can W .obs] [Can W .out] (hK : Kept P W Z s) : Kept P W Z (sendResponse s uid) := by
  unfold sendResponse; try dsimp only
  repeat' (with_reducible first | exact hK | apply Kept.ite | apply sendNow_kept | apply obsEvent_kept | apply ringSample_kept | apply noteLedger_kept | apply retireFlight_kept | apply freeTag_kept | split)

theorem doResponseSend_kept (port : Nat) (par : Parity) (s : State) [Can W .regs] [Can W .links] [Can W .flights] [Can W .tree] [Can W .side] [Can W .ev] [Can W .ledgers] [Can W .obs] [Can W .out] (hK : Kept P W Z s) : Kept P W Z (doResponseSend port par s) := by
  unfold doResponseSend; try dsimp only
  repeat' (with_reducible first | exact hK | intro _ | assumption | apply Kept.ite | apply sendResponse_kept | apply raiseParity_kept | apply modFlight_kept | split)

theorem loseRequest_kept (s : State) (uid : Nat) [Can W .flights] [Can W .tree] (hK : Kept P W Z s) : Kept P W Z (loseRequest s uid) := by
  unfold loseRequest; try dsimp only
  repeat' (with_reducible first | exact hK | intro _ | assumption | apply modFlight_kept | apply freeRoom_kept)

theorem replaceRsp_kept (s : State) (uid code : Nat) [Can W .flights] [Can W .ledgers] (hK : Kept P W Z s) : Kept P W Z (replaceRsp s uid code) := by
  unfold replaceRsp; try dsimp only
  repeat' (with_reducible first | exact hK | intro _ | assumption | apply Kept.ite | apply noteLedger_kept | apply modFlight_kept | split)

theorem answerLost_kept (s : State) (uid : Nat) [Can W .flights] [Can W .tree] [Can W .ledgers] (hK : Kept P W Z s) : Kept P W Z (answerLost s uid) := by
  unfold answerLost; try dsimp only
  repeat' (with_reducible first | exact hK | apply Kept.ite | apply replaceRsp_kept | apply decide'_kept | split)

theorem modSleep_kept (s : State) (f : Sleep → Sleep) [Can W .sleep] (hK : Kept P W Z s) : Kept P W Z (modSleep s f) := by
  unfold modSleep; try dsimp only
  repeat' (with_reducible first | exact hK | (refine Kept.set_sleep (Kept.eta ?_); first | exact hK))

theorem noteRefuser_kept (s : State) (st point refuser : Nat) [Can W .regs] (hK : Kept P W Z s) : Kept P W Z (noteRefuser s st point refuser) := by
  unfold noteRefuser; try dsimp only
  repeat' (with_reducible first | exact hK | apply wri_kept)

theorem dropSaplings_kept (s : State) [Can W .pchs] (hK : Kept P W Z s) : Kept P W Z (dropSaplings s) := by
  unfold dropSaplings; try dsimp only
  repeat' (with_reducible first | exact hK | intro _ | assumption | (refine Kept.set_pchs (Kept.eta ?_); first | exact hK))

theorem abortEntry_kept (s : State) (refuser : Nat) [Can W .regs] [Can W .pchs] [Can W .sleep] (hK : Kept P W Z s) : Kept P W Z (abortEntry s refuser) := by
  unfold abortEntry; try dsimp only
  repeat' (with_reducible first | exact hK | intro _ | assumption | apply Kept.ite | apply bumpKey_kept | apply noteRefuser_kept | apply dropSaplings_kept | apply modSleep_kept | split)

theorem wakePin_kept (s : State) [Can W .pins] (hK : Kept P W Z s) : Kept P W Z (wakePin s) := by
  unfold wakePin; try dsimp only
  repeat' (with_reducible first | exact hK | apply Kept.ite | (refine Kept.set_pins (Kept.eta ?_); first | exact hK) | split)

theorem latchWake_kept (s : State) (who : Nat) [Can W .pins] [Can W .sleep] (hK : Kept P W Z s) : Kept P W Z (latchWake s who) := by
  unfold latchWake; try dsimp only
  repeat' (with_reducible first | exact hK | intro _ | assumption | apply Kept.ite | apply wakePin_kept | apply modSleep_kept | split)

theorem disturb_kept (s : State) (who : Nat) [Can W .regs] [Can W .pins] [Can W .pchs] [Can W .sleep] (hK : Kept P W Z s) : Kept P W Z (disturb s who) := by
  unfold disturb; try dsimp only
  repeat' (with_reducible first | exact hK | apply Kept.ite | apply latchWake_kept | apply abortEntry_kept | split)

theorem groupTouch_kept (s : State) (pc port : Nat) [Can W .regs] [Can W .pchs] [Can W .sleep] (hK : Kept P W Z s) : Kept P W Z (groupTouch s pc port) := by
  unfold groupTouch; try dsimp only
  repeat' (with_reducible first | exact hK | intro _ | assumption | apply Kept.ite | apply abortEntry_kept | apply modSleep_kept | split)

theorem ungate_kept (s : State) (u : Nat) [Can W .sleep] (hK : Kept P W Z s) : Kept P W Z (ungate s u) := by
  unfold ungate; try dsimp only
  repeat' (with_reducible first | exact hK | intro _ | assumption | apply modSleep_kept)

theorem freezeLinks_kept (s : State) [Can W .links] (hK : Kept P W Z s) : Kept P W Z (freezeLinks s) := by
  unfold freezeLinks; try dsimp only
  repeat' (with_reducible first | exact hK | intro _ | assumption | apply forEach_kept | apply modLink_kept | apply forEach_kept)

theorem joinReplay_kept (s : State) (uid port : Nat) [Can W .regs] [Can W .pins] [Can W .links] [Can W .flights] [Can W .sleep] [Can W .side] [Can W .ev] [Can W .obs] [Can W .out] (hK : Kept P W Z s) : Kept P W Z (joinReplay s uid port) := by
  unfold joinReplay; try dsimp only
  repeat' (with_reducible first | exact hK | intro _ | assumption | apply Kept.ite | apply modSleep_kept | apply freezeLinks_kept | apply wr_kept | apply modFlight_kept | apply latchWake_kept | apply raiseEv_kept | apply bump_kept | split)

theorem modTree_kept (s : State) (f : Tree → Tree) [Can W .tree] (hK : Kept P W Z s) : Kept P W Z (modTree s f) := by
  unfold modTree; try dsimp only
  repeat' (with_reducible first | exact hK | (refine Kept.set_tree (Kept.eta ?_); first | exact hK))

theorem setLeaf_kept (s : State) (n : Nat) (l : Leaf) [Can W .tree] (hK : Kept P W Z s) : Kept P W Z (setLeaf s n l) := by
  unfold setLeaf; try dsimp only
  repeat' (with_reducible first | exact hK | intro _ | assumption | apply modTree_kept)

theorem setBranch_kept (s : State) (b : Nat) (x : Branch) [Can W .tree] (hK : Kept P W Z s) : Kept P W Z (setBranch s b x) := by
  unfold setBranch; try dsimp only
  repeat' (with_reducible first | exact hK | intro _ | assumption | apply modTree_kept)

theorem setTrunk_kept (s : State) (n : Nat) (x : Trunk) [Can W .tree] (hK : Kept P W Z s) : Kept P W Z (setTrunk s n x) := by
  unfold setTrunk; try dsimp only
  repeat' (with_reducible first | exact hK | intro _ | assumption | apply modTree_kept)

theorem putBr_kept (s : State) (b k v : Nat) [Can W .regs] (hK : Kept P W Z s) : Kept P W Z (putBr s b k v) := by
  unfold putBr; try dsimp only
  repeat' (with_reducible first | exact hK | apply put_kept)

theorem settleGate_kept (s : State) (n : Nat) [Can W .tree] (hK : Kept P W Z s) : Kept P W Z (settleGate s n) := by
  unfold settleGate; try dsimp only
  repeat' (with_reducible first | exact hK | apply Kept.ite | apply setTrunk_kept | split)

theorem noteDrop_kept (s : State) (n : Nat) [Can W .regs] [Can W .links] [Can W .tree] [Can W .side] [Can W .ev] [Can W .obs] [Can W .out] (hK : Kept P W Z s) : Kept P W Z (noteDrop s n) := by
  unfold noteDrop; try dsimp only
  repeat' (with_reducible first | exact hK | intro _ | assumption | apply Kept.ite | apply raiseFirst_kept | apply modTree_kept | split)

theorem chargeBranch_kept (s : State) (b : Nat) [Can W .regs] [Can W .links] [Can W .tree] [Can W .side] [Can W .ev] [Can W .obs] [Can W .out] (hK : Kept P W Z s) : Kept P W Z (chargeBranch s b) := by
  unfold chargeBranch; try dsimp only
  repeat' (with_reducible first | exact hK | apply Kept.ite | apply noteDrop_kept | apply setBranch_kept | refine Kept.snd (by assumption) ?_ | split)

theorem chargeTrunk_kept (s : State) (n : Nat) [Can W .regs] [Can W .links] [Can W .tree] [Can W .side] [Can W .ev] [Can W .obs] [Can W .out] (hK : Kept P W Z s) : Kept P W Z (chargeTrunk s n) := by
  unfold chargeTrunk; try dsimp only
  repeat' (with_reducible first | exact hK | apply noteDrop_kept | apply bumpWrap_kept | apply setTrunk_kept | refine Kept.snd (by assumption) ?_)

theorem chargeLeaf_kept (s : State) (n level : Nat) [Can W .regs] [Can W .links] [Can W .tree] [Can W .side] [Can W .ev] [Can W .obs] [Can W .out] (hK : Kept P W Z s) : Kept P W Z (chargeLeaf s n level) := by
  unfold chargeLeaf; try dsimp only
  repeat' (with_reducible first | exact hK | apply Kept.ite | apply noteDrop_kept | apply setLeaf_kept | refine Kept.snd (by assumption) ?_ | split)

theorem commitFails_kept (s : State) [Can W .regs] [Can W .links] [Can W .side] [Can W .ev] [Can W .obs] [Can W .out] (hK : Kept P W Z s) : Kept P W Z (commitFails s) := by
  unfold commitFails; try dsimp only
  repeat' (with_reducible first | exact hK | apply raiseEv_kept | apply bump_kept)

theorem tryCommit_kept (s s' : State) (b t : List Nat) (c : Bool) [Can W .regs] [Can W .links] [Can W .side] [Can W .ev] [Can W .obs] [Can W .out] (h1 : Kept P W Z s) (hK : Kept P W Z s') :
    Kept P W Z (tryCommit s s' b t c).2 := by
  unfold tryCommit; split
  · exact hK
  · exact commitFails_kept _ h1

theorem placeLeaf_kept (s : State) (n : Nat) (d : LeafDesc) [Can W .tree] (hK : Kept P W Z s) : Kept P W Z (placeLeaf s n d) := by
  unfold placeLeaf; try dsimp only
  repeat' (with_reducible first | exact hK | intro _ | assumption | apply modTree_kept)

theorem quotaEvent_kept (s : State) (f : Nat) [Can W .regs] [Can W .links] [Can W .side] [Can W .ev] [Can W .obs] [Can W .out] (hK : Kept P W Z s) : Kept P W Z (quotaEvent s f) := by
  unfold quotaEvent; try dsimp only
  repeat' (with_reducible first | exact hK | apply raiseEv_kept)

theorem allocate_kept (s : State) (d : LeafDesc) (fallback : Bool) [Can W .regs] [Can W .links] [Can W .tree] [Can W .side] [Can W .ev] [Can W .obs] [Can W .out] (hK : Kept P W Z s) : Kept P W Z (allocate s d fallback).2 := by
  unfold allocate; try dsimp only
  repeat' (with_reducible first | exact hK | apply Kept.ite | apply Kept.ite2 | apply quotaEvent_kept | apply placeLeaf_kept | apply commitFails_kept | split)

theorem refuseAdmission_kept (s : State) (uid : Nat) (f : Flight) [Can W .regs] [Can W .links] [Can W .flights] [Can W .tree] [Can W .ledgers] [Can W .obs] (hK : Kept P W Z s) : Kept P W Z (refuseAdmission s uid f) := by
  unfold refuseAdmission; try dsimp only
  repeat' (with_reducible first | exact hK | apply obsEvent_kept | apply bumpi_kept | apply decide'_kept | apply freeCredits_kept)

theorem joinLeaf_kept (s : State) (uid n : Nat) (f : Flight) [Can W .regs] [Can W .flights] [Can W .tree] [Can W .pchs] [Can W .sleep] (hK : Kept P W Z s) : Kept P W Z (joinLeaf s uid n f) := by
  unfold joinLeaf; try dsimp only
  repeat' (with_reducible first | exact hK | intro _ | assumption | apply Kept.ite | apply setLeaf_kept | apply groupTouch_kept | apply modFlight_kept | split)

theorem meetPolicer_kept (s : State) (uid n : Nat) (f : Flight) [Can W .regs] [Can W .links] [Can W .flights] [Can W .tree] [Can W .pchs] [Can W .sleep] [Can W .ledgers] [Can W .obs] (hK : Kept P W Z s) : Kept P W Z (meetPolicer s uid n f) := by
  unfold meetPolicer; try dsimp only
  repeat' (with_reducible first | exact hK | intro _ | assumption | apply Kept.ite | apply bumpi_kept | apply refuseAdmission_kept | apply modFlight_kept | apply setLeaf_kept | apply obsEvent_kept | apply decide'_kept | apply freeCredits_kept | apply joinLeaf_kept | split)

theorem treeArrive_kept (s : State) (uid : Nat) [Can W .regs] [Can W .links] [Can W .flights] [Can W .tree] [Can W .pchs] [Can W .sleep] [Can W .side] [Can W .ev] [Can W .ledgers] [Can W .obs] [Can W .out] (hK : Kept P W Z s) : Kept P W Z (treeArrive s uid) := by
  unfold treeArrive; try dsimp only
  repeat' (with_reducible first | exact hK | intro _ | assumption | exact id | decide | apply Kept.ite | apply Kept.ite2 | apply Kept.ite3 | apply obsEvent_kept | apply meetPolicer_kept | apply refuseAdmission_kept | apply allocate_kept | refine Kept.snd (by assumption) ?_ | refine Kept.snd3 (by assumption) ?_ | split)

theorem dispatch_kept (s : State) (n k b v uid : Nat) (f : Flight) [Can W .regs] [Can W .links] [Can W .flights] [Can W .tree] [Can W .side] [Can W .ev] [Can W .obs] [Can W .out] (hK : Kept P W Z s) : Kept P W Z (dispatch s n k b v uid f) := by
  unfold dispatch; try dsimp only
  repeat' (with_reducible first | exact hK | intro _ | assumption | apply Kept.ite | apply setLeaf_kept | apply setTrunk_kept | apply setBranch_kept | apply chargeTrunk_kept | apply chargeBranch_kept | apply chargeLeaf_kept | apply modTree_kept | apply modFlight_kept | apply obsEvent_kept | apply freeCredits_kept | split)

theorem unqueue_kept (s : State) (uid : Nat) [Can W .tree] (hK : Kept P W Z s) : Kept P W Z (unqueue s uid) := by
  unfold unqueue; try dsimp only
  repeat' (with_reducible first | exact hK | apply setLeaf_kept | split)

theorem noteAllowance_kept (s : State) (c : Nat) [Can W .stack] (hK : Kept P W Z s) : Kept P W Z (noteAllowance s c) := by
  unfold noteAllowance; try dsimp only
  repeat' (with_reducible first | exact hK | intro _ | assumption | apply modStack_kept)

theorem forgetWindow_kept (s : State) [Can W .stack] (hK : Kept P W Z s) : Kept P W Z (forgetWindow s) := by
  unfold forgetWindow; try dsimp only
  repeat' (with_reducible first | exact hK | intro _ | assumption | apply Kept.ite | apply modStack_kept | split)

theorem startModel_kept (s : State) [Can W .regs] [Can W .tree] (hK : Kept P W Z s) : Kept P W Z (startModel s) := by
  unfold startModel; try dsimp only
  repeat' (with_reducible first | exact hK | intro _ | assumption | apply modTree_kept | apply forEach_kept | apply wri_kept | apply wr_kept | apply forEach_kept)

theorem publishScales_kept (s : State) [Can W .regs] [Can W .links] [Can W .side] [Can W .ev] [Can W .obs] [Can W .out] (hK : Kept P W Z s) : Kept P W Z (publishScales s) := by
  unfold publishScales; try dsimp only
  repeat' (with_reducible first | exact hK | intro _ | assumption | apply Kept.ite | apply forEach_kept | apply wri_kept | apply wr_kept | apply raiseEv_kept | apply forEach_kept | split)

theorem restoreLeaves_kept (s : State) [Can W .tree] (hK : Kept P W Z s) : Kept P W Z (restoreLeaves s) := by
  unfold restoreLeaves; try dsimp only
  repeat' (with_reducible first | exact hK | intro _ | assumption | apply forEach_kept | apply placeLeaf_kept | apply forEach_kept)

theorem beatTree_kept (s : State) [Can W .tree] (hK : Kept P W Z s) : Kept P W Z (beatTree s) := by
  unfold beatTree; try dsimp only
  repeat' (with_reducible first | exact hK | intro _ | assumption | apply forEach_kept | apply settleGate_kept | apply modTree_kept | apply setBranch_kept | apply setTrunk_kept | apply forEach_kept)

theorem doDispatch_kept (trunk : Nat) (par : Parity) (s : State) [Can W .regs] [Can W .links] [Can W .flights] [Can W .tree] [Can W .side] [Can W .ev] [Can W .obs] [Can W .out] (hK : Kept P W Z s) : Kept P W Z (doDispatch trunk par s) := by
  unfold doDispatch; try dsimp only
  repeat' (with_reducible first | exact hK | intro _ | assumption | apply Kept.ite | apply dispatch_kept | apply modFlight_kept | apply raiseParity_kept | apply loseRequest_kept | apply modTree_kept | split)

theorem doRegulationUpdate_kept (s : State) [Can W .tree] (hK : Kept P W Z s) : Kept P W Z (doRegulationUpdate s) := by
  unfold doRegulationUpdate; try dsimp only
  repeat' (with_reducible first | exact hK | intro _ | assumption | apply Kept.ite | apply modTree_kept | split)

theorem dropLeaf_kept (s : State) (n : Nat) (l : Leaf) [Can W .tree] (hK : Kept P W Z s) : Kept P W Z (dropLeaf s n l) := by
  unfold dropLeaf; try dsimp only
  repeat' (with_reducible first | exact hK | intro _ | assumption | apply modTree_kept)

theorem doLeafReclaim_kept (leaf : Nat) (s : State) [Can W .tree] (hK : Kept P W Z s) : Kept P W Z (doLeafReclaim leaf s) := by
  unfold doLeafReclaim; try dsimp only
  repeat' (with_reducible first | exact hK | apply Kept.ite | apply dropLeaf_kept | split)

theorem countWindow_kept (s : State) (rate : Nat) [Can W .regs] [Can W .tree] (hK : Kept P W Z s) : Kept P W Z (countWindow s rate) := by
  unfold countWindow; try dsimp only
  repeat' (with_reducible first | exact hK | intro _ | assumption | apply Kept.ite | apply modTree_kept | apply wr_kept | split)

theorem doModelWindowEnd_kept (w : List PcWindow) (s : State) [Can W .regs] [Can W .links] [Can W .tree] [Can W .stack] [Can W .side] [Can W .ev] [Can W .obs] [Can W .out] (hK : Kept P W Z s) : Kept P W Z (doModelWindowEnd w s) := by
  unfold doModelWindowEnd; try dsimp only
  repeat' (with_reducible first | exact hK | intro _ | assumption | apply Kept.ite | apply modTree_kept | apply forEach_kept | apply wri_kept | apply countWindow_kept | apply publishScales_kept | apply forgetWindow_kept | apply forEach_kept | split)

theorem doRmwCharge_kept (s : State) [Can W .regs] [Can W .links] [Can W .tree] [Can W .side] [Can W .ev] [Can W .obs] [Can W .out] (hK : Kept P W Z s) : Kept P W Z (doRmwCharge s) := by
  unfold doRmwCharge; try dsimp only
  repeat' (with_reducible first | exact hK | intro _ | assumption | apply Kept.ite | apply modTree_kept | apply chargeLeaf_kept | apply chargeTrunk_kept | apply chargeBranch_kept | split)

theorem doGateEntryStart_kept (trunk : Nat) (s : State) [Can W .regs] [Can W .tree] (hK : Kept P W Z s) : Kept P W Z (doGateEntryStart trunk s) := by
  unfold doGateEntryStart; try dsimp only
  repeat' (with_reducible first | exact hK | apply Kept.ite | apply settleGate_kept | apply setTrunk_kept | apply bumpWrap_kept | split)

theorem doGateGuardStart_kept (trunk : Nat) (s : State) [Can W .tree] (hK : Kept P W Z s) : Kept P W Z (doGateGuardStart trunk s) := by
  unfold doGateGuardStart; try dsimp only
  repeat' (with_reducible first | exact hK | apply settleGate_kept)

theorem actGateSwitch_kept (n : Nat) (x1_ x2_ : Nat) (s : State) [Can W .regs] [Can W .links] [Can W .side] [Can W .ev] [Can W .obs] [Can W .out] (hK : Kept P W Z s) : Kept P W Z (actGateSwitch n x1_ x2_ s).2 := by
  unfold actGateSwitch; try dsimp only
  repeat' (with_reducible first | exact hK | apply Kept.ite | apply Kept.ite2 | apply wri_kept | apply raiseEv_kept | split)

theorem doTreGateSwitch_kept (a : Access) (trunk : Nat) (s : State) [Can W .regs] [Can W .links] [Can W .side] [Can W .ev] [Can W .obs] [Can W .out] (hK : Kept P W Z s) : Kept P W Z (doTreGateSwitch a trunk s) := by
  unfold doTreGateSwitch; try dsimp only
  repeat' (with_reducible first | exact hK | intro _ | assumption | exact id | decide | apply Kept.ite | apply Kept.ite2 | apply Kept.ite3 | apply accessWrite_kept | apply actGateSwitch_kept | refine Kept.snd (by assumption) ?_ | refine Kept.snd3 (by assumption) ?_ | split)

theorem swapLists_kept (s : State) (n : Nat) [Can W .regs] (hK : Kept P W Z s) : Kept P W Z (swapLists s n) := by
  unfold swapLists; try dsimp only
  repeat' (with_reducible first | exact hK | intro _ | assumption | apply forEach_kept | apply put_kept | apply forEach_kept | refine Kept.snd (by assumption) ?_)

theorem doGateSwitchApply_kept (trunk : Nat) (s : State) [Can W .regs] [Can W .links] [Can W .tree] [Can W .side] [Can W .ev] [Can W .obs] [Can W .out] (hK : Kept P W Z s) : Kept P W Z (doGateSwitchApply trunk s) := by
  unfold doGateSwitchApply; try dsimp only
  repeat' (with_reducible first | exact hK | apply Kept.ite | apply wri_kept | apply swapLists_kept | apply settleGate_kept | apply raiseEv_kept | split)

theorem actGateCancel_kept (n : Nat) (x1_ x2_ : Nat) (s : State) [Can W .regs] (hK : Kept P W Z s) : Kept P W Z (actGateCancel n x1_ x2_ s).2 := by
  unfold actGateCancel; try dsimp only
  repeat' (with_reducible first | exact hK | apply Kept.ite | apply Kept.ite2 | apply wri_kept | split)

theorem doTreGateSwitchCancel_kept (a : Access) (trunk : Nat) (s : State) [Can W .regs] [Can W .links] [Can W .side] [Can W .obs] [Can W .out] (hK : Kept P W Z s) : Kept P W Z (doTreGateSwitchCancel a trunk s) := by
  unfold doTreGateSwitchCancel; try dsimp only
  repeat' (with_reducible first | exact hK | intro _ | assumption | exact id | decide | apply Kept.ite | apply Kept.ite2 | apply Kept.ite3 | apply accessWrite_kept | apply actGateCancel_kept | refine Kept.snd (by assumption) ?_ | refine Kept.snd3 (by assumption) ?_ | split)

theorem actLeafCreate_kept (x1_ v : Nat) (s : State) [Can W .regs] [Can W .links] [Can W .tree] [Can W .side] [Can W .ev] [Can W .obs] [Can W .out] (hK : Kept P W Z s) : Kept P W Z (actLeafCreate x1_ v s).2 := by
  unfold actLeafCreate; try dsimp only
  repeat' (with_reducible first | exact hK | intro _ | assumption | exact id | decide | apply Kept.ite | apply Kept.ite2 | apply Kept.ite3 | apply setLeaf_kept | apply allocate_kept | refine Kept.snd (by assumption) ?_ | refine Kept.snd3 (by assumption) ?_ | split)

theorem doTreLeafCreate_kept (a : Access) (s : State) [Can W .regs] [Can W .links] [Can W .tree] [Can W .side] [Can W .ev] [Can W .obs] [Can W .out] (hK : Kept P W Z s) : Kept P W Z (doTreLeafCreate a s) := by
  unfold doTreLeafCreate; try dsimp only
  repeat' (with_reducible first | exact hK | intro _ | assumption | exact id | decide | apply Kept.ite | apply Kept.ite2 | apply Kept.ite3 | apply accessWrite_kept | apply actLeafCreate_kept | refine Kept.snd (by assumption) ?_ | refine Kept.snd3 (by assumption) ?_ | split)

theorem withLeaf_kept (m : Nat) (s : State) (f : Nat → Leaf → Nat × State) (hK : Kept P W Z s) (hf : ∀ m l, Kept P W Z (f m l).2) : Kept P W Z (withLeaf m s f).2 := by
  unfold withLeaf; try dsimp only
  repeat' (with_reducible first | exact hK | intro _ | apply hf | assumption | apply Kept.ite | apply Kept.ite2 | split)

theorem actLeafBucketReset_kept (m x1_ : Nat) (s : State) [Can W .tree] (hK : Kept P W Z s) : Kept P W Z (actLeafBucketReset m x1_ s).2 := by
  unfold actLeafBucketReset; try dsimp only
  repeat' (with_reducible first | exact hK | intro _ | assumption | apply withLeaf_kept | apply setLeaf_kept)

theorem doTreLeafBucketReset_kept (a : Access) (s : State) [Can W .regs] [Can W .links] [Can W .tree] [Can W .side] [Can W .obs] [Can W .out] (hK : Kept P W Z s) : Kept P W Z (doTreLeafBucketReset a s) := by
  unfold doTreLeafBucketReset; try dsimp only
  repeat' (with_reducible first | exact hK | intro _ | assumption | exact id | decide | apply Kept.ite | apply Kept.ite2 | apply Kept.ite3 | apply accessWrite_kept | apply actLeafBucketReset_kept | refine Kept.snd (by assumption) ?_ | refine Kept.snd3 (by assumption) ?_ | split)

theorem fillBranch_kept (s : State) (b : Nat) [Can W .tree] (hK : Kept P W Z s) : Kept P W Z (fillBranch s b) := by
  unfold fillBranch; try dsimp only
  repeat' (with_reducible first | exact hK | apply setBranch_kept)

theorem actBranchBucketReset_kept (m x1_ : Nat) (s : State) [Can W .tree] (hK : Kept P W Z s) : Kept P W Z (actBranchBucketReset m x1_ s).2 := by
  unfold actBranchBucketReset; try dsimp only
  repeat' (with_reducible first | exact hK | apply fillBranch_kept)

theorem doTreBranchBucketReset_kept (a : Access) (s : State) [Can W .regs] [Can W .links] [Can W .tree] [Can W .side] [Can W .obs] [Can W .out] (hK : Kept P W Z s) : Kept P W Z (doTreBranchBucketReset a s) := by
  unfold doTreBranchBucketReset; try dsimp only
  repeat' (with_reducible first | exact hK | intro _ | assumption | exact id | decide | apply Kept.ite | apply Kept.ite2 | apply Kept.ite3 | apply accessWrite_kept | apply actBranchBucketReset_kept | refine Kept.snd (by assumption) ?_ | refine Kept.snd3 (by assumption) ?_ | split)

theorem actTrunkBucketReset_kept (n : Nat) (x1_ x2_ : Nat) (s : State) [Can W .tree] (hK : Kept P W Z s) : Kept P W Z (actTrunkBucketReset n x1_ x2_ s).2 := by
  unfold actTrunkBucketReset; try dsimp only
  repeat' (with_reducible first | exact hK | apply setTrunk_kept)

theorem doTreTrunkBucketReset_kept (a : Access) (trunk : Nat) (s : State) [Can W .regs] [Can W .links] [Can W .tree] [Can W .side] [Can W .obs] [Can W .out] (hK : Kept P W Z s) : Kept P W Z (doTreTrunkBucketReset a trunk s) := by
  unfold doTreTrunkBucketReset; try dsimp only
  repeat' (with_reducible first | exact hK | intro _ | assumption | exact id | decide | apply Kept.ite | apply Kept.ite2 | apply Kept.ite3 | apply accessWrite_kept | apply actTrunkBucketReset_kept | refine Kept.snd (by assumption) ?_ | refine Kept.snd3 (by assumption) ?_ | split)

theorem actLeafClear_kept (m x1_ : Nat) (s : State) [Can W .tree] (hK : Kept P W Z s) : Kept P W Z (actLeafClear m x1_ s).2 := by
  unfold actLeafClear; try dsimp only
  repeat' (with_reducible first | exact hK | intro _ | assumption | apply withLeaf_kept | apply setLeaf_kept)

theorem doTreLeafClear_kept (a : Access) (s : State) [Can W .regs] [Can W .links] [Can W .tree] [Can W .side] [Can W .obs] [Can W .out] (hK : Kept P W Z s) : Kept P W Z (doTreLeafClear a s) := by
  unfold doTreLeafClear; try dsimp only
  repeat' (with_reducible first | exact hK | intro _ | assumption | exact id | decide | apply Kept.ite | apply Kept.ite2 | apply Kept.ite3 | apply accessWrite_kept | apply actLeafClear_kept | refine Kept.snd (by assumption) ?_ | refine Kept.snd3 (by assumption) ?_ | split)

theorem actLeafCir_kept (m v : Nat) (s : State) [Can W .regs] [Can W .links] [Can W .tree] [Can W .side] [Can W .ev] [Can W .obs] [Can W .out] (hK : Kept P W Z s) : Kept P W Z (actLeafCir m v s).2 := by
  unfold actLeafCir; try dsimp only
  repeat' (with_reducible first | exact hK | intro _ | assumption | apply Kept.ite | apply Kept.ite2 | apply withLeaf_kept | apply setLeaf_kept | apply tryCommit_kept | split)

theorem doTreLeafCir_kept (a : Access) (s : State) [Can W .regs] [Can W .links] [Can W .tree] [Can W .side] [Can W .ev] [Can W .obs] [Can W .out] (hK : Kept P W Z s) : Kept P W Z (doTreLeafCir a s) := by
  unfold doTreLeafCir; try dsimp only
  repeat' (with_reducible first | exact hK | intro _ | assumption | exact id | decide | apply Kept.ite | apply Kept.ite2 | apply Kept.ite3 | apply accessWrite_kept | apply actLeafCir_kept | refine Kept.snd (by assumption) ?_ | refine Kept.snd3 (by assumption) ?_ | split)

theorem actLeafOlMax_kept (m v : Nat) (s : State) [Can W .regs] [Can W .links] [Can W .tree] [Can W .side] [Can W .ev] [Can W .obs] [Can W .out] (hK : Kept P W Z s) : Kept P W Z (actLeafOlMax m v s).2 := by
  unfold actLeafOlMax; try dsimp only
  repeat' (with_reducible first | exact hK | intro _ | assumption | apply Kept.ite | apply Kept.ite2 | apply withLeaf_kept | apply setLeaf_kept | apply tryCommit_kept | split)

theorem doTreLeafOlMax_kept (a : Access) (s : State) [Can W .regs] [Can W .links] [Can W .tree] [Can W .side] [Can W .ev] [Can W .obs] [Can W .out] (hK : Kept P W Z s) : Kept P W Z (doTreLeafOlMax a s) := by
  unfold doTreLeafOlMax; try dsimp only
  repeat' (with_reducible first | exact hK | intro _ | assumption | exact id | decide | apply Kept.ite | apply Kept.ite2 | apply Kept.ite3 | apply accessWrite_kept | apply actLeafOlMax_kept | refine Kept.snd (by assumption) ?_ | refine Kept.snd3 (by assumption) ?_ | split)

theorem actLeafBranch_kept (m v : Nat) (s : State) [Can W .regs] [Can W .links] [Can W .tree] [Can W .side] [Can W .ev] [Can W .obs] [Can W .out] (hK : Kept P W Z s) : Kept P W Z (actLeafBranch m v s).2 := by
  unfold actLeafBranch; try dsimp only
  repeat' (with_reducible first | exact hK | intro _ | assumption | apply Kept.ite | apply Kept.ite2 | apply withLeaf_kept | apply setLeaf_kept | apply tryCommit_kept | split)

theorem doTreLeafBranch_kept (a : Access) (s : State) [Can W .regs] [Can W .links] [Can W .tree] [Can W .side] [Can W .ev] [Can W .obs] [Can W .out] (hK : Kept P W Z s) : Kept P W Z (doTreLeafBranch a s) := by
  unfold doTreLeafBranch; try dsimp only
  repeat' (with_reducible first | exact hK | intro _ | assumption | exact id | decide | apply Kept.ite | apply Kept.ite2 | apply Kept.ite3 | apply accessWrite_kept | apply actLeafBranch_kept | refine Kept.snd (by assumption) ?_ | refine Kept.snd3 (by assumption) ?_ | split)

theorem actBranchCtrl_kept (m v : Nat) (s : State) [Can W .regs] [Can W .links] [Can W .tree] [Can W .side] [Can W .ev] [Can W .obs] [Can W .out] (hK : Kept P W Z s) : Kept P W Z (actBranchCtrl m v s).2 := by
  unfold actBranchCtrl; try dsimp only
  repeat' (with_reducible first | exact hK | apply Kept.ite | apply Kept.ite2 | apply putBr_kept | apply fillBranch_kept | apply tryCommit_kept | split)

theorem doTreBranchCtrl_kept (a : Access) (s : State) [Can W .regs] [Can W .links] [Can W .tree] [Can W .side] [Can W .ev] [Can W .obs] [Can W .out] (hK : Kept P W Z s) : Kept P W Z (doTreBranchCtrl a s) := by
  unfold doTreBranchCtrl; try dsimp only
  repeat' (with_reducible first | exact hK | intro _ | assumption | exact id | decide | apply Kept.ite | apply Kept.ite2 | apply Kept.ite3 | apply accessWrite_kept | apply actBranchCtrl_kept | refine Kept.snd (by assumption) ?_ | refine Kept.snd3 (by assumption) ?_ | split)

theorem actBranchMin_kept (m v : Nat) (s : State) [Can W .regs] [Can W .links] [Can W .side] [Can W .ev] [Can W .obs] [Can W .out] (hK : Kept P W Z s) : Kept P W Z (actBranchMin m v s).2 := by
  unfold actBranchMin; try dsimp only
  repeat' (with_reducible first | exact hK | apply Kept.ite | apply Kept.ite2 | apply tryCommit_kept | apply putBr_kept | split)

theorem doTreBranchMin_kept (a : Access) (s : State) [Can W .regs] [Can W .links] [Can W .side] [Can W .ev] [Can W .obs] [Can W .out] (hK : Kept P W Z s) : Kept P W Z (doTreBranchMin a s) := by
  unfold doTreBranchMin; try dsimp only
  repeat' (with_reducible first | exact hK | intro _ | assumption | exact id | decide | apply Kept.ite | apply Kept.ite2 | apply Kept.ite3 | apply accessWrite_kept | apply actBranchMin_kept | refine Kept.snd (by assumption) ?_ | refine Kept.snd3 (by assumption) ?_ | split)

theorem actBranchMax_kept (m v : Nat) (s : State) [Can W .regs] [Can W .links] [Can W .side] [Can W .ev] [Can W .obs] [Can W .out] (hK : Kept P W Z s) : Kept P W Z (actBranchMax m v s).2 := by
  unfold actBranchMax; try dsimp only
  repeat' (with_reducible first | exact hK | apply Kept.ite | apply Kept.ite2 | apply tryCommit_kept | apply putBr_kept | split)

theorem doTreBranchMax_kept (a : Access) (s : State) [Can W .regs] [Can W .links] [Can W .side] [Can W .ev] [Can W .obs] [Can W .out] (hK : Kept P W Z s) : Kept P W Z (doTreBranchMax a s) := by
  unfold doTreBranchMax; try dsimp only
  repeat' (with_reducible first | exact hK | intro _ | assumption | exact id | decide | apply Kept.ite | apply Kept.ite2 | apply Kept.ite3 | apply accessWrite_kept | apply actBranchMax_kept | refine Kept.snd (by assumption) ?_ | refine Kept.snd3 (by assumption) ?_ | split)

theorem actTrunkMax_kept (n : Nat) (x1_ v : Nat) (s : State) [Can W .regs] [Can W .links] [Can W .side] [Can W .ev] [Can W .obs] [Can W .out] (hK : Kept P W Z s) : Kept P W Z (actTrunkMax n x1_ v s).2 := by
  unfold actTrunkMax; try dsimp only
  repeat' (with_reducible first | exact hK | apply Kept.ite | apply Kept.ite2 | apply wri_kept | apply tryCommit_kept | split)

theorem doTreTrunkMax_kept (a : Access) (trunk : Nat) (s : State) [Can W .regs] [Can W .links] [Can W .side] [Can W .ev] [Can W .obs] [Can W .out] (hK : Kept P W Z s) : Kept P W Z (doTreTrunkMax a trunk s) := by
  unfold doTreTrunkMax; try dsimp only
  repeat' (with_reducible first | exact hK | intro _ | assumption | exact id | decide | apply Kept.ite | apply Kept.ite2 | apply Kept.ite3 | apply accessWrite_kept | apply actTrunkMax_kept | refine Kept.snd (by assumption) ?_ | refine Kept.snd3 (by assumption) ?_ | split)

theorem treeSelect_kept (m index v : Nat) (s : State) [Can W .regs] [Can W .dict] (hK : Kept P W Z s) :
    ∀ r, treeSelect m index v s = some r → Kept P W Z r.2 := by
  unfold treeSelect
  refine opt_ite (opt_some (setSel_kept _ _ _ _ hK)) (opt_ite (opt_some (setSel_kept _ _ _ _ hK)) (opt_ite (opt_some (setSel_kept _ _ _ _ hK)) (opt_ite (opt_some ?_) opt_none)))
  · exact Kept.ite2 hK (Kept.ite2 hK (put_kept _ _ _ _ hK))

theorem leafWrite_kept (m sub v : Nat) (s : State) [Can W .tree] (hK : Kept P W Z s) :
    ∀ r, leafWrite m sub v s = some r → Kept P W Z r.2 := by
  unfold leafWrite
  cases tget? (leafParts v) sub with
  | some f => exact opt_some (withLeaf_kept _ _ _ hK (fun _ _ => setLeaf_kept _ _ _ hK))
  | none => exact opt_ite (opt_some (withLeaf_kept _ _ _ hK (fun _ _ => Kept.ite2 hK (setLeaf_kept _ _ _ hK)))) opt_none

theorem treeWrite_kept (m index sub v : Nat) (s : State) [Can W .regs] [Can W .dict] [Can W .tree] (hK : Kept P W Z s) :
    ∀ r, treeWrite m index sub v s = some r → Kept P W Z r.2 := by
  unfold treeWrite
  exact opt_ite (leafWrite_kept _ _ _ _ hK) (opt_ite (treeSelect_kept _ _ _ _ hK) (opt_ite (opt_some (putBr_kept _ _ _ _ hK))
   (opt_ite (opt_some hK) (opt_ite (opt_some hK) opt_none))))

theorem takeReqCredit_kept (s : State) (f : Flight) [Can W .links] (hK : Kept P W Z s) : Kept P W Z (takeReqCredit s f) := by
  unfold takeReqCredit; try dsimp only
  repeat' (with_reducible first | exact hK | intro _ | assumption | apply Kept.ite | apply takeCredit_kept | apply modLink_kept | split)

theorem accepted_kept (s : State) (uid port : Nat) [Can W .regs] [Can W .pins] [Can W .links] [Can W .flights] [Can W .tree] [Can W .pchs] [Can W .sleep] [Can W .side] [Can W .ev] [Can W .ledgers] [Can W .obs] [Can W .out] (hK : Kept P W Z s) : Kept P W Z (accepted s uid port) := by
  unfold accepted; try dsimp only
  repeat' (with_reducible first | exact hK | apply Kept.ite | apply abortEntry_kept | apply joinReplay_kept | apply treeArrive_kept | apply ungate_kept | split)

theorem arrive_kept (s : State) (f : Flight) [Can W .regs] [Can W .pins] [Can W .links] [Can W .flights] [Can W .tree] [Can W .pchs] [Can W .sleep] [Can W .side] [Can W .ev] [Can W .ledgers] [Can W .obs] [Can W .out] [Can W .uid] (hK : Kept P W Z s) : Kept P W Z (arrive s f) := by
  unfold arrive; try dsimp only
  repeat' (with_reducible first | exact hK | apply Kept.ite | apply bumpi_kept | apply obsEvent_kept | apply ungate_kept | apply takeReqCredit_kept | apply decide'_kept | apply freeCredits_kept | apply accepted_kept | (refine Kept.set_uid (Kept.set_flights (Kept.eta ?_)); first | exact hK | apply bumpi_kept | apply obsEvent_kept | apply ungate_kept | apply takeReqCredit_kept | apply decide'_kept | apply freeCredits_kept | apply accepted_kept) | split)

theorem doRd_kept (h : ReqHdr) (s : State) [Can W .regs] [Can W .pins] [Can W .links] [Can W .flights] [Can W .tree] [Can W .pchs] [Can W .sleep] [Can W .side] [Can W .ev] [Can W .ledgers] [Can W .obs] [Can W .out] [Can W .uid] (hK : Kept P W Z s) : Kept P W Z (doRd h s) := by
  unfold doRd; try dsimp only
  repeat' (with_reducible first | exact hK | apply arrive_kept)

theorem doRdShared_kept (h : ReqHdr) (s : State) [Can W .regs] [Can W .pins] [Can W .links] [Can W .flights] [Can W .tree] [Can W .pchs] [Can W .sleep] [Can W .side] [Can W .ev] [Can W .ledgers] [Can W .obs] [Can W .out] [Can W .uid] (hK : Kept P W Z s) : Kept P W Z (doRdShared h s) := by
  unfold doRdShared; try dsimp only
  repeat' (with_reducible first | exact hK | apply arrive_kept)

theorem doRdOwn_kept (h : ReqHdr) (s : State) [Can W .regs] [Can W .pins] [Can W .links] [Can W .flights] [Can W .tree] [Can W .pchs] [Can W .sleep] [Can W .side] [Can W .ev] [Can W .ledgers] [Can W .obs] [Can W .out] [Can W .uid] (hK : Kept P W Z s) : Kept P W Z (doRdOwn h s) := by
  unfold doRdOwn; try dsimp only
  repeat' (with_reducible first | exact hK | apply arrive_kept)

theorem doUpgrade_kept (h : ReqHdr) (s : State) [Can W .regs] [Can W .pins] [Can W .links] [Can W .flights] [Can W .tree] [Can W .pchs] [Can W .sleep] [Can W .side] [Can W .ev] [Can W .ledgers] [Can W .obs] [Can W .out] [Can W .uid] (hK : Kept P W Z s) : Kept P W Z (doUpgrade h s) := by
  unfold doUpgrade; try dsimp only
  repeat' (with_reducible first | exact hK | apply arrive_kept)

theorem doWrFull_kept (h : ReqHdr) (data : Line) (s : State) [Can W .regs] [Can W .pins] [Can W .links] [Can W .flights] [Can W .tree] [Can W .pchs] [Can W .sleep] [Can W .side] [Can W .ev] [Can W .ledgers] [Can W .obs] [Can W .out] [Can W .uid] (hK : Kept P W Z s) : Kept P W Z (doWrFull h data s) := by
  unfold doWrFull; try dsimp only
  repeat' (with_reducible first | exact hK | apply arrive_kept)

theorem doWrPart_kept (h : ReqHdr) (mask : BitVec 64) (data : Line) (s : State) [Can W .regs] [Can W .pins] [Can W .links] [Can W .flights] [Can W .tree] [Can W .pchs] [Can W .sleep] [Can W .side] [Can W .ev] [Can W .ledgers] [Can W .obs] [Can W .out] [Can W .uid] (hK : Kept P W Z s) : Kept P W Z (doWrPart h mask data s) := by
  unfold doWrPart; try dsimp only
  repeat' (with_reducible first | exact hK | apply arrive_kept)

theorem doWbDirty_kept (h : ReqHdr) (data : Line) (s : State) [Can W .regs] [Can W .pins] [Can W .links] [Can W .flights] [Can W .tree] [Can W .pchs] [Can W .sleep] [Can W .side] [Can W .ev] [Can W .ledgers] [Can W .obs] [Can W .out] [Can W .uid] (hK : Kept P W Z s) : Kept P W Z (doWbDirty h data s) := by
  unfold doWbDirty; try dsimp only
  repeat' (with_reducible first | exact hK | apply arrive_kept)

theorem doWrHint_kept (h : ReqHdr) (target : Nat) (data : Line) (s : State) [Can W .regs] [Can W .pins] [Can W .links] [Can W .flights] [Can W .tree] [Can W .pchs] [Can W .sleep] [Can W .side] [Can W .ev] [Can W .ledgers] [Can W .obs] [Can W .out] [Can W .uid] (hK : Kept P W Z s) : Kept P W Z (doWrHint h target data s) := by
  unfold doWrHint; try dsimp only
  repeat' (with_reducible first | exact hK | apply arrive_kept)

theorem doAtom_kept (h : ReqHdr) (x : AtomSpec) (s : State) [Can W .regs] [Can W .pins] [Can W .links] [Can W .flights] [Can W .tree] [Can W .pchs] [Can W .sleep] [Can W .side] [Can W .ev] [Can W .ledgers] [Can W .obs] [Can W .out] [Can W .uid] (hK : Kept P W Z s) : Kept P W Z (doAtom h x s) := by
  unfold doAtom; try dsimp only
  repeat' (with_reducible first | exact hK | apply arrive_kept)

theorem doUnsupportedOpcode_kept (h : ReqHdr) (opcode : Nat) (s : State) [Can W .regs] [Can W .pins] [Can W .links] [Can W .flights] [Can W .tree] [Can W .pchs] [Can W .sleep] [Can W .side] [Can W .ev] [Can W .ledgers] [Can W .obs] [Can W .out] [Can W .uid] (hK : Kept P W Z s) : Kept P W Z (doUnsupportedOpcode h opcode s) := by
  unfold doUnsupportedOpcode; try dsimp only
  repeat' (with_reducible first | exact hK | apply Kept.ite | apply arrive_kept | split)

end Sys2Proof.Machine
end

