-- ==== Sys2Proof/Laws/KeptHome.lean ====
section
/-!
SUPPORT. What the operations of these areas keep, one lemma each: home engine and cells. The parts a lemma asks for are those the
operation may change.
-/
namespace Sys2Proof.Machine
variable {P : Prop} {W : Part → Bool} {Z : State}

theorem modHome_kept (s : State) (f : Home → Home) [Can W .home] (hK : Kept P W Z s) : Kept P W Z (modHome s f) := by
  unfold modHome; try dsimp only
  repeat' (with_reducible first | exact hK | (refine Kept.set_home (Kept.eta ?_); first | exact hK))

theorem setTxn_kept (s : State) (id : Nat) (t : Txn) [Can W .home] (hK : Kept P W Z s) : Kept P W Z (setTxn s id t) := by
  unfold setTxn; try dsimp only
  repeat' (with_reducible first | exact hK | intro _ | assumption | apply modHome_kept)

theorem modTxn_kept (s : State) (id : Nat) (f : Txn → Txn) [Can W .home] (hK : Kept P W Z s) : Kept P W Z (modTxn s id f) := by
  unfold modTxn; try dsimp only
  repeat' (with_reducible first | exact hK | apply setTxn_kept | split)

theorem delEntry_kept (s : State) (line : Nat) [Can W .home] (hK : Kept P W Z s) : Kept P W Z (delEntry s line) := by
  unfold delEntry; try dsimp only
  repeat' (with_reducible first | exact hK | intro _ | assumption | apply modHome_kept)

theorem putEntry_kept (s : State) (e : FilterEntry) [Can W .home] (hK : Kept P W Z s) : Kept P W Z (putEntry s e) := by
  unfold putEntry; try dsimp only
  repeat' (with_reducible first | exact hK | intro _ | assumption | apply modHome_kept)

theorem touchEntry_kept (s : State) (line : Nat) [Can W .home] (hK : Kept P W Z s) : Kept P W Z (touchEntry s line) := by
  unfold touchEntry; try dsimp only
  repeat' (with_reducible first | exact hK | apply putEntry_kept | split)

theorem dropHolder_kept (s : State) (line a : Nat) [Can W .home] (hK : Kept P W Z s) : Kept P W Z (dropHolder s line a) := by
  unfold dropHolder; try dsimp only
  repeat' (with_reducible first | exact hK | intro _ | assumption | apply Kept.ite | apply delEntry_kept | apply modHome_kept | split)

theorem takeWay_kept (s : State) (line : Nat) [Can W .regs] [Can W .home] [Can W .obs] (hK : Kept P W Z s) : ∀ t, takeWay s line = some t → Kept P W Z t := by
  intro t e
  unfold takeWay at e
  split at e
  · cases e; exact hK
  · split at e
    · cases e
    · cases e
      exact modHome_kept _ _ (obsEvent_kept _ _ _ _ (bumpWrap_kept _ _ _ _ _ (delEntry_kept _ _ hK)))

theorem openTxn_kept (s : State) (id : Nat) (t : Txn) (order : List Nat) [Can W .regs] [Can W .home] (hK : Kept P W Z s) : Kept P W Z (openTxn s id t order) := by
  unfold openTxn; try dsimp only
  repeat' (with_reducible first | exact hK | intro _ | assumption | apply modHome_kept | apply wr_kept)

theorem openReserved_kept (s : State) (id : Nat) [Can W .regs] [Can W .home] (hK : Kept P W Z s) : Kept P W Z (openReserved s id) := by
  unfold openReserved; try dsimp only
  repeat' (with_reducible first | exact hK | intro _ | assumption | apply openTxn_kept | apply modHome_kept | split)

theorem settleLeave_kept (s : State) [Can W .regs] [Can W .home] (hK : Kept P W Z s) : Kept P W Z (settleLeave s) := by
  unfold settleLeave; try dsimp only
  repeat' (with_reducible first | exact hK | intro _ | assumption | apply openTxn_kept | apply modHome_kept | split)

theorem fillLines_kept (s : State) (n : Nat) [Can W .regs] [Can W .home] (hK : Kept P W Z s) : Kept P W Z (fillLines s n) := by
  induction n generalizing s with
  | zero => exact hK
  | succ n ih =>
    unfold fillLines; split
    · exact hK
    · split
      · exact hK
      · exact ih _ (openReserved_kept _ _ hK)

theorem fillReserved_kept (s : State) (fuel : Nat) [Can W .regs] [Can W .home] (hK : Kept P W Z s) : Kept P W Z (fillReserved s fuel) := by
  unfold fillReserved; try dsimp only
  repeat' (with_reducible first | exact hK | apply fillLines_kept | apply settleLeave_kept)

theorem dropAtom_kept (s : State) (line : Nat) [Can W .home] (hK : Kept P W Z s) : Kept P W Z (dropAtom s line) := by
  unfold dropAtom; try dsimp only
  repeat' (with_reducible first | exact hK | intro _ | assumption | apply modHome_kept)

theorem putAtom_kept (s : State) (line : Nat) (data : Line) (busy : Bool) [Can W .home] (hK : Kept P W Z s) : Kept P W Z (putAtom s line data busy) := by
  unfold putAtom; try dsimp only
  repeat' (with_reducible first | exact hK | intro _ | assumption | apply modHome_kept)

theorem takeAtom_kept (s : State) (line : Nat) [Can W .home] (hK : Kept P W Z s) : ∀ t, takeAtom s line = some t → Kept P W Z t := by
  intro t e
  unfold takeAtom at e
  split at e
  · cases e; exact hK
  · split at e
    · cases e
    · cases e
      exact dropAtom_kept _ _ hK

theorem sendSnoop_kept (s : State) (id : Nat) (t : Txn) (sn : Snoop) [Can W .links] [Can W .obs] [Can W .out] (hK : Kept P W Z s) : Kept P W Z (sendSnoop s id t sn) := by
  unfold sendSnoop; try dsimp only
  repeat' (with_reducible first | exact hK | apply sendMsg_kept | apply obsEvent_kept | split)

theorem pumpSnoops_kept (s : State) (id : Nat) [Can W .links] [Can W .home] [Can W .obs] [Can W .out] (hK : Kept P W Z s) : Kept P W Z (pumpSnoops s id) := by
  unfold pumpSnoops; try dsimp only
  repeat' (with_reducible first | exact hK | intro _ | assumption | apply forEach_kept | apply setTxn_kept | apply sendSnoop_kept | apply forEach_kept | split)

theorem beginSnoops_kept (s : State) (id : Nat) (agents : List Nat) (op : Nat) [Can W .links] [Can W .flights] [Can W .home] [Can W .obs] [Can W .out] (hK : Kept P W Z s) : Kept P W Z (beginSnoops s id agents op) := by
  unfold beginSnoops; try dsimp only
  repeat' (with_reducible first | exact hK | intro _ | assumption | apply modTxn_kept | apply modFlight_kept | apply pumpSnoops_kept | split)

theorem reply_kept (s : State) (id : Nat) (r : Rsp) (outcome : Nat) (granted : Bool) [Can W .flights] [Can W .tree] [Can W .home] [Can W .ledgers] (hK : Kept P W Z s) : Kept P W Z (reply s id r outcome granted) := by
  unfold reply; try dsimp only
  repeat' (with_reducible first | exact hK | apply Kept.ite | apply setTxn_kept | apply decide'_kept | split)

theorem freeTxnRoom_kept (s : State) (id : Nat) [Can W .flights] [Can W .tree] (hK : Kept P W Z s) : Kept P W Z (freeTxnRoom s id) := by
  unfold freeTxnRoom; try dsimp only
  repeat' (with_reducible first | exact hK | apply freeRoom_kept | split)

theorem failTxn_kept (s : State) (id code outcome : Nat) [Can W .flights] [Can W .tree] [Can W .home] [Can W .ledgers] (hK : Kept P W Z s) : Kept P W Z (failTxn s id code outcome) := by
  unfold failTxn; try dsimp only
  repeat' (with_reducible first | exact hK | intro _ | assumption | apply Kept.ite | apply freeTxnRoom_kept | apply reply_kept | apply modTxn_kept | split)

theorem enqueueRetry_kept (s : State) (id : Nat) [Can W .regs] [Can W .links] [Can W .home] [Can W .side] [Can W .ev] [Can W .obs] [Can W .out] (hK : Kept P W Z s) : Kept P W Z (enqueueRetry s id) := by
  unfold enqueueRetry; try dsimp only
  repeat' (with_reducible first | exact hK | intro _ | assumption | apply Kept.ite | apply setTxn_kept | apply modHome_kept | apply obsEvent_kept | apply bump_kept | apply raiseEv_kept | apply wr_kept | split)

theorem withWay_kept (s : State) (id line : Nat) (k : State → State) [Can W .regs] [Can W .links] [Can W .home] [Can W .side] [Can W .ev] [Can W .obs] [Can W .out] (hK : Kept P W Z s)
   (hk : ∀ s, Kept P W Z s → Kept P W Z (k s)) : Kept P W Z (withWay s id line k) := by
  unfold withWay
  have key : ∀ o : Option State, (∀ t, o = some t → Kept P W Z t) → Kept P W Z (match o with
      | none => enqueueRetry s id
      | some s => k (modTxn (modHome s fun h => { h with retryQ := h.retryQ.filter (· ≠ id) }) id fun t => { t with retry := false })) := by
    intro o h
    cases o with
    | none => exact enqueueRetry_kept _ _ hK
    | some t => exact hk _ (modTxn_kept _ _ _ (modHome_kept _ _ (h t rfl)))
  refine key _ (fun t e => ?_)
  cases hf : (findEntryOf s line).isSome with
  | true => rw [hf] at e; cases e; exact hK
  | false =>
    rw [hf, if_neg (by decide)] at e
    generalize retryQueue s (lineSet line) = q at e
    cases q
    · exact takeWay_kept _ _ hK _ e
    · dsimp only at e
      split at e
      · exact takeWay_kept _ _ hK _ e
      · cases e

theorem writeDirty_kept (s : State) (id : Nat) [Can W .home] (hK : Kept P W Z s) : Kept P W Z (writeDirty s id) := by
  unfold writeDirty; try dsimp only
  repeat' (with_reducible first | exact hK | intro _ | assumption | apply Kept.ite | apply modTxn_kept | split)

theorem finishTxn_kept (s : State) (id : Nat) [Can W .home] (hK : Kept P W Z s) : Kept P W Z (finishTxn s id) := by
  unfold finishTxn; try dsimp only
  repeat' (with_reducible first | exact hK | intro _ | assumption | apply modTxn_kept)

theorem sendData_kept (s : State) (id : Nat) (t : Txn) (st : Nat) [Can W .flights] [Can W .tree] [Can W .home] [Can W .ledgers] (hK : Kept P W Z s) : Kept P W Z (sendData s id t st) := by
  unfold sendData; try dsimp only
  repeat' (with_reducible first | exact hK | apply Kept.ite | apply freeTxnRoom_kept | apply writeDirty_kept | apply finishTxn_kept | apply reply_kept | split)

theorem settleHolder_kept (s : State) (t : Txn) [Can W .home] (hK : Kept P W Z s) : Kept P W Z (settleHolder s t) := by
  unfold settleHolder; try dsimp only
  repeat' (with_reducible first | exact hK | apply Kept.ite | apply putEntry_kept | apply dropHolder_kept | split)

theorem finishRead_kept (s : State) (id : Nat) (t : Txn) (f : Flight) [Can W .regs] [Can W .links] [Can W .flights] [Can W .tree] [Can W .home] [Can W .side] [Can W .ev] [Can W .ledgers] [Can W .obs] [Can W .out] (hK : Kept P W Z s) : Kept P W Z (finishRead s id t f) := by
  unfold finishRead; try dsimp only
  repeat' (with_reducible first | exact hK | intro _ | assumption | apply Kept.ite | apply sendData_kept | apply settleHolder_kept | apply withWay_kept | apply putEntry_kept | split)

theorem failEntry_kept (s : State) (t : Txn) (f : Flight) [Can W .home] (hK : Kept P W Z s) : Kept P W Z (failEntry s t f) := by
  unfold failEntry; try dsimp only
  repeat' (with_reducible first | exact hK | apply Kept.ite | apply settleHolder_kept | apply delEntry_kept | split)

theorem finishError_kept (s : State) (id : Nat) (t : Txn) (f : Flight) [Can W .flights] [Can W .tree] [Can W .home] [Can W .ledgers] (hK : Kept P W Z s) : Kept P W Z (finishError s id t f) := by
  unfold finishError; try dsimp only
  repeat' (with_reducible first | exact hK | apply Kept.ite | apply failEntry_kept | apply dropAtom_kept | apply writeDirty_kept | apply failTxn_kept | split)

theorem finishAtom_kept (s : State) (id : Nat) (t : Txn) (f : Flight) [Can W .regs] [Can W .flights] [Can W .tree] [Can W .home] [Can W .ledgers] [Can W .obs] (hK : Kept P W Z s) : Kept P W Z (finishAtom s id t f) := by
  unfold finishAtom; try dsimp only
  repeat' (with_reducible first | exact hK | intro _ | assumption | apply Kept.ite | apply delEntry_kept | apply dropAtom_kept | apply putAtom_kept | apply obsEvent_kept | apply bumpWrap_kept | apply freeTxnRoom_kept | apply modTxn_kept | apply reply_kept | split)

theorem finishWrite_kept (s : State) (id : Nat) (t : Txn) (f : Flight) [Can W .home] (hK : Kept P W Z s) : Kept P W Z (finishWrite s id t f) := by
  unfold finishWrite; try dsimp only
  repeat' (with_reducible first | exact hK | intro _ | assumption | apply Kept.ite | apply putEntry_kept | apply delEntry_kept | apply modTxn_kept | split)

theorem finishFlow_kept (s : State) (id : Nat) (t : Txn) (f : Flight) [Can W .regs] [Can W .links] [Can W .flights] [Can W .tree] [Can W .home] [Can W .side] [Can W .ev] [Can W .ledgers] [Can W .obs] [Can W .out] (hK : Kept P W Z s) : Kept P W Z (finishFlow s id t f) := by
  unfold finishFlow; try dsimp only
  repeat' (with_reducible first | exact hK | intro _ | assumption | apply Kept.ite | apply finishError_kept | apply finishRead_kept | apply withWay_kept | apply finishTxn_kept | apply writeDirty_kept | apply reply_kept | apply putEntry_kept | apply finishAtom_kept | apply finishWrite_kept | split)

theorem startAtom_kept (s : State) (id : Nat) (t : Txn) [Can W .regs] [Can W .links] [Can W .flights] [Can W .tree] [Can W .home] [Can W .obs] [Can W .out] (hK : Kept P W Z s) : Kept P W Z (startAtom s id t) := by
  unfold startAtom
  split
  · exact setTxn_kept _ _ _ hK
  · rename_i s' e
    have h := takeAtom_kept _ _ hK _ e
    dsimp only
    generalize atomLine s' t.line = b
    cases b with
    | some b => exact freeTxnRoom_kept _ _ (setTxn_kept _ _ _ (obsEvent_kept _ _ _ _ (bumpWrap_kept _ _ _ _ _ (putAtom_kept _ _ _ _ h))))
    | none => exact beginSnoops_kept _ _ _ _ (setTxn_kept _ _ _ (putAtom_kept _ _ _ _ h))

theorem advanceReq_kept (s : State) (id : Nat) (t : Txn) (f : Flight) [Can W .regs] [Can W .links] [Can W .flights] [Can W .tree] [Can W .home] [Can W .side] [Can W .ev] [Can W .ledgers] [Can W .obs] [Can W .out] (hK : Kept P W Z s) : Kept P W Z (advanceReq s id t f) := by
  unfold advanceReq; try dsimp only
  repeat' (with_reducible first | exact hK | intro _ | assumption | apply Kept.ite | apply withWay_kept | apply modTxn_kept | apply putEntry_kept | apply startAtom_kept | apply setTxn_kept | apply finishFlow_kept | split)

theorem advanceOwn_kept (s : State) (id : Nat) (t : Txn) [Can W .home] (hK : Kept P W Z s) : Kept P W Z (advanceOwn s id t) := by
  unfold advanceOwn; try dsimp only
  repeat' (with_reducible first | exact hK | apply Kept.ite | apply finishTxn_kept | apply writeDirty_kept | apply delEntry_kept | split)

theorem advanceHint_kept (s : State) (id : Nat) (t : Txn) (f : Flight) [Can W .regs] [Can W .links] [Can W .home] [Can W .side] [Can W .ev] [Can W .obs] [Can W .out] (hK : Kept P W Z s) : Kept P W Z (advanceHint s id t f) := by
  unfold advanceHint; try dsimp only
  repeat' (with_reducible first | exact hK | intro _ | assumption | apply Kept.ite | apply withWay_kept | apply modTxn_kept | apply putEntry_kept | split)

theorem closeTxn_kept (s : State) (id : Nat) (t : Txn) [Can W .flights] [Can W .tree] [Can W .home] (hK : Kept P W Z s) : Kept P W Z (closeTxn s id t) := by
  unfold closeTxn; try dsimp only
  repeat' (with_reducible first | exact hK | intro _ | assumption | apply Kept.ite | apply freeTxnRoom_kept | apply modHome_kept | apply dropFlight_kept | split)

theorem advance1_kept (s : State) (id : Nat) [Can W .regs] [Can W .links] [Can W .flights] [Can W .tree] [Can W .home] [Can W .side] [Can W .ev] [Can W .ledgers] [Can W .obs] [Can W .out] (hK : Kept P W Z s) : Kept P W Z (advance1 s id) := by
  unfold advance1; try dsimp only
  repeat' (with_reducible first | exact hK | apply Kept.ite | apply advanceReq_kept | apply advanceHint_kept | apply advanceOwn_kept | apply closeTxn_kept | split)

theorem serveWaiting_kept (s : State) [Can W .regs] [Can W .links] [Can W .flights] [Can W .tree] [Can W .home] [Can W .side] [Can W .ev] [Can W .ledgers] [Can W .obs] [Can W .out] (hK : Kept P W Z s) : Kept P W Z (serveWaiting s) := by
  unfold serveWaiting; try dsimp only
  repeat' (with_reducible first | exact hK | intro _ | assumption | apply forEach_kept | apply advance1_kept | apply forEach_kept)

theorem advance_kept (s : State) (id : Nat) [Can W .regs] [Can W .links] [Can W .flights] [Can W .tree] [Can W .home] [Can W .side] [Can W .ev] [Can W .ledgers] [Can W .obs] [Can W .out] (hK : Kept P W Z s) : Kept P W Z (advance s id) := by
  unfold advance; try dsimp only
  repeat' (with_reducible first | exact hK | apply fillReserved_kept | apply serveWaiting_kept | apply advance1_kept)

theorem refuseWb_kept (s : State) (uid : Nat) [Can W .flights] [Can W .tree] [Can W .ledgers] (hK : Kept P W Z s) : Kept P W Z (refuseWb s uid) := by
  unfold refuseWb; try dsimp only
  repeat' (with_reducible first | exact hK | apply decide'_kept | apply freeRoom_kept)

theorem poisonLine_kept (s : State) (c line : Nat) [Can W .regs] [Can W .links] [Can W .home] [Can W .side] [Can W .ev] [Can W .obs] [Can W .out] (hK : Kept P W Z s) : Kept P W Z (poisonLine s c line) := by
  unfold poisonLine; try dsimp only
  repeat' (with_reducible first | exact hK | intro _ | assumption | apply Kept.ite | apply bumpi_kept | apply modHome_kept | apply raiseEv_kept | split)

theorem fallenAnswer_kept (s : State) (id a : Nat) [Can W .regs] [Can W .links] [Can W .flights] [Can W .tree] [Can W .home] [Can W .side] [Can W .ev] [Can W .ledgers] [Can W .obs] [Can W .out] (hK : Kept P W Z s) : Kept P W Z (fallenAnswer s id a) := by
  unfold fallenAnswer; try dsimp only
  repeat' (with_reducible first | exact hK | intro _ | assumption | apply Kept.ite | apply forEach_kept | apply refuseWb_kept | apply bump_kept | apply dropHolder_kept | apply poisonLine_kept | apply delEntry_kept | apply modTxn_kept | apply forEach_kept | split)

theorem endRequester_kept (s : State) (id : Nat) (t : Txn) [Can W .flights] [Can W .tree] [Can W .home] [Can W .ledgers] (hK : Kept P W Z s) : Kept P W Z (endRequester s id t) := by
  unfold endRequester; try dsimp only
  repeat' (with_reducible first | exact hK | intro _ | assumption | apply Kept.ite | apply setTxn_kept | apply replaceRsp_kept | apply dropAtom_kept | apply failEntry_kept | apply writeDirty_kept | apply failTxn_kept | apply modTxn_kept | split)

theorem fallVictim_kept (s : State) (c id : Nat) (t : Txn) [Can W .regs] [Can W .links] [Can W .home] [Can W .side] [Can W .ev] [Can W .obs] [Can W .out] (hK : Kept P W Z s) : Kept P W Z (fallVictim s c id t) := by
  unfold fallVictim; try dsimp only
  repeat' (with_reducible first | exact hK | apply Kept.ite | apply poisonLine_kept | apply setTxn_kept | split)

theorem fallVictims_kept (s : State) (c : Nat) [Can W .regs] [Can W .links] [Can W .home] [Can W .side] [Can W .ev] [Can W .obs] [Can W .out] (hK : Kept P W Z s) : Kept P W Z (fallVictims s c) := by
  unfold fallVictims; try dsimp only
  repeat' (with_reducible first | exact hK | intro _ | assumption | apply forEach_kept | apply modHome_kept | apply poisonLine_kept | apply forEach_kept | refine Kept.snd (by assumption) ?_)

theorem fallTxn_kept (s : State) (c id : Nat) [Can W .regs] [Can W .links] [Can W .flights] [Can W .tree] [Can W .home] [Can W .side] [Can W .ev] [Can W .ledgers] [Can W .obs] [Can W .out] (hK : Kept P W Z s) : Kept P W Z (fallTxn s c id) := by
  unfold fallTxn; try dsimp only
  repeat' (with_reducible first | exact hK | intro _ | assumption | apply Kept.ite | apply fallVictim_kept | apply endRequester_kept | apply advance1_kept | apply forEach_kept | apply fallenAnswer_kept | apply forEach_kept | split)

theorem fallEntry_kept (s : State) (c : Nat) (e : FilterEntry) [Can W .regs] [Can W .links] [Can W .home] [Can W .side] [Can W .ev] [Can W .obs] [Can W .out] (hK : Kept P W Z s) : Kept P W Z (fallEntry s c e) := by
  unfold fallEntry; try dsimp only
  repeat' (with_reducible first | exact hK | intro _ | assumption | apply Kept.ite | apply delEntry_kept | apply modHome_kept | apply poisonLine_kept | split)

theorem beginFall_kept (s : State) (c cause agent : Nat) [Can W .regs] [Can W .links] [Can W .agents] [Can W .flights] [Can W .tree] [Can W .home] [Can W .side] [Can W .ev] [Can W .ledgers] [Can W .obs] [Can W .out] (hK : Kept P W Z s) : Kept P W Z (beginFall s c cause agent) := by
  unfold beginFall; try dsimp only
  repeat' (with_reducible first | exact hK | intro _ | assumption | apply wri_kept | apply bumpi_kept | apply raiseEv_kept | apply modHome_kept | apply forEach_kept | apply fallVictims_kept | apply fallTxn_kept | apply fallEntry_kept | apply fillReserved_kept | apply serveWaiting_kept | apply forEach_kept | (refine Kept.set_agents (Kept.eta ?_); first | exact hK | apply wri_kept | apply bumpi_kept | apply raiseEv_kept | apply modHome_kept | apply forEach_kept | apply fallVictims_kept | apply fallTxn_kept | apply fallEntry_kept | apply fillReserved_kept | apply serveWaiting_kept | apply forEach_kept))

theorem fallCell_kept (s : State) (c cause agent : Nat) [Can W .regs] [Can W .links] [Can W .agents] [Can W .flights] [Can W .tree] [Can W .home] [Can W .side] [Can W .ev] [Can W .ledgers] [Can W .obs] [Can W .out] (hK : Kept P W Z s) : Kept P W Z (fallCell s c cause agent) := by
  unfold fallCell; try dsimp only
  repeat' (with_reducible first | exact hK | apply beginFall_kept | apply bumpi_kept | split)

theorem fellAgent_kept (s : State) (id a cause : Nat) [Can W .regs] [Can W .links] [Can W .agents] [Can W .flights] [Can W .tree] [Can W .home] [Can W .side] [Can W .ev] [Can W .ledgers] [Can W .obs] [Can W .out] (hK : Kept P W Z s) : Kept P W Z (fellAgent s id a cause) := by
  unfold fellAgent; try dsimp only
  repeat' (with_reducible first | exact hK | apply fallCell_kept | apply advance_kept | apply fallenAnswer_kept | split)

theorem protocolError_kept (s : State) (id a : Nat) [Can W .regs] [Can W .links] [Can W .agents] [Can W .flights] [Can W .tree] [Can W .home] [Can W .side] [Can W .ev] [Can W .ledgers] [Can W .obs] [Can W .out] (hK : Kept P W Z s) : Kept P W Z (protocolError s id a) := by
  unfold protocolError; try dsimp only
  repeat' (with_reducible first | exact hK | apply raiseEv_kept | apply fellAgent_kept)

theorem doSnoopTimeout_kept (txn agent : Nat) (s : State) [Can W .regs] [Can W .links] [Can W .agents] [Can W .flights] [Can W .tree] [Can W .home] [Can W .side] [Can W .ev] [Can W .ledgers] [Can W .obs] [Can W .out] (hK : Kept P W Z s) : Kept P W Z (doSnoopTimeout txn agent s) := by
  unfold doSnoopTimeout; try dsimp only
  repeat' (with_reducible first | exact hK | intro _ | assumption | apply Kept.ite | apply raiseEv_kept | apply fellAgent_kept | split)

theorem doWbPairingTimeout_kept (txn agent : Nat) (s : State) [Can W .regs] [Can W .links] [Can W .agents] [Can W .flights] [Can W .tree] [Can W .home] [Can W .side] [Can W .ev] [Can W .ledgers] [Can W .obs] [Can W .out] (hK : Kept P W Z s) : Kept P W Z (doWbPairingTimeout txn agent s) := by
  unfold doWbPairingTimeout; try dsimp only
  repeat' (with_reducible first | exact hK | apply Kept.ite | apply raiseEv_kept | apply fellAgent_kept | split)

theorem doAckTimeout_kept (txn : Nat) (s : State) [Can W .regs] [Can W .links] [Can W .agents] [Can W .flights] [Can W .tree] [Can W .home] [Can W .side] [Can W .ev] [Can W .ledgers] [Can W .obs] [Can W .out] (hK : Kept P W Z s) : Kept P W Z (doAckTimeout txn s) := by
  unfold doAckTimeout; try dsimp only
  repeat' (with_reducible first | exact hK | apply Kept.ite | apply raiseEv_kept | apply bump_kept | apply setTxn_kept | apply advance_kept | apply fallCell_kept | split)

theorem engineTimeout_kept (s : State) (txn : Nat) [Can W .regs] [Can W .links] [Can W .flights] [Can W .tree] [Can W .home] [Can W .side] [Can W .ev] [Can W .ledgers] [Can W .obs] [Can W .out] (hK : Kept P W Z s) : Kept P W Z (engineTimeout s txn) := by
  unfold engineTimeout; try dsimp only
  repeat' (with_reducible first | exact hK | intro _ | assumption | apply Kept.ite | apply raiseEv_kept | apply modTxn_kept | apply forEach_kept | apply decide'_kept | apply failEntry_kept | apply dropAtom_kept | apply failTxn_kept | apply advance_kept | apply forEach_kept | split)

theorem doResponseTimeout_kept (lost : Bool) (n : Nat) (s : State) [Can W .regs] [Can W .links] [Can W .flights] [Can W .tree] [Can W .home] [Can W .side] [Can W .ev] [Can W .ledgers] [Can W .obs] [Can W .out] (hK : Kept P W Z s) : Kept P W Z (doResponseTimeout lost n s) := by
  unfold doResponseTimeout; try dsimp only
  repeat' (with_reducible first | exact hK | apply Kept.ite | apply answerLost_kept | apply engineTimeout_kept | split)

theorem endWindow_kept (s : State) (line agent : Nat) [Can W .regs] [Can W .links] [Can W .flights] [Can W .tree] [Can W .home] [Can W .side] [Can W .ev] [Can W .ledgers] [Can W .obs] [Can W .out] (hK : Kept P W Z s) : Kept P W Z (endWindow s line agent) := by
  unfold endWindow; try dsimp only
  repeat' (with_reducible first | exact hK | intro _ | assumption | apply modHome_kept | apply fillReserved_kept | apply serveWaiting_kept | apply forEach_kept | apply pumpSnoops_kept | apply forEach_kept)

theorem doPossessionWindowEnd_kept (line agent : Nat) (s : State) [Can W .regs] [Can W .links] [Can W .flights] [Can W .tree] [Can W .home] [Can W .side] [Can W .ev] [Can W .ledgers] [Can W .obs] [Can W .out] (hK : Kept P W Z s) : Kept P W Z (doPossessionWindowEnd line agent s) := by
  unfold doPossessionWindowEnd; try dsimp only
  repeat' (with_reducible first | exact hK | apply Kept.ite | apply endWindow_kept | split)

theorem openWindow_kept (s : State) (line agent : Nat) [Can W .regs] [Can W .links] [Can W .flights] [Can W .tree] [Can W .home] [Can W .side] [Can W .ev] [Can W .ledgers] [Can W .obs] [Can W .out] (hK : Kept P W Z s) : Kept P W Z (openWindow s line agent) := by
  unfold openWindow; try dsimp only
  repeat' (with_reducible first | exact hK | intro _ | assumption | apply Kept.ite | apply modHome_kept | apply raiseEv_kept | apply bump_kept | apply endWindow_kept | split)

theorem ackTag_kept (s : State) (port tag : Nat) [Can W .regs] [Can W .links] [Can W .flights] [Can W .tree] [Can W .home] [Can W .side] [Can W .ev] [Can W .ledgers] [Can W .obs] [Can W .out] (hK : Kept P W Z s) : Kept P W Z (ackTag s port tag) := by
  unfold ackTag; try dsimp only
  repeat' (with_reducible first | exact hK | apply Kept.ite | apply bumpi_kept | apply setTxn_kept | apply advance_kept | apply openWindow_kept | split)

theorem doCmpAck_kept (port count : Nat) (tags : List Nat) (s : State) [Can W .regs] [Can W .links] [Can W .flights] [Can W .tree] [Can W .home] [Can W .sleep] [Can W .side] [Can W .ev] [Can W .ledgers] [Can W .obs] [Can W .out] (hK : Kept P W Z s) : Kept P W Z (doCmpAck port count tags s) := by
  unfold doCmpAck; try dsimp only
  repeat' (with_reducible first | exact hK | intro _ | assumption | apply Kept.ite | apply bumpi_kept | apply ungate_kept | apply takeSrs_kept | apply forEach_kept | apply ackTag_kept | apply forEach_kept | split)

theorem cellFallen_kept (cell : Nat) (s : State) [Can W .regs] [Can W .agents] (hK : Kept P W Z s) : Kept P W Z (cellFallen cell s) := by
  unfold cellFallen; try dsimp only
  repeat' (with_reducible first | exact hK | intro _ | assumption | apply Kept.ite | apply wri_kept | (refine Kept.set_agents (Kept.eta ?_); first | exact hK | apply wri_kept) | split)

theorem actCellCmd_kept (c : Nat) (x1_ v : Nat) (s : State) [Can W .regs] [Can W .links] [Can W .agents] [Can W .flights] [Can W .tree] [Can W .home] [Can W .side] [Can W .ev] [Can W .ledgers] [Can W .obs] [Can W .out] (hK : Kept P W Z s) : Kept P W Z (actCellCmd c x1_ v s).2 := by
  unfold actCellCmd; try dsimp only
  repeat' (with_reducible first | exact hK | apply Kept.ite | apply Kept.ite2 | apply fallCell_kept | apply raiseEv_kept | apply wri_kept | split)

theorem doHomCellTakeDown_kept (a : Access) (cell : Nat) (s : State) [Can W .regs] [Can W .links] [Can W .agents] [Can W .flights] [Can W .tree] [Can W .home] [Can W .side] [Can W .ev] [Can W .ledgers] [Can W .obs] [Can W .out] (hK : Kept P W Z s) : Kept P W Z (doHomCellTakeDown a cell s) := by
  unfold doHomCellTakeDown; try dsimp only
  repeat' (with_reducible first | exact hK | intro _ | assumption | exact id | decide | apply Kept.ite | apply Kept.ite2 | apply Kept.ite3 | apply accessWrite_kept | apply actCellCmd_kept | refine Kept.snd (by assumption) ?_ | refine Kept.snd3 (by assumption) ?_ | split)

theorem doHomCellRestart_kept (a : Access) (cell : Nat) (s : State) [Can W .regs] [Can W .links] [Can W .agents] [Can W .flights] [Can W .tree] [Can W .home] [Can W .side] [Can W .ev] [Can W .ledgers] [Can W .obs] [Can W .out] (hK : Kept P W Z s) : Kept P W Z (doHomCellRestart a cell s) := by
  unfold doHomCellRestart; try dsimp only
  repeat' (with_reducible first | exact hK | intro _ | assumption | exact id | decide | apply Kept.ite | apply Kept.ite2 | apply Kept.ite3 | apply accessWrite_kept | apply actCellCmd_kept | refine Kept.snd (by assumption) ?_ | refine Kept.snd3 (by assumption) ?_ | split)

theorem actFunCoherent_kept (x1_ v : Nat) (s : State) [Can W .regs] (hK : Kept P W Z s) : Kept P W Z (actFunCoherent x1_ v s).2 := by
  unfold actFunCoherent; try dsimp only
  repeat' (with_reducible first | exact hK | intro _ | assumption | apply Kept.ite | apply Kept.ite2 | apply wr_kept | split)

theorem doHomFunCoherent_kept (a : Access) (s : State) [Can W .regs] [Can W .links] [Can W .side] [Can W .obs] [Can W .out] (hK : Kept P W Z s) : Kept P W Z (doHomFunCoherent a s) := by
  unfold doHomFunCoherent; try dsimp only
  repeat' (with_reducible first | exact hK | intro _ | assumption | exact id | decide | apply Kept.ite | apply Kept.ite2 | apply Kept.ite3 | apply accessWrite_kept | apply actFunCoherent_kept | refine Kept.snd (by assumption) ?_ | refine Kept.snd3 (by assumption) ?_ | split)

theorem readFilter_kept (s : State) (line : Nat) (e : Ecc) [Can W .regs] [Can W .links] [Can W .agents] [Can W .flights] [Can W .tree] [Can W .home] [Can W .side] [Can W .ev] [Can W .ledgers] [Can W .obs] [Can W .out] (hK : Kept P W Z s) : Kept P W Z (readFilter s line e) := by
  cases e
  · exact hK
  · exact raiseEv_kept _ _ _ _ _ (bump_kept _ _ hK)
  · exact raiseEv_kept _ _ _ _ _ (forEach_kept _ _ _ (fun s a h => fallCell_kept _ _ _ _ h) (bump_kept _ _ (delEntry_kept _ _ hK)))

theorem doCellFallComplete_kept (cell : Nat) (ecc : Ecc) (line : Nat) (s : State) [Can W .regs] [Can W .links] [Can W .agents] [Can W .flights] [Can W .tree] [Can W .home] [Can W .side] [Can W .ev] [Can W .ledgers] [Can W .obs] [Can W .out] (hK : Kept P W Z s) : Kept P W Z (doCellFallComplete cell ecc line s) := by
  unfold doCellFallComplete; try dsimp only
  repeat' (with_reducible first | exact hK | apply Kept.ite | apply cellFallen_kept | apply readFilter_kept | split)

theorem actFilterProbe_kept (ecc : Ecc) (x1_ v : Nat) (s : State) [Can W .regs] [Can W .links] [Can W .agents] [Can W .flights] [Can W .tree] [Can W .home] [Can W .side] [Can W .ev] [Can W .ledgers] [Can W .obs] [Can W .out] (hK : Kept P W Z s) : Kept P W Z (actFilterProbe ecc x1_ v s).2 := by
  unfold actFilterProbe; try dsimp only
  repeat' (with_reducible first | exact hK | intro _ | assumption | apply wr_kept | apply readFilter_kept | apply modHome_kept)

theorem doHomFilterProbeAddr_kept (a : Access) (ecc : Ecc) (s : State) [Can W .regs] [Can W .links] [Can W .agents] [Can W .flights] [Can W .tree] [Can W .home] [Can W .side] [Can W .ev] [Can W .ledgers] [Can W .obs] [Can W .out] (hK : Kept P W Z s) : Kept P W Z (doHomFilterProbeAddr a ecc s) := by
  unfold doHomFilterProbeAddr; try dsimp only
  repeat' (with_reducible first | exact hK | intro _ | assumption | exact id | decide | apply Kept.ite | apply Kept.ite2 | apply Kept.ite3 | apply accessWrite_kept | apply actFilterProbe_kept | refine Kept.snd (by assumption) ?_ | refine Kept.snd3 (by assumption) ?_ | split)

theorem doHomFilterProbeDone_kept (s : State) [Can W .regs] [Can W .home] (hK : Kept P W Z s) : Kept P W Z (doHomFilterProbeDone s) := by
  unfold doHomFilterProbeDone; try dsimp only
  repeat' (with_reducible first | exact hK | intro _ | assumption | apply Kept.ite | apply wr_kept | apply modHome_kept | split)

theorem ctlAnswer_kept (s : State) (port op agent result : Nat) [Can W .links] [Can W .obs] [Can W .out] (hK : Kept P W Z s) : Kept P W Z (ctlAnswer s port op agent result) := by
  unfold ctlAnswer; try dsimp only
  repeat' (with_reducible first | exact hK | apply sendMsg_kept)

theorem joinAgent_kept (s : State) (port agent fn cell : Nat) (caching : Bool) [Can W .links] [Can W .agents] [Can W .obs] [Can W .out] (hK : Kept P W Z s) : Kept P W Z (joinAgent s port agent fn cell caching) := by
  unfold joinAgent; try dsimp only
  repeat' (with_reducible first | exact hK | apply Kept.ite | apply ctlAnswer_kept | (refine Kept.set_agents (Kept.eta ?_); first | exact hK | apply ctlAnswer_kept) | split)

theorem ctlArrive_kept (s : State) (port : Nat) (c : CtlReq) (serve : State → State) [Can W .regs] [Can W .links] (hK : Kept P W Z s) (hserve : ∀ s, Kept P W Z s → Kept P W Z (serve s)) : Kept P W Z (ctlArrive s port c serve) := by
  unfold ctlArrive; try dsimp only
  repeat' (with_reducible first | exact hK | intro _ | apply hserve | assumption | apply Kept.ite | apply bumpi_kept | apply modLink_kept | split)

theorem doAgentJoin_kept (port agent fn cell : Nat) (caching : Bool) (s : State) [Can W .regs] [Can W .links] [Can W .agents] [Can W .obs] [Can W .out] (hK : Kept P W Z s) : Kept P W Z (doAgentJoin port agent fn cell caching s) := by
  unfold doAgentJoin; try dsimp only
  repeat' (with_reducible first | exact hK | intro _ | assumption | apply Kept.ite | apply ctlArrive_kept | apply joinAgent_kept | split)

theorem leaveAgent_kept (s : State) (port agent : Nat) [Can W .regs] [Can W .links] [Can W .agents] [Can W .home] [Can W .obs] [Can W .out] (hK : Kept P W Z s) : Kept P W Z (leaveAgent s port agent) := by
  unfold leaveAgent; try dsimp only
  repeat' (with_reducible first | exact hK | apply Kept.ite | apply ctlAnswer_kept | apply fillReserved_kept | (refine Kept.set_agents (Kept.eta ?_); first | exact hK | apply ctlAnswer_kept | apply fillReserved_kept) | split)

theorem serveCtl_kept (s : State) (port : Nat) [Can W .regs] [Can W .links] [Can W .agents] [Can W .home] [Can W .obs] [Can W .out] (hK : Kept P W Z s) : Kept P W Z (serveCtl s port) := by
  unfold serveCtl; try dsimp only
  repeat' (with_reducible first | exact hK | intro _ | assumption | apply forEach_kept | apply modLink_kept | apply joinAgent_kept | apply leaveAgent_kept | apply forEach_kept | split)

theorem doAgentLeave_kept (port agent : Nat) (s : State) [Can W .regs] [Can W .links] [Can W .agents] [Can W .home] [Can W .obs] [Can W .out] (hK : Kept P W Z s) : Kept P W Z (doAgentLeave port agent s) := by
  unfold doAgentLeave; try dsimp only
  repeat' (with_reducible first | exact hK | intro _ | assumption | apply Kept.ite | apply ctlArrive_kept | apply leaveAgent_kept | split)

theorem removeAgent_kept (s : State) (a : Nat) [Can W .regs] [Can W .links] [Can W .agents] [Can W .flights] [Can W .tree] [Can W .home] [Can W .side] [Can W .ev] [Can W .ledgers] [Can W .obs] [Can W .out] (hK : Kept P W Z s) : Kept P W Z (removeAgent s a) := by
  unfold removeAgent; try dsimp only
  repeat' (with_reducible first | exact hK | intro _ | assumption | apply Kept.ite | apply forEach_kept | apply dropHolder_kept | apply modHome_kept | apply advance_kept | apply fallenAnswer_kept | apply setTxn_kept | apply fillReserved_kept | apply serveWaiting_kept | apply forEach_kept | (refine Kept.set_agents (Kept.eta ?_); first | exact hK | apply forEach_kept | apply dropHolder_kept | apply modHome_kept | apply advance_kept | apply fallenAnswer_kept | apply setTxn_kept | apply fillReserved_kept | apply serveWaiting_kept | apply forEach_kept) | split)

theorem doAgentLeaveWalkDone_kept (agent : Nat) (ecc : Ecc) (line : Nat) (s : State) [Can W .regs] [Can W .links] [Can W .agents] [Can W .flights] [Can W .tree] [Can W .home] [Can W .side] [Can W .ev] [Can W .ledgers] [Can W .obs] [Can W .out] (hK : Kept P W Z s) : Kept P W Z (doAgentLeaveWalkDone agent ecc line s) := by
  unfold doAgentLeaveWalkDone; try dsimp only
  repeat' (with_reducible first | exact hK | apply Kept.ite | apply ctlAnswer_kept | apply removeAgent_kept | apply readFilter_kept | split)

theorem pairWb_kept (s : State) (id w : Nat) (f : Flight) [Can W .regs] [Can W .flights] [Can W .tree] [Can W .home] [Can W .obs] (hK : Kept P W Z s) : Kept P W Z (pairWb s id w f) := by
  unfold pairWb; try dsimp only
  repeat' (with_reducible first | exact hK | intro _ | assumption | apply Kept.ite | apply obsEvent_kept | apply bump_kept | apply freeRoom_kept | apply modTxn_kept | apply writeDirty_kept | split)

theorem popCrossing_kept (s : State) (uid : Nat) [Can W .tree] (hK : Kept P W Z s) : Kept P W Z (popCrossing s uid) := by
  unfold popCrossing; try dsimp only
  repeat' (with_reducible first | exact hK | intro _ | assumption | apply modTree_kept)

theorem homeRefuse_kept (s : State) (uid code : Nat) [Can W .flights] [Can W .tree] [Can W .ledgers] (hK : Kept P W Z s) : Kept P W Z (homeRefuse s uid code) := by
  unfold homeRefuse; try dsimp only
  repeat' (with_reducible first | exact hK | apply decide'_kept | apply freeRoom_kept)

theorem misroute_kept (s : State) (uid fn : Nat) [Can W .regs] [Can W .links] [Can W .flights] [Can W .tree] [Can W .side] [Can W .ev] [Can W .ledgers] [Can W .obs] [Can W .out] (hK : Kept P W Z s) : Kept P W Z (misroute s uid fn) := by
  unfold misroute; try dsimp only
  repeat' (with_reducible first | exact hK | intro _ | assumption | apply raiseFirst_kept | apply bumpi_kept | apply freeTag_kept | apply homeRefuse_kept | apply modFlight_kept | apply obsEvent_kept)

theorem takeWb_kept (s : State) (uid : Nat) (f : Flight) (id : Nat) (t : Txn) [Can W .regs] [Can W .links] [Can W .flights] [Can W .tree] [Can W .home] [Can W .side] [Can W .ev] [Can W .ledgers] [Can W .obs] [Can W .out] (hK : Kept P W Z s) : Kept P W Z (takeWb s uid f id t) := by
  unfold takeWb; try dsimp only
  repeat' (with_reducible first | exact hK | intro _ | assumption | apply Kept.ite | apply modFlight_kept | apply advance_kept | apply pairWb_kept | apply setTxn_kept | split)

theorem acceptRequest_kept (s : State) (uid id : Nat) (f : Flight) [Can W .regs] [Can W .links] [Can W .flights] [Can W .tree] [Can W .home] [Can W .side] [Can W .ev] [Can W .ledgers] [Can W .obs] [Can W .out] (hK : Kept P W Z s) : Kept P W Z (acceptRequest s uid id f) := by
  unfold acceptRequest; try dsimp only
  repeat' (with_reducible first | exact hK | intro _ | assumption | apply Kept.ite | apply misroute_kept | apply homeRefuse_kept | apply openTxn_kept | apply modFlight_kept | split)

theorem doHomeAccept_kept (par : Parity) (s : State) [Can W .regs] [Can W .links] [Can W .flights] [Can W .tree] [Can W .home] [Can W .sleep] [Can W .side] [Can W .ev] [Can W .ledgers] [Can W .obs] [Can W .out] (hK : Kept P W Z s) : Kept P W Z (doHomeAccept par s) := by
  unfold doHomeAccept; try dsimp only
  repeat' (with_reducible first | exact hK | intro _ | assumption | apply Kept.ite | apply popCrossing_kept | apply obsEvent_kept | apply ungate_kept | apply loseRequest_kept | apply raiseParity_kept | apply modFlight_kept | apply takeWb_kept | apply modHome_kept | apply acceptRequest_kept | split)

theorem releaseHeld_kept (s : State) [Can W .flights] [Can W .tree] [Can W .home] (hK : Kept P W Z s) : Kept P W Z (releaseHeld s) := by
  unfold releaseHeld; try dsimp only
  repeat' (with_reducible first | exact hK | intro _ | assumption | apply modTree_kept | apply forEach_kept | apply modFlight_kept | apply modHome_kept | apply forEach_kept)

theorem startPlain_kept (s : State) (id : Nat) (f : Flight) [Can W .flights] [Can W .tree] [Can W .home] [Can W .ledgers] (hK : Kept P W Z s) : Kept P W Z (startPlain s id f) := by
  unfold startPlain; try dsimp only
  repeat' (with_reducible first | exact hK | intro _ | assumption | apply Kept.ite | apply modTxn_kept | apply finishTxn_kept | apply freeTxnRoom_kept | apply reply_kept | apply failTxn_kept | split)

theorem startCoherent_kept (s : State) (id : Nat) (t : Txn) (f : Flight) [Can W .regs] [Can W .links] [Can W .agents] [Can W .flights] [Can W .tree] [Can W .home] [Can W .side] [Can W .ev] [Can W .ledgers] [Can W .obs] [Can W .out] (hK : Kept P W Z s) : Kept P W Z (startCoherent s id t f) := by
  unfold startCoherent; try dsimp only
  repeat' (with_reducible first | exact hK | intro _ | assumption | apply Kept.ite | apply modTxn_kept | apply beginSnoops_kept | apply finishTxn_kept | apply reply_kept | apply bump_kept | apply freeTxnRoom_kept | apply raiseEv_kept | apply fallCell_kept | apply failTxn_kept | split)

theorem startRequest_kept (s : State) (id : Nat) (f : Flight) (ecc : Ecc) [Can W .regs] [Can W .links] [Can W .agents] [Can W .flights] [Can W .tree] [Can W .home] [Can W .side] [Can W .ev] [Can W .ledgers] [Can W .obs] [Can W .out] (hK : Kept P W Z s) : Kept P W Z (startRequest s id f ecc) := by
  unfold startRequest; try dsimp only
  repeat' (with_reducible first | exact hK | intro _ | assumption | apply Kept.ite | apply dropAtom_kept | apply startPlain_kept | apply modTxn_kept | apply readFilter_kept | apply failTxn_kept | apply startCoherent_kept | apply touchEntry_kept | apply setTxn_kept | refine Kept.snd (by assumption) ?_ | split)

theorem startOwn_kept (s : State) (id : Nat) (t : Txn) [Can W .links] [Can W .flights] [Can W .home] [Can W .obs] [Can W .out] (hK : Kept P W Z s) : Kept P W Z (startOwn s id t) := by
  unfold startOwn; try dsimp only
  repeat' (with_reducible first | exact hK | apply Kept.ite | apply setTxn_kept | apply beginSnoops_kept | apply dropAtom_kept | split)

theorem doTransactionActivate_kept (txn : Nat) (ecc : Ecc) (s : State) [Can W .regs] [Can W .links] [Can W .agents] [Can W .flights] [Can W .tree] [Can W .home] [Can W .side] [Can W .ev] [Can W .ledgers] [Can W .obs] [Can W .out] (hK : Kept P W Z s) : Kept P W Z (doTransactionActivate txn ecc s) := by
  unfold doTransactionActivate; try dsimp only
  repeat' (with_reducible first | exact hK | apply Kept.ite | apply setTxn_kept | apply advance_kept | apply startRequest_kept | apply startOwn_kept | split)

theorem wbInFlight_kept (s : State) (id : Nat) (t : Txn) (a : Nat) [Can W .regs] [Can W .flights] [Can W .tree] [Can W .home] [Can W .obs] (hK : Kept P W Z s) : Kept P W Z (wbInFlight s id t a) := by
  unfold wbInFlight; try dsimp only
  repeat' (with_reducible first | exact hK | intro _ | assumption | apply pairWb_kept | apply setTxn_kept | apply modHome_kept | split)

theorem lateHolder_kept (s : State) (t : Txn) (a : Nat) (kept : Bool) [Can W .home] (hK : Kept P W Z s) : Kept P W Z (lateHolder s t a kept) := by
  unfold lateHolder; try dsimp only
  repeat' (with_reducible first | exact hK | apply Kept.ite | apply dropHolder_kept | split)

theorem prune_kept (s : State) (t : Txn) (a : Nat) [Can W .regs] [Can W .home] [Can W .obs] (hK : Kept P W Z s) : Kept P W Z (prune s t a) := by
  unfold prune; try dsimp only
  repeat' (with_reducible first | exact hK | apply Kept.ite | apply obsEvent_kept | apply bumpWrap_kept | apply dropHolder_kept | split)

theorem takeAnswer_kept (s : State) (id : Nat) (t : Txn) (sn : Snoop) (x : Answer) [Can W .regs] [Can W .flights] [Can W .tree] [Can W .home] [Can W .obs] (hK : Kept P W Z s) :
    Kept P W Z (takeAnswer s id t sn x) := by
  unfold takeAnswer
  have h1 := setTxn_kept s id { t with snoops := t.snoops.filter (·.agent ≠ sn.agent) } hK
  cases x
  case dirty d =>
    dsimp only
    split
    · exact writeDirty_kept _ _ (lateHolder_kept _ _ _ _ (obsEvent_kept _ _ _ _ (setTxn_kept _ _ _ h1)))
    · exact lateHolder_kept _ _ _ _ (obsEvent_kept _ _ _ _ (setTxn_kept _ _ _ h1))
  case notPresent => exact prune_kept _ _ _ h1
  case invClean => exact lateHolder_kept _ _ _ _ h1
  case shared => exact setTxn_kept _ _ _ h1
  case wbInFlight => exact wbInFlight_kept _ _ _ _ (lateHolder_kept _ _ _ _ h1)
  all_goals exact h1

theorem unpairedWb_kept (s : State) (id a : Nat) [Can W .regs] [Can W .links] [Can W .agents] [Can W .flights] [Can W .tree] [Can W .home] [Can W .side] [Can W .ev] [Can W .ledgers] [Can W .obs] [Can W .out] (hK : Kept P W Z s) : Kept P W Z (unpairedWb s id a) := by
  unfold unpairedWb; try dsimp only
  repeat' (with_reducible first | exact hK | apply refuseWb_kept | apply setTxn_kept | apply protocolError_kept | split)

theorem answerHint_kept (s : State) (id : Nat) (t : Txn) (f : Flight) (x : Answer) [Can W .regs] [Can W .links] [Can W .agents] [Can W .flights] [Can W .tree] [Can W .home] [Can W .side] [Can W .ev] [Can W .ledgers] [Can W .obs] [Can W .out] (hK : Kept P W Z s) :
    Kept P W Z (answerHint s id t f x) := by
  cases x
  case accept => exact advance_kept _ id (setTxn_kept _ id _ (bump_kept _ _ hK))
  case decline => exact advance_kept _ id (setTxn_kept _ id _ (bump_kept _ _ (delEntry_kept _ _ hK)))
  all_goals exact protocolError_kept _ id f.target hK

theorem snoopAnswer_kept (r : SnoopRsp) (x : Answer) (s : State) [Can W .regs] [Can W .links] [Can W .agents] [Can W .flights] [Can W .tree] [Can W .home] [Can W .sleep] [Can W .side] [Can W .ev] [Can W .ledgers] [Can W .obs] [Can W .out] (hK : Kept P W Z s) : Kept P W Z (snoopAnswer r x s) := by
  unfold snoopAnswer; try dsimp only
  repeat' (with_reducible first | exact hK | intro _ | assumption | apply Kept.ite | apply bumpi_kept | apply ungate_kept | apply takeSrs_kept | apply bump_kept | apply takeAnswer_kept | apply wbInFlight_kept | apply unpairedWb_kept | apply advance_kept | apply protocolError_kept | apply answerHint_kept | split)

theorem doRspNotPresent_kept (r : SnoopRsp) (s : State) [Can W .regs] [Can W .links] [Can W .agents] [Can W .flights] [Can W .tree] [Can W .home] [Can W .sleep] [Can W .side] [Can W .ev] [Can W .ledgers] [Can W .obs] [Can W .out] (hK : Kept P W Z s) : Kept P W Z (doRspNotPresent r s) := by
  unfold doRspNotPresent; try dsimp only
  repeat' (with_reducible first | exact hK | apply snoopAnswer_kept)

theorem doRspInvClean_kept (r : SnoopRsp) (s : State) [Can W .regs] [Can W .links] [Can W .agents] [Can W .flights] [Can W .tree] [Can W .home] [Can W .sleep] [Can W .side] [Can W .ev] [Can W .ledgers] [Can W .obs] [Can W .out] (hK : Kept P W Z s) : Kept P W Z (doRspInvClean r s) := by
  unfold doRspInvClean; try dsimp only
  repeat' (with_reducible first | exact hK | apply snoopAnswer_kept)

theorem doRspShared_kept (r : SnoopRsp) (s : State) [Can W .regs] [Can W .links] [Can W .agents] [Can W .flights] [Can W .tree] [Can W .home] [Can W .sleep] [Can W .side] [Can W .ev] [Can W .ledgers] [Can W .obs] [Can W .out] (hK : Kept P W Z s) : Kept P W Z (doRspShared r s) := by
  unfold doRspShared; try dsimp only
  repeat' (with_reducible first | exact hK | apply snoopAnswer_kept)

theorem doRspDirty_kept (r : SnoopRsp) (data : Line) (s : State) [Can W .regs] [Can W .links] [Can W .agents] [Can W .flights] [Can W .tree] [Can W .home] [Can W .sleep] [Can W .side] [Can W .ev] [Can W .ledgers] [Can W .obs] [Can W .out] (hK : Kept P W Z s) : Kept P W Z (doRspDirty r data s) := by
  unfold doRspDirty; try dsimp only
  repeat' (with_reducible first | exact hK | apply snoopAnswer_kept)

theorem doRspWbInFlight_kept (r : SnoopRsp) (s : State) [Can W .regs] [Can W .links] [Can W .agents] [Can W .flights] [Can W .tree] [Can W .home] [Can W .sleep] [Can W .side] [Can W .ev] [Can W .ledgers] [Can W .obs] [Can W .out] (hK : Kept P W Z s) : Kept P W Z (doRspWbInFlight r s) := by
  unfold doRspWbInFlight; try dsimp only
  repeat' (with_reducible first | exact hK | apply snoopAnswer_kept | apply wbInFlight_kept)

theorem doHintAccept_kept (r : SnoopRsp) (s : State) [Can W .regs] [Can W .links] [Can W .agents] [Can W .flights] [Can W .tree] [Can W .home] [Can W .sleep] [Can W .side] [Can W .ev] [Can W .ledgers] [Can W .obs] [Can W .out] (hK : Kept P W Z s) : Kept P W Z (doHintAccept r s) := by
  unfold doHintAccept; try dsimp only
  repeat' (with_reducible first | exact hK | apply snoopAnswer_kept)

theorem doHintDecline_kept (r : SnoopRsp) (s : State) [Can W .regs] [Can W .links] [Can W .agents] [Can W .flights] [Can W .tree] [Can W .home] [Can W .sleep] [Can W .side] [Can W .ev] [Can W .ledgers] [Can W .obs] [Can W .out] (hK : Kept P W Z s) : Kept P W Z (doHintDecline r s) := by
  unfold doHintDecline; try dsimp only
  repeat' (with_reducible first | exact hK | apply snoopAnswer_kept)

theorem pushHint_kept (s : State) (id : Nat) (t : Txn) (f : Flight) [Can W .regs] [Can W .links] [Can W .home] [Can W .obs] [Can W .out] (hK : Kept P W Z s) : Kept P W Z (pushHint s id t f) := by
  unfold pushHint; try dsimp only
  repeat' (with_reducible first | exact hK | apply Kept.ite | apply setTxn_kept | apply bump_kept | apply delEntry_kept | apply sendMsg_kept | apply obsEvent_kept | split)

theorem mainPlaced_kept (s : State) (id : Nat) (own : Bool) [Can W .regs] [Can W .links] [Can W .flights] [Can W .tree] [Can W .home] [Can W .ledgers] [Can W .obs] [Can W .out] (hK : Kept P W Z s) : Kept P W Z (mainPlaced s id own) := by
  unfold mainPlaced; try dsimp only
  repeat' (with_reducible first | exact hK | intro _ | assumption | apply Kept.ite | apply noteLedger_kept | apply modFlight_kept | apply freeTxnRoom_kept | apply reply_kept | apply pushHint_kept | split)

theorem writePlaced_kept (s : State) (id : Nat) [Can W .regs] [Can W .links] [Can W .flights] [Can W .tree] [Can W .home] [Can W .side] [Can W .ev] [Can W .ledgers] [Can W .obs] [Can W .out] (hK : Kept P W Z s) : Kept P W Z (writePlaced s id) := by
  unfold writePlaced; try dsimp only
  repeat' (with_reducible first | exact hK | intro _ | assumption | apply Kept.ite | apply setTxn_kept | apply forEach_kept | apply decide'_kept | apply advance_kept | apply mainPlaced_kept | apply forEach_kept | split)

theorem readAnswered_kept (s : State) (sid err : Nat) (d : Line) [Can W .regs] [Can W .links] [Can W .flights] [Can W .tree] [Can W .home] [Can W .side] [Can W .ev] [Can W .ledgers] [Can W .obs] [Can W .out] (hK : Kept P W Z s) : Kept P W Z (readAnswered s sid err d) := by
  unfold readAnswered; try dsimp only
  repeat' (with_reducible first | exact hK | apply Kept.ite | apply advance_kept | apply setTxn_kept | split)

theorem beginWalk_kept (s : State) [Can W .regs] [Can W .home] (hK : Kept P W Z s) : Kept P W Z (beginWalk s) := by
  unfold beginWalk; try dsimp only
  repeat' (with_reducible first | exact hK | intro _ | assumption | apply modHome_kept | apply wr_kept | apply fillReserved_kept)

theorem actMapCommit_kept (x1_ x2_ : Nat) (s : State) [Can W .regs] [Can W .links] [Can W .home] [Can W .side] [Can W .ev] [Can W .obs] [Can W .out] (hK : Kept P W Z s) : Kept P W Z (actMapCommit x1_ x2_ s).2 := by
  unfold actMapCommit; try dsimp only
  repeat' (with_reducible first | exact hK | apply Kept.ite | apply Kept.ite2 | apply raiseEv_kept | apply wr_kept | apply beginWalk_kept | split)

theorem doMapCommit_kept (a : Access) (s : State) [Can W .regs] [Can W .links] [Can W .home] [Can W .side] [Can W .ev] [Can W .obs] [Can W .out] (hK : Kept P W Z s) : Kept P W Z (doMapCommit a s) := by
  unfold doMapCommit; try dsimp only
  repeat' (with_reducible first | exact hK | intro _ | assumption | exact id | decide | apply Kept.ite | apply Kept.ite2 | apply Kept.ite3 | apply accessWrite_kept | apply actMapCommit_kept | refine Kept.snd (by assumption) ?_ | refine Kept.snd3 (by assumption) ?_ | split)

theorem doCommitWalkStart_kept (ecc : Ecc) (s : State) [Can W .regs] [Can W .links] [Can W .agents] [Can W .flights] [Can W .tree] [Can W .home] [Can W .side] [Can W .ev] [Can W .ledgers] [Can W .obs] [Can W .out] (hK : Kept P W Z s) : Kept P W Z (doCommitWalkStart ecc s) := by
  unfold doCommitWalkStart; try dsimp only
  repeat' (with_reducible first | exact hK | intro _ | assumption | apply Kept.ite | apply beginWalk_kept | apply readFilter_kept | split)

theorem doCommitWalkDone_kept (s : State) [Can W .regs] [Can W .home] (hK : Kept P W Z s) : Kept P W Z (doCommitWalkDone s) := by
  unfold doCommitWalkDone; try dsimp only
  repeat' (with_reducible first | exact hK | intro _ | assumption | apply Kept.ite | apply fillReserved_kept | apply modHome_kept | split)

theorem doCommitApply_kept (s : State) [Can W .regs] [Can W .mram] [Can W .links] [Can W .flights] [Can W .tree] [Can W .home] [Can W .side] [Can W .ev] [Can W .obs] [Can W .out] (hK : Kept P W Z s) : Kept P W Z (doCommitApply s) := by
  unfold doCommitApply; try dsimp only
  repeat' (with_reducible first | exact hK | apply Kept.ite | apply releaseHeld_kept | apply applyCommit_kept | apply raiseEv_kept | split)

theorem stopWalk_kept (s : State) [Can W .regs] [Can W .links] [Can W .flights] [Can W .tree] [Can W .home] [Can W .side] [Can W .ev] [Can W .ledgers] [Can W .obs] [Can W .out] (hK : Kept P W Z s) : Kept P W Z (stopWalk s) := by
  unfold stopWalk; try dsimp only
  repeat' (with_reducible first | exact hK | intro _ | assumption | apply Kept.ite | apply forEach_kept | apply modHome_kept | apply advance_kept | apply modTxn_kept | apply forEach_kept | split)

theorem actCommitCancel_kept (x1_ x2_ : Nat) (s : State) [Can W .regs] [Can W .links] [Can W .flights] [Can W .tree] [Can W .home] [Can W .side] [Can W .ev] [Can W .ledgers] [Can W .obs] [Can W .out] (hK : Kept P W Z s) : Kept P W Z (actCommitCancel x1_ x2_ s).2 := by
  unfold actCommitCancel; try dsimp only
  repeat' (with_reducible first | exact hK | apply Kept.ite | apply Kept.ite2 | apply stopWalk_kept | apply releaseHeld_kept | apply wr_kept | split)

theorem doMapCommitCancel_kept (a : Access) (s : State) [Can W .regs] [Can W .links] [Can W .flights] [Can W .tree] [Can W .home] [Can W .side] [Can W .ev] [Can W .ledgers] [Can W .obs] [Can W .out] (hK : Kept P W Z s) : Kept P W Z (doMapCommitCancel a s) := by
  unfold doMapCommitCancel; try dsimp only
  repeat' (with_reducible first | exact hK | intro _ | assumption | exact id | decide | apply Kept.ite | apply Kept.ite2 | apply Kept.ite3 | apply accessWrite_kept | apply actCommitCancel_kept | refine Kept.snd (by assumption) ?_ | refine Kept.snd3 (by assumption) ?_ | split)

theorem mapWrite_kept (index sub v : Nat) (s : State) [Can W .regs] (hK : Kept P W Z s) :
    ∀ r, mapWrite index sub v s = some r → Kept P W Z r.2 := by
  unfold mapWrite
  exact opt_ite (opt_some (Kept.ite2 hK (put_kept _ _ _ _ hK))) opt_none

theorem actEpoch_kept (c : Nat) (x1_ v : Nat) (s : State) [Can W .regs] (hK : Kept P W Z s) : Kept P W Z (actEpoch c x1_ v s).2 := by
  unfold actEpoch; try dsimp only
  repeat' (with_reducible first | exact hK | apply Kept.ite | apply Kept.ite2 | apply wri_kept | split)

theorem doHomCellEpochArm_kept (a : Access) (cell : Nat) (s : State) [Can W .regs] [Can W .links] [Can W .side] [Can W .obs] [Can W .out] (hK : Kept P W Z s) : Kept P W Z (doHomCellEpochArm a cell s) := by
  unfold doHomCellEpochArm; try dsimp only
  repeat' (with_reducible first | exact hK | intro _ | assumption | exact id | decide | apply Kept.ite | apply Kept.ite2 | apply Kept.ite3 | apply accessWrite_kept | apply actEpoch_kept | refine Kept.snd (by assumption) ?_ | refine Kept.snd3 (by assumption) ?_ | split)

theorem doHomCellEpochCancel_kept (a : Access) (cell : Nat) (s : State) [Can W .regs] [Can W .links] [Can W .side] [Can W .obs] [Can W .out] (hK : Kept P W Z s) : Kept P W Z (doHomCellEpochCancel a cell s) := by
  unfold doHomCellEpochCancel; try dsimp only
  repeat' (with_reducible first | exact hK | intro _ | assumption | exact id | decide | apply Kept.ite | apply Kept.ite2 | apply Kept.ite3 | apply accessWrite_kept | apply actEpoch_kept | refine Kept.snd (by assumption) ?_ | refine Kept.snd3 (by assumption) ?_ | split)

theorem epochWrite_kept (index sub v : Nat) (s : State) [Can W .regs] (hK : Kept P W Z s) :
    ∀ r, epochWrite index sub v s = some r → Kept P W Z r.2 := by
  unfold epochWrite
  exact opt_ite (opt_some (Kept.ite2 hK (put_kept _ _ _ _ hK))) opt_none

theorem switchEpoch_kept (s : State) (c st : Nat) [Can W .regs] (hK : Kept P W Z s) : Kept P W Z (switchEpoch s c st) := by
  unfold switchEpoch; try dsimp only
  repeat' (with_reducible first | exact hK | apply wri_kept)

theorem doEpochSwitch_kept (cell : Nat) (s : State) [Can W .regs] (hK : Kept P W Z s) : Kept P W Z (doEpochSwitch cell s) := by
  unfold doEpochSwitch; try dsimp only
  repeat' (with_reducible first | exact hK | apply Kept.ite | apply switchEpoch_kept | split)

theorem lateEpochs_kept (s : State) [Can W .regs] (hK : Kept P W Z s) : Kept P W Z (lateEpochs s) := by
  unfold lateEpochs; try dsimp only
  repeat' (with_reducible first | exact hK | intro _ | assumption | apply forEach_kept | apply switchEpoch_kept | apply forEach_kept)

theorem capEpochs_kept (s : State) [Can W .regs] (hK : Kept P W Z s) : Kept P W Z (capEpochs s) := by
  unfold capEpochs; try dsimp only
  repeat' (with_reducible first | exact hK | intro _ | assumption | apply Kept.ite | apply forEach_kept | apply wri_kept | apply forEach_kept | split)

end Sys2Proof.Machine
end

