-- ==== Sys2Proof/Laws/KeptDies.lean ====
section
/-!
SUPPORT. What the operations of these areas keep, one lemma each: engines, core dies, refresh, profiler, PHY and integrity. The parts a lemma asks for are those the
operation may change.
-/
namespace Sys2Proof.Machine
variable {P : Prop} {W : Part → Bool} {Z : State}

theorem storeCell_kept (s : State) (pc key : Nat) (c : Codeword) [Can W .array] (hK : Kept P W Z s) : Kept P W Z (storeCell s pc key c) := by
  unfold storeCell
  refine Kept.set_array (Kept.eta hK) (fun h => ?_)
  simp only [Memory.wf, Bool.and_eq_true, List.all_eq_true, decide_eq_true_iff] at h
  obtain ⟨h1, h2⟩ := h
  have e : ∀ (ls : Tbl Codeword) (lo : Tbl Bool) k, lineFill { s.array with lines := ls, lost := lo } k = lineFill s.array k := by
    intros; unfold lineFill; rfl
  simp only [Memory.wf, Bool.and_eq_true, List.all_eq_true, decide_eq_true_iff, e]
  split
  · exact ⟨tsorted_tdel _ h1, fun q hq => h2 q (mem_tdel hq).1⟩
  · rename_i hne
    refine ⟨tsorted_tset _ _ h1, ?_⟩
    intro q hq
    rcases mem_tset hq with rfl | hq
    · exact hne
    · exact h2 q hq

theorem readCell_kept (s : State) (pc key : Nat) [Can W .array] [Can W .free] (hK : Kept P W Z s) : Kept P W Z (readCell s pc key).2 := by
  unfold readCell
  generalize cellKey pc key = k
  generalize tget? s.array.lines k = a
  generalize fillAt s pc key = b
  generalize tget? s.array.lost k = c
  cases a
  · cases b
    · exact storeCell_kept _ _ _ _ (Kept.set_free (Kept.eta hK))
    · cases c
      · exact hK
      · exact storeCell_kept _ _ _ _ (Kept.set_free (Kept.eta hK))
  · exact hK

theorem setChan_kept (s : State) (c : Nat) (x : Chan) [Can W .chans] (hK : Kept P W Z s) : Kept P W Z (setChan s c x) := by
  unfold setChan; try dsimp only
  repeat' (with_reducible first | exact hK | (refine Kept.set_chans (Kept.eta ?_); first | exact hK))

theorem modChan_kept (s : State) (c : Nat) (f : Chan → Chan) [Can W .chans] (hK : Kept P W Z s) : Kept P W Z (modChan s c f) := by
  unfold modChan; try dsimp only
  repeat' (with_reducible first | exact hK | apply setChan_kept)

theorem modSlice_kept (s : State) (c sid : Nat) (f : Slice → Slice) [Can W .slices] (hK : Kept P W Z s) : Kept P W Z (modSlice s c sid f) := by
  unfold modSlice; try dsimp only
  repeat' (with_reducible first | exact hK | (refine Kept.set_slices (Kept.eta ?_); first | exact hK))

theorem restartClocks_kept (s : State) (sel : Nat → Bool) [Can W .chans] (hK : Kept P W Z s) : Kept P W Z (restartClocks s sel) := by
  unfold restartClocks; try dsimp only
  repeat' (with_reducible first | exact hK | intro _ | assumption | apply Kept.ite | apply forEach_kept | apply modChan_kept | apply forEach_kept | split)

theorem writeMr_kept (s : State) (c sid ma v : Nat) [Can W .regs] [Can W .slices] (hK : Kept P W Z s) : Kept P W Z (writeMr s c sid ma v) := by
  unfold writeMr; try dsimp only
  repeat' (with_reducible first | exact hK | intro _ | assumption | apply Kept.ite | apply modSlice_kept | apply put_kept | split)

theorem takeCommand_kept (s : State) (c : Nat) (x : Issued) (flips : Flips) (sid : Nat) [Can W .slices] (hK : Kept P W Z s) : Kept P W Z (takeCommand s c x flips sid) := by
  unfold takeCommand; try dsimp only
  repeat' (with_reducible first | exact hK | intro _ | assumption | apply Kept.ite | apply modSlice_kept | split)

theorem record_kept (s : State) (c : Nat) (x : Issued) (flips : Flips) [Can W .chans] [Can W .slices] (hK : Kept P W Z s) : Kept P W Z (record s c x flips) := by
  unfold record; try dsimp only
  repeat' (with_reducible first | exact hK | intro _ | assumption | apply Kept.ite | apply forEach_kept | apply takeCommand_kept | apply modChan_kept | apply forEach_kept | split)

theorem prove_kept (s : State) (c sid n : Nat) [Can W .chans] (hK : Kept P W Z s) : Kept P W Z (prove s c sid n) := by
  unfold prove; try dsimp only
  repeat' (with_reducible first | exact hK | intro _ | assumption | apply modChan_kept)

theorem proveNow_kept (s : State) (c sid : Nat) [Can W .chans] (hK : Kept P W Z s) : Kept P W Z (proveNow s c sid) := by
  unfold proveNow; try dsimp only
  repeat' (with_reducible first | exact hK | apply prove_kept)

theorem applySeq_kept (s : State) (c : Nat) (x : Issued) [Can W .regs] [Can W .slices] (hK : Kept P W Z s) : Kept P W Z (applySeq s c x) := by
  unfold applySeq; try dsimp only
  repeat' (with_reducible first | exact hK | intro _ | assumption | apply Kept.ite | apply writeMr_kept | apply modSlice_kept | split)

theorem planSeq_kept (s : State) (c start : Nat) (x : Issued) [Can W .regs] [Can W .chans] [Can W .slices] [Can W .obs] (hK : Kept P W Z s) : Kept P W Z (planSeq s c start x).2 := by
  unfold planSeq; try dsimp only
  repeat' (with_reducible first | exact hK | apply Kept.ite | apply Kept.ite2 | apply obsEvent_kept | apply record_kept | apply applySeq_kept | split)

theorem planAll_kept (s : State) (c start : Nat) (l : List Issued) [Can W .regs] [Can W .chans] [Can W .slices] [Can W .obs] (hK : Kept P W Z s) : Kept P W Z (planAll s c start l).2 := by
  unfold planAll
  induction l generalizing start s with
  | nil => exact hK
  | cons x l ih => exact ih _ _ (planSeq_kept _ _ _ _ hK)

theorem issue_kept (s : State) (c : Nat) (x : Issued) (flips : Flips) (k : Bool → State → State) [Can W .regs] [Can W .chans] [Can W .slices] [Can W .obs] (hK : Kept P W Z s) (hk : ∀ b s, Kept P W Z s → Kept P W Z (k b s)) : Kept P W Z (issue s c x flips k) := by
  unfold issue; try dsimp only
  repeat' (with_reducible first | exact hK | intro _ | apply hk | assumption | apply Kept.ite | apply record_kept | apply modChan_kept | apply planAll_kept | split)

theorem issueSeq_kept (s : State) (c : Nat) (x : Issued) (flips : Flips) (k : Bool → State → State) [Can W .regs] [Can W .chans] [Can W .slices] [Can W .obs] (hK : Kept P W Z s) (hk : ∀ b s, Kept P W Z s → Kept P W Z (k b s)) : Kept P W Z (issueSeq s c x flips k) := by
  unfold issueSeq; try dsimp only
  repeat' (with_reducible first | exact hK | intro _ | apply hk | assumption | apply issue_kept | apply obsEvent_kept)

theorem modPch_kept (s : State) (pc : Nat) (f : Pch → Pch) [Can W .pchs] (hK : Kept P W Z s) : Kept P W Z (modPch s pc f) := by
  unfold modPch; try dsimp only
  repeat' (with_reducible first | exact hK | (refine Kept.set_pchs (Kept.eta ?_); first | exact hK))

theorem addHeld_kept (s : State) (pc : Nat) (h : Held) [Can W .pchs] (hK : Kept P W Z s) : Kept P W Z (addHeld s pc h) := by
  unfold addHeld; try dsimp only
  repeat' (with_reducible first | exact hK | intro _ | assumption | apply modPch_kept)

theorem addInternal_kept (s : State) (pc : Nat) (h : Held) [Can W .pchs] (hK : Kept P W Z s) : Kept P W Z (addInternal s pc h) := by
  unfold addInternal; try dsimp only
  repeat' (with_reducible first | exact hK | intro _ | assumption | apply Kept.ite | apply addHeld_kept | apply modPch_kept | split)

theorem raiseEng_kept (s : State) (ch i hi : Nat) (first : Bool) [Can W .regs] [Can W .links] [Can W .side] [Can W .ev] [Can W .obs] [Can W .out] (hK : Kept P W Z s) : Kept P W Z (raiseEng s ch i hi first) := by
  unfold raiseEng; try dsimp only
  repeat' (with_reducible first | exact hK | apply Kept.ite | apply raiseEv_kept | apply wri_kept | split)

theorem engineParity_kept (s : State) (ch : Nat) [Can W .regs] [Can W .links] [Can W .side] [Can W .ev] [Can W .obs] [Can W .out] (hK : Kept P W Z s) : Kept P W Z (engineParity s ch) := by
  unfold engineParity; try dsimp only
  repeat' (with_reducible first | exact hK | apply wri_kept | apply raiseParity_kept)

theorem setSpare_kept (s : State) (pc sp : Nat) (lane : Option Nat) [Can W .regs] (hK : Kept P W Z s) : Kept P W Z (setSpare s pc sp lane) := by
  unfold setSpare; try dsimp only
  repeat' (with_reducible first | exact hK | apply Kept.ite | apply wri_kept | split)

theorem markLane_kept (s : State) (pc lane : Nat) [Can W .regs] [Can W .links] [Can W .side] [Can W .ev] [Can W .obs] [Can W .out] (hK : Kept P W Z s) : Kept P W Z (markLane s pc lane) := by
  unfold markLane; try dsimp only
  repeat' (with_reducible first | exact hK | apply Kept.ite | apply wri_kept | apply raiseEv_kept | apply obsEvent_kept | split)

theorem laneError_kept (s : State) (pc lane bank : Nat) [Can W .regs] [Can W .links] [Can W .stack] [Can W .side] [Can W .ev] [Can W .obs] [Can W .out] (hK : Kept P W Z s) : Kept P W Z (laneError s pc lane bank) := by
  unfold laneError; try dsimp only
  repeat' (with_reducible first | exact hK | intro _ | assumption | apply Kept.ite | apply markLane_kept | apply modStack_kept | split)

theorem setDelay_kept (s : State) (write : Bool) (pc lane sid code : Nat) [Can W .regs] (hK : Kept P W Z s) : Kept P W Z (setDelay s write pc lane sid code) := by
  unfold setDelay; try dsimp only
  repeat' (with_reducible first | exact hK | apply put_kept)

theorem codeLimit_kept (s : State) (pc phys : Nat) [Can W .regs] [Can W .links] [Can W .side] [Can W .ev] [Can W .obs] [Can W .out] (hK : Kept P W Z s) : Kept P W Z (codeLimit s pc phys) := by
  unfold codeLimit; try dsimp only
  repeat' (with_reducible first | exact hK | apply raiseEv_kept | apply markLane_kept | split)

theorem moveDelay_kept (s : State) (write : Bool) (pc lane sid : Nat) (v : Int) [Can W .regs] [Can W .links] [Can W .side] [Can W .ev] [Can W .obs] [Can W .out] (hK : Kept P W Z s) : Kept P W Z (moveDelay s write pc lane sid v) := by
  unfold moveDelay; try dsimp only
  repeat' (with_reducible first | exact hK | apply Kept.ite | apply setDelay_kept | apply codeLimit_kept | split)

theorem trackLane_kept (s : State) (pc sid lane : Nat) (d : Int) [Can W .regs] [Can W .links] [Can W .stack] [Can W .side] [Can W .ev] [Can W .obs] [Can W .out] (hK : Kept P W Z s) : Kept P W Z (trackLane s pc sid lane d) := by
  unfold trackLane; try dsimp only
  repeat' (with_reducible first | exact hK | intro _ | assumption | apply moveDelay_kept | apply modStack_kept | refine Kept.snd (by assumption) ?_)

theorem phaseSample_kept (s : State) (pc sid lane : Nat) (late : Bool) [Can W .regs] [Can W .links] [Can W .stack] [Can W .side] [Can W .ev] [Can W .obs] [Can W .out] (hK : Kept P W Z s) : Kept P W Z (phaseSample s pc sid lane late) := by
  unfold phaseSample; try dsimp only
  repeat' (with_reducible first | exact hK | intro _ | assumption | apply Kept.ite | apply modStack_kept | apply obsEvent_kept | apply trackLane_kept | split)

theorem eyeSample_kept (s : State) (pc : Nat) (e : EyeCount) [Can W .regs] [Can W .links] [Can W .stack] [Can W .side] [Can W .ev] [Can W .obs] [Can W .out] (hK : Kept P W Z s) : Kept P W Z (eyeSample s pc e) := by
  unfold eyeSample; try dsimp only
  repeat' (with_reducible first | exact hK | intro _ | assumption | apply Kept.ite | apply modStack_kept | apply obsEvent_kept | apply put_kept | apply codeLimit_kept | refine Kept.snd (by assumption) ?_ | split)

theorem trackBurst_kept (s : State) (pc sid : Nat) (preamble : Bool) (b : BurstReport) [Can W .regs] [Can W .links] [Can W .pchs] [Can W .stack] [Can W .side] [Can W .ev] [Can W .obs] [Can W .out] (hK : Kept P W Z s) : Kept P W Z (trackBurst s pc sid preamble b) := by
  unfold trackBurst; try dsimp only
  repeat' (with_reducible first | exact hK | intro _ | assumption | apply Kept.ite | apply modPch_kept | apply obsEvent_kept | apply forEach_kept | apply phaseSample_kept | apply eyeSample_kept | apply forEach_kept | split)

theorem setClass_kept (s : State) (pc sid bank : Nat) (c : BankClass) [Can W .pchs] (hK : Kept P W Z s) : Kept P W Z (setClass s pc sid bank c) := by
  unfold setClass; try dsimp only
  repeat' (with_reducible first | exact hK | intro _ | assumption | apply modPch_kept)

theorem logClass_kept (s : State) (bank cls cap cause band row col : Nat) [Can W .regs] [Can W .stack] (hK : Kept P W Z s) : Kept P W Z (logClass s bank cls cap cause band row col) := by
  unfold logClass; try dsimp only
  repeat' (with_reducible first | exact hK | intro _ | assumption | apply wr_kept | apply modStack_kept)

theorem restoreRow_kept (s : State) (pc : Nat) (q : QualRun) (written : Bool) [Can W .pchs] (hK : Kept P W Z s) : Kept P W Z (restoreRow s pc q written) := by
  unfold restoreRow; try dsimp only
  repeat' (with_reducible first | exact hK | apply Kept.ite | apply addInternal_kept | split)

theorem dropTestHeld_kept (s : State) (pc : Nat) [Can W .pchs] (hK : Kept P W Z s) : Kept P W Z (dropTestHeld s pc) := by
  unfold dropTestHeld; try dsimp only
  repeat' (with_reducible first | exact hK | intro _ | assumption | apply modPch_kept)

theorem abandonTest_kept (s : State) (pc bank : Nat) [Can W .regs] [Can W .links] [Can W .pchs] [Can W .side] [Can W .ev] [Can W .obs] [Can W .out] (hK : Kept P W Z s) : Kept P W Z (abandonTest s pc bank) := by
  unfold abandonTest; try dsimp only
  repeat' (with_reducible first | exact hK | intro _ | assumption | apply Kept.ite | apply modPch_kept | apply restoreRow_kept | apply dropTestHeld_kept | split)

theorem dropClass_kept (s : State) (pc sid bank : Nat) [Can W .regs] [Can W .links] [Can W .pchs] [Can W .side] [Can W .ev] [Can W .obs] [Can W .out] (hK : Kept P W Z s) : Kept P W Z (dropClass s pc sid bank) := by
  unfold dropClass; try dsimp only
  repeat' (with_reducible first | exact hK | apply abandonTest_kept | apply setClass_kept)

theorem abandonTests_kept (s : State) (sel : Nat → Bool) [Can W .regs] [Can W .links] [Can W .pchs] [Can W .side] [Can W .ev] [Can W .obs] [Can W .out] (hK : Kept P W Z s) : Kept P W Z (abandonTests s sel) := by
  unfold abandonTests; try dsimp only
  repeat' (with_reducible first | exact hK | intro _ | assumption | apply forEach_kept | apply abandonTest_kept | apply forEach_kept | split)

theorem classReport_kept (s : State) (pc sid bank row col cls : Nat) (uncorrectable : Bool) [Can W .regs] [Can W .links] [Can W .pchs] [Can W .stack] [Can W .side] [Can W .ev] [Can W .obs] [Can W .out] (hK : Kept P W Z s) : Kept P W Z (classReport s pc sid bank row col cls uncorrectable).2 := by
  unfold classReport; try dsimp only
  repeat' (with_reducible first | exact hK | apply Kept.ite | apply Kept.ite2 | apply put_kept | apply dropClass_kept | apply logClass_kept | apply obsEventPc_kept | apply bump_kept | apply raiseEng_kept | split)

theorem setBin_kept (s : State) (k b : Nat) [Can W .mram] [Can W .stack] (hK : Kept P W Z s) : Kept P W Z (setBin s k b) := by
  unfold setBin; try dsimp only
  repeat' (with_reducible first | exact hK | intro _ | assumption | apply Kept.ite | apply modStack_kept | (refine Kept.set_mram (Kept.eta ?_); first | exact hK | apply modStack_kept) | split)

theorem tightenGroup_kept (s : State) (pc sid bank row : Nat) [Can W .regs] [Can W .mram] [Can W .links] [Can W .stack] [Can W .side] [Can W .ev] [Can W .obs] [Can W .out] (hK : Kept P W Z s) : Kept P W Z (tightenGroup s pc sid bank row) := by
  unfold tightenGroup; try dsimp only
  repeat' (with_reducible first | exact hK | apply Kept.ite | apply setBin_kept | apply raiseEv_kept | apply bump_kept | split)

theorem settleLog_kept (s : State) [Can W .regs] (hK : Kept P W Z s) : Kept P W Z (settleLog s) := by
  unfold settleLog; try dsimp only
  repeat' (with_reducible first | exact hK | apply Kept.ite | apply wr_kept | split)

theorem retireRows_kept (s : State) (lb row n : Nat) (bank : Bool) [Can W .regs] [Can W .mram] (hK : Kept P W Z s) : Kept P W Z (retireRows s lb row n bank) := by
  unfold retireRows; try dsimp only
  repeat' (with_reducible first | exact hK | intro _ | assumption | apply Kept.ite | apply settleLog_kept | (refine Kept.set_mram (Kept.eta ?_); first | exact hK | apply settleLog_kept) | split)

theorem storeRecord_kept (s : State) (p : Place) (n : Note) [Can W .regs] [Can W .mram] [Can W .links] [Can W .side] [Can W .ev] [Can W .obs] [Can W .out] (hK : Kept P W Z s) : Kept P W Z (storeRecord s p n) := by
  unfold storeRecord; try dsimp only
  repeat' (with_reducible first | exact hK | apply Kept.ite | apply raiseEv_kept | apply bump_kept | apply settleLog_kept | apply obsEvent_kept | apply wr_kept | (refine Kept.set_mram (Kept.eta ?_); first | exact hK | apply raiseEv_kept | apply bump_kept | apply settleLog_kept | apply obsEvent_kept | apply wr_kept) | split)

theorem recommendBank_kept (s : State) (p : Place) (source : Nat) [Can W .regs] [Can W .mram] [Can W .links] [Can W .side] [Can W .ev] [Can W .obs] [Can W .out] (hK : Kept P W Z s) : Kept P W Z (recommendBank s p source) := by
  unfold recommendBank; try dsimp only
  repeat' (with_reducible first | exact hK | intro _ | assumption | apply Kept.ite | apply storeRecord_kept | apply raiseEv_kept | split)

theorem recommendRow_kept (s : State) (p : Place) (source rows : Nat) [Can W .regs] [Can W .mram] [Can W .links] [Can W .side] [Can W .ev] [Can W .obs] [Can W .out] (hK : Kept P W Z s) : Kept P W Z (recommendRow s p source rows) := by
  unfold recommendRow; try dsimp only
  repeat' (with_reducible first | exact hK | intro _ | assumption | apply Kept.ite | apply storeRecord_kept | apply raiseEv_kept | split)

theorem writeRecord_kept (s : State) (p : Place) (n : Note) [Can W .regs] [Can W .mram] [Can W .links] [Can W .side] [Can W .ev] [Can W .obs] [Can W .out] (hK : Kept P W Z s) : Kept P W Z (writeRecord s p n) := by
  unfold writeRecord; try dsimp only
  repeat' (with_reducible first | exact hK | apply Kept.ite | apply storeRecord_kept | apply recommendRow_kept | apply recommendBank_kept | split)

theorem evictRecur_kept (s : State) [Can W .stack] (hK : Kept P W Z s) : Kept P W Z (evictRecur s) := by
  unfold evictRecur; try dsimp only
  repeat' (with_reducible first | exact hK | intro _ | assumption | apply Kept.ite | apply modStack_kept | split)

theorem recurCorrection_kept (s : State) (p : Place) (c : Corr) (source marked nck : Nat) [Can W .regs] [Can W .mram] [Can W .links] [Can W .stack] [Can W .side] [Can W .ev] [Can W .obs] [Can W .out] (hK : Kept P W Z s) : Kept P W Z (recurCorrection s p c source marked nck) := by
  unfold recurCorrection; try dsimp only
  repeat' (with_reducible first | exact hK | intro _ | assumption | apply Kept.ite | apply evictRecur_kept | apply put_kept | apply modStack_kept | apply bumpi_kept | apply raiseEv_kept | apply writeRecord_kept | split)

theorem lineRewritten_kept (s : State) (pc sid lbank lrow col ended : Nat) [Can W .stack] (hK : Kept P W Z s) : Kept P W Z (lineRewritten s pc sid lbank lrow col ended) := by
  unfold lineRewritten; try dsimp only
  repeat' (with_reducible first | exact hK | intro _ | assumption | apply Kept.ite | apply modStack_kept | split)

theorem setHeld_kept (s : State) (pc id : Nat) (h : Held) [Can W .pchs] (hK : Kept P W Z s) : Kept P W Z (setHeld s pc id h) := by
  unfold setHeld; try dsimp only
  repeat' (with_reducible first | exact hK | intro _ | assumption | apply modPch_kept)

theorem delHeld_kept (s : State) (pc id : Nat) [Can W .pchs] (hK : Kept P W Z s) : Kept P W Z (delHeld s pc id) := by
  unfold delHeld; try dsimp only
  repeat' (with_reducible first | exact hK | intro _ | assumption | apply modPch_kept)

theorem renewHeld_kept (s : State) (pc id : Nat) (h : Held) [Can W .pchs] (hK : Kept P W Z s) : Kept P W Z (renewHeld s pc id h) := by
  unfold renewHeld; try dsimp only
  repeat' (with_reducible first | exact hK | intro _ | assumption | apply modPch_kept)

theorem returnCreditOf_kept (s : State) (kind : Nat) (h : Held) [Can W .tree] (hK : Kept P W Z s) : Kept P W Z (returnCreditOf s kind h) := by
  unfold returnCreditOf; try dsimp only
  repeat' (with_reducible first | exact hK | apply giveRoom_kept | split)

theorem settleMode_kept (s : State) (pc : Nat) [Can W .regs] [Can W .pchs] (hK : Kept P W Z s) : Kept P W Z (settleMode s pc) := by
  unfold settleMode; try dsimp only
  repeat' (with_reducible first | exact hK | intro _ | assumption | apply Kept.ite | apply modPch_kept | apply bumpi_kept | split)

theorem settleSlots_kept (s : State) (pc n : Nat) [Can W .pchs] (hK : Kept P W Z s) : Kept P W Z (settleSlots s pc n) := by
  induction n generalizing s with
  | zero => exact hK
  | succ n ih =>
    unfold settleSlots; split
    · exact hK
    · split
      · exact ih _ (addHeld_kept _ _ _ (modPch_kept _ _ _ hK))
      · exact ih _ (addHeld_kept _ _ _ (modPch_kept _ _ _ hK))
      · exact hK

theorem settlePch_kept (s : State) (pc : Nat) [Can W .regs] [Can W .pchs] (hK : Kept P W Z s) : Kept P W Z (settlePch s pc) := by
  unfold settlePch; try dsimp only
  repeat' (with_reducible first | exact hK | apply settleMode_kept | apply settleSlots_kept)

theorem countRmw_kept (s : State) (pc : Nat) (h : Held) [Can W .regs] [Can W .tree] [Can W .obs] (hK : Kept P W Z s) : Kept P W Z (countRmw s pc h) := by
  unfold countRmw; try dsimp only
  repeat' (with_reducible first | exact hK | intro _ | assumption | apply obsEventPc_kept | apply bumpWrap_kept | apply modTree_kept | split)

theorem staleLine_kept (s : State) (pc : Nat) (line : Held) [Can W .pchs] (hK : Kept P W Z s) : Kept P W Z (staleLine s pc line) := by
  unfold staleLine; try dsimp only
  repeat' (with_reducible first | exact hK | intro _ | assumption | apply Kept.ite | apply modPch_kept | split)

theorem placeFull_kept (s : State) (pc : Nat) (h : Held) [Can W .tree] [Can W .pchs] (hK : Kept P W Z s) : Kept P W Z (placeFull s pc h).2 := by
  unfold placeFull; try dsimp only
  repeat' (with_reducible first | exact hK | intro _ | assumption | apply renewHeld_kept | apply addHeld_kept | apply returnCreditOf_kept | apply delHeld_kept | split)

theorem placePartial_kept (s : State) (pc : Nat) (h : Held) [Can W .regs] [Can W .tree] [Can W .pchs] [Can W .obs] (hK : Kept P W Z s) : Kept P W Z (placePartial s pc h).2 := by
  unfold placePartial; try dsimp only
  repeat' (with_reducible first | exact hK | intro _ | assumption | apply Kept.ite | apply Kept.ite2 | apply renewHeld_kept | apply bumpWrap_kept | apply addHeld_kept | apply countRmw_kept | split)

theorem mergeToWrite_kept (s : State) (pc id : Nat) (h : Held) [Can W .regs] [Can W .tree] [Can W .pchs] [Can W .obs] (hK : Kept P W Z s) : Kept P W Z (mergeToWrite s pc id h) := by
  unfold mergeToWrite; try dsimp only
  repeat' (with_reducible first | exact hK | apply countRmw_kept | apply setHeld_kept)

theorem orderFlush_kept (s : State) (pc : Nat) [Can W .regs] [Can W .tree] [Can W .pchs] [Can W .obs] (hK : Kept P W Z s) : Kept P W Z (orderFlush s pc) := by
  unfold orderFlush; try dsimp only
  repeat' (with_reducible first | exact hK | intro _ | assumption | apply forEach_kept | apply mergeToWrite_kept | apply settleMode_kept | apply modPch_kept | apply forEach_kept)

theorem skipWriteback_kept (s : State) (pc : Nat) (h : Held) [Can W .regs] [Can W .links] [Can W .side] [Can W .ev] [Can W .obs] [Can W .out] (hK : Kept P W Z s) : Kept P W Z (skipWriteback s pc h) := by
  unfold skipWriteback; try dsimp only
  repeat' (with_reducible first | exact hK | apply raiseEv_kept | apply bumpi_kept)

theorem queueBlockWrite_kept (s : State) (pc : Nat) (h : Held) [Can W .regs] [Can W .links] [Can W .pchs] [Can W .side] [Can W .ev] [Can W .obs] [Can W .out] (hK : Kept P W Z s) : Kept P W Z (queueBlockWrite s pc h) := by
  unfold queueBlockWrite; try dsimp only
  repeat' (with_reducible first | exact hK | intro _ | assumption | apply Kept.ite | apply setHeld_kept | apply modPch_kept | apply addHeld_kept | apply skipWriteback_kept | split)

theorem reportDecode_kept (s : State) (pc : Nat) (h : Held) (d : Decode) (nck : Nat) [Can W .regs] [Can W .mram] [Can W .links] [Can W .pchs] [Can W .stack] [Can W .side] [Can W .ev] [Can W .obs] [Can W .out] (hK : Kept P W Z s) : Kept P W Z (reportDecode s pc h d nck).2 := by
  unfold reportDecode; try dsimp only
  repeat' (with_reducible first | exact hK | intro _ | assumption | apply Kept.ite | apply Kept.ite2 | apply forEach_kept | apply laneError_kept | apply bumpWrap_kept | apply raiseFirst_kept | apply bumpi_kept | apply obsEventPc_kept | apply classReport_kept | apply tightenGroup_kept | apply recurCorrection_kept | apply raiseEv_kept | apply writeRecord_kept | apply forEach_kept | refine Kept.snd (by assumption) ?_ | split)

theorem rewriteAfter_kept (s : State) (pc : Nat) (h : Held) (d : Decode) (timing : Bool) [Can W .regs] [Can W .links] [Can W .pchs] [Can W .side] [Can W .ev] [Can W .obs] [Can W .out] (hK : Kept P W Z s) : Kept P W Z (rewriteAfter s pc h d timing) := by
  unfold rewriteAfter; try dsimp only
  repeat' (with_reducible first | exact hK | apply queueBlockWrite_kept | split)

theorem overlayHeld_kept (s : State) (pc : Nat) (h : Held) (d : Line) (ok : Bool) [Can W .pchs] (hK : Kept P W Z s) : Kept P W Z (overlayHeld s pc h d ok).2.2 := by
  unfold overlayHeld; try dsimp only
  repeat' (with_reducible first | exact hK | intro _ | assumption | apply Kept.ite | apply Kept.ite2 | apply Kept.ite3 | apply setHeld_kept | split)

theorem completeRmw_kept (s : State) (pc id : Nat) (h : Held) (d : Decode) [Can W .regs] [Can W .links] [Can W .pchs] [Can W .side] [Can W .ev] [Can W .obs] [Can W .out] (hK : Kept P W Z s) : Kept P W Z (completeRmw s pc id h d) := by
  unfold completeRmw; try dsimp only
  repeat' (with_reducible first | exact hK | apply Kept.ite | apply setHeld_kept | apply raiseEng_kept | apply bumpi_kept | split)

theorem moveCredit_kept (s : State) (t : Txn) (h : Held) [Can W .flights] (hK : Kept P W Z s) : Kept P W Z (moveCredit s t h).2 := by
  unfold moveCredit; try dsimp only
  repeat' (with_reducible first | exact hK | intro _ | assumption | apply Kept.ite | apply Kept.ite2 | apply modFlight_kept | split)

theorem enqueueRead_kept (s : State) (id : Nat) (t : Txn) [Can W .regs] [Can W .links] [Can W .flights] [Can W .tree] [Can W .home] [Can W .pchs] [Can W .side] [Can W .ev] [Can W .ledgers] [Can W .obs] [Can W .out] (hK : Kept P W Z s) : Kept P W Z (enqueueRead s id t) := by
  unfold enqueueRead; try dsimp only
  repeat' (with_reducible first | exact hK | apply Kept.ite | apply setTxn_kept | apply readAnswered_kept | apply freeTxnRoom_kept | apply obsEventPc_kept | apply bumpWrap_kept | apply raiseFirst_kept | apply bumpi_kept | apply moveCredit_kept | apply addHeld_kept | refine Kept.snd (by assumption) ?_ | split)

theorem doEngineReadEnqueue_kept (txn : Nat) (par : Parity) (s : State) [Can W .regs] [Can W .links] [Can W .flights] [Can W .tree] [Can W .home] [Can W .pchs] [Can W .sleep] [Can W .side] [Can W .ev] [Can W .ledgers] [Can W .obs] [Can W .out] (hK : Kept P W Z s) : Kept P W Z (doEngineReadEnqueue txn par s) := by
  unfold doEngineReadEnqueue; try dsimp only
  repeat' (with_reducible first | exact hK | apply Kept.ite | apply ungate_kept | apply engineParity_kept | apply freeTxnRoom_kept | apply setTxn_kept | apply enqueueRead_kept | split)

theorem refreshUnder_kept (s : State) (pc : Nat) (line : Held) [Can W .pchs] (hK : Kept P W Z s) : Kept P W Z (refreshUnder s pc line) := by
  unfold refreshUnder; try dsimp only
  repeat' (with_reducible first | exact hK | intro _ | assumption | apply Kept.ite | apply setHeld_kept | split)

theorem placeWrite_kept (s : State) (t : Txn) (w : HomeWrite) [Can W .regs] [Can W .flights] [Can W .tree] [Can W .pchs] [Can W .obs] (hK : Kept P W Z s) : Kept P W Z (placeWrite s t w) := by
  unfold placeWrite; try dsimp only
  repeat' (with_reducible first | exact hK | apply Kept.ite | apply staleLine_kept | apply addHeld_kept | apply refreshUnder_kept | apply moveCredit_kept | apply placeFull_kept | apply placePartial_kept | apply returnCreditOf_kept | refine Kept.snd (by assumption) ?_ | split)

theorem stampWrite_kept (s : State) (t : Txn) (w : HomeWrite) [Can W .flights] (hK : Kept P W Z s) : Kept P W Z (stampWrite s t w) := by
  unfold stampWrite; try dsimp only
  repeat' (with_reducible first | exact hK | intro _ | assumption | apply Kept.ite | apply modFlight_kept | split)

theorem dropWrite_kept (s : State) (id : Nat) (w : HomeWrite) [Can W .regs] [Can W .links] [Can W .flights] [Can W .tree] [Can W .home] [Can W .side] [Can W .ev] [Can W .ledgers] [Can W .obs] [Can W .out] (hK : Kept P W Z s) : Kept P W Z (dropWrite s id w) := by
  unfold dropWrite; try dsimp only
  repeat' (with_reducible first | exact hK | intro _ | assumption | apply Kept.ite | apply freeTxnRoom_kept | apply advance_kept | apply modTxn_kept | split)

theorem loseWrite_kept (s : State) (id : Nat) (w : HomeWrite) [Can W .regs] [Can W .links] [Can W .flights] [Can W .tree] [Can W .home] [Can W .side] [Can W .ev] [Can W .ledgers] [Can W .obs] [Can W .out] (hK : Kept P W Z s) : Kept P W Z (loseWrite s id w) := by
  unfold loseWrite; try dsimp only
  repeat' (with_reducible first | exact hK | intro _ | assumption | apply Kept.ite | apply forEach_kept | apply decide'_kept | apply modTxn_kept | apply advance_kept | apply failTxn_kept | apply forEach_kept | split)

theorem doEngineWritePlace_kept (txn : Nat) (par : Parity) (s : State) [Can W .regs] [Can W .links] [Can W .flights] [Can W .tree] [Can W .home] [Can W .pchs] [Can W .sleep] [Can W .side] [Can W .ev] [Can W .ledgers] [Can W .obs] [Can W .out] (hK : Kept P W Z s) : Kept P W Z (doEngineWritePlace txn par s) := by
  unfold doEngineWritePlace; try dsimp only
  repeat' (with_reducible first | exact hK | apply Kept.ite | apply ungate_kept | apply engineParity_kept | apply dropWrite_kept | apply loseWrite_kept | apply stampWrite_kept | apply placeWrite_kept | apply settlePch_kept | apply writePlaced_kept | split)

theorem doMergeTimeout_kept (pc id : Nat) (s : State) [Can W .regs] [Can W .tree] [Can W .pchs] [Can W .obs] (hK : Kept P W Z s) : Kept P W Z (doMergeTimeout pc id s) := by
  unfold doMergeTimeout; try dsimp only
  repeat' (with_reducible first | exact hK | apply Kept.ite | apply settlePch_kept | apply mergeToWrite_kept | split)

theorem doRequestAged_kept (pc id : Nat) (s : State) [Can W .regs] [Can W .links] [Can W .pchs] [Can W .side] [Can W .ev] [Can W .obs] [Can W .out] (hK : Kept P W Z s) : Kept P W Z (doRequestAged pc id s) := by
  unfold doRequestAged; try dsimp only
  repeat' (with_reducible first | exact hK | apply Kept.ite | apply bumpi_kept | apply setHeld_kept | apply raiseEng_kept | apply obsEventPc_kept | split)

theorem ageAll_kept (s : State) [Can W .regs] [Can W .links] [Can W .pchs] [Can W .side] [Can W .ev] [Can W .obs] [Can W .out] (hK : Kept P W Z s) : Kept P W Z (ageAll s) := by
  unfold ageAll; try dsimp only
  repeat' (with_reducible first | exact hK | intro _ | assumption | apply forEach_kept | apply doRequestAged_kept | apply forEach_kept)

theorem setSag_kept (s : State) (pc i : Nat) (g : Sag) [Can W .pchs] (hK : Kept P W Z s) : Kept P W Z (setSag s pc i g) := by
  unfold setSag; try dsimp only
  repeat' (with_reducible first | exact hK | intro _ | assumption | apply modPch_kept)

theorem firstCommand_kept (s : State) (pc id outcome : Nat) [Can W .regs] [Can W .flights] [Can W .pchs] [Can W .obs] (hK : Kept P W Z s) : Kept P W Z (firstCommand s pc id outcome) := by
  unfold firstCommand; try dsimp only
  repeat' (with_reducible first | exact hK | intro _ | assumption | apply Kept.ite | apply setHeld_kept | apply obsEventPc_kept | apply bumpWrap_kept | apply wri_kept | apply modFlight_kept | split)

theorem trackRow_kept (s : State) (pc sid bank row nck : Nat) [Can W .regs] [Can W .links] [Can W .pchs] [Can W .side] [Can W .ev] [Can W .obs] [Can W .out] (hK : Kept P W Z s) : Kept P W Z (trackRow s pc sid bank row nck) := by
  unfold trackRow; try dsimp only
  repeat' (with_reducible first | exact hK | intro _ | assumption | apply Kept.ite | apply modPch_kept | apply setSag_kept | apply bumpi_kept | apply raiseEng_kept | refine Kept.snd (by assumption) ?_ | split)

theorem useAllowance_kept (s : State) (pc nck : Nat) [Can W .pchs] (hK : Kept P W Z s) : Kept P W Z (useAllowance s pc nck) := by
  unfold useAllowance; try dsimp only
  repeat' (with_reducible first | exact hK | intro _ | assumption | apply Kept.ite | apply modPch_kept | split)

theorem issueEng_kept (s : State) (pc code : Nat) (x : Issued) (flips : Flips) (k : Bool → State → State) [Can W .regs] [Can W .links] [Can W .chans] [Can W .slices] [Can W .side] [Can W .ev] [Can W .obs] [Can W .out] (hK : Kept P W Z s) (hk : ∀ b s, Kept P W Z s → Kept P W Z (k b s)) : Kept P W Z (issueEng s pc code x flips k) := by
  unfold issueEng; try dsimp only
  repeat' (with_reducible first | exact hK | intro _ | apply hk | assumption | apply Kept.ite | apply issue_kept | apply obsEventPc_kept | split)

theorem modQual_kept (s : State) (pc : Nat) (f : QualRun → QualRun) [Can W .pchs] (hK : Kept P W Z s) : Kept P W Z (modQual s pc f) := by
  unfold modQual; try dsimp only
  repeat' (with_reducible first | exact hK | intro _ | assumption | apply modPch_kept)

theorem readTestRow_kept (s : State) (pc : Nat) (q : QualRun) (row : Nat) (stage : QualStage) [Can W .pchs] (hK : Kept P W Z s) : Kept P W Z (readTestRow s pc q row stage) := by
  unfold readTestRow; try dsimp only
  repeat' (with_reducible first | exact hK | intro _ | assumption | apply forEach_kept | apply modQual_kept | apply addHeld_kept | apply forEach_kept)

theorem doAct_kept (pc sid bank row nck : Nat) (flips : Flips) (s : State) [Can W .regs] [Can W .links] [Can W .flights] [Can W .pchs] [Can W .chans] [Can W .slices] [Can W .side] [Can W .ev] [Can W .obs] [Can W .out] (hK : Kept P W Z s) : Kept P W Z (doAct pc sid bank row nck flips s) := by
  unfold doAct; try dsimp only
  repeat' (with_reducible first | exact hK | intro _ | assumption | apply Kept.ite | apply issueEng_kept | apply setSag_kept | apply obsEventPc_kept | apply bumpWrap_kept | apply readTestRow_kept | apply firstCommand_kept | apply trackRow_kept | split)

theorem rowTested_kept (s : State) (pc : Nat) (q : QualRun) [Can W .pchs] (hK : Kept P W Z s) : Kept P W Z (rowTested s pc q) := by
  unfold rowTested; try dsimp only
  repeat' (with_reducible first | exact hK | intro _ | assumption | apply Kept.ite | apply modQual_kept | apply restoreRow_kept | split)

theorem rowInterrupted_kept (s : State) (pc : Nat) (q : QualRun) [Can W .regs] [Can W .links] [Can W .pchs] [Can W .side] [Can W .ev] [Can W .obs] [Can W .out] (hK : Kept P W Z s) : Kept P W Z (rowInterrupted s pc q) := by
  unfold rowInterrupted; try dsimp only
  repeat' (with_reducible first | exact hK | intro _ | assumption | apply modQual_kept | apply dropTestHeld_kept | apply restoreRow_kept)

theorem closeTested_kept (s : State) (pc : Nat) (q : QualRun) (own : Bool) [Can W .regs] [Can W .links] [Can W .pchs] [Can W .side] [Can W .ev] [Can W .obs] [Can W .out] (hK : Kept P W Z s) : Kept P W Z (closeTested s pc q own) := by
  unfold closeTested; try dsimp only
  repeat' (with_reducible first | exact hK | intro _ | assumption | apply Kept.ite | apply rowInterrupted_kept | apply modQual_kept | apply rowTested_kept | split)

theorem doPre_kept (pc sid bank sag nck : Nat) (flips : Flips) (s : State) [Can W .regs] [Can W .links] [Can W .flights] [Can W .pchs] [Can W .chans] [Can W .slices] [Can W .side] [Can W .ev] [Can W .obs] [Can W .out] (hK : Kept P W Z s) : Kept P W Z (doPre pc sid bank sag nck flips s) := by
  unfold doPre; try dsimp only
  repeat' (with_reducible first | exact hK | intro _ | assumption | apply Kept.ite | apply issueEng_kept | apply setSag_kept | apply closeTested_kept | apply firstCommand_kept | split)

theorem takeBurst_kept (s : State) (pc sid : Nat) (preamble : Bool) (b : BurstReport) [Can W .regs] [Can W .links] [Can W .pchs] [Can W .chans] [Can W .stack] [Can W .side] [Can W .ev] [Can W .obs] [Can W .out] (hK : Kept P W Z s) : Kept P W Z (takeBurst s pc sid preamble b) := by
  unfold takeBurst; try dsimp only
  repeat' (with_reducible first | exact hK | apply proveNow_kept | apply trackBurst_kept)

theorem doColumnRd_kept (pc id nck : Nat) (b : BurstReport) (flips : Flips) (s : State) [Can W .regs] [Can W .links] [Can W .flights] [Can W .tree] [Can W .pchs] [Can W .chans] [Can W .slices] [Can W .stack] [Can W .side] [Can W .ev] [Can W .obs] [Can W .out] (hK : Kept P W Z s) : Kept P W Z (doColumnRd pc id nck b flips s) := by
  unfold doColumnRd; try dsimp only
  repeat' (with_reducible first | exact hK | intro _ | assumption | apply Kept.ite | apply issueEng_kept | apply firstCommand_kept | apply useAllowance_kept | apply bumpWrap_kept | apply obsEventPc_kept | apply setHeld_kept | apply returnCreditOf_kept | apply modFlight_kept | apply takeBurst_kept | split)

theorem markCopy_kept (s : State) (pc : Nat) (h : Held) [Can W .pchs] (hK : Kept P W Z s) : Kept P W Z (markCopy s pc h) := by
  unfold markCopy; try dsimp only
  repeat' (with_reducible first | exact hK | intro _ | assumption | apply Kept.ite | apply modPch_kept | split)

theorem nextCopy_kept (s : State) (pc : Nat) [Can W .pchs] (hK : Kept P W Z s) : Kept P W Z (nextCopy s pc) := by
  unfold nextCopy; try dsimp only
  repeat' (with_reducible first | exact hK | intro _ | assumption | apply Kept.ite | apply modPch_kept | split)

theorem lineCopied_kept (s : State) (pc : Nat) [Can W .regs] [Can W .pchs] [Can W .stack] (hK : Kept P W Z s) : Kept P W Z (lineCopied s pc) := by
  unfold lineCopied; try dsimp only
  repeat' (with_reducible first | exact hK | intro _ | assumption | apply modStack_kept | apply nextCopy_kept | apply wri_kept | split)

theorem doWr_kept (pc id nck : Nat) (flips : Flips) (s : State) [Can W .regs] [Can W .links] [Can W .flights] [Can W .pchs] [Can W .chans] [Can W .slices] [Can W .stack] [Can W .side] [Can W .ev] [Can W .obs] [Can W .out] (hK : Kept P W Z s) : Kept P W Z (doWr pc id nck flips s) := by
  unfold doWr; try dsimp only
  repeat' (with_reducible first | exact hK | intro _ | assumption | apply Kept.ite | apply delHeld_kept | apply settlePch_kept | apply lineCopied_kept | apply issueEng_kept | apply firstCommand_kept | apply bumpWrap_kept | apply useAllowance_kept | apply obsEventPc_kept | apply modPch_kept | apply markCopy_kept | apply setHeld_kept | split)

theorem writeEnded_kept (s : State) (pc id : Nat) (h : Held) [Can W .regs] [Can W .tree] [Can W .pchs] [Can W .stack] (hK : Kept P W Z s) : Kept P W Z (writeEnded s pc id h) := by
  unfold writeEnded; try dsimp only
  repeat' (with_reducible first | exact hK | apply Kept.ite | apply setHeld_kept | apply returnCreditOf_kept | apply delHeld_kept | apply lineCopied_kept | apply addInternal_kept | split)

theorem doWriteBurstEnd_kept (pc id : Nat) (s : State) [Can W .regs] [Can W .tree] [Can W .pchs] [Can W .array] [Can W .stack] (hK : Kept P W Z s) : Kept P W Z (doWriteBurstEnd pc id s) := by
  unfold doWriteBurstEnd; try dsimp only
  repeat' (with_reducible first | exact hK | apply Kept.ite | apply storeCell_kept | apply lineRewritten_kept | apply settlePch_kept | apply writeEnded_kept | split)

theorem decodeRmw_kept (s : State) (pc id : Nat) (h : Held) (d : Decode) (par : Parity) (nck : Nat) [Can W .regs] [Can W .mram] [Can W .links] [Can W .pchs] [Can W .stack] [Can W .side] [Can W .ev] [Can W .obs] [Can W .out] (hK : Kept P W Z s) : Kept P W Z (decodeRmw s pc id h d par nck) := by
  unfold decodeRmw; try dsimp only
  repeat' (with_reducible first | exact hK | apply Kept.ite | apply reportDecode_kept | apply settlePch_kept | apply completeRmw_kept | refine Kept.snd (by assumption) ?_ | split)

theorem decodeHost_kept (s : State) (pc id : Nat) (h : Held) (d : Decode) (par : Parity) (nck : Nat) [Can W .regs] [Can W .mram] [Can W .links] [Can W .flights] [Can W .tree] [Can W .home] [Can W .pchs] [Can W .stack] [Can W .side] [Can W .ev] [Can W .ledgers] [Can W .obs] [Can W .out] (hK : Kept P W Z s) : Kept P W Z (decodeHost s pc id h d par nck) := by
  unfold decodeHost; try dsimp only
  repeat' (with_reducible first | exact hK | intro _ | assumption | apply Kept.ite | apply delHeld_kept | apply reportDecode_kept | apply overlayHeld_kept | apply rewriteAfter_kept | apply modFlight_kept | apply settlePch_kept | apply readAnswered_kept | refine Kept.snd (by assumption) ?_ | split)

theorem decodeInternal_kept (s : State) (pc id : Nat) (h : Held) (d : Decode) (par : Parity) (nck : Nat) [Can W .regs] [Can W .mram] [Can W .links] [Can W .pchs] [Can W .stack] [Can W .side] [Can W .ev] [Can W .obs] [Can W .out] (hK : Kept P W Z s) : Kept P W Z (decodeInternal s pc id h d par nck) := by
  unfold decodeInternal; try dsimp only
  repeat' (with_reducible first | exact hK | intro _ | assumption | apply Kept.ite | apply delHeld_kept | apply reportDecode_kept | apply rewriteAfter_kept | apply lineCopied_kept | apply modPch_kept | apply settlePch_kept | refine Kept.snd (by assumption) ?_ | split)

theorem settleTest_kept (s : State) (pc : Nat) [Can W .regs] [Can W .links] [Can W .pchs] [Can W .side] [Can W .ev] [Can W .obs] [Can W .out] (hK : Kept P W Z s) : Kept P W Z (settleTest s pc) := by
  unfold settleTest; try dsimp only
  repeat' (with_reducible first | exact hK | intro _ | assumption | apply Kept.ite | apply modQual_kept | apply addHeld_kept | split)

theorem decodeTest_kept (s : State) (pc id : Nat) (h : Held) (raw : Codeword) (d : Decode) (nck : Nat) [Can W .regs] [Can W .mram] [Can W .links] [Can W .pchs] [Can W .stack] [Can W .side] [Can W .ev] [Can W .obs] [Can W .out] (hK : Kept P W Z s) : Kept P W Z (decodeTest s pc id h raw d nck) := by
  unfold decodeTest; try dsimp only
  repeat' (with_reducible first | exact hK | intro _ | assumption | apply Kept.ite | apply delHeld_kept | apply modQual_kept | apply dropTestHeld_kept | apply reportDecode_kept | apply rewriteAfter_kept | apply settlePch_kept | apply settleTest_kept | refine Kept.snd (by assumption) ?_ | split)

theorem decodeCheck_kept (s : State) (pc id : Nat) (h : Held) (raw : Codeword) (d : Decode) (par : Parity) (nck : Nat) [Can W .regs] [Can W .mram] [Can W .links] [Can W .pchs] [Can W .stack] [Can W .side] [Can W .ev] [Can W .obs] [Can W .out] (hK : Kept P W Z s) : Kept P W Z (decodeCheck s pc id h raw d par nck) := by
  unfold decodeCheck; try dsimp only
  repeat' (with_reducible first | exact hK | apply Kept.ite | apply settlePch_kept | apply delHeld_kept | apply decodeInternal_kept | split)

theorem doReadDecode_kept (pc id : Nat) (err : BitVec 576) (par : Parity) (s : State) [Can W .regs] [Can W .mram] [Can W .links] [Can W .flights] [Can W .tree] [Can W .home] [Can W .pchs] [Can W .array] [Can W .stack] [Can W .side] [Can W .ev] [Can W .ledgers] [Can W .obs] [Can W .out] [Can W .free] (hK : Kept P W Z s) : Kept P W Z (doReadDecode pc id err par s) := by
  unfold doReadDecode; try dsimp only
  repeat' (with_reducible first | exact hK | intro _ | assumption | apply Kept.ite | apply readCell_kept | apply modPch_kept | apply raiseParity_kept | apply decodeTest_kept | apply decodeCheck_kept | apply decodeRmw_kept | apply decodeHost_kept | apply decodeInternal_kept | refine Kept.snd (by assumption) ?_ | split)

theorem setSpareWord_kept (s : State) (pc sid v : Nat) [Can W .regs] (hK : Kept P W Z s) : Kept P W Z (setSpareWord s pc sid v) := by
  unfold setSpareWord; try dsimp only
  repeat' (with_reducible first | exact hK | apply put_kept)

theorem retireSpareRow_kept (s : State) (pc sid row : Nat) [Can W .stack] (hK : Kept P W Z s) : Kept P W Z (retireSpareRow s pc sid row) := by
  unfold retireSpareRow; try dsimp only
  repeat' (with_reducible first | exact hK | intro _ | assumption | apply modStack_kept)

theorem settleSpares_kept (s : State) (pc : Nat) [Can W .regs] (hK : Kept P W Z s) : Kept P W Z (settleSpares s pc) := by
  unfold settleSpares; try dsimp only
  repeat' (with_reducible first | exact hK | intro _ | assumption | apply wri_kept | apply forEach_kept | apply setSpareWord_kept | apply forEach_kept)

theorem setGraft_kept (s : State) (pc sid bank row : Nat) (v : Nat × Nat) [Can W .stack] (hK : Kept P W Z s) : Kept P W Z (setGraft s pc sid bank row v) := by
  unfold setGraft; try dsimp only
  repeat' (with_reducible first | exact hK | intro _ | assumption | apply modStack_kept)

theorem delGraft_kept (s : State) (pc sid bank row : Nat) [Can W .stack] (hK : Kept P W Z s) : Kept P W Z (delGraft s pc sid bank row) := by
  unfold delGraft; try dsimp only
  repeat' (with_reducible first | exact hK | intro _ | assumption | apply modStack_kept)

theorem copyLine_kept (s : State) (l : Loc) (purpose : Purpose) (from_ dst : Nat) [Can W .regs] [Can W .mram] [Can W .links] [Can W .pchs] [Can W .array] [Can W .stack] [Can W .side] [Can W .ev] [Can W .obs] [Can W .out] [Can W .free] (hK : Kept P W Z s) : Kept P W Z (copyLine s l purpose from_ dst) := by
  unfold copyLine; try dsimp only
  repeat' (with_reducible first | exact hK | apply readCell_kept | apply reportDecode_kept | apply storeCell_kept | refine Kept.snd (by assumption) ?_)

theorem copyRow_kept (s : State) (l : Loc) (purpose : Purpose) (from_ dst : Nat) [Can W .regs] [Can W .mram] [Can W .links] [Can W .pchs] [Can W .array] [Can W .stack] [Can W .side] [Can W .ev] [Can W .obs] [Can W .out] [Can W .free] (hK : Kept P W Z s) : Kept P W Z (copyRow s l purpose from_ dst) := by
  unfold copyRow; try dsimp only
  repeat' (with_reducible first | exact hK | intro _ | assumption | apply forEach_kept | apply copyLine_kept | apply forEach_kept)

theorem writeRaw_kept (s : State) (pc from_ : Nat) (ones : Bool) [Can W .array] (hK : Kept P W Z s) : Kept P W Z (writeRaw s pc from_ ones) := by
  unfold writeRaw; try dsimp only
  repeat' (with_reducible first | exact hK | intro _ | assumption | apply Kept.ite | apply forEach_kept | apply storeCell_kept | apply forEach_kept | split)

theorem unpark_kept (s : State) (k : Nat) [Can W .regs] [Can W .mram] [Can W .links] [Can W .pchs] [Can W .array] [Can W .stack] [Can W .side] [Can W .ev] [Can W .obs] [Can W .out] [Can W .free] (hK : Kept P W Z s) : Kept P W Z (unpark s k) := by
  unfold unpark; try dsimp only
  repeat' (with_reducible first | exact hK | intro _ | assumption | apply forEach_kept | apply copyRow_kept | apply delGraft_kept | apply modStack_kept | apply settleSpares_kept | apply wr_kept | apply forEach_kept | split)

theorem abandonPark_kept (s : State) (k : Nat) (later : Bool) [Can W .regs] [Can W .mram] [Can W .links] [Can W .pchs] [Can W .array] [Can W .stack] [Can W .side] [Can W .ev] [Can W .obs] [Can W .out] [Can W .free] (hK : Kept P W Z s) : Kept P W Z (abandonPark s k later) := by
  unfold abandonPark; try dsimp only
  repeat' (with_reducible first | exact hK | intro _ | assumption | apply Kept.ite | apply bump_kept | apply modStack_kept | apply unpark_kept | split)

theorem setPlan_kept (s : State) (sl : Nat) (p : Plan) [Can W .stack] (hK : Kept P W Z s) : Kept P W Z (setPlan s sl p) := by
  unfold setPlan; try dsimp only
  repeat' (with_reducible first | exact hK | intro _ | assumption | apply modStack_kept)

theorem beginWindow_kept (s : State) (pc sid bank n : Nat) [Can W .pchs] [Can W .stack] (hK : Kept P W Z s) : Kept P W Z (beginWindow s pc sid bank n) := by
  unfold beginWindow; try dsimp only
  repeat' (with_reducible first | exact hK | intro _ | assumption | apply modStack_kept | apply modPch_kept)

theorem beginWindows_kept (s : State) (sl n : Nat) (all : Bool) [Can W .pchs] [Can W .stack] (hK : Kept P W Z s) : Kept P W Z (beginWindows s sl n all) := by
  unfold beginWindows; try dsimp only
  repeat' (with_reducible first | exact hK | intro _ | assumption | apply Kept.ite | apply forEach_kept | apply beginWindow_kept | apply forEach_kept | split)

theorem passRefresh_kept (s : State) (pc sid bank sag g d step : Nat) [Can W .pchs] [Can W .obs] (hK : Kept P W Z s) : Kept P W Z (passRefresh s pc sid bank sag g d step) := by
  unfold passRefresh; try dsimp only
  repeat' (with_reducible first | exact hK | intro _ | assumption | apply Kept.ite | apply modPch_kept | apply obsEvent_kept | split)

theorem passEarly_kept (s : State) (sl n : Nat) (catchup : Bool) [Can W .pchs] [Can W .obs] (hK : Kept P W Z s) : Kept P W Z (passEarly s sl n catchup) := by
  unfold passEarly; try dsimp only
  repeat' (with_reducible first | exact hK | intro _ | assumption | apply Kept.ite | apply forEach_kept | apply passRefresh_kept | apply forEach_kept | split)

theorem beginPass_kept (s : State) (sl n : Nat) (catchup afterCatch : Bool) [Can W .regs] [Can W .pchs] [Can W .stack] (hK : Kept P W Z s) : Kept P W Z (beginPass s sl n catchup afterCatch) := by
  unfold beginPass; try dsimp only
  repeat' (with_reducible first | exact hK | intro _ | assumption | apply Kept.ite | apply put_kept | apply forEach_kept | apply bumpi_kept | apply beginWindows_kept | apply forEach_kept | split)

theorem unparkIdle_kept (s : State) (sl : Nat) [Can W .regs] [Can W .mram] [Can W .links] [Can W .pchs] [Can W .array] [Can W .stack] [Can W .side] [Can W .ev] [Can W .obs] [Can W .out] [Can W .free] (hK : Kept P W Z s) : Kept P W Z (unparkIdle s sl) := by
  unfold unparkIdle; try dsimp only
  repeat' (with_reducible first | exact hK | intro _ | assumption | apply forEach_kept | apply unpark_kept | apply forEach_kept)

theorem doRefreshStepStart_kept (slice : Nat) (s : State) [Can W .regs] [Can W .mram] [Can W .links] [Can W .pchs] [Can W .array] [Can W .stack] [Can W .side] [Can W .ev] [Can W .obs] [Can W .out] [Can W .free] (hK : Kept P W Z s) : Kept P W Z (doRefreshStepStart slice s) := by
  unfold doRefreshStepStart; try dsimp only
  repeat' (with_reducible first | exact hK | apply Kept.ite | apply beginPass_kept | apply unparkIdle_kept | apply setPlan_kept | apply passEarly_kept | apply put_kept | split)

theorem doRefreshRelease_kept (pc sid bank sag : Nat) (s : State) [Can W .pchs] [Can W .obs] (hK : Kept P W Z s) : Kept P W Z (doRefreshRelease pc sid bank sag s) := by
  unfold doRefreshRelease; try dsimp only
  repeat' (with_reducible first | exact hK | intro _ | assumption | apply Kept.ite | apply passRefresh_kept | refine Kept.snd (by assumption) ?_ | split)

theorem noteUrgent_kept (s : State) (pc : Nat) [Can W .regs] [Can W .obs] (hK : Kept P W Z s) : Kept P W Z (noteUrgent s pc) := by
  unfold noteUrgent; try dsimp only
  repeat' (with_reducible first | exact hK | apply obsEvent_kept | apply bumpi_kept)

theorem doRefreshUrgent_kept (pc sid bank sag : Nat) (s : State) [Can W .regs] [Can W .pchs] [Can W .obs] (hK : Kept P W Z s) : Kept P W Z (doRefreshUrgent pc sid bank sag s) := by
  unfold doRefreshUrgent; try dsimp only
  repeat' (with_reducible first | exact hK | intro _ | assumption | apply Kept.ite | apply noteUrgent_kept | apply modPch_kept | split)

theorem refreshIssued_kept (s : State) (pc : Nat) (r : Refresh) [Can W .regs] [Can W .links] [Can W .side] [Can W .ev] [Can W .obs] [Can W .out] (hK : Kept P W Z s) : Kept P W Z (refreshIssued s pc r) := by
  unfold refreshIssued; try dsimp only
  repeat' (with_reducible first | exact hK | apply Kept.ite | apply bumpi_kept | apply raiseEv_kept | apply obsEvent_kept | split)

theorem doRefpb_kept (pc sid bank sag group nck : Nat) (flips : Flips) (s : State) [Can W .regs] [Can W .links] [Can W .pchs] [Can W .chans] [Can W .slices] [Can W .side] [Can W .ev] [Can W .obs] [Can W .out] (hK : Kept P W Z s) : Kept P W Z (doRefpb pc sid bank sag group nck flips s) := by
  unfold doRefpb; try dsimp only
  repeat' (with_reducible first | exact hK | intro _ | assumption | apply Kept.ite | apply issueEng_kept | apply bumpWrap_kept | apply modPch_kept | apply refreshIssued_kept | split)

theorem reftAbandons_kept (s : State) (pc sid bank row : Nat) [Can W .regs] [Can W .mram] [Can W .links] [Can W .pchs] [Can W .array] [Can W .stack] [Can W .side] [Can W .ev] [Can W .obs] [Can W .out] [Can W .free] (hK : Kept P W Z s) : Kept P W Z (reftAbandons s pc sid bank row) := by
  unfold reftAbandons; try dsimp only
  repeat' (with_reducible first | exact hK | intro _ | assumption | apply Kept.ite | apply forEach_kept | apply abandonPark_kept | apply forEach_kept | split)

theorem doReft_kept (pc sid bank sag nck : Nat) (flips : Flips) (s : State) [Can W .regs] [Can W .mram] [Can W .links] [Can W .pchs] [Can W .chans] [Can W .slices] [Can W .array] [Can W .stack] [Can W .side] [Can W .ev] [Can W .obs] [Can W .out] [Can W .free] (hK : Kept P W Z s) : Kept P W Z (doReft pc sid bank sag nck flips s) := by
  unfold doReft; try dsimp only
  repeat' (with_reducible first | exact hK | intro _ | assumption | apply Kept.ite | apply issueEng_kept | apply setSag_kept | apply bumpKey_kept | apply reftAbandons_kept | apply modSlice_kept | split)

theorem doRefab_kept (pc sid nck : Nat) (flips : Flips) (s : State) [Can W .regs] [Can W .links] [Can W .pchs] [Can W .chans] [Can W .slices] [Can W .side] [Can W .ev] [Can W .obs] [Can W .out] (hK : Kept P W Z s) : Kept P W Z (doRefab pc sid nck flips s) := by
  unfold doRefab; try dsimp only
  repeat' (with_reducible first | exact hK | intro _ | assumption | apply Kept.ite | apply issueEng_kept | apply bumpWrap_kept | apply modPch_kept | apply modSlice_kept | apply refreshIssued_kept | split)

theorem doSliceTempPoll_kept (slice : Nat) (s : State) [Can W .regs] [Can W .chans] [Can W .slices] [Can W .stack] [Can W .obs] (hK : Kept P W Z s) : Kept P W Z (doSliceTempPoll slice s) := by
  unfold doSliceTempPoll; try dsimp only
  repeat' (with_reducible first | exact hK | intro _ | assumption | apply Kept.ite | apply planAll_kept | apply modStack_kept | split)

theorem dropClasses_kept (s : State) (sel : Nat → Bool) [Can W .regs] [Can W .links] [Can W .pchs] [Can W .side] [Can W .ev] [Can W .obs] [Can W .out] (hK : Kept P W Z s) : Kept P W Z (dropClasses s sel) := by
  unfold dropClasses; try dsimp only
  repeat' (with_reducible first | exact hK | intro _ | assumption | apply Kept.ite | apply abandonTests_kept | (refine Kept.set_pchs (Kept.eta ?_); first | exact hK | apply abandonTests_kept) | split)

theorem dropAllClasses_kept (s : State) [Can W .regs] [Can W .links] [Can W .pchs] [Can W .side] [Can W .ev] [Can W .obs] [Can W .out] (hK : Kept P W Z s) : Kept P W Z (dropAllClasses s) := by
  unfold dropAllClasses; try dsimp only
  repeat' (with_reducible first | exact hK | intro _ | assumption | apply dropClasses_kept)

theorem leaveBand_kept (s : State) (cause : Nat) [Can W .regs] [Can W .links] [Can W .pchs] [Can W .stack] [Can W .side] [Can W .ev] [Can W .obs] [Can W .out] (hK : Kept P W Z s) : Kept P W Z (leaveBand s cause) := by
  unfold leaveBand; try dsimp only
  repeat' (with_reducible first | exact hK | intro _ | assumption | apply dropAllClasses_kept | apply logClass_kept | apply wri_kept | apply raiseEv_kept | apply wr_kept)

theorem settleBand_kept (s : State) [Can W .regs] [Can W .links] [Can W .pchs] [Can W .stack] [Can W .side] [Can W .ev] [Can W .obs] [Can W .out] (hK : Kept P W Z s) : Kept P W Z (settleBand s) := by
  unfold settleBand; try dsimp only
  repeat' (with_reducible first | exact hK | apply Kept.ite | apply leaveBand_kept | split)

theorem noteBand_kept (s : State) [Can W .stack] (hK : Kept P W Z s) : Kept P W Z (noteBand s) := by
  unfold noteBand; try dsimp only
  repeat' (with_reducible first | exact hK | intro _ | assumption | apply Kept.ite | apply modStack_kept | split)

theorem doQualBandSettle_kept (s : State) [Can W .regs] (hK : Kept P W Z s) : Kept P W Z (doQualBandSettle s) := by
  unfold doQualBandSettle; try dsimp only
  repeat' (with_reducible first | exact hK | apply Kept.ite | apply wr_kept | split)

theorem takeLimits_kept (s : State) [Can W .stack] (hK : Kept P W Z s) : Kept P W Z (takeLimits s) := by
  unfold takeLimits; try dsimp only
  repeat' (with_reducible first | exact hK | intro _ | assumption | apply modStack_kept)

theorem markWarm_kept (s : State) (c : Nat) [Can W .stack] (hK : Kept P W Z s) : Kept P W Z (markWarm s c) := by
  unfold markWarm; try dsimp only
  repeat' (with_reducible first | exact hK | intro _ | assumption | apply modStack_kept)

theorem settleTheta_kept (s : State) (c : Nat) [Can W .regs] [Can W .links] [Can W .stack] [Can W .side] [Can W .ev] [Can W .obs] [Can W .out] (hK : Kept P W Z s) : Kept P W Z (settleTheta s c) := by
  unfold settleTheta; try dsimp only
  repeat' (with_reducible first | exact hK | intro _ | assumption | apply Kept.ite | apply wrS_kept | apply wri_kept | apply noteAllowance_kept | apply markWarm_kept | apply raiseEv_kept | split)

theorem doAllowanceRise_kept (channel : Nat) (s : State) [Can W .regs] [Can W .links] [Can W .stack] [Can W .side] [Can W .ev] [Can W .obs] [Can W .out] (hK : Kept P W Z s) : Kept P W Z (doAllowanceRise channel s) := by
  unfold doAllowanceRise; try dsimp only
  repeat' (with_reducible first | exact hK | intro _ | assumption | apply Kept.ite | apply markWarm_kept | apply wri_kept | apply noteAllowance_kept | apply raiseEv_kept | split)

theorem stopBackground_kept (s : State) (sel : Nat → Bool) [Can W .regs] [Can W .mram] [Can W .links] [Can W .pchs] [Can W .array] [Can W .stack] [Can W .side] [Can W .ev] [Can W .obs] [Can W .out] [Can W .free] (hK : Kept P W Z s) : Kept P W Z (stopBackground s sel) := by
  unfold stopBackground; try dsimp only
  repeat' (with_reducible first | exact hK | intro _ | assumption | apply abandonTests_kept | apply forEach_kept | apply abandonPark_kept | apply forEach_kept)

theorem beginTrip_kept (s : State) [Can W .regs] [Can W .mram] [Can W .pins] [Can W .start] [Can W .links] [Can W .tree] [Can W .pchs] [Can W .array] [Can W .stack] [Can W .sleep] [Can W .side] [Can W .ev] [Can W .obs] [Can W .out] [Can W .free] (hK : Kept P W Z s) : Kept P W Z (beginTrip s) := by
  unfold beginTrip; try dsimp only
  repeat' (with_reducible first | exact hK | intro _ | assumption | apply Kept.ite | apply alarmPin_kept | apply modStack_kept | apply forEach_kept | apply noteAllowance_kept | apply wr_kept | apply bump_kept | apply raiseEv_kept | apply modTree_kept | apply abortEntry_kept | apply stopBackground_kept | apply orderFlush_kept | apply forEach_kept | (refine Kept.set_start (Kept.eta ?_); first | exact hK | apply alarmPin_kept | apply modStack_kept | apply forEach_kept | apply noteAllowance_kept | apply wr_kept | apply bump_kept | apply raiseEv_kept | apply modTree_kept | apply abortEntry_kept | apply stopBackground_kept | apply orderFlush_kept | apply forEach_kept) | split)

theorem doThermalTripEnd_kept (s : State) [Can W .regs] [Can W .pins] [Can W .start] [Can W .links] [Can W .tree] [Can W .chans] [Can W .stack] [Can W .side] [Can W .ev] [Can W .obs] [Can W .out] (hK : Kept P W Z s) : Kept P W Z (doThermalTripEnd s) := by
  unfold doThermalTripEnd; try dsimp only
  repeat' (with_reducible first | exact hK | intro _ | assumption | apply Kept.ite | apply forEach_kept | apply noteAllowance_kept | apply alarmPin_kept | apply modStack_kept | apply wr_kept | apply restartClocks_kept | apply modTree_kept | apply raiseEv_kept | apply forEach_kept | (refine Kept.set_start (Kept.eta ?_); first | exact hK | apply forEach_kept | apply noteAllowance_kept | apply alarmPin_kept | apply modStack_kept | apply wr_kept | apply restartClocks_kept | apply modTree_kept | apply raiseEv_kept | apply forEach_kept) | split)

theorem settleHeat_kept (s : State) (chs : List Nat) [Can W .regs] [Can W .links] [Can W .pchs] [Can W .stack] [Can W .side] [Can W .ev] [Can W .obs] [Can W .out] (hK : Kept P W Z s) : Kept P W Z (settleHeat s chs) := by
  unfold settleHeat; try dsimp only
  repeat' (with_reducible first | exact hK | intro _ | assumption | exact id | decide | apply Kept.ite | apply Kept.ite2 | apply Kept.ite3 | apply forEach_kept | apply settleTheta_kept | apply wr_kept | apply wrS_kept | apply modStack_kept | apply settleBand_kept | apply noteBand_kept | apply forEach_kept | refine Kept.snd (by assumption) ?_ | refine Kept.snd3 (by assumption) ?_ | split)

theorem noteReading_kept (s : State) (k : Nat) (v : Int) (valid : Bool) [Can W .stack] [Can W .obs] (hK : Kept P W Z s) : Kept P W Z (noteReading s k v valid) := by
  unfold noteReading; try dsimp only
  repeat' (with_reducible first | exact hK | intro _ | assumption | apply Kept.ite | apply modStack_kept | apply obsEvent_kept | apply takeLimits_kept | split)

theorem reportReading_kept (s : State) (k : Nat) (e : Option Nat) [Can W .regs] [Can W .links] [Can W .side] [Can W .ev] [Can W .obs] [Can W .out] (hK : Kept P W Z s) : Kept P W Z (reportReading s k e) := by
  cases e
  · exact hK
  · exact raiseEv_kept _ _ _ _ _ (bump_kept _ _ hK)

theorem hastenSlice_kept (s : State) (sl : Nat) [Can W .regs] [Can W .pchs] [Can W .obs] (hK : Kept P W Z s) : Kept P W Z (hastenSlice s sl) := by
  unfold hastenSlice; try dsimp only
  repeat' (with_reducible first | exact hK | intro _ | assumption | apply Kept.ite | apply forEach_kept | apply modPch_kept | apply obsEvent_kept | apply bumpTo_kept | apply forEach_kept | split)

theorem retime_kept (s : State) (sl code : Nat) [Can W .pchs] (hK : Kept P W Z s) : Kept P W Z (retime s sl code) := by
  unfold retime; try dsimp only
  repeat' (with_reducible first | exact hK | intro _ | assumption | apply Kept.ite | apply forEach_kept | apply modPch_kept | apply forEach_kept | split)

theorem setScale_kept (s : State) (sl code : Nat) [Can W .regs] [Can W .links] [Can W .pchs] [Can W .stack] [Can W .side] [Can W .ev] [Can W .obs] [Can W .out] (hK : Kept P W Z s) : Kept P W Z (setScale s sl code) := by
  unfold setScale; try dsimp only
  repeat' (with_reducible first | exact hK | intro _ | assumption | apply Kept.ite | apply retime_kept | apply put_kept | apply setPlan_kept | apply modStack_kept | apply raiseEv_kept | apply hastenSlice_kept | split)

theorem settleScale_kept (s : State) (sl : Nat) [Can W .regs] [Can W .links] [Can W .pchs] [Can W .stack] [Can W .side] [Can W .ev] [Can W .obs] [Can W .out] (hK : Kept P W Z s) : Kept P W Z (settleScale s sl) := by
  unfold settleScale; try dsimp only
  repeat' (with_reducible first | exact hK | apply Kept.ite | apply setScale_kept | split)

theorem markHot_kept (s : State) (sl : Nat) [Can W .stack] (hK : Kept P W Z s) : Kept P W Z (markHot s sl) := by
  unfold markHot; try dsimp only
  repeat' (with_reducible first | exact hK | intro _ | assumption | apply Kept.ite | apply modStack_kept | split)

theorem doScaleFall_kept (slice : Nat) (s : State) [Can W .regs] [Can W .links] [Can W .pchs] [Can W .stack] [Can W .side] [Can W .ev] [Can W .obs] [Can W .out] (hK : Kept P W Z s) : Kept P W Z (doScaleFall slice s) := by
  unfold doScaleFall; try dsimp only
  repeat' (with_reducible first | exact hK | apply Kept.ite | apply setScale_kept | split)

theorem takeSlice_kept (s : State) (sl : Nat) (v : Int) (valid : Bool) [Can W .regs] [Can W .links] [Can W .pchs] [Can W .stack] [Can W .side] [Can W .ev] [Can W .obs] [Can W .out] (hK : Kept P W Z s) : Kept P W Z (takeSlice s sl v valid) := by
  unfold takeSlice; try dsimp only
  repeat' (with_reducible first | exact hK | apply noteReading_kept | apply reportReading_kept | apply settleHeat_kept | apply markHot_kept | apply settleScale_kept | apply put_kept)

theorem doSliceTempReading_kept (slice : Nat) (value : Int) (valid : Bool) (s : State) [Can W .regs] [Can W .mram] [Can W .pins] [Can W .start] [Can W .links] [Can W .tree] [Can W .pchs] [Can W .array] [Can W .stack] [Can W .sleep] [Can W .side] [Can W .ev] [Can W .obs] [Can W .out] [Can W .free] (hK : Kept P W Z s) : Kept P W Z (doSliceTempReading slice value valid s) := by
  unfold doSliceTempReading; try dsimp only
  repeat' (with_reducible first | exact hK | apply Kept.ite | apply takeSlice_kept | apply beginTrip_kept | split)

theorem doBlockSensorRead_kept (values : List (Int × Bool)) (s : State) [Can W .regs] [Can W .mram] [Can W .pins] [Can W .start] [Can W .links] [Can W .tree] [Can W .pchs] [Can W .array] [Can W .stack] [Can W .sleep] [Can W .side] [Can W .ev] [Can W .obs] [Can W .out] [Can W .free] (hK : Kept P W Z s) : Kept P W Z (doBlockSensorRead values s) := by
  unfold doBlockSensorRead; try dsimp only
  repeat' (with_reducible first | exact hK | intro _ | assumption | apply Kept.ite | apply beginTrip_kept | apply forEach_kept | apply wrS_kept | apply noteReading_kept | apply settleHeat_kept | apply reportReading_kept | apply forEach_kept | split)

theorem doDieCattripRise_kept (die edges : Nat) (s : State) [Can W .regs] [Can W .mram] [Can W .pins] [Can W .start] [Can W .links] [Can W .tree] [Can W .pchs] [Can W .array] [Can W .stack] [Can W .sleep] [Can W .side] [Can W .ev] [Can W .obs] [Can W .out] [Can W .free] (hK : Kept P W Z s) : Kept P W Z (doDieCattripRise die edges s) := by
  unfold doDieCattripRise; try dsimp only
  repeat' (with_reducible first | exact hK | intro _ | assumption | apply Kept.ite | apply alarmPin_kept | apply sampleEdges_kept | apply disturb_kept | apply modStack_kept | apply beginTrip_kept | apply raiseEv_kept | (refine Kept.set_pins (Kept.eta ?_); first | exact hK | apply alarmPin_kept | apply sampleEdges_kept | apply disturb_kept | apply modStack_kept | apply beginTrip_kept | apply raiseEv_kept) | split)

theorem doDieCattripFall_kept (die : Nat) (s : State) [Can W .regs] [Can W .pins] [Can W .stack] (hK : Kept P W Z s) : Kept P W Z (doDieCattripFall die s) := by
  unfold doDieCattripFall; try dsimp only
  repeat' (with_reducible first | exact hK | intro _ | assumption | apply Kept.ite | apply modStack_kept | apply alarmPin_kept | apply wri_kept | (refine Kept.set_pins (Kept.eta ?_); first | exact hK | apply modStack_kept | apply alarmPin_kept | apply wri_kept) | split)

theorem beginTest_kept (s : State) (pc sid bank t : Nat) (retest : Bool) (rows spare : List Nat) [Can W .pchs] [Can W .obs] (hK : Kept P W Z s) : Kept P W Z (beginTest s pc sid bank t retest rows spare) := by
  unfold beginTest; try dsimp only
  repeat' (with_reducible first | exact hK | intro _ | assumption | apply setClass_kept | apply obsEvent_kept | apply modPch_kept)

theorem doQualTestStart_kept (pc sid bank : Nat) (rows : List Nat) (s : State) [Can W .pchs] [Can W .obs] (hK : Kept P W Z s) : Kept P W Z (doQualTestStart pc sid bank rows s) := by
  unfold doQualTestStart; try dsimp only
  repeat' (with_reducible first | exact hK | apply Kept.ite | apply beginTest_kept | split)

theorem doQualTestDone_kept (pc sid bank : Nat) (s : State) [Can W .regs] [Can W .links] [Can W .pchs] [Can W .side] [Can W .ev] [Can W .obs] [Can W .out] (hK : Kept P W Z s) : Kept P W Z (doQualTestDone pc sid bank s) := by
  unfold doQualTestDone; try dsimp only
  repeat' (with_reducible first | exact hK | intro _ | assumption | apply Kept.ite | apply modPch_kept | apply bump_kept | apply setClass_kept | apply raiseEng_kept | split)

theorem actQualEnable_kept (x v : Nat) (s : State) [Can W .regs] [Can W .links] [Can W .pchs] [Can W .side] [Can W .ev] [Can W .obs] [Can W .out] (hK : Kept P W Z s) : Kept P W Z (actQualEnable x v s).2 := by
  unfold actQualEnable
  dsimp only
  split
  · exact dropAllClasses_kept _ (wr_kept _ _ _ hK)
  · exact wr_kept _ _ _ hK

theorem doEngQualEnable_kept (a : Access) (s : State) [Can W .regs] [Can W .links] [Can W .pchs] [Can W .side] [Can W .ev] [Can W .obs] [Can W .out] (hK : Kept P W Z s) : Kept P W Z (doEngQualEnable a s) := by
  unfold doEngQualEnable; try dsimp only
  repeat' (with_reducible first | exact hK | intro _ | assumption | exact id | decide | apply Kept.ite | apply Kept.ite2 | apply Kept.ite3 | apply accessWrite_kept | apply actQualEnable_kept | refine Kept.snd (by assumption) ?_ | refine Kept.snd3 (by assumption) ?_ | split)

theorem actClassCap_kept (channel bank : Nat) (x1_ v : Nat) (s : State) [Can W .regs] [Can W .links] [Can W .pchs] [Can W .side] [Can W .ev] [Can W .obs] [Can W .out] (hK : Kept P W Z s) : Kept P W Z (actClassCap channel bank x1_ v s).2 := by
  unfold actClassCap; try dsimp only
  repeat' (with_reducible first | exact hK | apply Kept.ite | apply Kept.ite2 | apply put_kept | apply abandonTest_kept | apply setClass_kept | split)

theorem doEngBankClassCap_kept (a : Access) (channel bank : Nat) (s : State) [Can W .regs] [Can W .links] [Can W .pchs] [Can W .side] [Can W .ev] [Can W .obs] [Can W .out] (hK : Kept P W Z s) : Kept P W Z (doEngBankClassCap a channel bank s) := by
  unfold doEngBankClassCap; try dsimp only
  repeat' (with_reducible first | exact hK | intro _ | assumption | exact id | decide | apply Kept.ite | apply Kept.ite2 | apply Kept.ite3 | apply accessWrite_kept | apply actClassCap_kept | refine Kept.snd (by assumption) ?_ | refine Kept.snd3 (by assumption) ?_ | split)

theorem saveBins_kept (s : State) [Can W .mram] (hK : Kept P W Z s) : Kept P W Z (saveBins s) := by
  unfold saveBins; try dsimp only
  repeat' (with_reducible first | exact hK | apply Kept.ite | (refine Kept.set_mram (Kept.eta ?_); first | exact hK) | split)

theorem doBinTableSave_kept (s : State) [Can W .mram] (hK : Kept P W Z s) : Kept P W Z (doBinTableSave s) := by
  unfold doBinTableSave; try dsimp only
  repeat' (with_reducible first | exact hK | apply Kept.ite | apply saveBins_kept | split)

theorem actBinReset_kept (x1_ x2_ : Nat) (s : State) [Can W .mram] [Can W .stack] (hK : Kept P W Z s) : Kept P W Z (actBinReset x1_ x2_ s).2 := by
  unfold actBinReset; try dsimp only
  repeat' (with_reducible first | exact hK | intro _ | assumption | apply forEach_kept | apply setBin_kept | apply forEach_kept)

theorem doRfhBinReset_kept (a : Access) (s : State) [Can W .regs] [Can W .mram] [Can W .links] [Can W .stack] [Can W .side] [Can W .obs] [Can W .out] (hK : Kept P W Z s) : Kept P W Z (doRfhBinReset a s) := by
  unfold doRfhBinReset; try dsimp only
  repeat' (with_reducible first | exact hK | intro _ | assumption | exact id | decide | apply Kept.ite | apply Kept.ite2 | apply Kept.ite3 | apply accessWrite_kept | apply actBinReset_kept | refine Kept.snd (by assumption) ?_ | refine Kept.snd3 (by assumption) ?_ | split)

theorem actBinMax_kept (x1_ v : Nat) (s : State) [Can W .regs] [Can W .mram] [Can W .stack] (hK : Kept P W Z s) : Kept P W Z (actBinMax x1_ v s).2 := by
  unfold actBinMax; try dsimp only
  repeat' (with_reducible first | exact hK | intro _ | assumption | apply forEach_kept | apply wr_kept | apply setBin_kept | apply bumpTo_kept | apply forEach_kept)

theorem doRfhBinMax_kept (a : Access) (s : State) [Can W .regs] [Can W .mram] [Can W .links] [Can W .stack] [Can W .side] [Can W .obs] [Can W .out] (hK : Kept P W Z s) : Kept P W Z (doRfhBinMax a s) := by
  unfold doRfhBinMax; try dsimp only
  repeat' (with_reducible first | exact hK | intro _ | assumption | exact id | decide | apply Kept.ite | apply Kept.ite2 | apply Kept.ite3 | apply accessWrite_kept | apply actBinMax_kept | refine Kept.snd (by assumption) ?_ | refine Kept.snd3 (by assumption) ?_ | split)

theorem actProfEnable_kept (x1_ v : Nat) (s : State) [Can W .regs] [Can W .mram] [Can W .links] [Can W .pchs] [Can W .array] [Can W .stack] [Can W .side] [Can W .ev] [Can W .obs] [Can W .out] [Can W .free] (hK : Kept P W Z s) : Kept P W Z (actProfEnable x1_ v s).2 := by
  unfold actProfEnable; try dsimp only
  repeat' (with_reducible first | exact hK | intro _ | assumption | apply Kept.ite | apply Kept.ite2 | apply wr_kept | apply forEach_kept | apply abandonPark_kept | apply forEach_kept | split)

theorem doRfhProfEnable_kept (a : Access) (s : State) [Can W .regs] [Can W .mram] [Can W .links] [Can W .pchs] [Can W .array] [Can W .stack] [Can W .side] [Can W .ev] [Can W .obs] [Can W .out] [Can W .free] (hK : Kept P W Z s) : Kept P W Z (doRfhProfEnable a s) := by
  unfold doRfhProfEnable; try dsimp only
  repeat' (with_reducible first | exact hK | intro _ | assumption | exact id | decide | apply Kept.ite | apply Kept.ite2 | apply Kept.ite3 | apply accessWrite_kept | apply actProfEnable_kept | refine Kept.snd (by assumption) ?_ | refine Kept.snd3 (by assumption) ?_ | split)

theorem unparkStray_kept (s : State) (pc : Nat) [Can W .regs] [Can W .mram] [Can W .links] [Can W .pchs] [Can W .array] [Can W .stack] [Can W .side] [Can W .ev] [Can W .obs] [Can W .out] [Can W .free] (hK : Kept P W Z s) : Kept P W Z (unparkStray s pc) := by
  unfold unparkStray; try dsimp only
  repeat' (with_reducible first | exact hK | intro _ | assumption | apply forEach_kept | apply delGraft_kept | apply copyRow_kept | apply settleSpares_kept | apply forEach_kept)

theorem doProfilerWalkStart_kept (pc : Nat) (s : State) [Can W .regs] [Can W .mram] [Can W .links] [Can W .pchs] [Can W .array] [Can W .stack] [Can W .side] [Can W .ev] [Can W .obs] [Can W .out] [Can W .free] (hK : Kept P W Z s) : Kept P W Z (doProfilerWalkStart pc s) := by
  unfold doProfilerWalkStart; try dsimp only
  repeat' (with_reducible first | exact hK | intro _ | assumption | apply Kept.ite | apply modStack_kept | apply unparkStray_kept | split)

theorem settleWalk_kept (s : State) (pc : Nat) [Can W .regs] [Can W .stack] (hK : Kept P W Z s) : Kept P W Z (settleWalk s pc) := by
  unfold settleWalk; try dsimp only
  repeat' (with_reducible first | exact hK | intro _ | assumption | apply Kept.ite | apply bump_kept | apply modStack_kept | split)

theorem beginPassTest_kept (s : State) (k : Nat) (p : Park) [Can W .array] [Can W .stack] [Can W .obs] (hK : Kept P W Z s) : Kept P W Z (beginPassTest s k p) := by
  unfold beginPassTest; try dsimp only
  repeat' (with_reducible first | exact hK | intro _ | assumption | apply modStack_kept | apply forEach_kept | apply writeRaw_kept | apply obsEvent_kept | apply forEach_kept)

theorem dropRefresh_kept (s : State) (pc group : Nat) [Can W .pchs] (hK : Kept P W Z s) : Kept P W Z (dropRefresh s pc group) := by
  unfold dropRefresh; try dsimp only
  repeat' (with_reducible first | exact hK | intro _ | assumption | apply modPch_kept)

theorem doGroupPark_kept (pc group : Nat) (s : State) [Can W .regs] [Can W .mram] [Can W .links] [Can W .pchs] [Can W .array] [Can W .stack] [Can W .side] [Can W .ev] [Can W .obs] [Can W .out] [Can W .free] (hK : Kept P W Z s) : Kept P W Z (doGroupPark pc group s) := by
  unfold doGroupPark
  have h1 := fun f => modStack_kept s f hK
  refine Kept.ite hK (Kept.ite (settleWalk_kept _ _ (h1 _)) ?_)
  split
  · refine settleSpares_kept _ _ (wr_kept _ _ _ (beginPassTest_kept _ _ _ (forEach_kept _ _ _ ?_ (dropRefresh_kept _ _ _ (h1 _)))))
    intro s i h
    exact setGraft_kept _ _ _ _ _ _ (copyRow_kept _ _ _ _ _ h)
  · exact hK

theorem doRetentionHoldEnd_kept (pc group : Nat) (differs : Bool) (s : State) [Can W .stack] (hK : Kept P W Z s) : Kept P W Z (doRetentionHoldEnd pc group differs s) := by
  unfold doRetentionHoldEnd; try dsimp only
  repeat' (with_reducible first | exact hK | intro _ | assumption | apply Kept.ite | apply modStack_kept | split)

theorem endTest_kept (s : State) (k : Nat) [Can W .regs] [Can W .mram] [Can W .links] [Can W .pchs] [Can W .array] [Can W .stack] [Can W .side] [Can W .ev] [Can W .obs] [Can W .out] [Can W .free] (hK : Kept P W Z s) : Kept P W Z (endTest s k) := by
  unfold endTest; try dsimp only
  repeat' (with_reducible first | exact hK | apply settleWalk_kept | apply unpark_kept)

theorem reportWeak_kept (s : State) (k : Nat) [Can W .regs] [Can W .mram] [Can W .links] [Can W .side] [Can W .ev] [Can W .obs] [Can W .out] (hK : Kept P W Z s) : Kept P W Z (reportWeak s k) := by
  unfold reportWeak; try dsimp only
  repeat' (with_reducible first | exact hK | apply raiseEv_kept | apply bump_kept | apply writeRecord_kept)

theorem doRetentionTestResult_kept (pc group : Nat) (s : State) [Can W .regs] [Can W .mram] [Can W .links] [Can W .pchs] [Can W .array] [Can W .stack] [Can W .side] [Can W .ev] [Can W .obs] [Can W .out] [Can W .free] (hK : Kept P W Z s) : Kept P W Z (doRetentionTestResult pc group s) := by
  unfold doRetentionTestResult; try dsimp only
  repeat' (with_reducible first | exact hK | intro _ | assumption | apply Kept.ite | apply beginPassTest_kept | apply bump_kept | apply endTest_kept | apply setBin_kept | apply unpark_kept | apply modStack_kept | apply reportWeak_kept | split)

theorem closeAll_kept (s : State) (pc sid : Nat) [Can W .pchs] (hK : Kept P W Z s) : Kept P W Z (closeAll s pc sid) := by
  unfold closeAll; try dsimp only
  repeat' (with_reducible first | exact hK | intro _ | assumption | apply Kept.ite | apply modPch_kept | split)

theorem doPrea_kept (pc sid nck : Nat) (flips : Flips) (s : State) [Can W .regs] [Can W .pchs] [Can W .chans] [Can W .slices] [Can W .obs] (hK : Kept P W Z s) : Kept P W Z (doPrea pc sid nck flips s) := by
  unfold doPrea; try dsimp only
  repeat' (with_reducible first | exact hK | intro _ | assumption | apply Kept.ite | apply issueSeq_kept | apply closeAll_kept | split)

theorem doMrw_kept (channel sid ma data nck : Nat) (flips : Flips) (s : State) [Can W .regs] [Can W .chans] [Can W .slices] [Can W .obs] (hK : Kept P W Z s) : Kept P W Z (doMrw channel sid ma data nck flips s) := by
  unfold doMrw; try dsimp only
  repeat' (with_reducible first | exact hK | intro _ | assumption | apply Kept.ite | apply issueSeq_kept | apply writeMr_kept | split)

theorem issueMrr_kept (s : State) (c sid ma nck : Nat) (flips : Flips) [Can W .chans] [Can W .slices] [Can W .obs] (hK : Kept P W Z s) : Kept P W Z (issueMrr s c sid ma nck flips) := by
  unfold issueMrr; try dsimp only
  repeat' (with_reducible first | exact hK | intro _ | assumption | apply Kept.ite | apply modChan_kept | apply obsEvent_kept | apply record_kept | split)

theorem doMrr_kept (channel sid ma nck : Nat) (flips : Flips) (s : State) [Can W .chans] [Can W .slices] [Can W .obs] (hK : Kept P W Z s) : Kept P W Z (doMrr channel sid ma nck flips s) := by
  unfold doMrr; try dsimp only
  repeat' (with_reducible first | exact hK | apply Kept.ite | apply issueMrr_kept | split)

theorem takePoll_kept (s : State) (c : Nat) (r : MrRead) (v : Nat) [Can W .regs] [Can W .links] [Can W .chans] [Can W .side] [Can W .ev] [Can W .obs] [Can W .out] (hK : Kept P W Z s) : Kept P W Z (takePoll s c r v) := by
  unfold takePoll; try dsimp only
  repeat' (with_reducible first | exact hK | intro _ | assumption | apply Kept.ite | apply raiseEv_kept | apply prove_kept | apply modChan_kept | split)

theorem doMrrResult_kept (channel sid ma own : Nat) (err : BitVec 576) (s : State) [Can W .regs] [Can W .links] [Can W .chans] [Can W .side] [Can W .ev] [Can W .obs] [Can W .out] [Can W .free] (hK : Kept P W Z s) : Kept P W Z (doMrrResult channel sid ma own err s) := by
  unfold doMrrResult; try dsimp only
  repeat' (with_reducible first | exact hK | intro _ | assumption | apply Kept.ite | apply modChan_kept | apply takePoll_kept | (refine Kept.set_free (Kept.eta ?_); first | exact hK | apply modChan_kept | apply takePoll_kept) | split)

theorem doStatusPoll_kept (channel sid nck : Nat) (flips : Flips) (s : State) [Can W .chans] [Can W .slices] [Can W .obs] (hK : Kept P W Z s) : Kept P W Z (doStatusPoll channel sid nck flips s) := by
  unfold doStatusPoll; try dsimp only
  repeat' (with_reducible first | exact hK | apply Kept.ite | apply issueMrr_kept | split)

theorem planHold_kept (s : State) (c : Nat) [Can W .pchs] [Can W .chans] (hK : Kept P W Z s) : Kept P W Z (planHold s c) := by
  unfold planHold; try dsimp only
  repeat' (with_reducible first | exact hK | intro _ | assumption | apply Kept.ite | apply forEach_kept | apply modPch_kept | apply modChan_kept | apply forEach_kept | split)

theorem noteRecovery_kept (s : State) (c : Nat) [Can W .regs] [Can W .links] [Can W .pchs] [Can W .chans] [Can W .side] [Can W .ev] [Can W .obs] [Can W .out] (hK : Kept P W Z s) : Kept P W Z (noteRecovery s c) := by
  unfold noteRecovery; try dsimp only
  repeat' (with_reducible first | exact hK | intro _ | assumption | apply Kept.ite | apply bumpKey_kept | apply modChan_kept | apply raiseEv_kept | apply obsEvent_kept | apply planHold_kept | split)

theorem poisonIgnored_kept (s : State) (c : Nat) (x : Issued) [Can W .regs] [Can W .links] [Can W .pchs] [Can W .side] [Can W .ev] [Can W .obs] [Can W .out] (hK : Kept P W Z s) : Kept P W Z (poisonIgnored s c x) := by
  unfold poisonIgnored; try dsimp only
  repeat' (with_reducible first | exact hK | intro _ | assumption | apply bumpKey_kept | apply queueBlockWrite_kept | split)

theorem recoverOne_kept (s : State) (c : Nat) (x : Issued) [Can W .regs] [Can W .links] [Can W .pchs] [Can W .chans] [Can W .slices] [Can W .side] [Can W .ev] [Can W .obs] [Can W .out] (hK : Kept P W Z s) : Kept P W Z (recoverOne s c x) := by
  unfold recoverOne; try dsimp only
  repeat' (with_reducible first | exact hK | intro _ | assumption | apply Kept.ite | apply bumpKey_kept | apply poisonIgnored_kept | apply modPch_kept | apply setSag_kept | apply planAll_kept | split)

theorem abandonRetrain_kept (s : State) (pc : Nat) [Can W .regs] [Can W .pchs] [Can W .chans] [Can W .slices] [Can W .obs] (hK : Kept P W Z s) : Kept P W Z (abandonRetrain s pc) := by
  unfold abandonRetrain; try dsimp only
  repeat' (with_reducible first | exact hK | intro _ | assumption | apply Kept.ite | apply planAll_kept | apply modPch_kept | split)

theorem recoverSlices_kept (s : State) (c : Nat) (sids : List Nat) [Can W .regs] [Can W .links] [Can W .pchs] [Can W .chans] [Can W .slices] [Can W .side] [Can W .ev] [Can W .obs] [Can W .out] (hK : Kept P W Z s) : Kept P W Z (recoverSlices s c sids) := by
  unfold recoverSlices; try dsimp only
  repeat' (with_reducible first | exact hK | intro _ | assumption | apply Kept.ite | apply forEach_kept | apply noteRecovery_kept | apply abandonRetrain_kept | apply planAll_kept | apply raiseEv_kept | apply prove_kept | apply modChan_kept | apply closeAll_kept | apply recoverOne_kept | apply settlePch_kept | apply forEach_kept | refine Kept.snd (by assumption) ?_ | split)

theorem doCommandErrorRecovery_kept (channel : Nat) (s : State) [Can W .regs] [Can W .links] [Can W .pchs] [Can W .chans] [Can W .slices] [Can W .side] [Can W .ev] [Can W .obs] [Can W .out] (hK : Kept P W Z s) : Kept P W Z (doCommandErrorRecovery channel s) := by
  unfold doCommandErrorRecovery; try dsimp only
  repeat' (with_reducible first | exact hK | apply Kept.ite | apply recoverSlices_kept | split)

theorem doSre_kept (channel nck : Nat) (flips : Flips) (s : State) [Can W .regs] [Can W .pchs] [Can W .chans] [Can W .slices] [Can W .stack] [Can W .obs] (hK : Kept P W Z s) : Kept P W Z (doSre channel nck flips s) := by
  unfold doSre; try dsimp only
  repeat' (with_reducible first | exact hK | intro _ | assumption | apply Kept.ite | apply issueSeq_kept | apply modChan_kept | apply forEach_kept | apply setPlan_kept | apply modPch_kept | apply forEach_kept | split)

theorem confirmCounts_kept (s : State) (c start : Nat) [Can W .regs] [Can W .chans] [Can W .slices] [Can W .obs] (hK : Kept P W Z s) : Kept P W Z (confirmCounts s c start).2.2 := by
  unfold confirmCounts; try dsimp only
  repeat' (with_reducible first | exact hK | intro _ | assumption | apply Kept.ite3 | apply planAll_kept | refine Kept.snd (by assumption) ?_)

theorem stopClocks_kept (s : State) (c : Nat) [Can W .chans] [Can W .slices] (hK : Kept P W Z s) : Kept P W Z (stopClocks s c) := by
  unfold stopClocks; try dsimp only
  repeat' (with_reducible first | exact hK | intro _ | assumption | apply modChan_kept | apply forEach_kept | apply modSlice_kept | apply forEach_kept)

theorem doSreConfirmed_kept (channel : Nat) (s : State) [Can W .regs] [Can W .links] [Can W .pchs] [Can W .chans] [Can W .slices] [Can W .side] [Can W .ev] [Can W .obs] [Can W .out] (hK : Kept P W Z s) : Kept P W Z (doSreConfirmed channel s) := by
  unfold doSreConfirmed; try dsimp only
  repeat' (with_reducible first | exact hK | intro _ | assumption | apply Kept.ite | apply confirmCounts_kept | apply stopClocks_kept | apply planAll_kept | apply recoverSlices_kept | apply modChan_kept | refine Kept.snd (by assumption) ?_ | split)

theorem exitConfirmed_kept (s : State) (c nck : Nat) [Can W .regs] [Can W .links] [Can W .pchs] [Can W .chans] [Can W .slices] [Can W .side] [Can W .ev] [Can W .obs] [Can W .out] (hK : Kept P W Z s) : Kept P W Z (exitConfirmed s c nck).2 := by
  unfold exitConfirmed; try dsimp only
  repeat' (with_reducible first | exact hK | apply Kept.ite | apply Kept.ite2 | apply confirmCounts_kept | apply planAll_kept | apply recoverSlices_kept | split)

theorem confirmExit_kept (s : State) (c nck : Nat) [Can W .regs] [Can W .links] [Can W .pchs] [Can W .chans] [Can W .slices] [Can W .side] [Can W .ev] [Can W .obs] [Can W .out] (hK : Kept P W Z s) : Kept P W Z (confirmExit s c nck) := by
  unfold confirmExit; try dsimp only
  repeat' (with_reducible first | exact hK | intro _ | assumption | apply exitConfirmed_kept | apply planAll_kept)

theorem doSrx_kept (channel nck : Nat) (flips : Flips) (s : State) [Can W .regs] [Can W .links] [Can W .pchs] [Can W .chans] [Can W .slices] [Can W .side] [Can W .ev] [Can W .obs] [Can W .out] (hK : Kept P W Z s) : Kept P W Z (doSrx channel nck flips s) := by
  unfold doSrx; try dsimp only
  repeat' (with_reducible first | exact hK | intro _ | assumption | apply Kept.ite | apply obsEvent_kept | apply record_kept | apply modChan_kept | apply forEach_kept | apply modPch_kept | apply confirmExit_kept | apply forEach_kept | split)

theorem doWrFifo_kept (pc sid entry nck : Nat) (data : BitVec 608) (flips : Flips) (s : State) [Can W .regs] [Can W .chans] [Can W .slices] [Can W .obs] (hK : Kept P W Z s) : Kept P W Z (doWrFifo pc sid entry nck data flips s) := by
  unfold doWrFifo; try dsimp only
  repeat' (with_reducible first | exact hK | intro _ | assumption | apply Kept.ite | apply issueSeq_kept | apply modSlice_kept | split)

theorem doRdFifo_kept (pc sid entry nck : Nat) (flips : Flips) (s : State) [Can W .regs] [Can W .chans] [Can W .slices] [Can W .obs] (hK : Kept P W Z s) : Kept P W Z (doRdFifo pc sid entry nck flips s) := by
  unfold doRdFifo; try dsimp only
  repeat' (with_reducible first | exact hK | intro _ | assumption | apply Kept.ite | apply issueSeq_kept | apply proveNow_kept | split)

theorem doRdCal_kept (pc sid pattern nck : Nat) (flips : Flips) (s : State) [Can W .regs] [Can W .chans] [Can W .slices] [Can W .obs] (hK : Kept P W Z s) : Kept P W Z (doRdCal pc sid pattern nck flips s) := by
  unfold doRdCal; try dsimp only
  repeat' (with_reducible first | exact hK | intro _ | assumption | apply Kept.ite | apply issueSeq_kept | apply proveNow_kept | split)

theorem doWckSync_kept (pc sid nck : Nat) (flips : Flips) (s : State) [Can W .regs] [Can W .chans] [Can W .slices] [Can W .obs] (hK : Kept P W Z s) : Kept P W Z (doWckSync pc sid nck flips s) := by
  unfold doWckSync; try dsimp only
  repeat' (with_reducible first | exact hK | intro _ | assumption | apply Kept.ite | apply issueSeq_kept | apply modChan_kept | apply modSlice_kept | split)

theorem loseLine_kept (s : State) (pc key : Nat) [Can W .array] (hK : Kept P W Z s) : Kept P W Z (loseLine s pc key) := by
  unfold loseLine
  refine Kept.set_array (Kept.eta hK) (fun h => ?_)
  simp only [Memory.wf, Bool.and_eq_true, List.all_eq_true, decide_eq_true_iff] at h
  have e : ∀ (ls : Tbl Codeword) (lo : Tbl Bool) k, lineFill { s.array with lines := ls, lost := lo } k = lineFill s.array k := by
    intros; unfold lineFill; rfl
  simp only [Memory.wf, Bool.and_eq_true, List.all_eq_true, decide_eq_true_iff, e]
  exact ⟨tsorted_tdel _ h.1, fun q hq => h.2 q (mem_tdel hq).1⟩

theorem remap_kept (s : State) (c sid nck cmd : Nat) (flips : Flips) (note : Slice → Nat → Slice) [Can W .regs] [Can W .chans] [Can W .slices] [Can W .array] [Can W .obs] (hK : Kept P W Z s) : Kept P W Z (remap s c sid nck cmd flips note) := by
  unfold remap; try dsimp only
  repeat' (with_reducible first | exact hK | intro _ | assumption | apply Kept.ite | apply issueSeq_kept | apply modSlice_kept | apply forEach_kept | apply loseLine_kept | apply forEach_kept | refine Kept.snd (by assumption) ?_ | split)

theorem doSoftRepair_kept (channel sid nck : Nat) (flips : Flips) (s : State) [Can W .regs] [Can W .chans] [Can W .slices] [Can W .array] [Can W .obs] (hK : Kept P W Z s) : Kept P W Z (doSoftRepair channel sid nck flips s) := by
  unfold doSoftRepair; try dsimp only
  repeat' (with_reducible first | exact hK | intro _ | assumption | apply remap_kept)

theorem doHardRepair_kept (channel sid nck : Nat) (flips : Flips) (s : State) [Can W .regs] [Can W .chans] [Can W .slices] [Can W .array] [Can W .obs] (hK : Kept P W Z s) : Kept P W Z (doHardRepair channel sid nck flips s) := by
  unfold doHardRepair; try dsimp only
  repeat' (with_reducible first | exact hK | intro _ | assumption | apply remap_kept)

theorem doPreambleGapRequest_kept (pc sid : Nat) (s : State) [Can W .pchs] [Can W .obs] (hK : Kept P W Z s) : Kept P W Z (doPreambleGapRequest pc sid s) := by
  unfold doPreambleGapRequest; try dsimp only
  repeat' (with_reducible first | exact hK | intro _ | assumption | apply Kept.ite | apply obsEvent_kept | apply modPch_kept | split)

theorem beginRetrain_kept (s : State) (pc : Nat) [Can W .regs] [Can W .pchs] [Can W .chans] [Can W .slices] [Can W .obs] [Can W .free] (hK : Kept P W Z s) : Kept P W Z (beginRetrain s pc) := by
  unfold beginRetrain; try dsimp only
  repeat' (with_reducible first | exact hK | intro _ | assumption | apply Kept.ite | apply modPch_kept | apply planAll_kept | apply proveNow_kept | apply bumpi_kept | (refine Kept.set_free (Kept.eta ?_); first | exact hK | apply modPch_kept | apply planAll_kept | apply proveNow_kept | apply bumpi_kept) | split)

theorem doPeriodicRetrain_kept (pc : Nat) (s : State) [Can W .regs] [Can W .pchs] [Can W .chans] [Can W .slices] [Can W .obs] [Can W .free] (hK : Kept P W Z s) : Kept P W Z (doPeriodicRetrain pc s) := by
  unfold doPeriodicRetrain; try dsimp only
  repeat' (with_reducible first | exact hK | intro _ | assumption | apply Kept.ite | apply beginRetrain_kept | apply modPch_kept | split)

theorem startDeferred_kept (s : State) [Can W .regs] [Can W .pchs] [Can W .chans] [Can W .slices] [Can W .obs] [Can W .free] (hK : Kept P W Z s) : Kept P W Z (startDeferred s) := by
  unfold startDeferred; try dsimp only
  repeat' (with_reducible first | exact hK | intro _ | assumption | apply Kept.ite | apply forEach_kept | apply beginRetrain_kept | apply forEach_kept | split)

theorem spareMarked_kept (s : State) (pc lane : Nat) (ok : Bool) [Can W .regs] [Can W .links] [Can W .chans] [Can W .slices] [Can W .side] [Can W .ev] [Can W .obs] [Can W .out] [Can W .free] (hK : Kept P W Z s) : Kept P W Z (spareMarked s pc lane ok) := by
  unfold spareMarked; try dsimp only
  repeat' (with_reducible first | exact hK | apply Kept.ite | apply setSpare_kept | apply planAll_kept | apply raiseEv_kept | apply wri_kept | refine Kept.snd (by assumption) ?_ | (refine Kept.set_free (Kept.eta ?_); first | exact hK | apply setSpare_kept | apply planAll_kept | apply raiseEv_kept | apply wri_kept) | split)

theorem failLane_kept (s : State) (pc phys : Nat) [Can W .regs] [Can W .links] [Can W .side] [Can W .ev] [Can W .obs] [Can W .out] (hK : Kept P W Z s) : Kept P W Z (failLane s pc phys) := by
  unfold failLane; try dsimp only
  repeat' (with_reducible first | exact hK | apply raiseEv_kept | apply markLane_kept | split)

theorem adjustLanes_kept (s : State) (pc sid : Nat) (l : List LaneProbe) [Can W .regs] [Can W .links] [Can W .chans] [Can W .slices] [Can W .stack] [Can W .side] [Can W .ev] [Can W .obs] [Can W .out] (hK : Kept P W Z s) : Kept P W Z (adjustLanes s pc sid l) := by
  unfold adjustLanes; try dsimp only
  repeat' (with_reducible first | exact hK | intro _ | assumption | apply Kept.ite | apply moveDelay_kept | apply forEach_kept | apply planAll_kept | apply modStack_kept | apply forEach_kept | split)

theorem doRetrainComplete_kept (pc : Nat) (r : RetrainReport) (s : State) [Can W .regs] [Can W .mram] [Can W .links] [Can W .pchs] [Can W .chans] [Can W .slices] [Can W .stack] [Can W .side] [Can W .ev] [Can W .obs] [Can W .out] [Can W .free] (hK : Kept P W Z s) : Kept P W Z (doRetrainComplete pc r s) := by
  unfold doRetrainComplete; try dsimp only
  repeat' (with_reducible first | exact hK | intro _ | assumption | apply Kept.ite | apply adjustLanes_kept | apply forEach_kept | apply spareMarked_kept | apply bumpi_kept | apply failLane_kept | apply obsEvent_kept | apply wri_kept | apply modPch_kept | apply storeTraining_kept | apply forEach_kept | split)

theorem emptyPch_kept (s : State) (pc : Nat) [Can W .regs] [Can W .links] [Can W .flights] [Can W .tree] [Can W .home] [Can W .pchs] [Can W .stack] [Can W .side] [Can W .ev] [Can W .ledgers] [Can W .obs] [Can W .out] (hK : Kept P W Z s) : Kept P W Z (emptyPch s pc) := by
  unfold emptyPch; try dsimp only
  repeat' (with_reducible first | exact hK | intro _ | assumption | apply Kept.ite | apply modPch_kept | apply forEach_kept | apply returnCreditOf_kept | apply readAnswered_kept | apply modStack_kept | apply wri_kept | apply raiseEv_kept | apply forEach_kept | split)

theorem failPc_kept (s : State) (pc : Nat) (alone : Bool) [Can W .regs] [Can W .mram] [Can W .links] [Can W .flights] [Can W .tree] [Can W .home] [Can W .pchs] [Can W .stack] [Can W .side] [Can W .ev] [Can W .ledgers] [Can W .obs] [Can W .out] (hK : Kept P W Z s) : Kept P W Z (failPc s pc alone) := by
  unfold failPc; try dsimp only
  repeat' (with_reducible first | exact hK | intro _ | assumption | apply Kept.ite | apply storeEntry_kept | apply wri_kept | apply modStack_kept | apply wr_kept | apply raiseEv_kept | apply emptyPch_kept | split)

theorem failChannel_kept (s : State) (c : Nat) [Can W .regs] [Can W .mram] [Can W .links] [Can W .flights] [Can W .tree] [Can W .home] [Can W .pchs] [Can W .stack] [Can W .side] [Can W .ev] [Can W .ledgers] [Can W .obs] [Can W .out] (hK : Kept P W Z s) : Kept P W Z (failChannel s c) := by
  unfold failChannel; try dsimp only
  repeat' (with_reducible first | exact hK | apply Kept.ite | apply raiseEv_kept | apply storeEntry_kept | apply wri_kept | apply failPc_kept | split)

theorem spareCommand_kept (s : State) (c : Nat) (row : Bool) (lane : Nat) [Can W .regs] [Can W .mram] [Can W .links] [Can W .flights] [Can W .tree] [Can W .home] [Can W .pchs] [Can W .stack] [Can W .side] [Can W .ev] [Can W .ledgers] [Can W .obs] [Can W .out] (hK : Kept P W Z s) : Kept P W Z (spareCommand s c row lane) := by
  unfold spareCommand; try dsimp only
  repeat' (with_reducible first | exact hK | apply Kept.ite | apply failChannel_kept | apply raiseEv_kept | apply wri_kept | split)

theorem startHolds_kept (s : State) [Can W .regs] [Can W .pchs] [Can W .chans] [Can W .slices] [Can W .obs] (hK : Kept P W Z s) : Kept P W Z (startHolds s) := by
  unfold startHolds; try dsimp only
  repeat' (with_reducible first | exact hK | intro _ | assumption | apply Kept.ite | apply forEach_kept | apply modChan_kept | apply modPch_kept | apply planAll_kept | apply forEach_kept | split)

theorem doCommandBusRetrain_kept (channel : Nat) (rowFail colFail : List Nat) (s : State) [Can W .regs] [Can W .mram] [Can W .links] [Can W .flights] [Can W .tree] [Can W .home] [Can W .pchs] [Can W .chans] [Can W .slices] [Can W .stack] [Can W .side] [Can W .ev] [Can W .ledgers] [Can W .obs] [Can W .out] (hK : Kept P W Z s) : Kept P W Z (doCommandBusRetrain channel rowFail colFail s) := by
  unfold doCommandBusRetrain; try dsimp only
  repeat' (with_reducible first | exact hK | intro _ | assumption | apply Kept.ite | apply forEach_kept | apply spareCommand_kept | apply planAll_kept | apply closeAll_kept | apply modPch_kept | apply modChan_kept | apply forEach_kept | split)

theorem actMrRead_kept (x1_ v : Nat) (s : State) [Can W .regs] [Can W .chans] [Can W .slices] [Can W .stack] [Can W .obs] (hK : Kept P W Z s) : Kept P W Z (actMrRead x1_ v s).2 := by
  unfold actMrRead; try dsimp only
  repeat' (with_reducible first | exact hK | intro _ | assumption | apply Kept.ite | apply Kept.ite2 | apply wr_kept | apply planAll_kept | apply modStack_kept | split)

theorem doCdiMrRead_kept (a : Access) (s : State) [Can W .regs] [Can W .links] [Can W .chans] [Can W .slices] [Can W .stack] [Can W .side] [Can W .obs] [Can W .out] (hK : Kept P W Z s) : Kept P W Z (doCdiMrRead a s) := by
  unfold doCdiMrRead; try dsimp only
  repeat' (with_reducible first | exact hK | intro _ | assumption | exact id | decide | apply Kept.ite | apply Kept.ite2 | apply Kept.ite3 | apply accessWrite_kept | apply actMrRead_kept | refine Kept.snd (by assumption) ?_ | refine Kept.snd3 (by assumption) ?_ | split)

theorem doCdiMrReadDone_kept (own : Nat) (s : State) [Can W .regs] [Can W .stack] (hK : Kept P W Z s) : Kept P W Z (doCdiMrReadDone own s) := by
  unfold doCdiMrReadDone; try dsimp only
  repeat' (with_reducible first | exact hK | intro _ | assumption | apply modStack_kept | apply wr_kept | split)

theorem queueRow_kept (s : State) (l : Loc) (purpose : Purpose) (physical : Option Loc) [Can W .regs] [Can W .pchs] [Can W .obs] (hK : Kept P W Z s) : Kept P W Z (queueRow s l purpose physical) := by
  unfold queueRow; try dsimp only
  repeat' (with_reducible first | exact hK | intro _ | assumption | apply modPch_kept | apply settlePch_kept | apply obsEvent_kept | split)

theorem markRow_kept (s : State) (pc : Nat) [Can W .stack] (hK : Kept P W Z s) : Kept P W Z (markRow s pc) := by
  unfold markRow; try dsimp only
  repeat' (with_reducible first | exact hK | intro _ | assumption | apply modStack_kept)

theorem settlePasses_kept (s : State) (pc : Nat) [Can W .regs] [Can W .stack] (hK : Kept P W Z s) : Kept P W Z (settlePasses s pc) := by
  unfold settlePasses; try dsimp only
  repeat' (with_reducible first | exact hK | intro _ | assumption | apply Kept.ite | apply modStack_kept | apply bump_kept | split)

theorem doScrubRowStart_kept (pc : Nat) (s : State) [Can W .regs] [Can W .pchs] [Can W .stack] [Can W .obs] (hK : Kept P W Z s) : Kept P W Z (doScrubRowStart pc s) := by
  unfold doScrubRowStart; try dsimp only
  repeat' (with_reducible first | exact hK | apply Kept.ite | apply markRow_kept | apply queueRow_kept | apply wri_kept | apply settlePasses_kept | split)

theorem doSuspectScrubRow_kept (pc : Nat) (s : State) [Can W .regs] [Can W .links] [Can W .pchs] [Can W .stack] [Can W .side] [Can W .ev] [Can W .obs] [Can W .out] (hK : Kept P W Z s) : Kept P W Z (doSuspectScrubRow pc s) := by
  unfold doSuspectScrubRow; try dsimp only
  repeat' (with_reducible first | exact hK | intro _ | assumption | apply Kept.ite | apply markRow_kept | apply queueRow_kept | apply modStack_kept | apply raiseEv_kept | apply wr_kept | split)

theorem addSuspect_kept (s : State) (pc b : Nat) [Can W .stack] (hK : Kept P W Z s) : Kept P W Z (addSuspect s pc b) := by
  unfold addSuspect; try dsimp only
  repeat' (with_reducible first | exact hK | intro _ | assumption | apply Kept.ite | apply modStack_kept | split)

theorem refuseRepair_kept (s : State) (lb st cause : Nat) [Can W .regs] [Can W .links] [Can W .side] [Can W .ev] [Can W .obs] [Can W .out] (hK : Kept P W Z s) : Kept P W Z (refuseRepair s lb st cause).2 := by
  unfold refuseRepair; try dsimp only
  repeat' (with_reducible first | exact hK | apply Kept.ite | apply Kept.ite2 | apply wri_kept | apply raiseEv_kept | split)

theorem startJob_kept (s : State) (j : Job) [Can W .regs] [Can W .stack] (hK : Kept P W Z s) : Kept P W Z (startJob s j).2 := by
  unfold startJob; try dsimp only
  repeat' (with_reducible first | exact hK | intro _ | assumption | apply modStack_kept | apply wri_kept)

theorem actRetireRow_kept (x1_ v : Nat) (s : State) [Can W .regs] [Can W .links] [Can W .stack] [Can W .side] [Can W .ev] [Can W .obs] [Can W .out] (hK : Kept P W Z s) : Kept P W Z (actRetireRow x1_ v s).2 := by
  unfold actRetireRow; try dsimp only
  repeat' (with_reducible first | exact hK | intro _ | assumption | apply Kept.ite | apply Kept.ite2 | apply refuseRepair_kept | apply startJob_kept | split)

theorem doIntRetireRow_kept (a : Access) (s : State) [Can W .regs] [Can W .links] [Can W .stack] [Can W .side] [Can W .ev] [Can W .obs] [Can W .out] (hK : Kept P W Z s) : Kept P W Z (doIntRetireRow a s) := by
  unfold doIntRetireRow; try dsimp only
  repeat' (with_reducible first | exact hK | intro _ | assumption | exact id | decide | apply Kept.ite | apply Kept.ite2 | apply Kept.ite3 | apply accessWrite_kept | apply actRetireRow_kept | refine Kept.snd (by assumption) ?_ | refine Kept.snd3 (by assumption) ?_ | split)

theorem actRetireBank_kept (x1_ v : Nat) (s : State) [Can W .regs] [Can W .links] [Can W .stack] [Can W .side] [Can W .ev] [Can W .obs] [Can W .out] (hK : Kept P W Z s) : Kept P W Z (actRetireBank x1_ v s).2 := by
  unfold actRetireBank; try dsimp only
  repeat' (with_reducible first | exact hK | apply Kept.ite | apply Kept.ite2 | apply refuseRepair_kept | apply startJob_kept | split)

theorem doIntRetireBank_kept (a : Access) (s : State) [Can W .regs] [Can W .links] [Can W .stack] [Can W .side] [Can W .ev] [Can W .obs] [Can W .out] (hK : Kept P W Z s) : Kept P W Z (doIntRetireBank a s) := by
  unfold doIntRetireBank; try dsimp only
  repeat' (with_reducible first | exact hK | intro _ | assumption | exact id | decide | apply Kept.ite | apply Kept.ite2 | apply Kept.ite3 | apply accessWrite_kept | apply actRetireBank_kept | refine Kept.snd (by assumption) ?_ | refine Kept.snd3 (by assumption) ?_ | split)

theorem freeParks_kept (s : State) (pc n : Nat) (l : List Nat) [Can W .regs] [Can W .mram] [Can W .links] [Can W .pchs] [Can W .array] [Can W .stack] [Can W .side] [Can W .ev] [Can W .obs] [Can W .out] [Can W .free] (hK : Kept P W Z s) : Kept P W Z (freeParks s pc n l) := by
  induction l generalizing s with
  | nil => exact hK
  | cons k l ih =>
    unfold freeParks; split
    · exact hK
    · exact ih _ (abandonPark_kept _ _ _ hK)

theorem moveGraft_kept (s : State) (pc : Nat) (banks : List Nat) (g : Nat × (Nat × Nat)) [Can W .regs] [Can W .mram] [Can W .links] [Can W .pchs] [Can W .array] [Can W .stack] [Can W .side] [Can W .ev] [Can W .obs] [Can W .out] [Can W .free] (hK : Kept P W Z s) : Kept P W Z (moveGraft s pc banks g) := by
  unfold moveGraft; try dsimp only
  repeat' (with_reducible first | exact hK | apply copyRow_kept | apply retireSpareRow_kept | apply setGraft_kept | refine Kept.snd (by assumption) ?_ | split)

theorem beginCopy_kept (s : State) (pc : Nat) (j : Job) [Can W .regs] [Can W .pchs] [Can W .stack] (hK : Kept P W Z s) : Kept P W Z (beginCopy s pc j) := by
  unfold beginCopy; try dsimp only
  repeat' (with_reducible first | exact hK | intro _ | assumption | apply modStack_kept | apply wri_kept | apply settlePch_kept | apply nextCopy_kept)

theorem doRepairPrepared_kept (pc : Nat) (s : State) [Can W .regs] [Can W .mram] [Can W .links] [Can W .pchs] [Can W .array] [Can W .stack] [Can W .side] [Can W .ev] [Can W .obs] [Can W .out] [Can W .free] (hK : Kept P W Z s) : Kept P W Z (doRepairPrepared pc s) := by
  unfold doRepairPrepared; try dsimp only
  repeat' (with_reducible first | exact hK | intro _ | assumption | apply Kept.ite | apply forEach_kept | apply abandonPark_kept | apply moveGraft_kept | apply settleSpares_kept | apply beginCopy_kept | apply freeParks_kept | apply forEach_kept | split)

theorem doRepairSwitch_kept (pc : Nat) (s : State) [Can W .regs] [Can W .stack] (hK : Kept P W Z s) : Kept P W Z (doRepairSwitch pc s) := by
  unfold doRepairSwitch; try dsimp only
  repeat' (with_reducible first | exact hK | intro _ | assumption | apply Kept.ite | apply wri_kept | apply setSpareWord_kept | apply settleSpares_kept | apply forEach_kept | apply retireSpareRow_kept | apply setGraft_kept | apply forEach_kept | split)

theorem leaveService_kept (s : State) (pc sid bank : Nat) [Can W .regs] [Can W .links] [Can W .pchs] [Can W .side] [Can W .ev] [Can W .obs] [Can W .out] (hK : Kept P W Z s) : Kept P W Z (leaveService s pc sid bank) := by
  unfold leaveService; try dsimp only
  repeat' (with_reducible first | exact hK | intro _ | assumption | apply dropClass_kept | apply modPch_kept)

theorem jobDone_kept (s : State) (pc : Nat) (j : Job) [Can W .regs] [Can W .mram] [Can W .links] [Can W .pchs] [Can W .stack] [Can W .side] [Can W .ev] [Can W .obs] [Can W .out] (hK : Kept P W Z s) : Kept P W Z (jobDone s pc j) := by
  unfold jobDone; try dsimp only
  repeat' (with_reducible first | exact hK | intro _ | assumption | apply Kept.ite | apply retireRows_kept | apply writeRecord_kept | apply modStack_kept | apply leaveService_kept | apply wr_kept | apply settleSpares_kept | refine Kept.snd (by assumption) ?_ | split)

theorem doRepairDone_kept (pc : Nat) (s : State) [Can W .regs] [Can W .mram] [Can W .links] [Can W .pchs] [Can W .stack] [Can W .side] [Can W .ev] [Can W .obs] [Can W .out] (hK : Kept P W Z s) : Kept P W Z (doRepairDone pc s) := by
  unfold doRepairDone; try dsimp only
  repeat' (with_reducible first | exact hK | intro _ | assumption | apply Kept.ite | apply jobDone_kept | apply modStack_kept | apply bump_kept | apply wri_kept | apply raiseEv_kept | split)

theorem pauseWork_kept (s : State) (sel : Nat → Bool) [Can W .regs] [Can W .pchs] [Can W .stack] (hK : Kept P W Z s) : Kept P W Z (pauseWork s sel) := by
  unfold pauseWork; try dsimp only
  repeat' (with_reducible first | exact hK | intro _ | assumption | apply Kept.ite | apply modStack_kept | apply forEach_kept | apply wri_kept | apply forEach_kept | (refine Kept.set_pchs (Kept.eta ?_); first | exact hK | apply modStack_kept | apply forEach_kept | apply wri_kept | apply forEach_kept) | split)

theorem resumeWork_kept (s : State) (sel : Nat → Bool) [Can W .regs] [Can W .pchs] (hK : Kept P W Z s) : Kept P W Z (resumeWork s sel) := by
  unfold resumeWork; try dsimp only
  repeat' (with_reducible first | exact hK | intro _ | assumption | apply Kept.ite | apply forEach_kept | apply settlePch_kept | apply nextCopy_kept | apply forEach_kept | split)

theorem actTestCmd_kept (x1_ v : Nat) (s : State) [Can W .regs] [Can W .stack] (hK : Kept P W Z s) : Kept P W Z (actTestCmd x1_ v s).2 := by
  unfold actTestCmd; try dsimp only
  repeat' (with_reducible first | exact hK | intro _ | assumption | apply Kept.ite | apply Kept.ite2 | apply wr_kept | apply modStack_kept | split)

theorem doTestWriteEncoded_kept (a : Access) (s : State) [Can W .regs] [Can W .links] [Can W .stack] [Can W .side] [Can W .obs] [Can W .out] (hK : Kept P W Z s) : Kept P W Z (doTestWriteEncoded a s) := by
  unfold doTestWriteEncoded; try dsimp only
  repeat' (with_reducible first | exact hK | intro _ | assumption | exact id | decide | apply Kept.ite | apply Kept.ite2 | apply Kept.ite3 | apply accessWrite_kept | apply actTestCmd_kept | refine Kept.snd (by assumption) ?_ | refine Kept.snd3 (by assumption) ?_ | split)

theorem doTestWriteRaw_kept (a : Access) (s : State) [Can W .regs] [Can W .links] [Can W .stack] [Can W .side] [Can W .obs] [Can W .out] (hK : Kept P W Z s) : Kept P W Z (doTestWriteRaw a s) := by
  unfold doTestWriteRaw; try dsimp only
  repeat' (with_reducible first | exact hK | intro _ | assumption | exact id | decide | apply Kept.ite | apply Kept.ite2 | apply Kept.ite3 | apply accessWrite_kept | apply actTestCmd_kept | refine Kept.snd (by assumption) ?_ | refine Kept.snd3 (by assumption) ?_ | split)

theorem doTestReadRaw_kept (a : Access) (s : State) [Can W .regs] [Can W .links] [Can W .stack] [Can W .side] [Can W .obs] [Can W .out] (hK : Kept P W Z s) : Kept P W Z (doTestReadRaw a s) := by
  unfold doTestReadRaw; try dsimp only
  repeat' (with_reducible first | exact hK | intro _ | assumption | exact id | decide | apply Kept.ite | apply Kept.ite2 | apply Kept.ite3 | apply accessWrite_kept | apply actTestCmd_kept | refine Kept.snd (by assumption) ?_ | refine Kept.snd3 (by assumption) ?_ | split)

theorem doTestReadDecoded_kept (a : Access) (s : State) [Can W .regs] [Can W .links] [Can W .stack] [Can W .side] [Can W .obs] [Can W .out] (hK : Kept P W Z s) : Kept P W Z (doTestReadDecoded a s) := by
  unfold doTestReadDecoded; try dsimp only
  repeat' (with_reducible first | exact hK | intro _ | assumption | exact id | decide | apply Kept.ite | apply Kept.ite2 | apply Kept.ite3 | apply accessWrite_kept | apply actTestCmd_kept | refine Kept.snd (by assumption) ?_ | refine Kept.snd3 (by assumption) ?_ | split)

theorem setTestData_kept (s : State) (l : Line) [Can W .dict] (hK : Kept P W Z s) : Kept P W Z (setTestData s l) := by
  unfold setTestData; try dsimp only
  repeat' (with_reducible first | exact hK | (refine Kept.set_dict (Kept.eta ?_); first | exact hK))

theorem testStore_kept (s : State) (pc key : Nat) (c : Codeword) [Can W .array] [Can W .stack] (hK : Kept P W Z s) : Kept P W Z (testStore s pc key c) := by
  unfold testStore; try dsimp only
  repeat' (with_reducible first | exact hK | apply lineRewritten_kept | apply storeCell_kept)

theorem doIntTestDone_kept (err : BitVec 576) (s : State) [Can W .regs] [Can W .dict] [Can W .mram] [Can W .links] [Can W .pchs] [Can W .array] [Can W .stack] [Can W .side] [Can W .ev] [Can W .obs] [Can W .out] [Can W .free] (hK : Kept P W Z s) : Kept P W Z (doIntTestDone err s) := by
  unfold doIntTestDone; try dsimp only
  repeat' (with_reducible first | exact hK | intro _ | assumption | apply Kept.ite | apply modStack_kept | apply wr_kept | apply testStore_kept | apply readCell_kept | apply setTestData_kept | apply reportDecode_kept | apply settlePch_kept | apply rewriteAfter_kept | refine Kept.snd (by assumption) ?_ | split)

end Sys2Proof.Machine
end

