-- ==== Sys2Proof/Laws/KeptManage.lean ====
section
/-!
SUPPORT. What the operations of these areas keep, one lemma each: ports, sleep, mailboxes, management and attestation. The parts a lemma asks for are those the
operation may change.
-/
namespace Sys2Proof.Machine
variable {P : Prop} {W : Part → Bool} {Z : State}

theorem clearLedger_kept (s : State) (fn : Nat) [Can W .regs] [Can W .flights] [Can W .ledgers] (hK : Kept P W Z s) : Kept P W Z (clearLedger s fn) := by
  unfold clearLedger; try dsimp only
  repeat' (with_reducible first | exact hK | intro _ | assumption | apply Kept.ite | apply wri_kept | (refine Kept.set_ledgers (Kept.set_flights (Kept.eta ?_)); first | exact hK | apply wri_kept) | split)

theorem ledgerAdd_kept (s : State) (uid : Nat) (f : Flight) [Can W .regs] [Can W .flights] [Can W .ledgers] (hK : Kept P W Z s) : Kept P W Z (ledgerAdd s uid f) := by
  unfold ledgerAdd; try dsimp only
  repeat' (with_reducible first | exact hK | intro _ | assumption | apply Kept.ite | apply wri_kept | apply modFlight_kept | apply bumpi_kept | (refine Kept.set_ledgers (Kept.eta ?_); first | exact hK | apply wri_kept | apply modFlight_kept | apply bumpi_kept) | split)

theorem ledgerBegin_kept (s : State) (fn kind ports : Nat) (keep : Flight → Bool) [Can W .regs] [Can W .links] [Can W .flights] [Can W .side] [Can W .ev] [Can W .ledgers] [Can W .obs] [Can W .out] (hK : Kept P W Z s) : Kept P W Z (ledgerBegin s fn kind ports keep) := by
  unfold ledgerBegin; try dsimp only
  repeat' (with_reducible first | exact hK | intro _ | assumption | apply Kept.ite | apply wri_kept | apply clearLedger_kept | apply forEach_kept | apply ledgerAdd_kept | apply raiseEv_kept | apply forEach_kept | split)

theorem discardFlight_kept (s : State) (uid : Nat) [Can W .flights] [Can W .tree] [Can W .sleep] [Can W .ledgers] (hK : Kept P W Z s) : Kept P W Z (discardFlight s uid) := by
  unfold discardFlight; try dsimp only
  repeat' (with_reducible first | exact hK | intro _ | assumption | apply noteLedger_kept | apply modFlight_kept | apply unqueue_kept | apply modSleep_kept | apply dropFlight_kept)

theorem resetFlight_kept (s : State) (uid : Nat) (f : Flight) [Can W .flights] [Can W .tree] [Can W .sleep] [Can W .ledgers] (hK : Kept P W Z s) : Kept P W Z (resetFlight s uid f) := by
  unfold resetFlight; try dsimp only
  repeat' (with_reducible first | exact hK | intro _ | assumption | apply Kept.ite | apply discardFlight_kept | apply modFlight_kept | apply retireFlight_kept | apply freeTag_kept | split)

theorem endAcks_kept (s : State) (sel : Flight → Bool) [Can W .regs] [Can W .links] [Can W .flights] [Can W .tree] [Can W .home] [Can W .side] [Can W .ev] [Can W .ledgers] [Can W .obs] [Can W .out] (hK : Kept P W Z s) : Kept P W Z (endAcks s sel) := by
  unfold endAcks; try dsimp only
  repeat' (with_reducible first | exact hK | intro _ | assumption | apply Kept.ite | apply forEach_kept | apply advance_kept | apply setTxn_kept | apply forEach_kept | split)

theorem fallCellsOf_kept (s : State) (l : List (Nat × Agent)) (cause : Nat) [Can W .regs] [Can W .links] [Can W .agents] [Can W .flights] [Can W .tree] [Can W .home] [Can W .side] [Can W .ev] [Can W .ledgers] [Can W .obs] [Can W .out] (hK : Kept P W Z s) : Kept P W Z (fallCellsOf s l cause) := by
  unfold fallCellsOf; try dsimp only
  repeat' (with_reducible first | exact hK | intro _ | assumption | apply forEach_kept | apply fallCell_kept | apply forEach_kept | split)

theorem removeOrDoom_kept (s : State) (l : List (Nat × Agent)) [Can W .regs] [Can W .links] [Can W .agents] [Can W .flights] [Can W .tree] [Can W .home] [Can W .side] [Can W .ev] [Can W .ledgers] [Can W .obs] [Can W .out] (hK : Kept P W Z s) : Kept P W Z (removeOrDoom s l) := by
  unfold removeOrDoom; try dsimp only
  repeat' (with_reducible first | exact hK | intro _ | assumption | exact id | decide | apply Kept.ite | apply Kept.ite2 | apply Kept.ite3 | apply forEach_kept | apply removeAgent_kept | apply forEach_kept | refine Kept.snd (by assumption) ?_ | refine Kept.snd3 (by assumption) ?_ | (refine Kept.set_agents (Kept.eta ?_); first | exact hK | assumption | apply Kept.ite | apply forEach_kept | apply removeAgent_kept | apply forEach_kept | refine Kept.snd (by assumption) ?_) | split)

theorem linkReset_kept (s : State) (n : Nat) [Can W .regs] [Can W .links] [Can W .agents] [Can W .flights] [Can W .tree] [Can W .home] [Can W .sleep] [Can W .side] [Can W .ev] [Can W .ledgers] [Can W .obs] [Can W .out] (hK : Kept P W Z s) : Kept P W Z (linkReset s n) := by
  unfold linkReset; try dsimp only
  repeat' (with_reducible first | exact hK | intro _ | assumption | apply Kept.ite | apply bumpi_kept | apply forEach_kept | apply ledgerBegin_kept | apply resetFlight_kept | apply wri_kept | apply setLink_kept | apply modSleep_kept | apply removeOrDoom_kept | apply endAcks_kept | apply fallCellsOf_kept | apply forEach_kept | (refine Kept.set_ev (Kept.eta ?_); first | exact hK | apply bumpi_kept | apply forEach_kept | apply ledgerBegin_kept | apply resetFlight_kept | apply wri_kept | apply setLink_kept | apply modSleep_kept | apply removeOrDoom_kept | apply endAcks_kept | apply fallCellsOf_kept | apply forEach_kept) | split)

theorem portDownTo_kept (s : State) (n : Nat) (dst : Fdi) (code row : Nat) [Can W .regs] [Can W .links] [Can W .agents] [Can W .flights] [Can W .tree] [Can W .home] [Can W .sleep] [Can W .side] [Can W .ev] [Can W .ledgers] [Can W .obs] [Can W .out] (hK : Kept P W Z s) : Kept P W Z (portDownTo s n dst code row) := by
  unfold portDownTo; try dsimp only
  repeat' (with_reducible first | exact hK | intro _ | assumption | apply Kept.ite | apply linkReset_kept | apply setLink_kept | apply setPortState_kept | apply modLink_kept | apply raiseEv_kept | split)

theorem enterLinkError_kept (s : State) (n row : Nat) [Can W .regs] [Can W .links] [Can W .agents] [Can W .flights] [Can W .tree] [Can W .home] [Can W .sleep] [Can W .side] [Can W .ev] [Can W .ledgers] [Can W .obs] [Can W .out] (hK : Kept P W Z s) : Kept P W Z (enterLinkError s n row) := by
  unfold enterLinkError; try dsimp only
  repeat' (with_reducible first | exact hK | apply Kept.ite | apply raiseEv_kept | apply portDownTo_kept | apply bumpi_kept | split)

theorem forceLinkError_kept (s : State) (n row : Nat) [Can W .regs] [Can W .links] [Can W .agents] [Can W .flights] [Can W .tree] [Can W .home] [Can W .sleep] [Can W .side] [Can W .ev] [Can W .ledgers] [Can W .obs] [Can W .out] (hK : Kept P W Z s) : Kept P W Z (forceLinkError s n row) := by
  unfold forceLinkError; try dsimp only
  repeat' (with_reducible first | exact hK | intro _ | assumption | apply enterLinkError_kept | apply modLink_kept)

theorem orderLinkReset_kept (s : State) (n : Nat) [Can W .regs] [Can W .links] [Can W .agents] [Can W .flights] [Can W .tree] [Can W .home] [Can W .sleep] [Can W .side] [Can W .ev] [Can W .ledgers] [Can W .obs] [Can W .out] (hK : Kept P W Z s) : Kept P W Z (orderLinkReset s n) := by
  unfold orderLinkReset; try dsimp only
  repeat' (with_reducible first | exact hK | intro _ | assumption | apply Kept.ite | apply linkReset_kept | apply modLink_kept | apply portDownTo_kept | split)

theorem requestL1_kept (s : State) (n : Nat) [Can W .links] (hK : Kept P W Z s) : Kept P W Z (requestL1 s n) := by
  unfold requestL1; try dsimp only
  repeat' (with_reducible first | exact hK | intro _ | assumption | apply Kept.ite | apply modLink_kept | split)

theorem requestActive_kept (s : State) (n : Nat) [Can W .links] (hK : Kept P W Z s) : Kept P W Z (requestActive s n) := by
  unfold requestActive; try dsimp only
  repeat' (with_reducible first | exact hK | intro _ | assumption | apply Kept.ite | apply modLink_kept | split)

theorem doPlProtocolVld_kept (port : Nat) (cfg : FdiConfig) (s : State) [Can W .regs] [Can W .links] [Can W .agents] [Can W .flights] [Can W .tree] [Can W .home] [Can W .sleep] [Can W .side] [Can W .ev] [Can W .ledgers] [Can W .obs] [Can W .out] (hK : Kept P W Z s) : Kept P W Z (doPlProtocolVld port cfg s) := by
  unfold doPlProtocolVld; try dsimp only
  repeat' (with_reducible first | exact hK | intro _ | assumption | apply Kept.ite | apply raiseEv_kept | apply modLink_kept | apply forceLinkError_kept | split)

theorem doPlInbandPres_kept (port : Nat) (s : State) [Can W .links] (hK : Kept P W Z s) : Kept P W Z (doPlInbandPres port s) := by
  unfold doPlInbandPres; try dsimp only
  repeat' (with_reducible first | exact hK | intro _ | assumption | apply Kept.ite | apply requestActive_kept | apply modLink_kept | split)

theorem sendCtl_kept (s : State) (n : Nat) (slot : Slot) [Can W .links] [Can W .obs] [Can W .out] (hK : Kept P W Z s) : Kept P W Z (sendCtl s n slot) := by
  unfold sendCtl; try dsimp only
  repeat' (with_reducible first | exact hK | apply sendMsg_kept)

theorem doFdiActive_kept (port : Nat) (s : State) [Can W .regs] [Can W .links] [Can W .agents] [Can W .flights] [Can W .tree] [Can W .home] [Can W .sleep] [Can W .side] [Can W .ev] [Can W .ledgers] [Can W .obs] [Can W .out] (hK : Kept P W Z s) : Kept P W Z (doFdiActive port s) := by
  unfold doFdiActive; try dsimp only
  repeat' (with_reducible first | exact hK | apply Kept.ite | apply setPortState_kept | apply setLink_kept | apply sendCtl_kept | apply enterLinkError_kept | apply linkReset_kept | split)

theorem leavesL1InS2_kept (s : State) (n : Nat) [Can W .pins] [Can W .links] [Can W .sleep] (hK : Kept P W Z s) : Kept P W Z (leavesL1InS2 s n) := by
  unfold leavesL1InS2; try dsimp only
  repeat' (with_reducible first | exact hK | intro _ | assumption | apply Kept.ite | apply latchWake_kept | apply modLink_kept | split)

theorem doRetrainEntry_kept (port : Nat) (s : State) [Can W .regs] [Can W .pins] [Can W .links] [Can W .agents] [Can W .flights] [Can W .tree] [Can W .home] [Can W .sleep] [Can W .side] [Can W .ev] [Can W .ledgers] [Can W .obs] [Can W .out] (hK : Kept P W Z s) : Kept P W Z (doRetrainEntry port s) := by
  unfold doRetrainEntry; try dsimp only
  repeat' (with_reducible first | exact hK | intro _ | assumption | apply Kept.ite | apply leavesL1InS2_kept | apply setPortState_kept | apply modLink_kept | apply raiseEv_kept | apply bumpi_kept | apply enterLinkError_kept | split)

theorem replayFlits_kept (s : State) (n : Nat) [Can W .regs] [Can W .obs] [Can W .out] (hK : Kept P W Z s) : Kept P W Z (replayFlits s n) := by
  unfold replayFlits; try dsimp only
  repeat' (with_reducible first | exact hK | intro _ | assumption | apply Kept.ite | apply forEach_kept | apply bumpi_kept | apply emit_kept | apply obsEvent_kept | apply forEach_kept | split)

theorem sendIdle_kept (s : State) (n : Nat) [Can W .links] [Can W .obs] [Can W .out] (hK : Kept P W Z s) : Kept P W Z (sendIdle s n) := by
  unfold sendIdle; try dsimp only
  repeat' (with_reducible first | exact hK | apply sendFlit_kept | apply obsEvent_kept)

theorem sendNak_kept (s : State) (n : Nat) [Can W .links] [Can W .obs] [Can W .out] (hK : Kept P W Z s) : Kept P W Z (sendNak s n) := by
  unfold sendNak; try dsimp only
  repeat' (with_reducible first | exact hK | intro _ | assumption | apply sendFlit_kept | apply obsEvent_kept | apply modLink_kept)

theorem doRetrainExit_kept (port : Nat) (s : State) [Can W .regs] [Can W .links] [Can W .obs] [Can W .out] (hK : Kept P W Z s) : Kept P W Z (doRetrainExit port s) := by
  unfold doRetrainExit; try dsimp only
  repeat' (with_reducible first | exact hK | intro _ | assumption | apply Kept.ite | apply setPortState_kept | apply modLink_kept | apply drainTx_kept | apply replayFlits_kept | apply sendIdle_kept | apply requestL1_kept | split)

theorem doRetrainLimitExpiry_kept (port : Nat) (s : State) [Can W .regs] [Can W .links] [Can W .agents] [Can W .flights] [Can W .tree] [Can W .home] [Can W .sleep] [Can W .side] [Can W .ev] [Can W .ledgers] [Can W .obs] [Can W .out] (hK : Kept P W Z s) : Kept P W Z (doRetrainLimitExpiry port s) := by
  unfold doRetrainLimitExpiry; try dsimp only
  repeat' (with_reducible first | exact hK | apply Kept.ite | apply raiseEv_kept | apply orderLinkReset_kept | split)

theorem doLinkResetDone_kept (port : Nat) (s : State) [Can W .regs] [Can W .links] [Can W .agents] [Can W .flights] [Can W .tree] [Can W .home] [Can W .sleep] [Can W .side] [Can W .ev] [Can W .ledgers] [Can W .obs] [Can W .out] (hK : Kept P W Z s) : Kept P W Z (doLinkResetDone port s) := by
  unfold doLinkResetDone; try dsimp only
  repeat' (with_reducible first | exact hK | intro _ | assumption | apply Kept.ite | apply linkReset_kept | apply requestActive_kept | apply modLink_kept | apply enterLinkError_kept | split)

theorem doAdapterLinkerror_kept (port : Nat) (s : State) [Can W .regs] [Can W .pins] [Can W .links] [Can W .agents] [Can W .flights] [Can W .tree] [Can W .home] [Can W .sleep] [Can W .side] [Can W .ev] [Can W .ledgers] [Can W .obs] [Can W .out] (hK : Kept P W Z s) : Kept P W Z (doAdapterLinkerror port s) := by
  unfold doAdapterLinkerror; try dsimp only
  repeat' (with_reducible first | exact hK | apply Kept.ite | apply enterLinkError_kept | apply leavesL1InS2_kept | split)

theorem doPlStallreq_kept (port : Nat) (s : State) [Can W .links] (hK : Kept P W Z s) : Kept P W Z (doPlStallreq port s) := by
  unfold doPlStallreq; try dsimp only
  repeat' (with_reducible first | exact hK | intro _ | assumption | apply Kept.ite | apply modLink_kept | split)

theorem doPlStallreqRelease_kept (port : Nat) (s : State) [Can W .links] [Can W .obs] [Can W .out] (hK : Kept P W Z s) : Kept P W Z (doPlStallreqRelease port s) := by
  unfold doPlStallreqRelease; try dsimp only
  repeat' (with_reducible first | exact hK | intro _ | assumption | apply Kept.ite | apply drainTx_kept | apply modLink_kept | split)

theorem doPlClkReq_kept (port : Nat) (s : State) [Can W .links] (hK : Kept P W Z s) : Kept P W Z (doPlClkReq port s) := by
  unfold doPlClkReq; try dsimp only
  repeat' (with_reducible first | exact hK | intro _ | assumption | apply Kept.ite | apply modLink_kept | split)

theorem doPlRxActiveReq_kept (port : Nat) (s : State) [Can W .pins] [Can W .links] [Can W .sleep] (hK : Kept P W Z s) : Kept P W Z (doPlRxActiveReq port s) := by
  unfold doPlRxActiveReq; try dsimp only
  repeat' (with_reducible first | exact hK | intro _ | assumption | apply Kept.ite | apply modLink_kept | apply latchWake_kept | split)

theorem doPlError_kept (port : Nat) (s : State) [Can W .regs] [Can W .links] [Can W .side] [Can W .ev] [Can W .obs] [Can W .out] (hK : Kept P W Z s) : Kept P W Z (doPlError port s) := by
  unfold doPlError; try dsimp only
  repeat' (with_reducible first | exact hK | apply Kept.ite | apply raiseEv_kept | apply bumpi_kept | split)

theorem doPlNferror_kept (port : Nat) (s : State) [Can W .regs] [Can W .links] [Can W .side] [Can W .ev] [Can W .obs] [Can W .out] (hK : Kept P W Z s) : Kept P W Z (doPlNferror port s) := by
  unfold doPlNferror; try dsimp only
  repeat' (with_reducible first | exact hK | apply Kept.ite | apply raiseEv_kept | apply bumpi_kept | split)

theorem doPlCerror_kept (port : Nat) (s : State) [Can W .regs] (hK : Kept P W Z s) : Kept P W Z (doPlCerror port s) := by
  unfold doPlCerror; try dsimp only
  repeat' (with_reducible first | exact hK | apply Kept.ite | apply bumpi_kept | split)

theorem doPlPhyinrecenter_kept (port : Nat) (s : State) [Can W .regs] (hK : Kept P W Z s) : Kept P W Z (doPlPhyinrecenter port s) := by
  unfold doPlPhyinrecenter; try dsimp only
  repeat' (with_reducible first | exact hK | apply Kept.ite | apply bumpi_kept | split)

theorem disablePort_kept (s : State) (n : Nat) [Can W .regs] [Can W .links] [Can W .agents] [Can W .flights] [Can W .tree] [Can W .home] [Can W .sleep] [Can W .side] [Can W .ev] [Can W .ledgers] [Can W .obs] [Can W .out] (hK : Kept P W Z s) : Kept P W Z (disablePort s n) := by
  unfold disablePort; try dsimp only
  repeat' (with_reducible first | exact hK | intro _ | assumption | apply portDownTo_kept | apply modLink_kept)

theorem enablePort_kept (s : State) (n : Nat) [Can W .regs] [Can W .links] (hK : Kept P W Z s) : Kept P W Z (enablePort s n) := by
  unfold enablePort; try dsimp only
  repeat' (with_reducible first | exact hK | apply Kept.ite | apply requestActive_kept | apply setPortState_kept | apply setLink_kept | split)

theorem actPortEnable_kept (x1_ v : Nat) (s : State) [Can W .regs] [Can W .links] [Can W .agents] [Can W .flights] [Can W .tree] [Can W .home] [Can W .sleep] [Can W .side] [Can W .ev] [Can W .ledgers] [Can W .obs] [Can W .out] (hK : Kept P W Z s) : Kept P W Z (actPortEnable x1_ v s).2 := by
  unfold actPortEnable; try dsimp only
  repeat' (with_reducible first | exact hK | intro _ | assumption | apply Kept.ite | apply Kept.ite2 | apply wr_kept | apply forEach_kept | apply disablePort_kept | apply enablePort_kept | apply forEach_kept | split)

theorem doLnkPortEnable_kept (a : Access) (s : State) [Can W .regs] [Can W .links] [Can W .agents] [Can W .flights] [Can W .tree] [Can W .home] [Can W .sleep] [Can W .side] [Can W .ev] [Can W .ledgers] [Can W .obs] [Can W .out] (hK : Kept P W Z s) : Kept P W Z (doLnkPortEnable a s) := by
  unfold doLnkPortEnable; try dsimp only
  repeat' (with_reducible first | exact hK | intro _ | assumption | exact id | decide | apply Kept.ite | apply Kept.ite2 | apply Kept.ite3 | apply accessWrite_kept | apply actPortEnable_kept | refine Kept.snd (by assumption) ?_ | refine Kept.snd3 (by assumption) ?_ | split)

theorem adoptFlit_kept (s : State) (n flit : Nat) [Can W .links] [Can W .obs] [Can W .out] (hK : Kept P W Z s) : Kept P W Z (adoptFlit s n flit) := by
  unfold adoptFlit; try dsimp only
  repeat' (with_reducible first | exact hK | intro _ | assumption | apply drainTx_kept | apply modLink_kept)

theorem discardFlit_kept (s : State) (n : Nat) [Can W .regs] [Can W .links] [Can W .obs] [Can W .out] (hK : Kept P W Z s) : Kept P W Z (discardFlit s n) := by
  unfold discardFlit; try dsimp only
  repeat' (with_reducible first | exact hK | intro _ | assumption | apply Kept.ite | apply bumpi_kept | apply modLink_kept | apply sendNak_kept | split)

theorem doNakReceive_kept (port ackSeq : Nat) (s : State) [Can W .regs] [Can W .links] [Can W .agents] [Can W .flights] [Can W .tree] [Can W .home] [Can W .sleep] [Can W .side] [Can W .ev] [Can W .ledgers] [Can W .obs] [Can W .out] (hK : Kept P W Z s) : Kept P W Z (doNakReceive port ackSeq s) := by
  unfold doNakReceive; try dsimp only
  repeat' (with_reducible first | exact hK | intro _ | assumption | apply Kept.ite | apply forceLinkError_kept | apply setLink_kept | apply drainTx_kept | apply replayFlits_kept | split)

theorem doNakRepeat_kept (port : Nat) (s : State) [Can W .links] [Can W .obs] [Can W .out] (hK : Kept P W Z s) : Kept P W Z (doNakRepeat port s) := by
  unfold doNakRepeat; try dsimp only
  repeat' (with_reducible first | exact hK | apply Kept.ite | apply sendNak_kept | split)

theorem doIdleFlitSend_kept (port : Nat) (s : State) [Can W .links] [Can W .obs] [Can W .out] (hK : Kept P W Z s) : Kept P W Z (doIdleFlitSend port s) := by
  unfold doIdleFlitSend; try dsimp only
  repeat' (with_reducible first | exact hK | apply Kept.ite | apply sendIdle_kept | split)

theorem portComesUp_kept (s : State) (n rev : Nat) (credits : List Nat) [Can W .regs] [Can W .links] [Can W .side] [Can W .ev] [Can W .obs] [Can W .out] (hK : Kept P W Z s) : Kept P W Z (portComesUp s n rev credits) := by
  unfold portComesUp; try dsimp only
  repeat' (with_reducible first | exact hK | intro _ | assumption | apply modLink_kept | apply setPortState_kept | apply wri_kept | apply raiseEv_kept)

theorem doNegOffer_kept (port revs : Nat) (credits : List Nat) (s : State) [Can W .regs] [Can W .links] [Can W .agents] [Can W .flights] [Can W .tree] [Can W .home] [Can W .sleep] [Can W .side] [Can W .ev] [Can W .ledgers] [Can W .obs] [Can W .out] (hK : Kept P W Z s) : Kept P W Z (doNegOffer port revs credits s) := by
  unfold doNegOffer; try dsimp only
  repeat' (with_reducible first | exact hK | apply Kept.ite | apply bumpi_kept | apply portComesUp_kept | apply sendCtl_kept | apply forceLinkError_kept | split)

theorem doNegTimeout_kept (port : Nat) (s : State) [Can W .regs] [Can W .links] [Can W .agents] [Can W .flights] [Can W .tree] [Can W .home] [Can W .sleep] [Can W .side] [Can W .ev] [Can W .ledgers] [Can W .obs] [Can W .out] (hK : Kept P W Z s) : Kept P W Z (doNegTimeout port s) := by
  unfold doNegTimeout; try dsimp only
  repeat' (with_reducible first | exact hK | apply Kept.ite | apply forceLinkError_kept | split)

theorem actLinkReset_kept (x1_ v : Nat) (s : State) [Can W .regs] [Can W .links] [Can W .agents] [Can W .flights] [Can W .tree] [Can W .home] [Can W .sleep] [Can W .side] [Can W .ev] [Can W .ledgers] [Can W .obs] [Can W .out] (hK : Kept P W Z s) : Kept P W Z (actLinkReset x1_ v s).2 := by
  unfold actLinkReset; try dsimp only
  repeat' (with_reducible first | exact hK | apply Kept.ite | apply Kept.ite2 | apply orderLinkReset_kept | split)

theorem doFltLinkReset_kept (a : Access) (s : State) [Can W .regs] [Can W .links] [Can W .agents] [Can W .flights] [Can W .tree] [Can W .home] [Can W .sleep] [Can W .side] [Can W .ev] [Can W .ledgers] [Can W .obs] [Can W .out] (hK : Kept P W Z s) : Kept P W Z (doFltLinkReset a s) := by
  unfold doFltLinkReset; try dsimp only
  repeat' (with_reducible first | exact hK | intro _ | assumption | exact id | decide | apply Kept.ite | apply Kept.ite2 | apply Kept.ite3 | apply accessWrite_kept | apply actLinkReset_kept | refine Kept.snd (by assumption) ?_ | refine Kept.snd3 (by assumption) ?_ | split)

theorem answerPwr_kept (s : State) (c : PwrSource) (result refuser : Nat) [Can W .regs] [Can W .links] [Can W .side] [Can W .obs] [Can W .out] (hK : Kept P W Z s) : Kept P W Z (answerPwr s c result refuser) := by
  unfold answerPwr; try dsimp only
  repeat' (with_reducible first | exact hK | apply respond_kept | apply wr_kept | split)

theorem answerAll_kept (s : State) (l : List PwrSource) (result refuser : Nat) [Can W .regs] [Can W .links] [Can W .side] [Can W .obs] [Can W .out] (hK : Kept P W Z s) : Kept P W Z (answerAll s l result refuser) := by
  unfold answerAll; try dsimp only
  repeat' (with_reducible first | exact hK | intro _ | assumption | apply forEach_kept | apply answerPwr_kept | apply forEach_kept)

theorem refusePwr_kept (s : State) (c : PwrSource) (st refuser : Nat) [Can W .regs] [Can W .links] [Can W .side] [Can W .ev] [Can W .obs] [Can W .out] (hK : Kept P W Z s) : Kept P W Z (refusePwr s c st refuser) := by
  unfold refusePwr; try dsimp only
  repeat' (with_reducible first | exact hK | apply Kept.ite | apply noteRefuser_kept | apply bumpKey_kept | apply answerPwr_kept | apply raiseEv_kept | split)

theorem startEntry_kept (s : State) (c : PwrSource) (who st groups : Nat) [Can W .regs] [Can W .tree] [Can W .sleep] (hK : Kept P W Z s) : Kept P W Z (startEntry s c who st groups) := by
  unfold startEntry; try dsimp only
  repeat' (with_reducible first | exact hK | intro _ | assumption | apply Kept.ite | apply bumpWrap_kept | apply wr_kept | apply modSleep_kept | apply modTree_kept | split)

theorem descend_kept (s : State) (c : PwrSource) (who : Nat) [Can W .regs] [Can W .mram] [Can W .links] [Can W .sleep] [Can W .side] [Can W .obs] [Can W .out] (hK : Kept P W Z s) : Kept P W Z (descend s c who) := by
  unfold descend; try dsimp only
  repeat' (with_reducible first | exact hK | intro _ | assumption | apply wr_kept | apply answerPwr_kept | apply saveBins_kept | apply modSleep_kept | apply bumpi_kept)

theorem commandA0_kept (s : State) (c : PwrSource) (who groups : Nat) [Can W .regs] [Can W .pins] [Can W .links] [Can W .pchs] [Can W .sleep] [Can W .side] [Can W .obs] [Can W .out] (hK : Kept P W Z s) : Kept P W Z (commandA0 s c who groups) := by
  unfold commandA0; try dsimp only
  repeat' (with_reducible first | exact hK | intro _ | assumption | apply Kept.ite | apply modSleep_kept | apply latchWake_kept | apply abortEntry_kept | apply answerPwr_kept | split)

theorem powerCommand_kept (s : State) (c : PwrSource) (who st groups : Nat) [Can W .regs] [Can W .mram] [Can W .pins] [Can W .links] [Can W .tree] [Can W .pchs] [Can W .sleep] [Can W .side] [Can W .ev] [Can W .obs] [Can W .out] (hK : Kept P W Z s) : Kept P W Z (powerCommand s c who st groups) := by
  unfold powerCommand; try dsimp only
  repeat' (with_reducible first | exact hK | intro _ | assumption | apply Kept.ite | apply answerPwr_kept | apply modSleep_kept | apply refusePwr_kept | apply commandA0_kept | apply descend_kept | apply startEntry_kept | split)

theorem actPwrCmd_kept (m v : Nat) (s : State) [Can W .regs] [Can W .mram] [Can W .pins] [Can W .links] [Can W .tree] [Can W .pchs] [Can W .sleep] [Can W .side] [Can W .ev] [Can W .obs] [Can W .out] (hK : Kept P W Z s) : Kept P W Z (actPwrCmd m v s).2 := by
  unfold actPwrCmd; try dsimp only
  repeat' (with_reducible first | exact hK | apply Kept.ite | apply Kept.ite2 | apply powerCommand_kept | apply wr_kept | split)

theorem pwrCmd_kept (src : Sender) (mtag st groups : Nat) (s : State) [Can W .regs] [Can W .mram] [Can W .pins] [Can W .links] [Can W .tree] [Can W .pchs] [Can W .sleep] [Can W .side] [Can W .ev] [Can W .obs] [Can W .out] (hK : Kept P W Z s) : Kept P W Z (pwrCmd src mtag st groups s) := by
  unfold pwrCmd; try dsimp only
  repeat' (with_reducible first | exact hK | intro _ | assumption | apply Kept.ite | apply Kept.ite2 | apply turnAway_kept | apply takeMgtCredit_kept | apply respond_kept | apply powerCommand_kept | apply accessWrite_kept | apply actPwrCmd_kept | split)

theorem doPwrCmdA0_kept (src : Sender) (mtag groups : Nat) (s : State) [Can W .regs] [Can W .mram] [Can W .pins] [Can W .links] [Can W .tree] [Can W .pchs] [Can W .sleep] [Can W .side] [Can W .ev] [Can W .obs] [Can W .out] (hK : Kept P W Z s) : Kept P W Z (doPwrCmdA0 src mtag groups s) := by
  unfold doPwrCmdA0; try dsimp only
  repeat' (with_reducible first | exact hK | apply pwrCmd_kept)

theorem doPwrCmdS1_kept (src : Sender) (mtag groups : Nat) (s : State) [Can W .regs] [Can W .mram] [Can W .pins] [Can W .links] [Can W .tree] [Can W .pchs] [Can W .sleep] [Can W .side] [Can W .ev] [Can W .obs] [Can W .out] (hK : Kept P W Z s) : Kept P W Z (doPwrCmdS1 src mtag groups s) := by
  unfold doPwrCmdS1; try dsimp only
  repeat' (with_reducible first | exact hK | apply pwrCmd_kept)

theorem doPwrCmdS2_kept (src : Sender) (mtag groups : Nat) (s : State) [Can W .regs] [Can W .mram] [Can W .pins] [Can W .links] [Can W .tree] [Can W .pchs] [Can W .sleep] [Can W .side] [Can W .ev] [Can W .obs] [Can W .out] (hK : Kept P W Z s) : Kept P W Z (doPwrCmdS2 src mtag groups s) := by
  unfold doPwrCmdS2; try dsimp only
  repeat' (with_reducible first | exact hK | apply pwrCmd_kept)

theorem doPwrCmdGroupS1_kept (src : Sender) (mtag groups : Nat) (s : State) [Can W .regs] [Can W .mram] [Can W .pins] [Can W .links] [Can W .tree] [Can W .pchs] [Can W .sleep] [Can W .side] [Can W .ev] [Can W .obs] [Can W .out] (hK : Kept P W Z s) : Kept P W Z (doPwrCmdGroupS1 src mtag groups s) := by
  unfold doPwrCmdGroupS1; try dsimp only
  repeat' (with_reducible first | exact hK | apply pwrCmd_kept)

theorem queueSaplings_kept (s : State) (pc : Nat) [Can W .regs] [Can W .pchs] (hK : Kept P W Z s) : Kept P W Z (queueSaplings s pc) := by
  unfold queueSaplings; try dsimp only
  repeat' (with_reducible first | exact hK | intro _ | assumption | apply Kept.ite | apply settlePch_kept | apply modPch_kept | split)

theorem passPoint_kept (s : State) (e : Entering) (p : Nat) [Can W .regs] [Can W .sleep] (hK : Kept P W Z s) : Kept P W Z (passPoint s e p) := by
  unfold passPoint; try dsimp only
  repeat' (with_reducible first | exact hK | intro _ | assumption | apply modSleep_kept | apply wr_kept)

theorem doEntryE1_kept (s : State) [Can W .regs] [Can W .mram] [Can W .links] [Can W .tree] [Can W .pchs] [Can W .array] [Can W .stack] [Can W .sleep] [Can W .side] [Can W .ev] [Can W .obs] [Can W .out] [Can W .free] (hK : Kept P W Z s) : Kept P W Z (doEntryE1 s) := by
  unfold doEntryE1; try dsimp only
  repeat' (with_reducible first | exact hK | intro _ | assumption | apply Kept.ite | apply pauseWork_kept | apply stopBackground_kept | apply dropClasses_kept | apply passPoint_kept | apply forEach_kept | apply orderFlush_kept | apply queueSaplings_kept | apply forEach_kept | split)

theorem doEntryE2_kept (s : State) [Can W .regs] [Can W .sleep] (hK : Kept P W Z s) : Kept P W Z (doEntryE2 s) := by
  unfold doEntryE2; try dsimp only
  repeat' (with_reducible first | exact hK | apply Kept.ite | apply passPoint_kept | split)

theorem doEntryE3_kept (temps : List (Nat × Int)) (s : State) [Can W .regs] [Can W .mram] [Can W .sleep] (hK : Kept P W Z s) : Kept P W Z (doEntryE3 temps s) := by
  unfold doEntryE3; try dsimp only
  repeat' (with_reducible first | exact hK | intro _ | assumption | apply Kept.ite | apply passPoint_kept | apply modSleep_kept | apply persistAll_kept | apply saveBins_kept | split)

theorem doEntryE4_kept (s : State) [Can W .regs] [Can W .links] [Can W .sleep] [Can W .side] [Can W .ev] [Can W .obs] [Can W .out] (hK : Kept P W Z s) : Kept P W Z (doEntryE4 s) := by
  unfold doEntryE4; try dsimp only
  repeat' (with_reducible first | exact hK | intro _ | assumption | apply Kept.ite | apply wr_kept | apply bumpi_kept | apply answerAll_kept | apply modSleep_kept | apply raiseEv_kept | split)

theorem doEntryTimeout_kept (s : State) [Can W .regs] [Can W .pchs] [Can W .sleep] (hK : Kept P W Z s) : Kept P W Z (doEntryTimeout s) := by
  unfold doEntryTimeout; try dsimp only
  repeat' (with_reducible first | exact hK | apply Kept.ite | apply abortEntry_kept | split)

theorem doEntryUndo_kept (s : State) [Can W .regs] [Can W .pins] [Can W .links] [Can W .tree] [Can W .pchs] [Can W .sleep] [Can W .side] [Can W .ev] [Can W .obs] [Can W .out] (hK : Kept P W Z s) : Kept P W Z (doEntryUndo s) := by
  unfold doEntryUndo; try dsimp only
  repeat' (with_reducible first | exact hK | intro _ | assumption | apply Kept.ite | apply resumeWork_kept | apply modSleep_kept | apply wr_kept | apply modTree_kept | apply raiseEv_kept | apply answerAll_kept | apply forEach_kept | apply commandA0_kept | apply forEach_kept | split)

theorem doBinTableSaveDone_kept (s : State) [Can W .links] [Can W .sleep] (hK : Kept P W Z s) : Kept P W Z (doBinTableSaveDone s) := by
  unfold doBinTableSaveDone; try dsimp only
  repeat' (with_reducible first | exact hK | intro _ | assumption | apply Kept.ite | apply forEach_kept | apply modSleep_kept | apply requestL1_kept | apply forEach_kept | split)

theorem doL1Reached_kept (port : Nat) (s : State) [Can W .regs] [Can W .links] [Can W .agents] [Can W .flights] [Can W .tree] [Can W .home] [Can W .sleep] [Can W .side] [Can W .ev] [Can W .ledgers] [Can W .obs] [Can W .out] (hK : Kept P W Z s) : Kept P W Z (doL1Reached port s) := by
  unfold doL1Reached; try dsimp only
  repeat' (with_reducible first | exact hK | intro _ | assumption | apply Kept.ite | apply setPortState_kept | apply modLink_kept | apply enterLinkError_kept | apply linkReset_kept | split)

theorem loseCounts_kept (s : State) [Can W .obs] (hK : Kept P W Z s) : Kept P W Z (loseCounts s) := by
  unfold loseCounts; try dsimp only
  repeat' (with_reducible first | exact hK | intro _ | assumption | exact id | decide | apply Kept.ite | apply Kept.ite2 | apply Kept.ite3 | apply forEach_kept | apply setObs_kept | apply setUnitStatus_kept | apply forEach_kept | refine Kept.snd (by assumption) ?_ | refine Kept.snd3 (by assumption) ?_ | split)

theorem doBeatStop_kept (s : State) [Can W .regs] [Can W .pins] [Can W .time] [Can W .avs] [Can W .links] [Can W .sleep] [Can W .side] [Can W .ev] [Can W .obs] [Can W .out] (hK : Kept P W Z s) : Kept P W Z (doBeatStop s) := by
  unfold doBeatStop; try dsimp only
  repeat' (with_reducible first | exact hK | intro _ | assumption | exact id | apply Kept.ite | apply raiseEv_kept | apply wr_kept | apply stopBeat_kept | apply modSleep_kept | apply avsOrder_kept | (refine Kept.set_obs (Kept.set_avs (Kept.set_pins (Kept.eta ?_))) ?_; first | exact hK | apply raiseEv_kept | apply wr_kept | apply stopBeat_kept | apply modSleep_kept | apply avsOrder_kept) | split)

theorem doS2Wake_kept (s : State) [Can W .regs] [Can W .pins] [Can W .avs] [Can W .sleep] (hK : Kept P W Z s) : Kept P W Z (doS2Wake s) := by
  unfold doS2Wake; try dsimp only
  repeat' (with_reducible first | exact hK | intro _ | assumption | apply Kept.ite | apply modSleep_kept | apply wr_kept | apply avsOrder_kept | (refine Kept.set_pins (Kept.eta ?_); first | exact hK | apply modSleep_kept | apply wr_kept | apply avsOrder_kept) | split)

theorem restoreLink_kept (s : State) (n : Nat) [Can W .regs] [Can W .links] [Can W .agents] [Can W .flights] [Can W .tree] [Can W .home] [Can W .sleep] [Can W .side] [Can W .ev] [Can W .ledgers] [Can W .obs] [Can W .out] (hK : Kept P W Z s) : Kept P W Z (restoreLink s n) := by
  unfold restoreLink; try dsimp only
  repeat' (with_reducible first | exact hK | intro _ | assumption | apply Kept.ite | apply modLink_kept | apply enterLinkError_kept | split)

theorem leaveL1_kept (s : State) [Can W .regs] [Can W .links] [Can W .agents] [Can W .flights] [Can W .tree] [Can W .home] [Can W .sleep] [Can W .side] [Can W .ev] [Can W .ledgers] [Can W .obs] [Can W .out] (hK : Kept P W Z s) : Kept P W Z (leaveL1 s) := by
  unfold leaveL1; try dsimp only
  repeat' (with_reducible first | exact hK | intro _ | assumption | apply forEach_kept | apply restoreLink_kept | apply forEach_kept)

theorem readRefresh_kept (s : State) (sel : Nat → Bool) [Can W .regs] [Can W .chans] [Can W .slices] [Can W .obs] (hK : Kept P W Z s) : Kept P W Z (readRefresh s sel) := by
  unfold readRefresh; try dsimp only
  repeat' (with_reducible first | exact hK | intro _ | assumption | apply forEach_kept | apply modChan_kept | apply planAll_kept | apply forEach_kept)

theorem doBeatRestart_kept (s : State) [Can W .regs] [Can W .mram] [Can W .pins] [Can W .start] [Can W .time] [Can W .links] [Can W .agents] [Can W .flights] [Can W .tree] [Can W .home] [Can W .pchs] [Can W .chans] [Can W .slices] [Can W .array] [Can W .stack] [Can W .sleep] [Can W .side] [Can W .ev] [Can W .ledgers] [Can W .obs] [Can W .out] [Can W .free] (hK : Kept P W Z s) : Kept P W Z (doBeatRestart s) := by
  unfold doBeatRestart; try dsimp only
  repeat' (with_reducible first | exact hK | intro _ | assumption | apply Kept.ite | apply leaveL1_kept | apply startTrace_kept | apply loseCounts_kept | apply startBeat_kept | apply forEach_kept | apply modPch_kept | apply readRefresh_kept | apply restartClocks_kept | apply modSleep_kept | apply beginTrip_kept | apply forEach_kept | (refine Kept.set_start (Kept.eta ?_); first | exact hK | apply leaveL1_kept | apply startTrace_kept | apply loseCounts_kept | apply startBeat_kept | apply forEach_kept | apply modPch_kept | apply readRefresh_kept | apply restartClocks_kept | apply modSleep_kept | apply beginTrip_kept | apply forEach_kept) | split)

theorem doS1Exit_kept (groups : Nat) (s : State) [Can W .regs] [Can W .links] [Can W .agents] [Can W .flights] [Can W .tree] [Can W .home] [Can W .chans] [Can W .slices] [Can W .sleep] [Can W .side] [Can W .ev] [Can W .ledgers] [Can W .obs] [Can W .out] (hK : Kept P W Z s) : Kept P W Z (doS1Exit groups s) := by
  unfold doS1Exit; try dsimp only
  repeat' (with_reducible first | exact hK | intro _ | assumption | apply Kept.ite | apply modSleep_kept | apply wr_kept | apply readRefresh_kept | apply restartClocks_kept | apply leaveL1_kept | split)

theorem doPortL1Exit_kept (port : Nat) (s : State) [Can W .regs] [Can W .pins] [Can W .links] [Can W .agents] [Can W .flights] [Can W .tree] [Can W .home] [Can W .sleep] [Can W .side] [Can W .ev] [Can W .ledgers] [Can W .obs] [Can W .out] (hK : Kept P W Z s) : Kept P W Z (doPortL1Exit port s) := by
  unfold doPortL1Exit; try dsimp only
  repeat' (with_reducible first | exact hK | intro _ | assumption | apply Kept.ite | apply setPortState_kept | apply modLink_kept | apply orderLinkReset_kept | apply drainTx_kept | apply latchWake_kept | split)

theorem markSuspect_kept (s : State) (pc sid bank : Nat) [Can W .regs] [Can W .links] [Can W .stack] [Can W .side] [Can W .ev] [Can W .obs] [Can W .out] (hK : Kept P W Z s) : Kept P W Z (markSuspect s pc sid bank) := by
  unfold markSuspect; try dsimp only
  repeat' (with_reducible first | exact hK | apply Kept.ite | apply bump_kept | apply wr_kept | apply addSuspect_kept | apply raiseEv_kept | split)

theorem checkCount_kept (s : State) (x : Nat × Nat) [Can W .regs] [Can W .links] [Can W .stack] [Can W .side] [Can W .ev] [Can W .obs] [Can W .out] (hK : Kept P W Z s) : Kept P W Z (checkCount s x) := by
  unfold checkCount; try dsimp only
  repeat' (with_reducible first | exact hK | intro _ | assumption | apply Kept.ite | apply wri_kept | apply raiseEv_kept | apply bump_kept | apply forEach_kept | apply markSuspect_kept | apply forEach_kept | refine Kept.snd (by assumption) ?_ | split)

theorem checkSaplings_kept (s : State) (pc : Nat) (errs : List (Nat × BitVec 576)) [Can W .regs] [Can W .links] [Can W .array] [Can W .stack] [Can W .side] [Can W .ev] [Can W .obs] [Can W .out] [Can W .free] (hK : Kept P W Z s) :
    Kept P W Z (checkSaplings s pc errs) := by
  unfold checkSaplings
  generalize tget s.sleep.e4Seqs (pc / 8) 0 = seq
  refine forEach_kept _ _ _ ?_ hK
  rintro s ⟨key, i⟩ h
  exact Kept.ite (readCell_kept s pc key h) (markSuspect_kept _ _ _ _ (bump_kept _ _ (readCell_kept s pc key h)))

theorem wakeChecks_kept (s : State) (k : WakeReport) (sel : Nat → Bool) [Can W .regs] [Can W .links] [Can W .array] [Can W .stack] [Can W .side] [Can W .ev] [Can W .obs] [Can W .out] [Can W .free] (hK : Kept P W Z s) : Kept P W Z (wakeChecks s k sel) := by
  unfold wakeChecks; try dsimp only
  repeat' (with_reducible first | exact hK | intro _ | assumption | apply forEach_kept | apply checkCount_kept | apply checkSaplings_kept | apply forEach_kept)

theorem resumeLinks_kept (s : State) [Can W .regs] [Can W .links] [Can W .agents] [Can W .flights] [Can W .tree] [Can W .home] [Can W .pchs] [Can W .sleep] [Can W .side] [Can W .ev] [Can W .ledgers] [Can W .obs] [Can W .out] (hK : Kept P W Z s) : Kept P W Z (resumeLinks s) := by
  unfold resumeLinks; try dsimp only
  repeat' (with_reducible first | exact hK | intro _ | assumption | apply Kept.ite | apply modSleep_kept | apply forEach_kept | apply modLink_kept | apply treeArrive_kept | apply sendNak_kept | apply serveCtl_kept | apply forEach_kept | split)

theorem closeExit_kept (s : State) (st from_ : Nat) [Can W .regs] [Can W .links] [Can W .sleep] [Can W .side] [Can W .ev] [Can W .obs] [Can W .out] (hK : Kept P W Z s) : Kept P W Z (closeExit s st from_) := by
  unfold closeExit; try dsimp only
  repeat' (with_reducible first | exact hK | intro _ | assumption | apply Kept.ite | apply modSleep_kept | apply wri_kept | apply raiseEv_kept | apply answerAll_kept | split)

theorem leaveSleep_kept (s : State) [Can W .regs] [Can W .pins] [Can W .tree] [Can W .sleep] (hK : Kept P W Z s) : Kept P W Z (leaveSleep s) := by
  unfold leaveSleep; try dsimp only
  repeat' (with_reducible first | exact hK | intro _ | assumption | apply wr_kept | apply bumpWrap_kept | apply modSleep_kept | apply modTree_kept | (refine Kept.set_pins (Kept.eta ?_); first | exact hK | apply wr_kept | apply bumpWrap_kept | apply modSleep_kept | apply modTree_kept))

theorem doExitDispatchResume_kept (k : WakeReport) (s : State) [Can W .regs] [Can W .pins] [Can W .links] [Can W .agents] [Can W .flights] [Can W .tree] [Can W .home] [Can W .pchs] [Can W .array] [Can W .stack] [Can W .sleep] [Can W .side] [Can W .ev] [Can W .ledgers] [Can W .obs] [Can W .out] [Can W .free] (hK : Kept P W Z s) : Kept P W Z (doExitDispatchResume k s) := by
  unfold doExitDispatchResume; try dsimp only
  repeat' (with_reducible first | exact hK | intro _ | assumption | apply Kept.ite | apply wakeChecks_kept | apply closeExit_kept | apply leaveSleep_kept | apply resumeWork_kept | apply resumeLinks_kept | apply wr_kept | apply modSleep_kept | split)

theorem doWakeAt_kept (s : State) [Can W .regs] [Can W .pins] [Can W .pchs] [Can W .sleep] (hK : Kept P W Z s) : Kept P W Z (doWakeAt s) := by
  unfold doWakeAt; try dsimp only
  repeat' (with_reducible first | exact hK | apply Kept.ite | apply disturb_kept | apply wr_kept | split)

theorem doExtWake_kept (edges : Nat) (s : State) [Can W .regs] [Can W .pins] [Can W .links] [Can W .pchs] [Can W .sleep] [Can W .side] [Can W .ev] [Can W .obs] [Can W .out] (hK : Kept P W Z s) : Kept P W Z (doExtWake edges s) := by
  unfold doExtWake; try dsimp only
  repeat' (with_reducible first | exact hK | apply Kept.ite | apply disturb_kept | apply sampleEdges_kept | (refine Kept.set_pins (Kept.eta ?_); first | exact hK | apply disturb_kept | apply sampleEdges_kept) | split)

theorem doIslandIdleGate_kept (island : Nat) (s : State) [Can W .links] [Can W .sleep] [Can W .obs] (hK : Kept P W Z s) : Kept P W Z (doIslandIdleGate island s) := by
  unfold doIslandIdleGate; try dsimp only
  repeat' (with_reducible first | exact hK | intro _ | assumption | apply Kept.ite | apply modLink_kept | apply obsEvent_kept | apply modSleep_kept | split)

theorem settleGates_kept (s : State) [Can W .sleep] (hK : Kept P W Z s) : Kept P W Z (settleGates s) := by
  unfold settleGates; try dsimp only
  repeat' (with_reducible first | exact hK | intro _ | assumption | apply modSleep_kept)

theorem doTimeNext_kept (port value : Nat) (s : State) [Can W .regs] [Can W .time] [Can W .links] [Can W .agents] [Can W .flights] [Can W .tree] [Can W .home] [Can W .sleep] [Can W .side] [Can W .ev] [Can W .ledgers] [Can W .obs] [Can W .out] (hK : Kept P W Z s) : Kept P W Z (doTimeNext port value s) := by
  unfold doTimeNext; try dsimp only
  repeat' (with_reducible first | exact hK | apply Kept.ite | apply bumpi_kept | apply forceLinkError_kept | apply nameEdge_kept | apply returnCredit_kept | apply takeCredit_kept | split)

theorem accessRead_kept (src : Sender) (mtag index sub : Nat) (body : Nat → State → Nat × Nat × State) (s : State) [Can W .regs] [Can W .links] [Can W .side] [Can W .obs] [Can W .out] (hK : Kept P W Z s) (hbody : ∀ m s, Kept P W Z s → Kept P W Z (body m s).2.2) : Kept P W Z (accessRead src mtag index sub body s) := by
  unfold accessRead; try dsimp only
  repeat' (with_reducible first | exact hK | intro _ | apply hbody | assumption | apply Kept.ite | apply Kept.ite2 | apply turnAway_kept | apply takeMgtCredit_kept | apply refuse_kept | apply grant_kept | refine Kept.snd (by assumption) ?_ | split)

theorem modMbx_kept (s : State) (ch : Nat) (f : Mbx → Mbx) [Can W .mbx] (hK : Kept P W Z s) : Kept P W Z (modMbx s ch f) := by
  unfold modMbx; try dsimp only
  repeat' (with_reducible first | exact hK | (refine Kept.set_mbx (Kept.eta ?_); first | exact hK))

theorem setTimeout_kept (s : State) (ch : Nat) [Can W .regs] [Can W .links] [Can W .mbx] [Can W .side] [Can W .ev] [Can W .obs] [Can W .out] (hK : Kept P W Z s) : Kept P W Z (setTimeout s ch) := by
  unfold setTimeout; try dsimp only
  repeat' (with_reducible first | exact hK | intro _ | assumption | apply Kept.ite | apply raiseEv_kept | apply modMbx_kept | split)

theorem masterEnters_kept (s : State) (m k : Nat) [Can W .regs] [Can W .links] [Can W .mbx] [Can W .side] [Can W .ev] [Can W .obs] [Can W .out] (hK : Kept P W Z s) : Kept P W Z (masterEnters s m k) := by
  unfold masterEnters; try dsimp only
  repeat' (with_reducible first | exact hK | intro _ | assumption | apply Kept.ite | apply forEach_kept | apply modMbx_kept | apply setTimeout_kept | apply raiseEv_kept | apply forEach_kept | split)

theorem watchMasters_kept (s : State) [Can W .regs] [Can W .links] [Can W .mbx] [Can W .masters] [Can W .side] [Can W .ev] [Can W .obs] [Can W .out] (hK : Kept P W Z s) : Kept P W Z (watchMasters s) := by
  unfold watchMasters; try dsimp only
  repeat' (with_reducible first | exact hK | intro _ | assumption | exact id | decide | apply Kept.ite | apply Kept.ite2 | apply Kept.ite3 | apply forEach_kept | apply masterEnters_kept | apply forEach_kept | refine Kept.snd (by assumption) ?_ | refine Kept.snd3 (by assumption) ?_ | (refine Kept.set_masters (Kept.eta ?_); first | exact hK | assumption | apply Kept.ite | apply forEach_kept | apply masterEnters_kept | apply forEach_kept | refine Kept.snd (by assumption) ?_) | split)

theorem actMbxPost_kept (ch : Nat) (m v : Nat) (s : State) [Can W .regs] [Can W .links] [Can W .mbx] [Can W .side] [Can W .ev] [Can W .obs] [Can W .out] (hK : Kept P W Z s) : Kept P W Z (actMbxPost ch m v s).2 := by
  unfold actMbxPost; try dsimp only
  repeat' (with_reducible first | exact hK | intro _ | assumption | apply Kept.ite | apply Kept.ite2 | apply modMbx_kept | apply obsEvent_kept | apply raiseEv_kept | apply setTimeout_kept | split)

theorem doMgtMbxPost_kept (src : Sender) (mtag channel value : Nat) (s : State) [Can W .regs] [Can W .links] [Can W .mbx] [Can W .side] [Can W .ev] [Can W .obs] [Can W .out] (hK : Kept P W Z s) : Kept P W Z (doMgtMbxPost src mtag channel value s) := by
  unfold doMgtMbxPost; try dsimp only
  repeat' (with_reducible first | exact hK | intro _ | assumption | exact id | decide | apply Kept.ite | apply Kept.ite2 | apply Kept.ite3 | apply accessWrite_kept | apply actMbxPost_kept | refine Kept.snd (by assumption) ?_ | refine Kept.snd3 (by assumption) ?_ | split)

theorem takeMbx_kept (ch : Nat) (m : Nat) (s : State) [Can W .mbx] (hK : Kept P W Z s) : Kept P W Z (takeMbx ch m s).2.2 := by
  unfold takeMbx; try dsimp only
  repeat' (with_reducible first | exact hK | intro _ | assumption | apply Kept.ite | apply Kept.ite2 | apply Kept.ite3 | apply modMbx_kept | split)

theorem doMgtMbxTake_kept (src : Sender) (mtag channel : Nat) (s : State) [Can W .regs] [Can W .links] [Can W .mbx] [Can W .side] [Can W .obs] [Can W .out] (hK : Kept P W Z s) : Kept P W Z (doMgtMbxTake src mtag channel s) := by
  unfold doMgtMbxTake; try dsimp only
  repeat' (with_reducible first | exact hK | intro _ | assumption | exact id | decide | apply Kept.ite | apply Kept.ite2 | apply Kept.ite3 | apply accessRead_kept | apply takeMbx_kept | refine Kept.snd (by assumption) ?_ | refine Kept.snd3 (by assumption) ?_ | split)

theorem lockMbx_kept (ch : Nat) (m : Nat) (s : State) [Can W .mbx] (hK : Kept P W Z s) : Kept P W Z (lockMbx ch m s).2.2 := by
  unfold lockMbx; try dsimp only
  repeat' (with_reducible first | exact hK | intro _ | assumption | apply Kept.ite | apply Kept.ite2 | apply Kept.ite3 | apply modMbx_kept | split)

theorem doMgtMbxLockAcquire_kept (src : Sender) (mtag channel : Nat) (s : State) [Can W .regs] [Can W .links] [Can W .mbx] [Can W .side] [Can W .obs] [Can W .out] (hK : Kept P W Z s) : Kept P W Z (doMgtMbxLockAcquire src mtag channel s) := by
  unfold doMgtMbxLockAcquire; try dsimp only
  repeat' (with_reducible first | exact hK | intro _ | assumption | exact id | decide | apply Kept.ite | apply Kept.ite2 | apply Kept.ite3 | apply accessRead_kept | apply lockMbx_kept | refine Kept.snd (by assumption) ?_ | refine Kept.snd3 (by assumption) ?_ | split)

theorem actMbxRelease_kept (ch : Nat) (m v : Nat) (s : State) [Can W .mbx] (hK : Kept P W Z s) : Kept P W Z (actMbxRelease ch m v s).2 := by
  unfold actMbxRelease; try dsimp only
  repeat' (with_reducible first | exact hK | intro _ | assumption | apply Kept.ite | apply Kept.ite2 | apply modMbx_kept | split)

theorem doMgtMbxLockRelease_kept (src : Sender) (mtag channel value : Nat) (s : State) [Can W .regs] [Can W .links] [Can W .mbx] [Can W .side] [Can W .obs] [Can W .out] (hK : Kept P W Z s) : Kept P W Z (doMgtMbxLockRelease src mtag channel value s) := by
  unfold doMgtMbxLockRelease; try dsimp only
  repeat' (with_reducible first | exact hK | intro _ | assumption | exact id | decide | apply Kept.ite | apply Kept.ite2 | apply Kept.ite3 | apply accessWrite_kept | apply actMbxRelease_kept | refine Kept.snd (by assumption) ?_ | refine Kept.snd3 (by assumption) ?_ | split)

theorem actMbxBind_kept (ch : Nat) (x1_ v : Nat) (s : State) [Can W .regs] (hK : Kept P W Z s) : Kept P W Z (actMbxBind ch x1_ v s).2 := by
  unfold actMbxBind; try dsimp only
  repeat' (with_reducible first | exact hK | apply Kept.ite | apply Kept.ite2 | apply wri_kept | split)

theorem doMgtMbxBind_kept (a : Access) (channel : Nat) (s : State) [Can W .regs] [Can W .links] [Can W .side] [Can W .obs] [Can W .out] (hK : Kept P W Z s) : Kept P W Z (doMgtMbxBind a channel s) := by
  unfold doMgtMbxBind; try dsimp only
  repeat' (with_reducible first | exact hK | intro _ | assumption | exact id | decide | apply Kept.ite | apply Kept.ite2 | apply Kept.ite3 | apply accessWrite_kept | apply actMbxBind_kept | refine Kept.snd (by assumption) ?_ | refine Kept.snd3 (by assumption) ?_ | split)

theorem actTableLock_kept (x1_ x2_ : Nat) (s : State) [Can W .regs] (hK : Kept P W Z s) : Kept P W Z (actTableLock x1_ x2_ s).2 := by
  unfold actTableLock; try dsimp only
  repeat' (with_reducible first | exact hK | apply wr_kept)

theorem doMgtMbxTableLock_kept (a : Access) (s : State) [Can W .regs] [Can W .links] [Can W .side] [Can W .obs] [Can W .out] (hK : Kept P W Z s) : Kept P W Z (doMgtMbxTableLock a s) := by
  unfold doMgtMbxTableLock; try dsimp only
  repeat' (with_reducible first | exact hK | intro _ | assumption | exact id | decide | apply Kept.ite | apply Kept.ite2 | apply Kept.ite3 | apply accessWrite_kept | apply actTableLock_kept | refine Kept.snd (by assumption) ?_ | refine Kept.snd3 (by assumption) ?_ | split)

theorem actMasterSleep_kept (master : Nat) (x1_ v : Nat) (s : State) [Can W .regs] [Can W .links] [Can W .mbx] [Can W .masters] [Can W .side] [Can W .ev] [Can W .obs] [Can W .out] (hK : Kept P W Z s) : Kept P W Z (actMasterSleep master x1_ v s).2 := by
  unfold actMasterSleep; try dsimp only
  repeat' (with_reducible first | exact hK | apply watchMasters_kept | apply wri_kept)

theorem doMgtMasterSleep_kept (a : Access) (master : Nat) (s : State) [Can W .regs] [Can W .links] [Can W .mbx] [Can W .masters] [Can W .side] [Can W .ev] [Can W .obs] [Can W .out] (hK : Kept P W Z s) : Kept P W Z (doMgtMasterSleep a master s) := by
  unfold doMgtMasterSleep; try dsimp only
  repeat' (with_reducible first | exact hK | intro _ | assumption | exact id | decide | apply Kept.ite | apply Kept.ite2 | apply Kept.ite3 | apply accessWrite_kept | apply actMasterSleep_kept | refine Kept.snd (by assumption) ?_ | refine Kept.snd3 (by assumption) ?_ | split)

theorem doMbxTimeout_kept (channel : Nat) (s : State) [Can W .regs] [Can W .links] [Can W .mbx] [Can W .side] [Can W .ev] [Can W .obs] [Can W .out] (hK : Kept P W Z s) : Kept P W Z (doMbxTimeout channel s) := by
  unfold doMbxTimeout; try dsimp only
  repeat' (with_reducible first | exact hK | intro _ | assumption | apply Kept.ite | apply setTimeout_kept | apply modMbx_kept | apply forEach_kept | apply raiseEv_kept | apply forEach_kept | split)

theorem actMbxStatus_kept (ch : Nat) (x1_ v : Nat) (s : State) [Can W .mbx] (hK : Kept P W Z s) : Kept P W Z (actMbxStatus ch x1_ v s).2 := by
  unfold actMbxStatus; try dsimp only
  repeat' (with_reducible first | exact hK | intro _ | assumption | apply modMbx_kept)

theorem actMbxMode_kept (ch : Nat) (x1_ v : Nat) (s : State) [Can W .regs] (hK : Kept P W Z s) : Kept P W Z (actMbxMode ch x1_ v s).2 := by
  unfold actMbxMode; try dsimp only
  repeat' (with_reducible first | exact hK | apply Kept.ite | apply Kept.ite2 | apply wri_kept | split)

theorem actDictLock_kept (x1_ x2_ : Nat) (s : State) [Can W .regs] (hK : Kept P W Z s) : Kept P W Z (actDictLock x1_ x2_ s).2 := by
  unfold actDictLock; try dsimp only
  repeat' (with_reducible first | exact hK | apply wr_kept)

theorem doMgtDictLock_kept (a : Access) (s : State) [Can W .regs] [Can W .links] [Can W .side] [Can W .obs] [Can W .out] (hK : Kept P W Z s) : Kept P W Z (doMgtDictLock a s) := by
  unfold doMgtDictLock; try dsimp only
  repeat' (with_reducible first | exact hK | intro _ | assumption | exact id | decide | apply Kept.ite | apply Kept.ite2 | apply Kept.ite3 | apply accessWrite_kept | apply actDictLock_kept | refine Kept.snd (by assumption) ?_ | refine Kept.snd3 (by assumption) ?_ | split)

theorem actPersistErase_kept (x1_ x2_ : Nat) (s : State) [Can W .mram] (hK : Kept P W Z s) : Kept P W Z (actPersistErase x1_ x2_ s).2 := by
  unfold actPersistErase; try dsimp only
  repeat' (with_reducible first | exact hK | (refine Kept.set_mram (Kept.eta ?_); first | exact hK))

theorem doMgtPersistErase_kept (a : Access) (s : State) [Can W .regs] [Can W .mram] [Can W .links] [Can W .side] [Can W .obs] [Can W .out] (hK : Kept P W Z s) : Kept P W Z (doMgtPersistErase a s) := by
  unfold doMgtPersistErase; try dsimp only
  repeat' (with_reducible first | exact hK | intro _ | assumption | exact id | decide | apply Kept.ite | apply Kept.ite2 | apply Kept.ite3 | apply accessWrite_kept | apply actPersistErase_kept | refine Kept.snd (by assumption) ?_ | refine Kept.snd3 (by assumption) ?_ | split)

theorem storeItem_kept (s : State) (x : PersistItem) [Can W .mram] (hK : Kept P W Z s) : Kept P W Z (storeItem s x) := by
  cases x
  case entry => unfold storeItem; exact Kept.ite hK (persistKey_kept _ _ hK)
  case classLog => exact persistClassLog_kept _ hK
  case pinnedLeaf => exact persistLeaf_kept _ _ hK

theorem doPersistStore_kept (item : PersistItem) (worn : Bool) (s : State) [Can W .regs] [Can W .mram] [Can W .links] [Can W .side] [Can W .ev] [Can W .obs] [Can W .out] (hK : Kept P W Z s) : Kept P W Z (doPersistStore item worn s) := by
  unfold doPersistStore; try dsimp only
  repeat' (with_reducible first | exact hK | apply Kept.ite | apply storeItem_kept | apply raiseEv_kept | split)

theorem actDescribe_kept (m v : Nat) (s : State) [Can W .dict] (hK : Kept P W Z s) : Kept P W Z (actDescribe m v s).2 := by
  unfold actDescribe; try dsimp only
  repeat' (with_reducible first | exact hK | (refine Kept.set_dict (Kept.eta ?_); first | exact hK))

theorem doMgtDescribe_kept (a : Access) (s : State) [Can W .regs] [Can W .dict] [Can W .links] [Can W .side] [Can W .obs] [Can W .out] (hK : Kept P W Z s) : Kept P W Z (doMgtDescribe a s) := by
  unfold doMgtDescribe; try dsimp only
  repeat' (with_reducible first | exact hK | intro _ | assumption | exact id | decide | apply Kept.ite | apply Kept.ite2 | apply Kept.ite3 | apply accessWrite_kept | apply actDescribe_kept | refine Kept.snd (by assumption) ?_ | refine Kept.snd3 (by assumption) ?_ | split)

theorem doMgtDescriptorDone_kept (master : Nat) (s : State) [Can W .dict] (hK : Kept P W Z s) : Kept P W Z (doMgtDescriptorDone master s) := by
  unfold doMgtDescriptorDone; try dsimp only
  repeat' (with_reducible first | exact hK | apply Kept.ite | (refine Kept.set_dict (Kept.eta ?_); first | exact hK) | split)

theorem doBlobStagingTimeout_kept (master : Nat) (s : State) [Can W .dict] (hK : Kept P W Z s) : Kept P W Z (doBlobStagingTimeout master s) := by
  unfold doBlobStagingTimeout; try dsimp only
  repeat' (with_reducible first | exact hK | apply Kept.ite | (refine Kept.set_dict (Kept.eta ?_); first | exact hK) | split)

theorem settleOutbound_kept (s : State) [Can W .side] [Can W .out] (hK : Kept P W Z s) : Kept P W Z (settleOutbound s) := by
  unfold settleOutbound
  refine pendingIbi_kept _ (Kept.set_side (Kept.eta hK) (fun h => ?_) (fun h => ?_))
  · show Fifo.ok (settleOut (skipFrames s.side 512) 512).inb
    rw [(settleOut_side _ _).2, (skipFrames_side _ _).2]; exact h
  · exact settleOut_ok _ _ (skipFrames_ok _ _ h)

theorem correctedWord_kept (s : State) [Can W .regs] [Can W .links] [Can W .side] [Can W .ev] [Can W .obs] [Can W .out] (hK : Kept P W Z s) : Kept P W Z (correctedWord s) := by
  unfold correctedWord; try dsimp only
  repeat' (with_reducible first | exact hK | apply raiseFirst_kept | apply bump_kept)

theorem frameLeaves_kept (s : State) (x : FrameRead) (ws : List Nat) [Can W .regs] [Can W .links] [Can W .side] [Can W .ev] [Can W .obs] [Can W .out] (hK : Kept P W Z s) : Kept P W Z (frameLeaves s x ws) := by
  unfold frameLeaves; try dsimp only
  repeat' (with_reducible first | exact hK | apply emit_kept | apply correctedWord_kept | apply bump_kept | split)

theorem doOutboundFrameRead_kept (x : FrameRead) (s : State) [Can W .regs] [Can W .links] [Can W .side] [Can W .ev] [Can W .obs] [Can W .out] (hK : Kept P W Z s) : Kept P W Z (doOutboundFrameRead x s) := by
  unfold doOutboundFrameRead
  split
  · exact hK
  · rename_i h
    have hne : s.side.outb.isEmpty ≠ true := fun e => h (by simp [e])
    have h1 := fun hI => Fifo.ok_frame (f := s.side.outb) (n := 512) hI hne
    generalize s.side.outb.frameAt s.side.outb.r 512 = y at *
    obtain ⟨ws, r⟩ := y
    dsimp only at *
    exact settleOutbound_kept _ (obsEvent_kept _ _ _ _ (frameLeaves_kept _ _ _ (Kept.set_side (Kept.eta hK) id h1)))

theorem doIbiRepeat_kept (s : State) [Can W .side] [Can W .out] (hK : Kept P W Z s) : Kept P W Z (doIbiRepeat s) := by
  unfold doIbiRepeat; try dsimp only
  repeat' (with_reducible first | exact hK | exact id | apply Kept.ite | apply emit_kept | (refine Kept.set_side (Kept.eta ?_) ?_ ?_; first | exact hK | apply emit_kept) | split)

theorem actSbFlush_kept (x1_ v : Nat) (s : State) [Can W .regs] [Can W .side] [Can W .out] (hK : Kept P W Z s) : Kept P W Z (actSbFlush x1_ v s).2 := by
  unfold actSbFlush; try dsimp only
  repeat' (with_reducible first | exact hK | apply Kept.ite | apply Kept.ite2 | apply flushTelemetry_kept | apply flushControl_kept | apply settleOutbound_kept | split)

theorem doSbFlushTelemetry_kept (a : Access) (s : State) [Can W .regs] [Can W .links] [Can W .side] [Can W .obs] [Can W .out] (hK : Kept P W Z s) : Kept P W Z (doSbFlushTelemetry a s) := by
  unfold doSbFlushTelemetry; try dsimp only
  repeat' (with_reducible first | exact hK | intro _ | assumption | exact id | decide | apply Kept.ite | apply Kept.ite2 | apply Kept.ite3 | apply accessWrite_kept | apply actSbFlush_kept | refine Kept.snd (by assumption) ?_ | refine Kept.snd3 (by assumption) ?_ | split)

theorem doSbFlushControl_kept (a : Access) (s : State) [Can W .regs] [Can W .links] [Can W .side] [Can W .obs] [Can W .out] (hK : Kept P W Z s) : Kept P W Z (doSbFlushControl a s) := by
  unfold doSbFlushControl; try dsimp only
  repeat' (with_reducible first | exact hK | intro _ | assumption | exact id | decide | apply Kept.ite | apply Kept.ite2 | apply Kept.ite3 | apply accessWrite_kept | apply actSbFlush_kept | refine Kept.snd (by assumption) ?_ | refine Kept.snd3 (by assumption) ?_ | split)

theorem doSbFlushBoth_kept (a : Access) (s : State) [Can W .regs] [Can W .links] [Can W .side] [Can W .obs] [Can W .out] (hK : Kept P W Z s) : Kept P W Z (doSbFlushBoth a s) := by
  unfold doSbFlushBoth; try dsimp only
  repeat' (with_reducible first | exact hK | intro _ | assumption | exact id | decide | apply Kept.ite | apply Kept.ite2 | apply Kept.ite3 | apply accessWrite_kept | apply actSbFlush_kept | refine Kept.snd (by assumption) ?_ | refine Kept.snd3 (by assumption) ?_ | split)

theorem storeAll_kept (s : State) [Can W .mram] (hK : Kept P W Z s) : Kept P W Z (storeAll s) := by
  unfold storeAll; try dsimp only
  repeat' (with_reducible first | exact hK | apply persistAll_kept | apply doMapTableStoreDone_kept)

theorem orderBlockReset_kept (s : State) (cause : Nat) [Can W .regs] [Can W .dict] [Can W .mram] [Can W .pins] [Can W .start] [Can W .fuses] [Can W .time] [Can W .avs] [Can W .links] [Can W .agents] [Can W .flights] [Can W .tree] [Can W .home] [Can W .pchs] [Can W .chans] [Can W .slices] [Can W .array] [Can W .stack] [Can W .sleep] [Can W .mbx] [Can W .masters] [Can W .side] [Can W .ump] [Can W .images] [Can W .ev] [Can W .funs] [Can W .ledgers] [Can W .obs] [Can W .out] [Can W .now] [Can W .uid] [Can W .free] (hK : Kept P W Z s) : Kept P W Z (orderBlockReset s cause) := by
  unfold orderBlockReset; try dsimp only
  repeat' (with_reducible first | exact hK | intro _ | assumption | apply Kept.ite | apply blockReset_kept | apply storeAll_kept | apply modTree_kept | apply forEach_kept | apply orderLinkReset_kept | apply orderFlush_kept | apply forEach_kept | (refine Kept.set_start (Kept.eta ?_); first | exact hK | apply blockReset_kept | apply storeAll_kept | apply modTree_kept | apply forEach_kept | apply orderLinkReset_kept | apply orderFlush_kept | apply forEach_kept) | split)

theorem doCommandedResetEffect_kept (s : State) [Can W .regs] [Can W .dict] [Can W .mram] [Can W .pins] [Can W .start] [Can W .fuses] [Can W .time] [Can W .avs] [Can W .links] [Can W .agents] [Can W .flights] [Can W .tree] [Can W .home] [Can W .pchs] [Can W .chans] [Can W .slices] [Can W .array] [Can W .stack] [Can W .sleep] [Can W .mbx] [Can W .masters] [Can W .side] [Can W .ump] [Can W .images] [Can W .ev] [Can W .funs] [Can W .ledgers] [Can W .obs] [Can W .out] [Can W .now] [Can W .uid] [Can W .free] (hK : Kept P W Z s) : Kept P W Z (doCommandedResetEffect s) := by
  unfold doCommandedResetEffect; try dsimp only
  repeat' (with_reducible first | exact hK | intro _ | assumption | apply Kept.ite | apply blockReset_kept | apply storeAll_kept | split)

theorem actBlockReset_kept (x1_ x2_ : Nat) (s : State) [Can W .regs] [Can W .dict] [Can W .mram] [Can W .pins] [Can W .start] [Can W .fuses] [Can W .time] [Can W .avs] [Can W .links] [Can W .agents] [Can W .flights] [Can W .tree] [Can W .home] [Can W .pchs] [Can W .chans] [Can W .slices] [Can W .array] [Can W .stack] [Can W .sleep] [Can W .mbx] [Can W .masters] [Can W .side] [Can W .ump] [Can W .images] [Can W .ev] [Can W .funs] [Can W .ledgers] [Can W .obs] [Can W .out] [Can W .now] [Can W .uid] [Can W .free] (hK : Kept P W Z s) : Kept P W Z (actBlockReset x1_ x2_ s).2 := by
  unfold actBlockReset; try dsimp only
  repeat' (with_reducible first | exact hK | apply orderBlockReset_kept)

theorem restartUmpires_kept (s : State) (cause : Nat) [Can W .regs] [Can W .links] [Can W .mbx] [Can W .masters] [Can W .side] [Can W .ump] [Can W .ev] [Can W .obs] [Can W .out] (hK : Kept P W Z s) : Kept P W Z (restartUmpires s cause) := by
  unfold restartUmpires; try dsimp only
  repeat' (with_reducible first | exact hK | apply wr_kept | apply bump_kept | apply watchMasters_kept | (refine Kept.set_ump (Kept.eta ?_); first | exact hK | apply wr_kept | apply bump_kept | apply watchMasters_kept))

theorem rollBack_kept (s : State) (cause : Nat) [Can W .regs] (hK : Kept P W Z s) : Kept P W Z (rollBack s cause) := by
  unfold rollBack; try dsimp only
  repeat' (with_reducible first | exact hK | apply wr_kept | apply wri_kept | apply bump_kept)

theorem umpireFault_kept (s : State) (cause ev : Nat) [Can W .regs] [Can W .dict] [Can W .mram] [Can W .pins] [Can W .start] [Can W .fuses] [Can W .time] [Can W .avs] [Can W .links] [Can W .agents] [Can W .flights] [Can W .tree] [Can W .home] [Can W .pchs] [Can W .chans] [Can W .slices] [Can W .array] [Can W .stack] [Can W .sleep] [Can W .mbx] [Can W .masters] [Can W .side] [Can W .ump] [Can W .images] [Can W .ev] [Can W .funs] [Can W .ledgers] [Can W .obs] [Can W .out] [Can W .now] [Can W .uid] [Can W .free] (hK : Kept P W Z s) : Kept P W Z (umpireFault s cause ev) := by
  unfold umpireFault; try dsimp only
  repeat' (with_reducible first | exact hK | intro _ | assumption | apply Kept.ite | apply rollBack_kept | apply orderBlockReset_kept | apply raiseEv_kept | apply restartUmpires_kept | (refine Kept.set_ump (Kept.eta ?_); first | exact hK | apply rollBack_kept | apply orderBlockReset_kept | apply raiseEv_kept | apply restartUmpires_kept) | split)

theorem doUmpireLockstepMismatch_kept (s : State) [Can W .regs] [Can W .dict] [Can W .mram] [Can W .pins] [Can W .start] [Can W .fuses] [Can W .time] [Can W .avs] [Can W .links] [Can W .agents] [Can W .flights] [Can W .tree] [Can W .home] [Can W .pchs] [Can W .chans] [Can W .slices] [Can W .array] [Can W .stack] [Can W .sleep] [Can W .mbx] [Can W .masters] [Can W .side] [Can W .ump] [Can W .images] [Can W .ev] [Can W .funs] [Can W .ledgers] [Can W .obs] [Can W .out] [Can W .now] [Can W .uid] [Can W .free] (hK : Kept P W Z s) : Kept P W Z (doUmpireLockstepMismatch s) := by
  unfold doUmpireLockstepMismatch; try dsimp only
  repeat' (with_reducible first | exact hK | apply umpireFault_kept)

theorem doUmpireWatchdogExpiry_kept (s : State) [Can W .regs] [Can W .dict] [Can W .mram] [Can W .pins] [Can W .start] [Can W .fuses] [Can W .time] [Can W .avs] [Can W .links] [Can W .agents] [Can W .flights] [Can W .tree] [Can W .home] [Can W .pchs] [Can W .chans] [Can W .slices] [Can W .array] [Can W .stack] [Can W .sleep] [Can W .mbx] [Can W .masters] [Can W .side] [Can W .ump] [Can W .images] [Can W .ev] [Can W .funs] [Can W .ledgers] [Can W .obs] [Can W .out] [Can W .now] [Can W .uid] [Can W .free] (hK : Kept P W Z s) : Kept P W Z (doUmpireWatchdogExpiry s) := by
  unfold doUmpireWatchdogExpiry; try dsimp only
  repeat' (with_reducible first | exact hK | apply Kept.ite | apply umpireFault_kept | split)

theorem actUmpireRestart_kept (x1_ x2_ : Nat) (s : State) [Can W .regs] [Can W .links] [Can W .mbx] [Can W .masters] [Can W .side] [Can W .ump] [Can W .ev] [Can W .obs] [Can W .out] (hK : Kept P W Z s) : Kept P W Z (actUmpireRestart x1_ x2_ s).2 := by
  unfold actUmpireRestart; try dsimp only
  repeat' (with_reducible first | exact hK | apply Kept.ite | apply Kept.ite2 | apply restartUmpires_kept | split)

theorem doMgtUmpireRestart_kept (a : Access) (s : State) [Can W .regs] [Can W .links] [Can W .mbx] [Can W .masters] [Can W .side] [Can W .ump] [Can W .ev] [Can W .obs] [Can W .out] (hK : Kept P W Z s) : Kept P W Z (doMgtUmpireRestart a s) := by
  unfold doMgtUmpireRestart; try dsimp only
  repeat' (with_reducible first | exact hK | intro _ | assumption | exact id | decide | apply Kept.ite | apply Kept.ite2 | apply Kept.ite3 | apply accessWrite_kept | apply actUmpireRestart_kept | refine Kept.snd (by assumption) ?_ | refine Kept.snd3 (by assumption) ?_ | split)

theorem doUmpireRestartDone_kept (s : State) [Can W .regs] [Can W .links] [Can W .mbx] [Can W .masters] [Can W .side] [Can W .ump] [Can W .ev] [Can W .obs] [Can W .out] (hK : Kept P W Z s) : Kept P W Z (doUmpireRestartDone s) := by
  unfold doUmpireRestartDone; try dsimp only
  repeat' (with_reducible first | exact hK | intro _ | assumption | apply Kept.ite | apply wr_kept | apply watchMasters_kept | apply forEach_kept | apply deliverTo_kept | apply forEach_kept | (refine Kept.set_ump (Kept.eta ?_); first | exact hK | apply wr_kept | apply watchMasters_kept | apply forEach_kept | apply deliverTo_kept | apply forEach_kept) | split)

theorem setImage_kept (s : State) (slot : Nat) (i : ImageSlot) [Can W .images] (hK : Kept P W Z s) : Kept P W Z (setImage s slot i) := by
  unfold setImage; try dsimp only
  repeat' (with_reducible first | exact hK | (refine Kept.set_images (Kept.eta ?_); first | exact hK))

theorem actLoadBegin_kept (x1_ x2_ : Nat) (s : State) [Can W .regs] [Can W .images] (hK : Kept P W Z s) : Kept P W Z (actLoadBegin x1_ x2_ s).2 := by
  unfold actLoadBegin; try dsimp only
  repeat' (with_reducible first | exact hK | apply Kept.ite | apply Kept.ite2 | apply wri_kept | apply wr_kept | apply setImage_kept | split)

theorem doUpgLoadBegin_kept (a : Access) (s : State) [Can W .regs] [Can W .links] [Can W .side] [Can W .images] [Can W .obs] [Can W .out] (hK : Kept P W Z s) : Kept P W Z (doUpgLoadBegin a s) := by
  unfold doUpgLoadBegin; try dsimp only
  repeat' (with_reducible first | exact hK | intro _ | assumption | exact id | decide | apply Kept.ite | apply Kept.ite2 | apply Kept.ite3 | apply accessWrite_kept | apply actLoadBegin_kept | refine Kept.snd (by assumption) ?_ | refine Kept.snd3 (by assumption) ?_ | split)

theorem actLoadData_kept (block : BitVec 32768) (x1_ x2_ : Nat) (s : State) [Can W .regs] [Can W .images] (hK : Kept P W Z s) : Kept P W Z (actLoadData block x1_ x2_ s).2 := by
  unfold actLoadData; try dsimp only
  repeat' (with_reducible first | exact hK | apply Kept.ite | apply Kept.ite2 | apply wr_kept | apply setImage_kept | split)

theorem doUpgLoadData_kept (a : Access) (block : BitVec 32768) (s : State) [Can W .regs] [Can W .links] [Can W .side] [Can W .images] [Can W .obs] [Can W .out] (hK : Kept P W Z s) : Kept P W Z (doUpgLoadData a block s) := by
  unfold doUpgLoadData; try dsimp only
  repeat' (with_reducible first | exact hK | intro _ | assumption | exact id | decide | apply Kept.ite | apply Kept.ite2 | apply Kept.ite3 | apply accessWrite_kept | apply actLoadData_kept | refine Kept.snd (by assumption) ?_ | refine Kept.snd3 (by assumption) ?_ | split)

theorem actVerify_kept (x1_ x2_ : Nat) (s : State) [Can W .regs] [Can W .ump] (hK : Kept P W Z s) : Kept P W Z (actVerify x1_ x2_ s).2 := by
  unfold actVerify; try dsimp only
  repeat' (with_reducible first | exact hK | apply wr_kept | (refine Kept.set_ump (Kept.eta ?_); first | exact hK | apply wr_kept))

theorem doUpgVerify_kept (a : Access) (s : State) [Can W .regs] [Can W .links] [Can W .side] [Can W .ump] [Can W .obs] [Can W .out] (hK : Kept P W Z s) : Kept P W Z (doUpgVerify a s) := by
  unfold doUpgVerify; try dsimp only
  repeat' (with_reducible first | exact hK | intro _ | assumption | exact id | decide | apply Kept.ite | apply Kept.ite2 | apply Kept.ite3 | apply accessWrite_kept | apply actVerify_kept | refine Kept.snd (by assumption) ?_ | refine Kept.snd3 (by assumption) ?_ | split)

theorem doUpgVerifyDone_kept (v : ImageCheck) (s : State) [Can W .regs] [Can W .images] (hK : Kept P W Z s) : Kept P W Z (doUpgVerifyDone v s) := by
  unfold doUpgVerifyDone; try dsimp only
  repeat' (with_reducible first | exact hK | apply Kept.ite | apply wri_kept | apply wr_kept | apply setImage_kept | split)

theorem activate_kept (s : State) [Can W .regs] [Can W .links] [Can W .mbx] [Can W .masters] [Can W .side] [Can W .ump] [Can W .ev] [Can W .obs] [Can W .out] (hK : Kept P W Z s) : Kept P W Z (activate s) := by
  unfold activate; try dsimp only
  repeat' (with_reducible first | exact hK | apply wr_kept | apply bump_kept | apply restartUmpires_kept)

theorem actActivate_kept (x1_ x2_ : Nat) (s : State) [Can W .regs] [Can W .links] [Can W .mbx] [Can W .masters] [Can W .side] [Can W .ump] [Can W .ev] [Can W .obs] [Can W .out] (hK : Kept P W Z s) : Kept P W Z (actActivate x1_ x2_ s).2 := by
  unfold actActivate; try dsimp only
  repeat' (with_reducible first | exact hK | apply Kept.ite | apply Kept.ite2 | apply activate_kept | split)

theorem doUpgActivate_kept (a : Access) (s : State) [Can W .regs] [Can W .links] [Can W .mbx] [Can W .masters] [Can W .side] [Can W .ump] [Can W .ev] [Can W .obs] [Can W .out] (hK : Kept P W Z s) : Kept P W Z (doUpgActivate a s) := by
  unfold doUpgActivate; try dsimp only
  repeat' (with_reducible first | exact hK | intro _ | assumption | exact id | decide | apply Kept.ite | apply Kept.ite2 | apply Kept.ite3 | apply accessWrite_kept | apply actActivate_kept | refine Kept.snd (by assumption) ?_ | refine Kept.snd3 (by assumption) ?_ | split)

theorem actCommit_kept (x1_ x2_ : Nat) (s : State) [Can W .regs] (hK : Kept P W Z s) : Kept P W Z (actCommit x1_ x2_ s).2 := by
  unfold actCommit; try dsimp only
  repeat' (with_reducible first | exact hK | apply Kept.ite | apply Kept.ite2 | apply wr_kept | split)

theorem doUpgCommit_kept (a : Access) (s : State) [Can W .regs] [Can W .links] [Can W .side] [Can W .obs] [Can W .out] (hK : Kept P W Z s) : Kept P W Z (doUpgCommit a s) := by
  unfold doUpgCommit; try dsimp only
  repeat' (with_reducible first | exact hK | intro _ | assumption | exact id | decide | apply Kept.ite | apply Kept.ite2 | apply Kept.ite3 | apply accessWrite_kept | apply actCommit_kept | refine Kept.snd (by assumption) ?_ | refine Kept.snd3 (by assumption) ?_ | split)

theorem actRollback_kept (x1_ x2_ : Nat) (s : State) [Can W .regs] [Can W .links] [Can W .mbx] [Can W .masters] [Can W .side] [Can W .ump] [Can W .ev] [Can W .obs] [Can W .out] (hK : Kept P W Z s) : Kept P W Z (actRollback x1_ x2_ s).2 := by
  unfold actRollback; try dsimp only
  repeat' (with_reducible first | exact hK | apply Kept.ite | apply Kept.ite2 | apply restartUmpires_kept | apply rollBack_kept | apply actActivate_kept | split)

theorem doUpgRollback_kept (a : Access) (s : State) [Can W .regs] [Can W .links] [Can W .mbx] [Can W .masters] [Can W .side] [Can W .ump] [Can W .ev] [Can W .obs] [Can W .out] (hK : Kept P W Z s) : Kept P W Z (doUpgRollback a s) := by
  unfold doUpgRollback; try dsimp only
  repeat' (with_reducible first | exact hK | intro _ | assumption | exact id | decide | apply Kept.ite | apply Kept.ite2 | apply Kept.ite3 | apply accessWrite_kept | apply actRollback_kept | refine Kept.snd (by assumption) ?_ | refine Kept.snd3 (by assumption) ?_ | split)

theorem doTrialPeriodExpiry_kept (s : State) [Can W .regs] [Can W .links] [Can W .mbx] [Can W .masters] [Can W .side] [Can W .ump] [Can W .ev] [Can W .obs] [Can W .out] (hK : Kept P W Z s) : Kept P W Z (doTrialPeriodExpiry s) := by
  unfold doTrialPeriodExpiry; try dsimp only
  repeat' (with_reducible first | exact hK | apply Kept.ite | apply restartUmpires_kept | apply rollBack_kept | split)

theorem actSvnFloor_kept (x1_ v : Nat) (s : State) [Can W .regs] (hK : Kept P W Z s) : Kept P W Z (actSvnFloor x1_ v s).2 := by
  unfold actSvnFloor; try dsimp only
  repeat' (with_reducible first | exact hK | apply Kept.ite | apply Kept.ite2 | apply wr_kept | apply wri_kept | split)

theorem doUpgSvnFloor_kept (a : Access) (s : State) [Can W .regs] [Can W .links] [Can W .side] [Can W .obs] [Can W .out] (hK : Kept P W Z s) : Kept P W Z (doUpgSvnFloor a s) := by
  unfold doUpgSvnFloor; try dsimp only
  repeat' (with_reducible first | exact hK | intro _ | assumption | exact id | decide | apply Kept.ite | apply Kept.ite2 | apply Kept.ite3 | apply accessWrite_kept | apply actSvnFloor_kept | refine Kept.snd (by assumption) ?_ | refine Kept.snd3 (by assumption) ?_ | split)

theorem discardMsg_kept (s : State) [Can W .regs] (hK : Kept P W Z s) : Kept P W Z (discardMsg s) := by
  unfold discardMsg; try dsimp only
  repeat' (with_reducible first | exact hK | apply bump_kept)

theorem served_kept (s : State) (f : State → State) [Can W .regs] (hK : Kept P W Z s) (hf : ∀ s, Kept P W Z s → Kept P W Z (f s)) : Kept P W Z (served s f) := by
  unfold served; try dsimp only
  repeat' (with_reducible first | exact hK | intro _ | apply hf | assumption | apply Kept.ite | apply discardMsg_kept | split)

theorem mctpAnswer_kept (s : State) (dst inst cmd cc : Nat) (data : List Nat) [Can W .side] [Can W .out] (hK : Kept P W Z s) : Kept P W Z (mctpAnswer s dst inst cmd cc data) := by
  unfold mctpAnswer; try dsimp only
  repeat' (with_reducible first | exact hK | apply sendMctp_kept)

theorem ctlSetEid_kept (inst source op eid : Nat) (s : State) [Can W .regs] [Can W .side] [Can W .out] (hK : Kept P W Z s) : Kept P W Z (ctlSetEid inst source op eid s) := by
  unfold ctlSetEid; try dsimp only
  repeat' (with_reducible first | exact hK | exact id | apply Kept.ite | apply mctpAnswer_kept | apply wr_kept | (refine Kept.set_side (Kept.eta ?_) ?_ ?_; first | exact hK | apply mctpAnswer_kept | apply wr_kept) | split)

theorem ctlGetEid_kept (inst source : Nat) (s : State) [Can W .side] [Can W .out] (hK : Kept P W Z s) : Kept P W Z (ctlGetEid inst source s) := by
  unfold ctlGetEid; try dsimp only
  repeat' (with_reducible first | exact hK | apply mctpAnswer_kept)

theorem ctlGetVersion_kept (inst source ty : Nat) (s : State) [Can W .side] [Can W .out] (hK : Kept P W Z s) : Kept P W Z (ctlGetVersion inst source ty s) := by
  unfold ctlGetVersion; try dsimp only
  repeat' (with_reducible first | exact hK | apply Kept.ite | apply mctpAnswer_kept | split)

theorem ctlGetTypes_kept (inst source : Nat) (s : State) [Can W .side] [Can W .out] (hK : Kept P W Z s) : Kept P W Z (ctlGetTypes inst source s) := by
  unfold ctlGetTypes; try dsimp only
  repeat' (with_reducible first | exact hK | apply mctpAnswer_kept)

theorem ctlGetVendor_kept (inst source selector : Nat) (s : State) [Can W .side] [Can W .out] (hK : Kept P W Z s) : Kept P W Z (ctlGetVendor inst source selector s) := by
  unfold ctlGetVendor; try dsimp only
  repeat' (with_reducible first | exact hK | apply Kept.ite | apply mctpAnswer_kept | split)

theorem ctlOther_kept (inst source code : Nat) (s : State) [Can W .side] [Can W .out] (hK : Kept P W Z s) : Kept P W Z (ctlOther inst source code s) := by
  unfold ctlOther; try dsimp only
  repeat' (with_reducible first | exact hK | apply mctpAnswer_kept)

theorem doSetEndpointId_kept (source eid : Nat) (s : State) [Can W .regs] [Can W .side] [Can W .out] (hK : Kept P W Z s) : Kept P W Z (doSetEndpointId source eid s) := by
  unfold doSetEndpointId; try dsimp only
  repeat' (with_reducible first | exact hK | intro _ | assumption | exact id | decide | apply Kept.ite | apply Kept.ite2 | apply Kept.ite3 | apply served_kept | apply ctlSetEid_kept | refine Kept.snd (by assumption) ?_ | refine Kept.snd3 (by assumption) ?_ | split)

theorem doGetEndpointId_kept (source : Nat) (s : State) [Can W .regs] [Can W .side] [Can W .out] (hK : Kept P W Z s) : Kept P W Z (doGetEndpointId source s) := by
  unfold doGetEndpointId; try dsimp only
  repeat' (with_reducible first | exact hK | intro _ | assumption | exact id | decide | apply Kept.ite | apply Kept.ite2 | apply Kept.ite3 | apply served_kept | apply ctlGetEid_kept | refine Kept.snd (by assumption) ?_ | refine Kept.snd3 (by assumption) ?_ | split)

theorem doGetMctpVersionSupport_kept (source msgType : Nat) (s : State) [Can W .regs] [Can W .side] [Can W .out] (hK : Kept P W Z s) : Kept P W Z (doGetMctpVersionSupport source msgType s) := by
  unfold doGetMctpVersionSupport; try dsimp only
  repeat' (with_reducible first | exact hK | intro _ | assumption | exact id | decide | apply Kept.ite | apply Kept.ite2 | apply Kept.ite3 | apply served_kept | apply ctlGetVersion_kept | refine Kept.snd (by assumption) ?_ | refine Kept.snd3 (by assumption) ?_ | split)

theorem doGetMessageTypeSupport_kept (source : Nat) (s : State) [Can W .regs] [Can W .side] [Can W .out] (hK : Kept P W Z s) : Kept P W Z (doGetMessageTypeSupport source s) := by
  unfold doGetMessageTypeSupport; try dsimp only
  repeat' (with_reducible first | exact hK | intro _ | assumption | exact id | decide | apply Kept.ite | apply Kept.ite2 | apply Kept.ite3 | apply served_kept | apply ctlGetTypes_kept | refine Kept.snd (by assumption) ?_ | refine Kept.snd3 (by assumption) ?_ | split)

theorem doGetVendorDefinedMessageSupport_kept (source selector : Nat) (s : State) [Can W .regs] [Can W .side] [Can W .out] (hK : Kept P W Z s) : Kept P W Z (doGetVendorDefinedMessageSupport source selector s) := by
  unfold doGetVendorDefinedMessageSupport; try dsimp only
  repeat' (with_reducible first | exact hK | intro _ | assumption | exact id | decide | apply Kept.ite | apply Kept.ite2 | apply Kept.ite3 | apply served_kept | apply ctlGetVendor_kept | refine Kept.snd (by assumption) ?_ | refine Kept.snd3 (by assumption) ?_ | split)

theorem doUnsupportedMctpCommand_kept (source code : Nat) (s : State) [Can W .regs] [Can W .side] [Can W .out] (hK : Kept P W Z s) : Kept P W Z (doUnsupportedMctpCommand source code s) := by
  unfold doUnsupportedMctpCommand; try dsimp only
  repeat' (with_reducible first | exact hK | intro _ | assumption | exact id | decide | apply Kept.ite | apply Kept.ite2 | apply Kept.ite3 | apply served_kept | apply ctlOther_kept | refine Kept.snd (by assumption) ?_ | refine Kept.snd3 (by assumption) ?_ | split)

theorem spdmSend_kept (s : State) (dst : Nat) (msg : List Nat) [Can W .side] [Can W .out] (hK : Kept P W Z s) : Kept P W Z (spdmSend s dst msg) := by
  unfold spdmSend; try dsimp only
  repeat' (with_reducible first | exact hK | apply sendMctp_kept)

theorem spdmError_kept (s : State) (dst code data : Nat) [Can W .regs] [Can W .side] [Can W .out] (hK : Kept P W Z s) : Kept P W Z (spdmError s dst code data) := by
  unfold spdmError; try dsimp only
  repeat' (with_reducible first | exact hK | apply spdmSend_kept | apply bump_kept)

theorem spdmFrom_kept (source : Nat) (s : State) (f : State → State) [Can W .regs] [Can W .side] [Can W .out] (hK : Kept P W Z s) (hf : ∀ s, Kept P W Z s → Kept P W Z (f s)) : Kept P W Z (spdmFrom source s f) := by
  unfold spdmFrom; try dsimp only
  repeat' (with_reducible first | exact hK | intro _ | apply hf | assumption | apply Kept.ite | apply served_kept | apply discardMsg_kept | apply spdmError_kept | split)

theorem spdmOrdered_kept (source least most : Nat) (s : State) (f : State → State) [Can W .regs] [Can W .side] [Can W .out] (hK : Kept P W Z s) (hf : ∀ s, Kept P W Z s → Kept P W Z (f s)) : Kept P W Z (spdmOrdered source least most s f) := by
  unfold spdmOrdered; try dsimp only
  repeat' (with_reducible first | exact hK | intro _ | apply hf | assumption | apply Kept.ite | apply spdmFrom_kept | apply spdmError_kept | split)

theorem spdmVersion_kept (source : Nat) (s : State) [Can W .regs] [Can W .side] [Can W .ump] [Can W .out] (hK : Kept P W Z s) : Kept P W Z (spdmVersion source s) := by
  unfold spdmVersion; try dsimp only
  repeat' (with_reducible first | exact hK | intro _ | assumption | exact id | decide | apply Kept.ite | apply Kept.ite2 | apply Kept.ite3 | apply spdmFrom_kept | apply wr_kept | apply spdmSend_kept | refine Kept.snd (by assumption) ?_ | refine Kept.snd3 (by assumption) ?_ | (refine Kept.set_ump (Kept.eta ?_); first | exact hK | assumption | apply Kept.ite | apply spdmFrom_kept | apply wr_kept | apply spdmSend_kept | refine Kept.snd (by assumption) ?_) | split)

theorem doGetVersion_kept (source : Nat) (s : State) [Can W .regs] [Can W .side] [Can W .ump] [Can W .out] (hK : Kept P W Z s) : Kept P W Z (doGetVersion source s) := by
  unfold doGetVersion; try dsimp only
  repeat' (with_reducible first | exact hK | apply spdmVersion_kept)

theorem doGetCapabilities_kept (source : Nat) (s : State) [Can W .regs] [Can W .side] [Can W .ump] [Can W .out] (hK : Kept P W Z s) : Kept P W Z (doGetCapabilities source s) := by
  unfold doGetCapabilities; try dsimp only
  repeat' (with_reducible first | exact hK | intro _ | assumption | exact id | decide | apply Kept.ite | apply Kept.ite2 | apply Kept.ite3 | apply spdmOrdered_kept | apply spdmSend_kept | refine Kept.snd (by assumption) ?_ | refine Kept.snd3 (by assumption) ?_ | (refine Kept.set_ump (Kept.eta ?_); first | exact hK | assumption | apply Kept.ite | apply spdmOrdered_kept | apply spdmSend_kept | refine Kept.snd (by assumption) ?_) | split)

theorem doNegotiateAlgorithms_kept (source : Nat) (offersAll : Bool) (s : State) [Can W .regs] [Can W .side] [Can W .ump] [Can W .out] (hK : Kept P W Z s) : Kept P W Z (doNegotiateAlgorithms source offersAll s) := by
  unfold doNegotiateAlgorithms; try dsimp only
  repeat' (with_reducible first | exact hK | intro _ | assumption | exact id | decide | apply Kept.ite | apply Kept.ite2 | apply Kept.ite3 | apply spdmOrdered_kept | apply spdmError_kept | apply spdmSend_kept | refine Kept.snd (by assumption) ?_ | refine Kept.snd3 (by assumption) ?_ | (refine Kept.set_ump (Kept.eta ?_); first | exact hK | assumption | apply Kept.ite | apply spdmOrdered_kept | apply spdmError_kept | apply spdmSend_kept | refine Kept.snd (by assumption) ?_) | split)

theorem doGetDigests_kept (source : Nat) (s : State) [Can W .regs] [Can W .side] [Can W .out] (hK : Kept P W Z s) : Kept P W Z (doGetDigests source s) := by
  unfold doGetDigests; try dsimp only
  repeat' (with_reducible first | exact hK | intro _ | assumption | apply Kept.ite | apply spdmOrdered_kept | apply spdmSend_kept | split)

theorem doGetCertificate_kept (source slot offset length : Nat) (s : State) [Can W .regs] [Can W .side] [Can W .out] (hK : Kept P W Z s) : Kept P W Z (doGetCertificate source slot offset length s) := by
  unfold doGetCertificate; try dsimp only
  repeat' (with_reducible first | exact hK | intro _ | assumption | apply Kept.ite | apply spdmOrdered_kept | apply spdmError_kept | apply spdmSend_kept | split)

theorem doChallenge_kept (source slot summary nonce : Nat) (s : State) [Can W .regs] [Can W .side] [Can W .ump] [Can W .out] (hK : Kept P W Z s) : Kept P W Z (doChallenge source slot summary nonce s) := by
  unfold doChallenge; try dsimp only
  repeat' (with_reducible first | exact hK | intro _ | assumption | exact id | decide | apply Kept.ite | apply Kept.ite2 | apply Kept.ite3 | apply spdmOrdered_kept | apply spdmError_kept | refine Kept.snd (by assumption) ?_ | refine Kept.snd3 (by assumption) ?_ | (refine Kept.set_ump (Kept.eta ?_); first | exact hK | assumption | apply Kept.ite | apply spdmOrdered_kept | apply spdmError_kept | refine Kept.snd (by assumption) ?_) | split)

theorem takeNonce_kept (s : State) [Can W .ump] (hK : Kept P W Z s) : Kept P W Z (takeNonce s).2 := by
  unfold takeNonce; try dsimp only
  repeat' (with_reducible first | exact hK | (refine Kept.set_ump (Kept.eta ?_); first | exact hK))

theorem doGetMeasurements_kept (source index : Nat) (signed : Bool) (nonce : Nat) (s : State) [Can W .regs] [Can W .chans] [Can W .slices] [Can W .side] [Can W .ump] [Can W .out] (hK : Kept P W Z s) : Kept P W Z (doGetMeasurements source index signed nonce s) := by
  unfold doGetMeasurements; try dsimp only
  repeat' (with_reducible first | exact hK | intro _ | assumption | exact id | decide | apply Kept.ite | apply Kept.ite2 | apply Kept.ite3 | apply spdmOrdered_kept | apply spdmError_kept | apply takeNonce_kept | apply spdmSend_kept | refine Kept.snd (by assumption) ?_ | refine Kept.snd3 (by assumption) ?_ | (refine Kept.set_ump (Kept.eta ?_); first | exact hK | assumption | apply Kept.ite | apply spdmOrdered_kept | apply spdmError_kept | apply takeNonce_kept | apply spdmSend_kept | refine Kept.snd (by assumption) ?_) | split)

theorem summaryHash_kept (summary : Nat) (s : State) [Can W .free] (hK : Kept P W Z s) : Kept P W Z (summaryHash summary s).2 := by
  unfold summaryHash; try dsimp only
  repeat' (with_reducible first | exact hK | apply Kept.ite | apply Kept.ite2 | apply takeFree_kept | refine Kept.snd (by assumption) ?_ | split)

theorem sign_kept (msg : List Nat) (nonce : Nat) (s : State) [Can W .free] (hK : Kept P W Z s) : Kept P W Z (sign msg nonce s).2 := by
  unfold sign; try dsimp only
  repeat' (with_reducible first | exact hK | apply takeFree_kept | refine Kept.snd (by assumption) ?_)

theorem doSpdmSigningDone_kept (s : State) [Can W .chans] [Can W .slices] [Can W .side] [Can W .ump] [Can W .out] [Can W .free] (hK : Kept P W Z s) : Kept P W Z (doSpdmSigningDone s) := by
  unfold doSpdmSigningDone; try dsimp only
  repeat' (with_reducible first | exact hK | apply Kept.ite | apply takeNonce_kept | apply summaryHash_kept | apply sign_kept | apply spdmSend_kept | refine Kept.snd (by assumption) ?_ | (refine Kept.set_ump (Kept.eta ?_); first | exact hK | apply takeNonce_kept | apply summaryHash_kept | apply sign_kept | apply spdmSend_kept) | split)

theorem doUnsupportedSpdmRequest_kept (source code : Nat) (s : State) [Can W .regs] [Can W .side] [Can W .out] (hK : Kept P W Z s) : Kept P W Z (doUnsupportedSpdmRequest source code s) := by
  unfold doUnsupportedSpdmRequest; try dsimp only
  repeat' (with_reducible first | exact hK | intro _ | assumption | apply Kept.ite | apply spdmFrom_kept | apply spdmError_kept | split)

theorem doSbTimeValue_kept (_eid value : Nat) (s : State) [Can W .regs] [Can W .time] [Can W .links] [Can W .side] [Can W .ev] [Can W .obs] [Can W .out] (hK : Kept P W Z s) : Kept P W Z (doSbTimeValue _eid value s) := by
  unfold doSbTimeValue; try dsimp only
  repeat' (with_reducible first | exact hK | apply Kept.ite | apply nameEdge_kept | split)

end Sys2Proof.Machine
end

