-- ==== Sys2Proof/Laws/KeptWhole.lean ====
section
/-!
SUPPORT. What the operations of these areas keep, one lemma each: faults, observation, start-up, dictionary, inbound frames, deliveries and the beat. The parts a lemma asks for are those the
operation may change.
-/
namespace Sys2Proof.Machine
variable {P : Prop} {W : Part → Bool} {Z : State}

theorem setStatus_kept (s : State) (g v : Nat) [Can W .ev] (hK : Kept P W Z s) : Kept P W Z (setStatus s g v) := by
  unfold setStatus; try dsimp only
  repeat' (with_reducible first | exact hK | (refine Kept.set_ev (Kept.eta ?_); first | exact hK))

theorem actGrpStatus_kept (g : Nat) (x1_ v : Nat) (s : State) [Can W .ev] (hK : Kept P W Z s) : Kept P W Z (actGrpStatus g x1_ v s).2 := by
  unfold actGrpStatus; try dsimp only
  repeat' (with_reducible first | exact hK | apply Kept.ite | apply Kept.ite2 | apply setStatus_kept | apply settleFault_kept | split)

theorem doFltGrpStatus_kept (a : Access) (group : Nat) (s : State) [Can W .regs] [Can W .links] [Can W .side] [Can W .ev] [Can W .obs] [Can W .out] (hK : Kept P W Z s) : Kept P W Z (doFltGrpStatus a group s) := by
  unfold doFltGrpStatus; try dsimp only
  repeat' (with_reducible first | exact hK | intro _ | assumption | exact id | decide | apply Kept.ite | apply Kept.ite2 | apply Kept.ite3 | apply accessWrite_kept | apply actGrpStatus_kept | refine Kept.snd (by assumption) ?_ | refine Kept.snd3 (by assumption) ?_ | split)

theorem actGrpEnable_kept (g : Nat) (x1_ v : Nat) (s : State) [Can W .regs] [Can W .links] [Can W .side] [Can W .ev] [Can W .obs] [Can W .out] (hK : Kept P W Z s) : Kept P W Z (actGrpEnable g x1_ v s).2 := by
  unfold actGrpEnable; try dsimp only
  repeat' (with_reducible first | exact hK | intro _ | assumption | apply Kept.ite | apply Kept.ite2 | apply wri_kept | apply forEach_kept | apply enabledEffects_kept | apply deliver_kept | apply forEach_kept | refine Kept.snd (by assumption) ?_ | split)

theorem doFltGrpEnable_kept (a : Access) (group : Nat) (s : State) [Can W .regs] [Can W .links] [Can W .side] [Can W .ev] [Can W .obs] [Can W .out] (hK : Kept P W Z s) : Kept P W Z (doFltGrpEnable a group s) := by
  unfold doFltGrpEnable; try dsimp only
  repeat' (with_reducible first | exact hK | intro _ | assumption | exact id | decide | apply Kept.ite | apply Kept.ite2 | apply Kept.ite3 | apply accessWrite_kept | apply actGrpEnable_kept | refine Kept.snd (by assumption) ?_ | refine Kept.snd3 (by assumption) ?_ | split)

theorem actGrpForce_kept (g : Nat) (x1_ v : Nat) (s : State) [Can W .ev] (hK : Kept P W Z s) : Kept P W Z (actGrpForce g x1_ v s).2 := by
  unfold actGrpForce; try dsimp only
  repeat' (with_reducible first | exact hK | (refine Kept.set_ev (Kept.eta ?_); first | exact hK))

theorem doFltGrpForce_kept (a : Access) (group : Nat) (s : State) [Can W .regs] [Can W .links] [Can W .side] [Can W .ev] [Can W .obs] [Can W .out] (hK : Kept P W Z s) : Kept P W Z (doFltGrpForce a group s) := by
  unfold doFltGrpForce; try dsimp only
  repeat' (with_reducible first | exact hK | intro _ | assumption | exact id | decide | apply Kept.ite | apply Kept.ite2 | apply Kept.ite3 | apply accessWrite_kept | apply actGrpForce_kept | refine Kept.snd (by assumption) ?_ | refine Kept.snd3 (by assumption) ?_ | split)

theorem actLatchClear_kept (g : Nat) (x1_ x2_ : Nat) (s : State) [Can W .ev] (hK : Kept P W Z s) : Kept P W Z (actLatchClear g x1_ x2_ s).2 := by
  unfold actLatchClear; try dsimp only
  repeat' (with_reducible first | exact hK | (refine Kept.set_ev (Kept.eta ?_); first | exact hK))

theorem doFltGrpLatchClear_kept (a : Access) (group : Nat) (s : State) [Can W .regs] [Can W .links] [Can W .side] [Can W .ev] [Can W .obs] [Can W .out] (hK : Kept P W Z s) : Kept P W Z (doFltGrpLatchClear a group s) := by
  unfold doFltGrpLatchClear; try dsimp only
  repeat' (with_reducible first | exact hK | intro _ | assumption | exact id | decide | apply Kept.ite | apply Kept.ite2 | apply Kept.ite3 | apply accessWrite_kept | apply actLatchClear_kept | refine Kept.snd (by assumption) ?_ | refine Kept.snd3 (by assumption) ?_ | split)

theorem actGrpQuiet_kept (g : Nat) (x1_ v : Nat) (s : State) [Can W .regs] [Can W .ev] (hK : Kept P W Z s) : Kept P W Z (actGrpQuiet g x1_ v s).2 := by
  unfold actGrpQuiet; try dsimp only
  repeat' (with_reducible first | exact hK | apply wri_kept | (refine Kept.set_ev (Kept.eta ?_); first | exact hK | apply wri_kept))

theorem doFltGrpQuiet_kept (a : Access) (group : Nat) (s : State) [Can W .regs] [Can W .links] [Can W .side] [Can W .ev] [Can W .obs] [Can W .out] (hK : Kept P W Z s) : Kept P W Z (doFltGrpQuiet a group s) := by
  unfold doFltGrpQuiet; try dsimp only
  repeat' (with_reducible first | exact hK | intro _ | assumption | exact id | decide | apply Kept.ite | apply Kept.ite2 | apply Kept.ite3 | apply accessWrite_kept | apply actGrpQuiet_kept | refine Kept.snd (by assumption) ?_ | refine Kept.snd3 (by assumption) ?_ | split)

theorem doQuietTimerExpiry_kept (group : Nat) (s : State) [Can W .regs] [Can W .links] [Can W .side] [Can W .ev] [Can W .obs] [Can W .out] (hK : Kept P W Z s) : Kept P W Z (doQuietTimerExpiry group s) := by
  unfold doQuietTimerExpiry; try dsimp only
  repeat' (with_reducible first | exact hK | apply Kept.ite | apply setStatus_kept | apply raiseEv_kept | apply bumpi_kept | (refine Kept.set_ev (Kept.eta ?_); first | exact hK | apply setStatus_kept | apply raiseEv_kept | apply bumpi_kept) | split)

theorem doEventMessageSend_kept (group : Nat) (s : State) [Can W .regs] [Can W .links] [Can W .side] [Can W .ev] [Can W .obs] [Can W .out] (hK : Kept P W Z s) : Kept P W Z (doEventMessageSend group s) := by
  unfold doEventMessageSend; try dsimp only
  repeat' (with_reducible first | exact hK | intro _ | assumption | apply Kept.ite | apply forEach_kept | apply deliverTo_kept | apply forEach_kept | split)

theorem doFltBlockReset_kept (a : Access) (s : State) [Can W .regs] [Can W .dict] [Can W .mram] [Can W .pins] [Can W .start] [Can W .fuses] [Can W .time] [Can W .avs] [Can W .links] [Can W .agents] [Can W .flights] [Can W .tree] [Can W .home] [Can W .pchs] [Can W .chans] [Can W .slices] [Can W .array] [Can W .stack] [Can W .sleep] [Can W .mbx] [Can W .masters] [Can W .side] [Can W .ump] [Can W .images] [Can W .ev] [Can W .funs] [Can W .ledgers] [Can W .obs] [Can W .out] [Can W .now] [Can W .uid] [Can W .free] (hK : Kept P W Z s) : Kept P W Z (doFltBlockReset a s) := by
  unfold doFltBlockReset; try dsimp only
  repeat' (with_reducible first | exact hK | intro _ | assumption | exact id | decide | apply Kept.ite | apply Kept.ite2 | apply Kept.ite3 | apply accessWrite_kept | apply actBlockReset_kept | refine Kept.snd (by assumption) ?_ | refine Kept.snd3 (by assumption) ?_ | split)

theorem actFunReset_kept (f : Nat) (x1_ x2_ : Nat) (s : State) [Can W .funs] (hK : Kept P W Z s) : Kept P W Z (actFunReset f x1_ x2_ s).2 := by
  unfold actFunReset; try dsimp only
  repeat' (with_reducible first | exact hK | intro _ | assumption | apply Kept.ite | apply Kept.ite2 | (refine Kept.set_funs (Kept.eta ?_); first | exact hK) | split)

theorem doFunReset_kept (a : Access) (fn : Nat) (s : State) [Can W .regs] [Can W .links] [Can W .side] [Can W .funs] [Can W .obs] [Can W .out] (hK : Kept P W Z s) : Kept P W Z (doFunReset a fn s) := by
  unfold doFunReset; try dsimp only
  repeat' (with_reducible first | exact hK | intro _ | assumption | exact id | decide | apply Kept.ite | apply Kept.ite2 | apply Kept.ite3 | apply accessWrite_kept | apply actFunReset_kept | refine Kept.snd (by assumption) ?_ | refine Kept.snd3 (by assumption) ?_ | split)

theorem answerReset_kept (s : State) (uid : Nat) [Can W .links] [Can W .flights] [Can W .tree] [Can W .sleep] [Can W .ledgers] (hK : Kept P W Z s) : Kept P W Z (answerReset s uid) := by
  unfold answerReset; try dsimp only
  repeat' (with_reducible first | exact hK | intro _ | assumption | apply unqueue_kept | apply modSleep_kept | apply decide'_kept | apply freeCredits_kept | split)

theorem beginFunReset_kept (s : State) (fn : Nat) [Can W .regs] [Can W .links] [Can W .agents] [Can W .flights] [Can W .tree] [Can W .home] [Can W .pchs] [Can W .sleep] [Can W .mbx] [Can W .masters] [Can W .side] [Can W .ev] [Can W .funs] [Can W .ledgers] [Can W .obs] [Can W .out] (hK : Kept P W Z s) : Kept P W Z (beginFunReset s fn) := by
  unfold beginFunReset; try dsimp only
  repeat' (with_reducible first | exact hK | intro _ | assumption | apply Kept.ite | apply ledgerBegin_kept | apply raiseEv_kept | apply wri_kept | apply abortEntry_kept | apply ungate_kept | apply forEach_kept | apply answerReset_kept | apply fallCellsOf_kept | apply watchMasters_kept | apply endAcks_kept | apply forEach_kept | (refine Kept.set_funs (Kept.eta ?_); first | exact hK | apply ledgerBegin_kept | apply raiseEv_kept | apply wri_kept | apply abortEntry_kept | apply ungate_kept | apply forEach_kept | apply answerReset_kept | apply fallCellsOf_kept | apply watchMasters_kept | apply endAcks_kept | apply forEach_kept) | split)

theorem beginFunResets_kept (s : State) [Can W .regs] [Can W .links] [Can W .agents] [Can W .flights] [Can W .tree] [Can W .home] [Can W .pchs] [Can W .sleep] [Can W .mbx] [Can W .masters] [Can W .side] [Can W .ev] [Can W .funs] [Can W .ledgers] [Can W .obs] [Can W .out] (hK : Kept P W Z s) : Kept P W Z (beginFunResets s) := by
  unfold beginFunResets; try dsimp only
  repeat' (with_reducible first | exact hK | intro _ | assumption | apply forEach_kept | apply beginFunReset_kept | apply forEach_kept)

theorem doFunResetDrainLimitExpiry_kept (fn : Nat) (s : State) [Can W .links] [Can W .flights] [Can W .tree] [Can W .sleep] [Can W .funs] [Can W .ledgers] (hK : Kept P W Z s) : Kept P W Z (doFunResetDrainLimitExpiry fn s) := by
  unfold doFunResetDrainLimitExpiry; try dsimp only
  repeat' (with_reducible first | exact hK | intro _ | assumption | apply Kept.ite | apply forEach_kept | apply answerReset_kept | apply forEach_kept | (refine Kept.set_funs (Kept.eta ?_); first | exact hK | apply forEach_kept | apply answerReset_kept | apply forEach_kept) | split)

theorem endFunReset_kept (s : State) (fn : Nat) [Can W .regs] [Can W .links] [Can W .agents] [Can W .flights] [Can W .tree] [Can W .home] [Can W .mbx] [Can W .masters] [Can W .side] [Can W .ev] [Can W .funs] [Can W .ledgers] [Can W .obs] [Can W .out] (hK : Kept P W Z s) : Kept P W Z (endFunReset s fn) := by
  unfold endFunReset; try dsimp only
  repeat' (with_reducible first | exact hK | intro _ | assumption | apply Kept.ite | apply forEach_kept | apply removeAgent_kept | apply wri_kept | apply raiseEv_kept | apply watchMasters_kept | apply bumpi_kept | apply forEach_kept | (refine Kept.set_funs (Kept.set_mbx (Kept.eta ?_)); first | exact hK | apply forEach_kept | apply removeAgent_kept | apply wri_kept | apply raiseEv_kept | apply watchMasters_kept | apply bumpi_kept | apply forEach_kept) | split)

theorem doFunResetComplete_kept (fn : Nat) (s : State) [Can W .regs] [Can W .links] [Can W .agents] [Can W .flights] [Can W .tree] [Can W .home] [Can W .mbx] [Can W .masters] [Can W .side] [Can W .ev] [Can W .funs] [Can W .ledgers] [Can W .obs] [Can W .out] (hK : Kept P W Z s) : Kept P W Z (doFunResetComplete fn s) := by
  unfold doFunResetComplete; try dsimp only
  repeat' (with_reducible first | exact hK | intro _ | assumption | apply Kept.ite | apply endFunReset_kept | split)

theorem actLedgerClear_kept (fn : Nat) (x1_ x2_ : Nat) (s : State) [Can W .regs] [Can W .flights] [Can W .ledgers] (hK : Kept P W Z s) : Kept P W Z (actLedgerClear fn x1_ x2_ s).2 := by
  unfold actLedgerClear; try dsimp only
  repeat' (with_reducible first | exact hK | intro _ | assumption | apply Kept.ite | apply Kept.ite2 | apply clearLedger_kept | split)

theorem doFunLedgerClear_kept (a : Access) (fn : Nat) (s : State) [Can W .regs] [Can W .links] [Can W .flights] [Can W .side] [Can W .ledgers] [Can W .obs] [Can W .out] (hK : Kept P W Z s) : Kept P W Z (doFunLedgerClear a fn s) := by
  unfold doFunLedgerClear; try dsimp only
  repeat' (with_reducible first | exact hK | intro _ | assumption | exact id | decide | apply Kept.ite | apply Kept.ite2 | apply Kept.ite3 | apply accessWrite_kept | apply actLedgerClear_kept | refine Kept.snd (by assumption) ?_ | refine Kept.snd3 (by assumption) ?_ | split)

theorem doCounterOverflow_kept (unit counter : Nat) (s : State) [Can W .regs] [Can W .links] [Can W .side] [Can W .ev] [Can W .obs] [Can W .out] (hK : Kept P W Z s) : Kept P W Z (doCounterOverflow unit counter s) := by
  unfold doCounterOverflow; try dsimp only
  repeat' (with_reducible first | exact hK | apply Kept.ite | apply takeWrapped_kept | apply obsBump_kept | split)

theorem actObsCmd_kept (x1_ v : Nat) (s : State) [Can W .obs] (hK : Kept P W Z s) : Kept P W Z (actObsCmd x1_ v s).2 := by
  unfold actObsCmd; try dsimp only
  repeat' (with_reducible first | exact hK | exact id | apply Kept.ite | apply Kept.ite2 | (refine Kept.set_obs (Kept.eta ?_) ?_; first | exact hK) | split)

theorem doObsFreeze_kept (a : Access) (s : State) [Can W .regs] [Can W .links] [Can W .side] [Can W .obs] [Can W .out] (hK : Kept P W Z s) : Kept P W Z (doObsFreeze a s) := by
  unfold doObsFreeze; try dsimp only
  repeat' (with_reducible first | exact hK | intro _ | assumption | exact id | decide | apply Kept.ite | apply Kept.ite2 | apply Kept.ite3 | apply accessWrite_kept | apply actObsCmd_kept | refine Kept.snd (by assumption) ?_ | refine Kept.snd3 (by assumption) ?_ | split)

theorem doObsUnfreeze_kept (a : Access) (s : State) [Can W .regs] [Can W .links] [Can W .side] [Can W .obs] [Can W .out] (hK : Kept P W Z s) : Kept P W Z (doObsUnfreeze a s) := by
  unfold doObsUnfreeze; try dsimp only
  repeat' (with_reducible first | exact hK | intro _ | assumption | exact id | decide | apply Kept.ite | apply Kept.ite2 | apply Kept.ite3 | apply accessWrite_kept | apply actObsCmd_kept | refine Kept.snd (by assumption) ?_ | refine Kept.snd3 (by assumption) ?_ | split)

theorem doObsSnapshot_kept (a : Access) (s : State) [Can W .regs] [Can W .links] [Can W .side] [Can W .obs] [Can W .out] (hK : Kept P W Z s) : Kept P W Z (doObsSnapshot a s) := by
  unfold doObsSnapshot; try dsimp only
  repeat' (with_reducible first | exact hK | intro _ | assumption | exact id | decide | apply Kept.ite | apply Kept.ite2 | apply Kept.ite3 | apply accessWrite_kept | apply actObsCmd_kept | refine Kept.snd (by assumption) ?_ | refine Kept.snd3 (by assumption) ?_ | split)

theorem doObsClear_kept (a : Access) (s : State) [Can W .regs] [Can W .links] [Can W .side] [Can W .obs] [Can W .out] (hK : Kept P W Z s) : Kept P W Z (doObsClear a s) := by
  unfold doObsClear; try dsimp only
  repeat' (with_reducible first | exact hK | intro _ | assumption | exact id | decide | apply Kept.ite | apply Kept.ite2 | apply Kept.ite3 | apply accessWrite_kept | apply actObsCmd_kept | refine Kept.snd (by assumption) ?_ | refine Kept.snd3 (by assumption) ?_ | split)

theorem captureCounts_kept (s : State) [Can W .regs] [Can W .links] [Can W .side] [Can W .ev] [Can W .obs] [Can W .out] (hK : Kept P W Z s) : Kept P W Z (captureCounts s) := by
  unfold captureCounts; try dsimp only
  repeat' (with_reducible first | exact hK | exact id | apply raiseEv_kept | apply wr_kept | (refine Kept.set_obs (Kept.eta ?_) ?_; first | exact hK | apply raiseEv_kept | apply wr_kept))

theorem capture_kept (s : State) (c : Nat) [Can W .regs] [Can W .links] [Can W .side] [Can W .ev] [Can W .obs] [Can W .out] (hK : Kept P W Z s) : Kept P W Z (capture s c) := by
  unfold capture
  split
  · exact captureCounts_kept _ (Kept.set_obs (Kept.eta hK) id)
  · split
    · exact Kept.set_obs (Kept.eta hK) id
    · split
      · exact captureCounts_kept _ hK
      · exact Kept.set_obs (Kept.eta hK) (fun _ q hq => absurd hq List.not_mem_nil)

theorem doObsCaptureBeat_kept (s : State) [Can W .regs] [Can W .links] [Can W .side] [Can W .ev] [Can W .obs] [Can W .out] (hK : Kept P W Z s) : Kept P W Z (doObsCaptureBeat s) := by
  unfold doObsCaptureBeat; try dsimp only
  repeat' (with_reducible first | exact hK | exact id | apply Kept.ite | apply capture_kept | (refine Kept.set_obs (Kept.eta ?_) ?_; first | exact hK | apply capture_kept) | split)

theorem actUnitClear_kept (u : Nat) (x1_ x2_ : Nat) (s : State) [Can W .obs] (hK : Kept P W Z s) : Kept P W Z (actUnitClear u x1_ x2_ s).2 := by
  unfold actUnitClear; try dsimp only
  repeat' (with_reducible first | exact hK | intro _ | assumption | exact id | decide | apply Kept.ite | apply Kept.ite2 | apply Kept.ite3 | apply setUnitStatus_kept | apply forEach_kept | apply setObs_kept | apply forEach_kept | refine Kept.snd (by assumption) ?_ | refine Kept.snd3 (by assumption) ?_ | split)

theorem doObsUnitClear_kept (a : Access) (unit : Nat) (s : State) [Can W .regs] [Can W .links] [Can W .side] [Can W .obs] [Can W .out] (hK : Kept P W Z s) : Kept P W Z (doObsUnitClear a unit s) := by
  unfold doObsUnitClear; try dsimp only
  repeat' (with_reducible first | exact hK | intro _ | assumption | exact id | decide | apply Kept.ite | apply Kept.ite2 | apply Kept.ite3 | apply accessWrite_kept | apply actUnitClear_kept | refine Kept.snd (by assumption) ?_ | refine Kept.snd3 (by assumption) ?_ | split)

theorem actRingClear_kept (x1_ x2_ : Nat) (s : State) [Can W .regs] [Can W .obs] (hK : Kept P W Z s) : Kept P W Z (actRingClear x1_ x2_ s).2 := by
  unfold actRingClear; try dsimp only
  repeat' (with_reducible first | exact hK | exact id | apply Kept.ite | apply Kept.ite2 | apply wr_kept | (refine Kept.set_obs (Kept.eta ?_) ?_; first | exact hK | apply wr_kept) | split)

theorem doObsRingClear_kept (a : Access) (s : State) [Can W .regs] [Can W .links] [Can W .side] [Can W .obs] [Can W .out] (hK : Kept P W Z s) : Kept P W Z (doObsRingClear a s) := by
  unfold doObsRingClear; try dsimp only
  repeat' (with_reducible first | exact hK | intro _ | assumption | exact id | decide | apply Kept.ite | apply Kept.ite2 | apply Kept.ite3 | apply accessWrite_kept | apply actRingClear_kept | refine Kept.snd (by assumption) ?_ | refine Kept.snd3 (by assumption) ?_ | split)

theorem actTraceEnable_kept (x1_ v : Nat) (s : State) [Can W .regs] [Can W .pins] [Can W .obs] (hK : Kept P W Z s) : Kept P W Z (actTraceEnable x1_ v s).2 := by
  unfold actTraceEnable; try dsimp only
  repeat' (with_reducible first | exact hK | exact id | apply Kept.ite | apply Kept.ite2 | apply wr_kept | apply startTrace_kept | (refine Kept.set_obs (Kept.eta ?_) ?_; first | exact hK | apply wr_kept | apply startTrace_kept) | split)

theorem doObsTraceEnable_kept (a : Access) (s : State) [Can W .regs] [Can W .pins] [Can W .links] [Can W .side] [Can W .obs] [Can W .out] (hK : Kept P W Z s) : Kept P W Z (doObsTraceEnable a s) := by
  unfold doObsTraceEnable; try dsimp only
  repeat' (with_reducible first | exact hK | intro _ | assumption | exact id | decide | apply Kept.ite | apply Kept.ite2 | apply Kept.ite3 | apply accessWrite_kept | apply actTraceEnable_kept | refine Kept.snd (by assumption) ?_ | refine Kept.snd3 (by assumption) ?_ | split)

theorem doTraceDump_kept (s : State) [Can W .regs] [Can W .links] [Can W .side] [Can W .ev] [Can W .obs] [Can W .out] (hK : Kept P W Z s) : Kept P W Z (doTraceDump s) := by
  unfold doTraceDump; try dsimp only
  repeat' (with_reducible first | exact hK | intro _ | assumption | exact id | apply Kept.ite | apply forEach_kept | apply traceRecord_kept | apply forEach_kept | (refine Kept.set_obs (Kept.eta ?_) ?_; first | exact hK | apply forEach_kept | apply traceRecord_kept | apply forEach_kept) | split)

theorem doTraceSyncTimer_kept (s : State) [Can W .regs] [Can W .obs] (hK : Kept P W Z s) : Kept P W Z (doTraceSyncTimer s) := by
  unfold doTraceSyncTimer; try dsimp only
  repeat' (with_reducible first | exact hK | exact id | apply Kept.ite | apply countDrop_kept | (refine Kept.set_obs (Kept.eta ?_) ?_; first | exact hK | apply countDrop_kept) | split)

theorem showWord_kept (s : State) (w : Option Nat) [Can W .regs] [Can W .pins] [Can W .out] (hK : Kept P W Z s) : Kept P W Z (showWord s w) := by
  unfold showWord; try dsimp only
  repeat' (with_reducible first | exact hK | apply bumpWrap_kept | apply emit_kept | (refine Kept.set_pins (Kept.eta ?_); first | exact hK | apply bumpWrap_kept | apply emit_kept) | split)

theorem traceCycle_kept (s : State) [Can W .regs] [Can W .pins] [Can W .obs] [Can W .out] (hK : Kept P W Z s) : Kept P W Z (traceCycle s) := by
  unfold traceCycle; try dsimp only
  repeat' (with_reducible first | exact hK | exact id | apply Kept.ite | apply traceDrop_kept | apply showWord_kept | (refine Kept.set_obs (Kept.set_pins (Kept.eta ?_)) ?_; first | exact hK | apply traceDrop_kept | apply showWord_kept) | split)

theorem doTraceWordSend_kept (s : State) [Can W .regs] [Can W .pins] [Can W .obs] [Can W .out] (hK : Kept P W Z s) : Kept P W Z (doTraceWordSend s) := by
  unfold doTraceWordSend; try dsimp only
  repeat' (with_reducible first | exact hK | apply Kept.ite | apply traceCycle_kept | split)

theorem clearRegs_kept (s : State) (sel : Nat → Nat → Bool) [Can W .regs] (hK : Kept P W Z s) : Kept P W Z (clearRegs s sel) := by
  unfold clearRegs; try dsimp only
  repeat' (with_reducible first | exact hK | intro _ | assumption | (refine Kept.set_regs (Kept.eta ?_); first | exact hK))

theorem actClear_kept (sel : Nat → Nat → Bool) (x1_ x2_ : Nat) (s : State) [Can W .regs] (hK : Kept P W Z s) : Kept P W Z (actClear sel x1_ x2_ s).2 := by
  unfold actClear; try dsimp only
  repeat' (with_reducible first | exact hK | apply clearRegs_kept)

theorem doBlkXingParityClear_kept (a : Access) (s : State) [Can W .regs] [Can W .links] [Can W .side] [Can W .obs] [Can W .out] (hK : Kept P W Z s) : Kept P W Z (doBlkXingParityClear a s) := by
  unfold doBlkXingParityClear; try dsimp only
  repeat' (with_reducible first | exact hK | intro _ | assumption | exact id | decide | apply Kept.ite | apply Kept.ite2 | apply Kept.ite3 | apply accessWrite_kept | apply actClear_kept | refine Kept.snd (by assumption) ?_ | refine Kept.snd3 (by assumption) ?_ | split)

theorem doLnkCountersClear_kept (a : Access) (s : State) [Can W .regs] [Can W .links] [Can W .side] [Can W .obs] [Can W .out] (hK : Kept P W Z s) : Kept P W Z (doLnkCountersClear a s) := by
  unfold doLnkCountersClear; try dsimp only
  repeat' (with_reducible first | exact hK | intro _ | assumption | apply accessWrite_kept | apply actClear_kept)

theorem doHomCountersClear_kept (a : Access) (s : State) [Can W .regs] [Can W .links] [Can W .side] [Can W .obs] [Can W .out] (hK : Kept P W Z s) : Kept P W Z (doHomCountersClear a s) := by
  unfold doHomCountersClear; try dsimp only
  repeat' (with_reducible first | exact hK | intro _ | assumption | apply accessWrite_kept | apply actClear_kept)

theorem doEngCountersClear_kept (a : Access) (s : State) [Can W .regs] [Can W .links] [Can W .side] [Can W .obs] [Can W .out] (hK : Kept P W Z s) : Kept P W Z (doEngCountersClear a s) := by
  unfold doEngCountersClear; try dsimp only
  repeat' (with_reducible first | exact hK | intro _ | assumption | apply accessWrite_kept | apply actClear_kept)

theorem doCdiCountersClear_kept (a : Access) (s : State) [Can W .regs] [Can W .links] [Can W .side] [Can W .obs] [Can W .out] (hK : Kept P W Z s) : Kept P W Z (doCdiCountersClear a s) := by
  unfold doCdiCountersClear; try dsimp only
  repeat' (with_reducible first | exact hK | intro _ | assumption | apply accessWrite_kept | apply actClear_kept)

theorem doRfhCountersClear_kept (a : Access) (s : State) [Can W .regs] [Can W .links] [Can W .side] [Can W .obs] [Can W .out] (hK : Kept P W Z s) : Kept P W Z (doRfhCountersClear a s) := by
  unfold doRfhCountersClear; try dsimp only
  repeat' (with_reducible first | exact hK | intro _ | assumption | apply accessWrite_kept | apply actClear_kept)

theorem doIntCountersClear_kept (a : Access) (s : State) [Can W .regs] [Can W .links] [Can W .side] [Can W .obs] [Can W .out] (hK : Kept P W Z s) : Kept P W Z (doIntCountersClear a s) := by
  unfold doIntCountersClear; try dsimp only
  repeat' (with_reducible first | exact hK | intro _ | assumption | apply accessWrite_kept | apply actClear_kept)

theorem doSlpCountersClear_kept (a : Access) (s : State) [Can W .regs] [Can W .links] [Can W .side] [Can W .obs] [Can W .out] (hK : Kept P W Z s) : Kept P W Z (doSlpCountersClear a s) := by
  unfold doSlpCountersClear; try dsimp only
  repeat' (with_reducible first | exact hK | intro _ | assumption | apply accessWrite_kept | apply actClear_kept)

theorem doMgtCountersClear_kept (a : Access) (s : State) [Can W .regs] [Can W .links] [Can W .side] [Can W .obs] [Can W .out] (hK : Kept P W Z s) : Kept P W Z (doMgtCountersClear a s) := by
  unfold doMgtCountersClear; try dsimp only
  repeat' (with_reducible first | exact hK | intro _ | assumption | apply accessWrite_kept | apply actClear_kept)

theorem actFaultClear_kept (m v : Nat) (s : State) [Can W .regs] [Can W .ev] (hK : Kept P W Z s) : Kept P W Z (actFaultClear m v s).2 := by
  unfold actFaultClear; try dsimp only
  repeat' (with_reducible first | exact hK | apply actClear_kept | (refine Kept.set_ev (Kept.eta ?_); first | exact hK | apply actClear_kept))

theorem doFltCountersClear_kept (a : Access) (s : State) [Can W .regs] [Can W .links] [Can W .side] [Can W .ev] [Can W .obs] [Can W .out] (hK : Kept P W Z s) : Kept P W Z (doFltCountersClear a s) := by
  unfold doFltCountersClear; try dsimp only
  repeat' (with_reducible first | exact hK | intro _ | assumption | apply accessWrite_kept | apply actFaultClear_kept)

theorem doObsStatsClear_kept (a : Access) (s : State) [Can W .regs] [Can W .links] [Can W .side] [Can W .obs] [Can W .out] (hK : Kept P W Z s) : Kept P W Z (doObsStatsClear a s) := by
  unfold doObsStatsClear; try dsimp only
  repeat' (with_reducible first | exact hK | intro _ | assumption | apply accessWrite_kept | apply actClear_kept)

theorem modStart_kept (s : State) (f : StartUp → StartUp) [Can W .start] (hK : Kept P W Z s) : Kept P W Z (modStart s f) := by
  unfold modStart; try dsimp only
  repeat' (with_reducible first | exact hK | (refine Kept.set_start (Kept.eta ?_); first | exact hK))

theorem doFuseLoadDone_kept (f : FuseImage) (s : State) [Can W .regs] [Can W .mram] [Can W .pins] [Can W .start] [Can W .fuses] [Can W .time] [Can W .links] [Can W .tree] [Can W .pchs] [Can W .array] [Can W .stack] [Can W .sleep] [Can W .side] [Can W .ev] [Can W .obs] [Can W .out] [Can W .free] (hK : Kept P W Z s) : Kept P W Z (doFuseLoadDone f s) := by
  unfold doFuseLoadDone; try dsimp only
  repeat' (with_reducible first | exact hK | intro _ | assumption | apply Kept.ite | apply startBeat_kept | apply raiseEv_kept | apply wr_kept | apply stopStart_kept | apply beginTrip_kept | (refine Kept.set_fuses (Kept.set_start (Kept.set_pins (Kept.eta ?_))); first | exact hK | apply startBeat_kept | apply raiseEv_kept | apply wr_kept | apply stopStart_kept | apply beginTrip_kept) | split)

theorem stepAfter3_kept (s : State) [Can W .regs] (hK : Kept P W Z s) : Kept P W Z (stepAfter3 s) := by
  unfold stepAfter3; try dsimp only
  repeat' (with_reducible first | exact hK | apply Kept.ite | apply wr_kept | split)

theorem dropStored_kept (s : State) (key : Nat) [Can W .regs] [Can W .mram] [Can W .links] [Can W .side] [Can W .ev] [Can W .obs] [Can W .out] (hK : Kept P W Z s) : Kept P W Z (dropStored s key) := by
  unfold dropStored; try dsimp only
  repeat' (with_reducible first | exact hK | apply put_kept | apply raiseFirst_kept | apply bump_kept | (refine Kept.set_mram (Kept.eta ?_); first | exact hK | apply put_kept | apply raiseFirst_kept | apply bump_kept))

theorem countWords_kept (s : State) (m : MramCheck) [Can W .regs] [Can W .links] [Can W .side] [Can W .ev] [Can W .obs] [Can W .out] (hK : Kept P W Z s) : Kept P W Z (countWords s m) := by
  unfold countWords; try dsimp only
  repeat' (with_reducible first | exact hK | apply Kept.ite | apply raiseEv_kept | apply bumpTo_kept | split)

theorem useOlder_kept (s : State) (key : Nat) [Can W .regs] [Can W .mram] (hK : Kept P W Z s) : Kept P W Z (useOlder s key) := by
  unfold useOlder; try dsimp only
  repeat' (with_reducible first | exact hK | apply put_kept | (refine Kept.set_mram (Kept.eta ?_); first | exact hK | apply put_kept) | split)

theorem loadRegions_kept (s : State) (ok older : Bool) [Can W .regs] [Can W .mram] (hK : Kept P W Z s) : Kept P W Z (loadRegions s ok older) := by
  unfold loadRegions; try dsimp only
  repeat' (with_reducible first | exact hK | apply Kept.ite | apply wr_kept | apply putTable_kept | (refine Kept.set_mram (Kept.eta ?_); first | exact hK | apply wr_kept | apply putTable_kept) | split)

theorem loadLog_kept (s : State) [Can W .regs] (hK : Kept P W Z s) : Kept P W Z (loadLog s) := by
  unfold loadLog; try dsimp only
  repeat' (with_reducible first | exact hK | intro _ | assumption | apply settleLog_kept | apply wr_kept)

theorem doMramLoadDone_kept (m : MramCheck) (s : State) [Can W .regs] [Can W .mram] [Can W .start] [Can W .links] [Can W .tree] [Can W .side] [Can W .ev] [Can W .obs] [Can W .out] (hK : Kept P W Z s) : Kept P W Z (doMramLoadDone m s) := by
  unfold doMramLoadDone; try dsimp only
  repeat' (with_reducible first | exact hK | intro _ | assumption | apply Kept.ite | apply countWords_kept | apply forEach_kept | apply useOlder_kept | apply dropStored_kept | apply loadLog_kept | apply loadRegions_kept | apply modStart_kept | apply restoreLeaves_kept | apply startModel_kept | apply stepAfter3_kept | apply wr_kept | apply forEach_kept | split)

theorem shutPort_kept (s : State) (n : Nat) [Can W .regs] [Can W .links] (hK : Kept P W Z s) : Kept P W Z (shutPort s n) := by
  unfold shutPort; try dsimp only
  repeat' (with_reducible first | exact hK | intro _ | assumption | apply setPortState_kept | apply modLink_kept)

theorem memoryFails_kept (s : State) (channels ports : List Nat) (n : Nat) [Can W .regs] [Can W .mram] [Can W .start] [Can W .links] [Can W .flights] [Can W .tree] [Can W .home] [Can W .pchs] [Can W .stack] [Can W .side] [Can W .ev] [Can W .ledgers] [Can W .obs] [Can W .out] (hK : Kept P W Z s) : Kept P W Z (memoryFails s channels ports n) := by
  unfold memoryFails; try dsimp only
  repeat' (with_reducible first | exact hK | intro _ | assumption | exact id | apply Kept.ite | apply forEach_kept | apply modStart_kept | apply failChannel_kept | apply raiseEv_kept | apply shutPort_kept | apply wr_kept | apply forEach_kept | (refine Kept.set_obs (Kept.eta ?_) ?_; first | exact hK | apply forEach_kept | apply modStart_kept | apply failChannel_kept | apply raiseEv_kept | apply shutPort_kept | apply wr_kept | apply forEach_kept) | split)

theorem doMbistDone_kept (failed repaired : Nat) (channels ports : List Nat) (s : State) [Can W .regs] [Can W .mram] [Can W .start] [Can W .links] [Can W .flights] [Can W .tree] [Can W .home] [Can W .pchs] [Can W .stack] [Can W .side] [Can W .ev] [Can W .ledgers] [Can W .obs] [Can W .out] (hK : Kept P W Z s) : Kept P W Z (doMbistDone failed repaired channels ports s) := by
  unfold doMbistDone; try dsimp only
  repeat' (with_reducible first | exact hK | intro _ | assumption | apply Kept.ite | apply wr_kept | apply forEach_kept | apply memoryFails_kept | apply stepAfter3_kept | apply modStart_kept | apply stopStart_kept | apply forEach_kept | split)

theorem slotShown_kept (s : State) (slot : Nat) (v : SlotInfo) [Can W .regs] [Can W .images] (hK : Kept P W Z s) : Kept P W Z (slotShown s slot v) := by
  unfold slotShown; try dsimp only
  repeat' (with_reducible first | exact hK | apply wri_kept | apply setImage_kept)

theorem otherShown_kept (s : State) (slot : Nat) (v : SlotInfo) [Can W .regs] [Can W .images] (hK : Kept P W Z s) : Kept P W Z (otherShown s slot v) := by
  unfold otherShown; try dsimp only
  repeat' (with_reducible first | exact hK | apply Kept.ite | apply slotShown_kept | split)

theorem startUmpires_kept (s : State) (slot : Nat) (v : SlotInfo) [Can W .regs] [Can W .links] [Can W .mbx] [Can W .masters] [Can W .side] [Can W .images] [Can W .ev] [Can W .obs] [Can W .out] (hK : Kept P W Z s) : Kept P W Z (startUmpires s slot v) := by
  unfold startUmpires; try dsimp only
  repeat' (with_reducible first | exact hK | intro _ | assumption | apply slotShown_kept | apply wr_kept | apply watchMasters_kept | apply capEpochs_kept | apply forEach_kept | apply deliverTo_kept | apply forEach_kept)

theorem haltUmpires_kept (s : State) [Can W .regs] [Can W .links] [Can W .mbx] [Can W .masters] [Can W .side] [Can W .ev] [Can W .obs] [Can W .out] (hK : Kept P W Z s) : Kept P W Z (haltUmpires s) := by
  unfold haltUmpires; try dsimp only
  repeat' (with_reducible first | exact hK | apply watchMasters_kept | apply wr_kept)

theorem doFirmwareVerifyDone_kept (v : FirmwareCheck) (s : State) [Can W .regs] [Can W .start] [Can W .links] [Can W .mbx] [Can W .masters] [Can W .side] [Can W .ump] [Can W .images] [Can W .ev] [Can W .obs] [Can W .out] (hK : Kept P W Z s) : Kept P W Z (doFirmwareVerifyDone v s) := by
  unfold doFirmwareVerifyDone; try dsimp only
  repeat' (with_reducible first | exact hK | intro _ | assumption | apply Kept.ite | apply modStart_kept | apply rollBack_kept | apply raiseEv_kept | apply haltUmpires_kept | apply startUmpires_kept | apply otherShown_kept | apply wri_kept | apply wr_kept | (refine Kept.set_ump (Kept.eta ?_); first | exact hK | apply modStart_kept | apply rollBack_kept | apply raiseEv_kept | apply haltUmpires_kept | apply startUmpires_kept | apply otherShown_kept | apply wri_kept | apply wr_kept) | split)

theorem clearPcTraining_kept (s : State) (pc : Nat) [Can W .regs] (hK : Kept P W Z s) : Kept P W Z (clearPcTraining s pc) := by
  unfold clearPcTraining; try dsimp only
  repeat' (with_reducible first | exact hK | apply Kept.ite | apply wri_kept | split)

theorem clearTraining_kept (s : State) [Can W .regs] (hK : Kept P W Z s) : Kept P W Z (clearTraining s) := by
  unfold clearTraining; try dsimp only
  repeat' (with_reducible first | exact hK | intro _ | assumption | apply Kept.ite | apply forEach_kept | apply clearPcTraining_kept | apply wri_kept | apply forEach_kept | split)

theorem placeLanes_kept (s : State) (pc : Nat) (phys : List Nat) [Can W .regs] [Can W .mram] [Can W .links] [Can W .flights] [Can W .tree] [Can W .home] [Can W .pchs] [Can W .stack] [Can W .side] [Can W .ev] [Can W .ledgers] [Can W .obs] [Can W .out] (hK : Kept P W Z s) : Kept P W Z (placeLanes s pc phys) := by
  unfold placeLanes; try dsimp only
  repeat' (with_reducible first | exact hK | intro _ | assumption | apply Kept.ite | apply forEach_kept | apply wri_kept | apply raiseEv_kept | apply setSpare_kept | apply failPc_kept | apply markLane_kept | apply forEach_kept | split)

theorem setCodes_kept (s : State) (r : TrainReport) [Can W .regs] [Can W .stack] (hK : Kept P W Z s) : Kept P W Z (setCodes s r) := by
  unfold setCodes; try dsimp only
  repeat' (with_reducible first | exact hK | intro _ | assumption | apply forEach_kept | apply setDelay_kept | apply put_kept | apply modStack_kept | apply forEach_kept)

theorem trainChannel_kept (s : State) (c : Nat) [Can W .regs] [Can W .pchs] [Can W .chans] [Can W .slices] (hK : Kept P W Z s) : Kept P W Z (trainChannel s c) := by
  unfold trainChannel; try dsimp only
  repeat' (with_reducible first | exact hK | intro _ | assumption | apply Kept.ite | apply modChan_kept | apply forEach_kept | apply applySeq_kept | apply record_kept | apply proveNow_kept | apply modPch_kept | apply forEach_kept | split)

theorem openChannels_kept (s : State) [Can W .regs] [Can W .pchs] [Can W .chans] [Can W .slices] (hK : Kept P W Z s) : Kept P W Z (openChannels s) := by
  unfold openChannels; try dsimp only
  repeat' (with_reducible first | exact hK | intro _ | assumption | apply forEach_kept | apply trainChannel_kept | apply forEach_kept)

theorem loadBins_kept (s : State) [Can W .regs] [Can W .stack] (hK : Kept P W Z s) : Kept P W Z (loadBins s) := by
  unfold loadBins; try dsimp only
  repeat' (with_reducible first | exact hK | intro _ | assumption | apply Kept.ite | apply modStack_kept | apply wr_kept | split)

theorem settleTraining_kept (s : State) (r : TrainReport) (full : Bool) [Can W .regs] [Can W .mram] [Can W .links] [Can W .flights] [Can W .tree] [Can W .home] [Can W .pchs] [Can W .stack] [Can W .side] [Can W .ev] [Can W .ledgers] [Can W .obs] [Can W .out] (hK : Kept P W Z s) : Kept P W Z (settleTraining s r full) := by
  unfold settleTraining; try dsimp only
  repeat' (with_reducible first | exact hK | intro _ | assumption | apply Kept.ite | apply clearTraining_kept | apply forEach_kept | apply failChannel_kept | apply failPc_kept | apply placeLanes_kept | apply clearPcTraining_kept | apply spareCommand_kept | apply raiseEv_kept | apply forEach_kept | split)

theorem endTraining_kept (s : State) (r : TrainReport) (full : Bool) [Can W .regs] [Can W .mram] [Can W .start] [Can W .links] [Can W .pchs] [Can W .chans] [Can W .slices] [Can W .stack] [Can W .side] [Can W .ev] [Can W .obs] [Can W .out] (hK : Kept P W Z s) : Kept P W Z (endTraining s r full) := by
  unfold endTraining; try dsimp only
  repeat' (with_reducible first | exact hK | intro _ | assumption | apply Kept.ite | apply openChannels_kept | apply setCodes_kept | apply wr_kept | apply served_kept | apply storeTraining_kept | apply modStart_kept | apply forEach_kept | apply modStack_kept | apply takeSlice_kept | apply forEach_kept | (refine Kept.set_mram (Kept.eta ?_); first | exact hK | apply openChannels_kept | apply setCodes_kept | apply wr_kept | apply served_kept | apply storeTraining_kept | apply modStart_kept | apply forEach_kept | apply modStack_kept | apply takeSlice_kept | apply forEach_kept) | split)

theorem doTrainingDone_kept (r : TrainReport) (s : State) [Can W .regs] [Can W .mram] [Can W .start] [Can W .links] [Can W .flights] [Can W .tree] [Can W .home] [Can W .pchs] [Can W .chans] [Can W .slices] [Can W .stack] [Can W .side] [Can W .ev] [Can W .ledgers] [Can W .obs] [Can W .out] (hK : Kept P W Z s) : Kept P W Z (doTrainingDone r s) := by
  unfold doTrainingDone; try dsimp only
  repeat' (with_reducible first | exact hK | intro _ | assumption | apply Kept.ite | apply stopStart_kept | apply wr_kept | apply endTraining_kept | apply settleTraining_kept | apply loadBins_kept | split)

theorem noteFail_kept (s : State) (f : MarchFail) (outcome : Nat) [Can W .start] (hK : Kept P W Z s) : Kept P W Z (noteFail s f outcome) := by
  unfold noteFail; try dsimp only
  repeat' (with_reducible first | exact hK | intro _ | assumption | apply Kept.ite | apply modStart_kept | split)

theorem leaveUnrepaired_kept (s : State) (f : MarchFail) [Can W .regs] [Can W .mram] [Can W .start] [Can W .links] [Can W .side] [Can W .ev] [Can W .obs] [Can W .out] (hK : Kept P W Z s) : Kept P W Z (leaveUnrepaired s f) := by
  unfold leaveUnrepaired; try dsimp only
  repeat' (with_reducible first | exact hK | apply noteFail_kept | apply bump_kept | apply raiseEv_kept | apply recommendBank_kept | apply recommendRow_kept)

theorem endRepair_kept (s : State) (f : MarchFail) [Can W .regs] [Can W .mram] [Can W .start] [Can W .links] [Can W .stack] [Can W .side] [Can W .ev] [Can W .obs] [Can W .out] (hK : Kept P W Z s) : Kept P W Z (endRepair s f) := by
  unfold endRepair; try dsimp only
  repeat' (with_reducible first | exact hK | apply Kept.ite | apply settleSpares_kept | apply noteFail_kept | apply retireSpareRow_kept | apply bump_kept | apply leaveUnrepaired_kept | split)

theorem recordFail_kept (s : State) (f : MarchFail) [Can W .regs] [Can W .mram] [Can W .links] [Can W .side] [Can W .ev] [Can W .obs] [Can W .out] (hK : Kept P W Z s) : Kept P W Z (recordFail s f) := by
  unfold recordFail; try dsimp only
  repeat' (with_reducible first | exact hK | apply writeRecord_kept | split)

theorem beginRepair_kept (s : State) (f : MarchFail) [Can W .regs] [Can W .mram] [Can W .start] [Can W .links] [Can W .stack] [Can W .side] [Can W .ev] [Can W .obs] [Can W .out] (hK : Kept P W Z s) : Kept P W Z (beginRepair s f).2 := by
  have h1 := recordFail_kept s f hK
  have h2 : ∀ t, (if (hostRow (recordFail s f) f).isSome && f.bank ≠ 31 then graftFailed (recordFail s f) f
      else some (recordFail s f)) = some t → Kept P W Z t := by
    intro t e
    split at e
    · unfold graftFailed at e
      dsimp only at e
      generalize (if 0 < freeEntries (recordFail s f) (failPcNo f) then _ else _) = al at e
      cases al with
      | nil => cases e
      | cons v l =>
        dsimp only at e
        cases e
        exact raiseEv_kept _ _ _ _ _ (retireRows_kept _ _ _ _ _ (settleSpares_kept _ _ (setGraft_kept _ _ _ _ _ _ h1)))
    · cases e; exact h1
  unfold beginRepair
  dsimp only
  generalize (if (hostRow (recordFail s f) f).isSome && f.bank ≠ 31 then graftFailed (recordFail s f) f
      else some (recordFail s f)) = g at *
  cases g with
  | none => exact leaveUnrepaired_kept _ _ h1
  | some t =>
    dsimp only
    split
    · exact h2 t rfl
    · exact endRepair_kept _ _ (h2 t rfl)

theorem endMarch_kept (s : State) [Can W .regs] [Can W .start] (hK : Kept P W Z s) : Kept P W Z (endMarch s) := by
  unfold endMarch; try dsimp only
  repeat' (with_reducible first | exact hK | intro _ | assumption | apply Kept.ite | apply wr_kept | apply modStart_kept | split)

theorem repairNext_kept (l : List MarchFail) (s : State) [Can W .regs] [Can W .mram] [Can W .start] [Can W .links] [Can W .stack] [Can W .side] [Can W .ev] [Can W .obs] [Can W .out] (hK : Kept P W Z s) : Kept P W Z (repairNext l s) := by
  induction l generalizing s with
  | nil => exact endMarch_kept _ hK
  | cons f l ih =>
    unfold repairNext
    have h1 := beginRepair_kept s f hK
    generalize beginRepair s f = x at *
    obtain ⟨go, s1⟩ := x
    dsimp only at *
    split
    · exact modStart_kept _ _ h1
    · exact ih _ h1

theorem releaseFused_kept (s : State) (failed : List MarchFail) [Can W .regs] [Can W .stack] (hK : Kept P W Z s) : Kept P W Z (releaseFused s failed) := by
  unfold releaseFused; try dsimp only
  repeat' (with_reducible first | exact hK | intro _ | assumption | apply Kept.ite | apply forEach_kept | apply settleSpares_kept | apply delGraft_kept | apply forEach_kept | split)

theorem doMarchDone_kept (fails : List MarchFail) (micros : Nat) (s : State) [Can W .regs] [Can W .mram] [Can W .start] [Can W .links] [Can W .array] [Can W .stack] [Can W .side] [Can W .ev] [Can W .obs] [Can W .out] (hK : Kept P W Z s) :
    Kept P W Z (doMarchDone fails micros s) := by
  unfold doMarchDone
  have h0 : Kept P W Z { s with array := {} } := Kept.set_array (Kept.eta hK) (fun _ => rfl)
  split
  · exact hK
  · dsimp only
    generalize failedRows _ = l
    have h1 := wr_kept _ R.BUP_ARRAY_TIME micros (wr_kept _ R.BUP_ARRAY_FAILS l.length h0)
    generalize wr (wr { s with array := {} } R.BUP_ARRAY_FAILS l.length) R.BUP_ARRAY_TIME micros = s1 at *
    have h2 : Kept P W Z (if l.isEmpty = true then s1 else raiseEv s1 13 2 (min l.length 65535) 0) :=
      Kept.ite h1 (raiseEv_kept _ _ _ _ _ h1)
    generalize (if l.isEmpty = true then s1 else raiseEv s1 13 2 (min l.length 65535) 0) = s2 at *
    have h3 : Kept P W Z (if s2.ply16 = true then s2 else releaseFused s2 l) := Kept.ite h2 (releaseFused_kept _ _ h2)
    generalize (if s2.ply16 = true then s2 else releaseFused s2 l) = s3 at *
    split
    · exact repairNext_kept _ _ (Kept.ite h3 (wr_kept _ _ _ h3))
    · exact endMarch_kept _ (forEach_kept _ _ _ (fun s f h => leaveUnrepaired_kept _ _ (recordFail_kept _ _ h)) h3)

theorem repairDie_kept (s : State) (f : MarchFail) (o : RepairOutcome) [Can W .slices] (hK : Kept P W Z s) : Kept P W Z (repairDie s f o) := by
  unfold repairDie; try dsimp only
  repeat' (with_reducible first | exact hK | intro _ | assumption | apply Kept.ite | apply modSlice_kept | split)

theorem doHardRepairDone_kept (outcome : RepairOutcome) (s : State) [Can W .regs] [Can W .mram] [Can W .pins] [Can W .start] [Can W .links] [Can W .slices] [Can W .stack] [Can W .side] [Can W .ev] [Can W .obs] [Can W .out] (hK : Kept P W Z s) : Kept P W Z (doHardRepairDone outcome s) := by
  unfold doHardRepairDone; try dsimp only
  repeat' (with_reducible first | exact hK | intro _ | assumption | apply repairDie_kept | apply modStart_kept | apply repairNext_kept | apply endRepair_kept | (refine Kept.set_pins (Kept.set_mram (Kept.eta ?_)); first | exact hK | apply repairDie_kept | apply modStart_kept | apply repairNext_kept | apply endRepair_kept) | split)

theorem releaseGraft_kept (s : State) (f : MarchFail) [Can W .regs] [Can W .start] [Can W .links] [Can W .stack] [Can W .side] [Can W .ev] [Can W .obs] [Can W .out] (hK : Kept P W Z s) : Kept P W Z (releaseGraft s f) := by
  unfold releaseGraft; try dsimp only
  repeat' (with_reducible first | exact hK | apply Kept.ite | apply settleSpares_kept | apply delGraft_kept | apply noteFail_kept | apply bump_kept | apply raiseEv_kept | split)

theorem doFuseProgramDone_kept (readBack : Nat) (s : State) [Can W .regs] [Can W .mram] [Can W .pins] [Can W .start] [Can W .fuses] [Can W .links] [Can W .stack] [Can W .side] [Can W .ev] [Can W .obs] [Can W .out] (hK : Kept P W Z s) : Kept P W Z (doFuseProgramDone readBack s) := by
  unfold doFuseProgramDone; try dsimp only
  repeat' (with_reducible first | exact hK | intro _ | assumption | apply Kept.ite | apply releaseGraft_kept | apply endRepair_kept | apply raiseEv_kept | apply bump_kept | apply repairNext_kept | apply modStart_kept | (refine Kept.set_fuses (Kept.set_pins (Kept.eta ?_)); first | exact hK | apply releaseGraft_kept | apply endRepair_kept | apply raiseEv_kept | apply bump_kept | apply repairNext_kept | apply modStart_kept) | split)

theorem fillArray_kept (s : State) [Can W .array] (hK : Kept P W Z s) : Kept P W Z (fillArray s) := by
  unfold fillArray
  exact Kept.set_array (Kept.eta hK) (fun _ => rfl)

theorem startChecks_kept (s : State) (sapling : List (Nat × BitVec 576)) [Can W .regs] [Can W .links] [Can W .array] [Can W .stack] [Can W .side] [Can W .ev] [Can W .obs] [Can W .out] [Can W .free] (hK : Kept P W Z s) : Kept P W Z (startChecks s sapling) := by
  unfold startChecks; try dsimp only
  repeat' (with_reducible first | exact hK | intro _ | assumption | apply Kept.ite | apply wakeChecks_kept | apply forEach_kept | apply checkCount_kept | apply forEach_kept | split)

theorem reachService_kept (s : State) [Can W .regs] [Can W .start] [Can W .links] [Can W .tree] [Can W .sleep] [Can W .side] [Can W .ev] [Can W .obs] [Can W .out] (hK : Kept P W Z s) : Kept P W Z (reachService s) := by
  unfold reachService; try dsimp only
  repeat' (with_reducible first | exact hK | intro _ | assumption | apply Kept.ite | apply wr_kept | apply modStart_kept | apply modSleep_kept | apply lateEpochs_kept | apply modTree_kept | apply capEpochs_kept | apply forEach_kept | apply requestActive_kept | apply raiseEv_kept | apply forEach_kept | split)

theorem doFillDone_kept (sapling : List (Nat × BitVec 576)) (s : State) [Can W .regs] [Can W .start] [Can W .links] [Can W .tree] [Can W .array] [Can W .stack] [Can W .sleep] [Can W .side] [Can W .ev] [Can W .obs] [Can W .out] [Can W .free] (hK : Kept P W Z s) : Kept P W Z (doFillDone sapling s) := by
  unfold doFillDone; try dsimp only
  repeat' (with_reducible first | exact hK | apply Kept.ite | apply reachService_kept | apply fillArray_kept | apply startChecks_kept | split)

theorem actObsCtrl_kept (u k : Nat) (x1_ v : Nat) (s : State) [Can W .regs] (hK : Kept P W Z s) : Kept P W Z (actObsCtrl u k x1_ v s).2 := by
  unfold actObsCtrl; try dsimp only
  repeat' (with_reducible first | exact hK | apply Kept.ite | apply Kept.ite2 | apply put_kept | split)

theorem actObsStatus_kept (u : Nat) (x1_ v : Nat) (s : State) [Can W .obs] (hK : Kept P W Z s) : Kept P W Z (actObsStatus u x1_ v s).2 := by
  unfold actObsStatus; try dsimp only
  repeat' (with_reducible first | exact hK | apply setUnitStatus_kept)

theorem actSbStatus_kept (x1_ v : Nat) (s : State) [Can W .side] (hK : Kept P W Z s) : Kept P W Z (actSbStatus x1_ v s).2 := by
  unfold actSbStatus; try dsimp only
  repeat' (with_reducible first | exact hK | exact id | apply Kept.ite | apply Kept.ite2 | (refine Kept.set_side (Kept.eta ?_) ?_ ?_; first | exact hK) | split)

theorem actSet_kept (e : Entry) (index sub : Nat) (x1_ v : Nat) (s : State) [Can W .regs] (hK : Kept P W Z s) : Kept P W Z (actSet e index sub x1_ v s).2 := by
  unfold actSet; try dsimp only
  repeat' (with_reducible first | exact hK | apply put_kept)

theorem actObsPort_kept (e : Entry) (index sub : Nat) (m v : Nat) (s : State) [Can W .regs] [Can W .dict] [Can W .pins] [Can W .obs] (hK : Kept P W Z s) : Kept P W Z (actObsPort e index sub m v s).2 := by
  unfold actObsPort; try dsimp only
  repeat' (with_reducible first | exact hK | exact id | apply Kept.ite | apply Kept.ite2 | apply setSel_kept | apply actRingClear_kept | apply actTraceEnable_kept | apply actSet_kept | refine Kept.snd (by assumption) ?_ | (refine Kept.set_obs (Kept.eta ?_) ?_; first | exact hK | apply setSel_kept | apply actRingClear_kept | apply actTraceEnable_kept | apply actSet_kept) | split)

theorem actDrain_kept (e : Entry) (sub : Nat) (m v : Nat) (s : State) [Can W .regs] [Can W .pchs] (hK : Kept P W Z s) : Kept P W Z (actDrain e sub m v s).2 := by
  unfold actDrain; try dsimp only
  repeat' (with_reducible first | exact hK | intro _ | assumption | apply Kept.ite | apply Kept.ite2 | apply actSet_kept | apply forEach_kept | apply settleMode_kept | apply forEach_kept | refine Kept.snd (by assumption) ?_ | split)

theorem singleActs_kept (e : Entry) (m v : Nat) (s : State) [Can W .regs] [Can W .dict] [Can W .mram] [Can W .pins] [Can W .start] [Can W .fuses] [Can W .time] [Can W .avs] [Can W .links] [Can W .agents] [Can W .flights] [Can W .tree] [Can W .home] [Can W .pchs] [Can W .chans] [Can W .slices] [Can W .array] [Can W .stack] [Can W .sleep] [Can W .mbx] [Can W .masters] [Can W .side] [Can W .ump] [Can W .images] [Can W .ev] [Can W .funs] [Can W .ledgers] [Can W .obs] [Can W .out] [Can W .now] [Can W .uid] [Can W .free] (hK : Kept P W Z s) : ∀ x ∈ singleActs e, Kept P W Z (x.2 m v s).2 := by
  unfold singleActs
  refine List.forall_mem_append.2 ⟨?_, ?_⟩
  all_goals repeat' (first | exact List.forall_mem_nil _ | refine List.forall_mem_cons.2 ⟨?_, ?_⟩)
  all_goals try dsimp only
  all_goals repeat' (with_reducible first | exact hK | apply Kept.ite2 | apply actClear_kept | apply actSet_kept | apply avsClimb_kept | apply actPortEnable_kept | apply actMapCommit_kept | apply actCommitCancel_kept | apply actXlateSlot_kept | apply beginXlate_kept | apply ageAll_kept | apply actLeafCir_kept | apply actLeafOlMax_kept | apply actLeafBucketReset_kept | apply actLeafBranch_kept | apply actLeafClear_kept | apply actBranchCtrl_kept | apply actBranchMin_kept | apply actBranchMax_kept | apply actBranchBucketReset_kept | apply actLeafCreate_kept | apply actFunCoherent_kept | apply actFilterProbe_kept | apply actDrain_kept | apply actQualEnable_kept | apply actMrRead_kept | apply setSel_kept | apply actBinMax_kept | apply actBinReset_kept | apply actProfEnable_kept | apply actRetireRow_kept | apply actRetireBank_kept | apply actTestCmd_kept | apply actPwrCmd_kept | apply actDictLock_kept | apply actPersistErase_kept | apply actDescribe_kept | apply actSbStatus_kept | apply actSbFlush_kept | apply actTableLock_kept | apply actUmpireRestart_kept | apply actSvnFloor_kept | apply actLoadBegin_kept | apply actVerify_kept | apply actActivate_kept | apply actCommit_kept | apply actRollback_kept | apply actBlockReset_kept | apply actLinkReset_kept | apply actFaultClear_kept | apply actObsCmd_kept | apply action_kept | (refine Kept.snd (by assumption) ?_))

theorem arrayActs_kept (e : Entry) (index sub m v : Nat) (s : State) [Can W .regs] [Can W .dict] [Can W .pins] [Can W .links] [Can W .agents] [Can W .flights] [Can W .tree] [Can W .home] [Can W .pchs] [Can W .mbx] [Can W .masters] [Can W .side] [Can W .ev] [Can W .funs] [Can W .ledgers] [Can W .obs] [Can W .out] (hK : Kept P W Z s) :
    ∀ x ∈ arrayActs e index sub, Kept P W Z (x.2 m v s).2 := by
  unfold arrayActs
  refine List.forall_mem_append.2 ⟨?_, ?_⟩
  all_goals repeat' (first | exact List.forall_mem_nil _ | refine List.forall_mem_cons.2 ⟨?_, ?_⟩)
  all_goals try dsimp only
  all_goals repeat' (with_reducible first | exact hK | apply actTrunkMax_kept | apply actGateSwitch_kept | apply actTrunkBucketReset_kept | apply actGateCancel_kept | apply actCellCmd_kept | apply actEpoch_kept | apply actClassCap_kept | apply actMbxBind_kept | apply actMbxPost_kept | apply actMbxStatus_kept | apply actMbxRelease_kept | apply actMbxMode_kept | apply actMasterSleep_kept | apply actGrpStatus_kept | apply actGrpEnable_kept | apply actGrpForce_kept | apply actLatchClear_kept | apply actGrpQuiet_kept | apply actFunReset_kept | apply setSel_kept | apply actLedgerClear_kept | apply actObsCtrl_kept | apply actObsStatus_kept | apply actUnitClear_kept | apply actObsPort_kept)

theorem writeEntry_kept (e : Entry) (index sub m v : Nat) (s : State) [Can W .regs] [Can W .dict] [Can W .mram] [Can W .pins] [Can W .start] [Can W .fuses] [Can W .time] [Can W .avs] [Can W .links] [Can W .agents] [Can W .flights] [Can W .tree] [Can W .home] [Can W .pchs] [Can W .chans] [Can W .slices] [Can W .array] [Can W .stack] [Can W .sleep] [Can W .mbx] [Can W .masters] [Can W .side] [Can W .ump] [Can W .images] [Can W .ev] [Can W .funs] [Can W .ledgers] [Can W .obs] [Can W .out] [Can W .now] [Can W .uid] [Can W .free] (hK : Kept P W Z s) : Kept P W Z (writeEntry e index sub m v s).2 := by
  have h1 := fun f (h : singleAct e (keyOf index sub) = some f) => singleActs_kept e m v s hK _ (tget?_mem h)
  have h2 : ∀ f, arrayAct e index sub = some f → Kept P W Z (f m v s).2 := by
    intro f h
    obtain ⟨x, hx, rfl⟩ := Option.map_eq_some_iff.1 h
    exact arrayActs_kept e index sub m v s hK _ (List.mem_of_find?_eq_some hx)
  have h3 := mapWrite_kept index sub (keptBits s e index sub v) s hK
  have h4 := epochWrite_kept index sub v s hK
  have h5 := treeWrite_kept m index sub v s hK
  unfold writeEntry
  generalize singleAct e (keyOf index sub) = a at *
  cases a
  case some f => exact h1 f rfl
  generalize arrayAct e index sub = b at *
  cases b
  case some f => exact h2 f rfl
  generalize mapWrite index sub (keptBits s e index sub v) s = c at *
  cases c
  case some r => exact h3 r rfl
  generalize epochWrite index sub v s = c at *
  cases c
  case some r => exact h4 r rfl
  generalize treeWrite m index sub v s = c at *
  cases c
  case some r => exact h5 r rfl
  exact actSet_kept _ _ _ _ _ _ hK

theorem applyBlob_kept (s : State) (m index : Nat) (bytes : List Nat) [Can W .regs] [Can W .dict] [Can W .images] (hK : Kept P W Z s) : Kept P W Z (applyBlob s m index bytes).2 := by
  unfold applyBlob; try dsimp only
  repeat' (with_reducible first | exact hK | apply Kept.ite | apply Kept.ite2 | apply put_kept | apply setTestData_kept | apply actLoadData_kept | refine Kept.snd (by assumption) ?_ | split)

theorem setStaging_kept (s : State) (m : Nat) (x : Option Staging) [Can W .dict] (hK : Kept P W Z s) : Kept P W Z (setStaging s m x) := by
  unfold setStaging; try dsimp only
  repeat' (with_reducible first | exact hK | (refine Kept.set_dict (Kept.eta ?_); first | exact hK) | split)

theorem writePart_kept (e : Entry) (d : DictMsg) (m : Nat) (s : State) [Can W .regs] [Can W .dict] [Can W .images] (hK : Kept P W Z s) : Kept P W Z (writePart e d m s).2 := by
  unfold writePart; try dsimp only
  repeat' (with_reducible first | exact hK | apply Kept.ite | apply Kept.ite2 | apply setStaging_kept | apply applyBlob_kept | split)

theorem setSnap_kept (s : State) (m : Nat) (x : Option Staging) [Can W .dict] (hK : Kept P W Z s) : Kept P W Z (setSnap s m x) := by
  unfold setSnap; try dsimp only
  repeat' (with_reducible first | exact hK | (refine Kept.set_dict (Kept.eta ?_); first | exact hK) | split)

theorem readPart_kept (e : Entry) (d : DictMsg) (m : Nat) (s : State) [Can W .dict] (hK : Kept P W Z s) : Kept P W Z (readPart e d m s).2 := by
  unfold readPart; try dsimp only
  repeat' (with_reducible first | exact hK | apply Kept.ite | apply Kept.ite2 | apply setSnap_kept | split)

theorem readEntry_kept (e : Entry) (d : DictMsg) (m : Nat) (s : State) [Can W .dict] [Can W .mbx] [Can W .side] [Can W .free] (hK : Kept P W Z s) : Kept P W Z (readEntry e d m s).2.2.2 := by
  unfold readEntry; try dsimp only
  repeat' (with_reducible first | exact hK | exact id | apply Kept.ite | apply Kept.ite2 | apply Kept.ite3 | apply readPart_kept | apply takeMbx_kept | apply lockMbx_kept | apply takeFree_kept | refine Kept.snd (by assumption) ?_ | (refine Kept.set_side (Kept.eta ?_) ?_ ?_; first | exact hK | apply readPart_kept | apply takeMbx_kept | apply lockMbx_kept | apply takeFree_kept) | split)

theorem doDictRd_kept (d : DictMsg) (s : State) [Can W .regs] [Can W .dict] [Can W .links] [Can W .mbx] [Can W .side] [Can W .obs] [Can W .out] [Can W .free] (hK : Kept P W Z s) : Kept P W Z (doDictRd d s) := by
  unfold doDictRd; try dsimp only
  repeat' (with_reducible first | exact hK | intro _ | assumption | apply Kept.ite | apply Kept.ite2 | apply turnAway_kept | apply takeMgtCredit_kept | apply refuse_kept | apply readEntry_kept | apply grant_kept | refine Kept.snd (by assumption) ?_ | split)

theorem doDictWr_kept (d : DictMsg) (s : State) [Can W .regs] [Can W .dict] [Can W .mram] [Can W .pins] [Can W .start] [Can W .fuses] [Can W .time] [Can W .avs] [Can W .links] [Can W .agents] [Can W .flights] [Can W .tree] [Can W .home] [Can W .pchs] [Can W .chans] [Can W .slices] [Can W .array] [Can W .stack] [Can W .sleep] [Can W .mbx] [Can W .masters] [Can W .side] [Can W .ump] [Can W .images] [Can W .ev] [Can W .funs] [Can W .ledgers] [Can W .obs] [Can W .out] [Can W .now] [Can W .uid] [Can W .free] (hK : Kept P W Z s) : Kept P W Z (doDictWr d s) := by
  unfold doDictWr; try dsimp only
  repeat' (with_reducible first | exact hK | intro _ | assumption | apply Kept.ite | apply Kept.ite2 | apply turnAway_kept | apply takeMgtCredit_kept | apply refuse_kept | apply writePart_kept | apply writeEntry_kept | apply grant_kept | refine Kept.snd (by assumption) ?_ | split)

theorem controlMsg_kept (src : Nat) (m : List Nat) (s : State) [Can W .regs] [Can W .side] [Can W .out] (hK : Kept P W Z s) : Kept P W Z (controlMsg src m s) := by
  unfold controlMsg; try dsimp only
  repeat' (with_reducible first | exact hK | intro _ | assumption | apply Kept.ite | apply served_kept | apply ctlSetEid_kept | apply ctlGetEid_kept | apply ctlGetVersion_kept | apply ctlGetTypes_kept | apply ctlGetVendor_kept | apply ctlOther_kept | split)

theorem spdmMsg_kept (src : Nat) (m : List Nat) (s : State) [Can W .regs] [Can W .chans] [Can W .slices] [Can W .side] [Can W .ump] [Can W .out] (hK : Kept P W Z s) : Kept P W Z (spdmMsg src m s) := by
  unfold spdmMsg; try dsimp only
  repeat' (with_reducible first | exact hK | apply doGetVersion_kept | apply doGetCapabilities_kept | apply doNegotiateAlgorithms_kept | apply doGetDigests_kept | apply doGetCertificate_kept | apply doChallenge_kept | apply doGetMeasurements_kept | apply doUnsupportedSpdmRequest_kept | split)

theorem vendorMsg_kept (src : Nat) (m : List Nat) (s : State) [Can W .regs] [Can W .dict] [Can W .mram] [Can W .pins] [Can W .start] [Can W .fuses] [Can W .time] [Can W .avs] [Can W .links] [Can W .agents] [Can W .flights] [Can W .tree] [Can W .home] [Can W .pchs] [Can W .chans] [Can W .slices] [Can W .array] [Can W .stack] [Can W .sleep] [Can W .mbx] [Can W .masters] [Can W .side] [Can W .ump] [Can W .images] [Can W .ev] [Can W .funs] [Can W .ledgers] [Can W .obs] [Can W .out] [Can W .now] [Can W .uid] [Can W .free] (hK : Kept P W Z s) : Kept P W Z (vendorMsg src m s) := by
  unfold vendorMsg; try dsimp only
  repeat' (with_reducible first | exact hK | apply Kept.ite | apply discardMsg_kept | apply doSbTimeValue_kept | apply doDictRd_kept | apply doDictWr_kept | split)

theorem mctpMsg_kept (src tag : Nat) (m : List Nat) (s : State) [Can W .regs] [Can W .dict] [Can W .mram] [Can W .pins] [Can W .start] [Can W .fuses] [Can W .time] [Can W .avs] [Can W .links] [Can W .agents] [Can W .flights] [Can W .tree] [Can W .home] [Can W .pchs] [Can W .chans] [Can W .slices] [Can W .array] [Can W .stack] [Can W .sleep] [Can W .mbx] [Can W .masters] [Can W .side] [Can W .ump] [Can W .images] [Can W .ev] [Can W .funs] [Can W .ledgers] [Can W .obs] [Can W .out] [Can W .now] [Can W .uid] [Can W .free] (hK : Kept P W Z s) : Kept P W Z (mctpMsg src tag m s) := by
  unfold mctpMsg; try dsimp only
  repeat' (with_reducible first | exact hK | exact id | apply controlMsg_kept | apply spdmMsg_kept | apply vendorMsg_kept | apply discardMsg_kept | (refine Kept.set_side (Kept.eta ?_) ?_ ?_; first | exact hK | apply controlMsg_kept | apply spdmMsg_kept | apply vendorMsg_kept | apply discardMsg_kept) | split)

theorem setReasm_kept (s : State) (l : List Reassembly) [Can W .side] (hK : Kept P W Z s) : Kept P W Z (setReasm s l) := by
  unfold setReasm; try dsimp only
  repeat' (with_reducible first | exact hK | exact id | (refine Kept.set_side (Kept.eta ?_) ?_ ?_; first | exact hK))

theorem mctpPacket_kept (p : List Nat) (s : State) [Can W .regs] [Can W .dict] [Can W .mram] [Can W .pins] [Can W .start] [Can W .fuses] [Can W .time] [Can W .avs] [Can W .links] [Can W .agents] [Can W .flights] [Can W .tree] [Can W .home] [Can W .pchs] [Can W .chans] [Can W .slices] [Can W .array] [Can W .stack] [Can W .sleep] [Can W .mbx] [Can W .masters] [Can W .side] [Can W .ump] [Can W .images] [Can W .ev] [Can W .funs] [Can W .ledgers] [Can W .obs] [Can W .out] [Can W .now] [Can W .uid] [Can W .free] (hK : Kept P W Z s) : Kept P W Z (mctpPacket p s) := by
  unfold mctpPacket; try dsimp only
  repeat' (with_reducible first | exact hK | intro _ | assumption | apply Kept.ite | apply mctpMsg_kept | apply setReasm_kept | split)

theorem readFrames_kept (s : State) (n : Nat) [Can W .regs] [Can W .dict] [Can W .mram] [Can W .pins] [Can W .start] [Can W .fuses] [Can W .time] [Can W .avs] [Can W .links] [Can W .agents] [Can W .flights] [Can W .tree] [Can W .home] [Can W .pchs] [Can W .chans] [Can W .slices] [Can W .array] [Can W .stack] [Can W .sleep] [Can W .mbx] [Can W .masters] [Can W .side] [Can W .ump] [Can W .images] [Can W .ev] [Can W .funs] [Can W .ledgers] [Can W .obs] [Can W .out] [Can W .now] [Can W .uid] [Can W .free] (hK : Kept P W Z s) : Kept P W Z (readFrames s n) := by
  induction n generalizing s with
  | zero => exact hK
  | succ n ih =>
    unfold readFrames
    split
    · exact hK
    · rename_i he
      have h1 := fun hI => Fifo.ok_frame (f := s.side.inb) (n := 512) hI he
      generalize s.side.inb.frameAt s.side.inb.r 512 = x at *
      obtain ⟨ws, r⟩ := x
      dsimp only at *
      exact ih _ (mctpPacket_kept _ _ (Kept.set_side (Kept.eta hK) h1 id))

theorem badFrame_kept (s : State) [Can W .regs] [Can W .links] [Can W .side] [Can W .ev] [Can W .obs] [Can W .out] (hK : Kept P W Z s) : Kept P W Z (badFrame s) := by
  unfold badFrame
  exact raiseFirst_kept _ _ _ _ _ (bump_kept _ _ (Kept.set_side (Kept.eta hK) Fifo.ok_rewind id))

theorem overrunFrame_kept (s : State) [Can W .regs] [Can W .links] [Can W .side] [Can W .ev] [Can W .obs] [Can W .out] (hK : Kept P W Z s) : Kept P W Z (overrunFrame s) := by
  unfold overrunFrame; try dsimp only
  repeat' (with_reducible first | exact hK | exact id | apply badFrame_kept | apply raiseEv_kept | apply bump_kept | (refine Kept.set_side (Kept.eta ?_) ?_ ?_; first | exact hK | apply badFrame_kept | apply raiseEv_kept | apply bump_kept))

theorem doInboundFrame_kept (bytes : List Nat) (fault : FrameFault) (s : State) [Can W .regs] [Can W .dict] [Can W .mram] [Can W .pins] [Can W .start] [Can W .fuses] [Can W .time] [Can W .avs] [Can W .links] [Can W .agents] [Can W .flights] [Can W .tree] [Can W .home] [Can W .pchs] [Can W .chans] [Can W .slices] [Can W .array] [Can W .stack] [Can W .sleep] [Can W .mbx] [Can W .masters] [Can W .side] [Can W .ump] [Can W .images] [Can W .ev] [Can W .funs] [Can W .ledgers] [Can W .obs] [Can W .out] [Can W .now] [Can W .uid] [Can W .free] (hK : Kept P W Z s) :
    Kept P W Z (doInboundFrame bytes fault s) := by
  unfold doInboundFrame
  split
  · exact Kept.ite hK (latchWake_kept _ _ hK)
  · split
    · exact hK
    · dsimp only
      split
      · exact overrunFrame_kept _ hK
      · split
        · exact badFrame_kept _ hK
        · refine readFrames_kept _ _ (Kept.ite (correctedWord_kept _ ?_) ?_) <;>
            refine obsEvent_kept _ _ _ _ (Kept.set_side (Kept.eta hK) (fun h => Fifo.write_ok h ?_) id)
          all_goals
            have := frameWords_length false (bytes.map (· % 256)) (by simp_all)
            simp only [List.length_map] at this
            omega

theorem deliverReq_kept (port flit k : Nat) (s : State) [Can W .regs] [Can W .pins] [Can W .links] [Can W .flights] [Can W .tree] [Can W .pchs] [Can W .sleep] [Can W .side] [Can W .ev] [Can W .ledgers] [Can W .obs] [Can W .out] [Can W .uid] (hK : Kept P W Z s) : Kept P W Z (deliverReq port flit k s) := by
  unfold deliverReq; try dsimp only
  repeat' (with_reducible first | exact hK | apply doRd_kept | apply doWrFull_kept | apply doWrPart_kept | apply doRdShared_kept | apply doRdOwn_kept | apply doUpgrade_kept | apply doWbDirty_kept | apply doWrHint_kept | apply doAtom_kept | apply arrive_kept | split)

theorem deliverSrs_kept (port flit k : Nat) (s : State) [Can W .regs] [Can W .links] [Can W .agents] [Can W .flights] [Can W .tree] [Can W .home] [Can W .sleep] [Can W .side] [Can W .ev] [Can W .ledgers] [Can W .obs] [Can W .out] (hK : Kept P W Z s) : Kept P W Z (deliverSrs port flit k s) := by
  unfold deliverSrs; try dsimp only
  repeat' (with_reducible first | exact hK | intro _ | assumption | apply doRspNotPresent_kept | apply doRspInvClean_kept | apply doRspShared_kept | apply doRspDirty_kept | apply doRspWbInFlight_kept | apply doCmpAck_kept | apply doHintAccept_kept | apply doHintDecline_kept | split)

theorem deliverMgt_kept (port flit k : Nat) (s : State) [Can W .regs] [Can W .dict] [Can W .mram] [Can W .pins] [Can W .start] [Can W .fuses] [Can W .time] [Can W .avs] [Can W .links] [Can W .agents] [Can W .flights] [Can W .tree] [Can W .home] [Can W .pchs] [Can W .chans] [Can W .slices] [Can W .array] [Can W .stack] [Can W .sleep] [Can W .mbx] [Can W .masters] [Can W .side] [Can W .ump] [Can W .images] [Can W .ev] [Can W .funs] [Can W .ledgers] [Can W .obs] [Can W .out] [Can W .now] [Can W .uid] [Can W .free] (hK : Kept P W Z s) : Kept P W Z (deliverMgt port flit k s) := by
  unfold deliverMgt; try dsimp only
  repeat' (with_reducible first | exact hK | apply doDictRd_kept | apply doDictWr_kept | apply pwrCmd_kept | split)

theorem deliverCtl_kept (port flit k : Nat) (s : State) [Can W .regs] [Can W .links] [Can W .agents] [Can W .flights] [Can W .tree] [Can W .home] [Can W .sleep] [Can W .side] [Can W .ev] [Can W .ledgers] [Can W .obs] [Can W .out] (hK : Kept P W Z s) : Kept P W Z (deliverCtl port flit k s) := by
  unfold deliverCtl; try dsimp only
  repeat' (with_reducible first | exact hK | intro _ | assumption | apply doNegOffer_kept | apply doAgentJoin_kept | apply doAgentLeave_kept | split)

theorem deliverMsg_kept (up : Bool) (port flit k : Nat) (s : State) [Can W .regs] [Can W .dict] [Can W .mram] [Can W .pins] [Can W .start] [Can W .fuses] [Can W .time] [Can W .avs] [Can W .links] [Can W .agents] [Can W .flights] [Can W .tree] [Can W .home] [Can W .pchs] [Can W .chans] [Can W .slices] [Can W .array] [Can W .stack] [Can W .sleep] [Can W .mbx] [Can W .masters] [Can W .side] [Can W .ump] [Can W .images] [Can W .ev] [Can W .funs] [Can W .ledgers] [Can W .obs] [Can W .out] [Can W .now] [Can W .uid] [Can W .free] (hK : Kept P W Z s) : Kept P W Z (deliverMsg up port flit k s) := by
  unfold deliverMsg; try dsimp only
  repeat' (with_reducible first | exact hK | apply Kept.ite | apply bumpi_kept | apply deliverReq_kept | apply deliverSrs_kept | apply deliverMgt_kept | apply doTimeNext_kept | apply deliverCtl_kept | split)

theorem acceptFlit_kept (s : State) (n flit : Nat) [Can W .regs] [Can W .dict] [Can W .mram] [Can W .pins] [Can W .start] [Can W .fuses] [Can W .time] [Can W .avs] [Can W .links] [Can W .agents] [Can W .flights] [Can W .tree] [Can W .home] [Can W .pchs] [Can W .chans] [Can W .slices] [Can W .array] [Can W .stack] [Can W .sleep] [Can W .mbx] [Can W .masters] [Can W .side] [Can W .ump] [Can W .images] [Can W .ev] [Can W .funs] [Can W .ledgers] [Can W .obs] [Can W .out] [Can W .now] [Can W .uid] [Can W .free] (hK : Kept P W Z s) : Kept P W Z (acceptFlit s n flit) := by
  unfold acceptFlit; try dsimp only
  repeat' (with_reducible first | exact hK | intro _ | assumption | apply obsEvent_kept | apply modLink_kept | apply adoptFlit_kept | apply forEach_kept | apply deliverMsg_kept | apply forceLinkError_kept | apply raiseEv_kept | apply forEach_kept | refine Kept.snd (by assumption) ?_ | split)

theorem doFlitReceive_kept (port : Nat) (flit : BitVec 2048) (s : State) [Can W .regs] [Can W .dict] [Can W .mram] [Can W .pins] [Can W .start] [Can W .fuses] [Can W .time] [Can W .avs] [Can W .links] [Can W .agents] [Can W .flights] [Can W .tree] [Can W .home] [Can W .pchs] [Can W .chans] [Can W .slices] [Can W .array] [Can W .stack] [Can W .sleep] [Can W .mbx] [Can W .masters] [Can W .side] [Can W .ump] [Can W .images] [Can W .ev] [Can W .funs] [Can W .ledgers] [Can W .obs] [Can W .out] [Can W .now] [Can W .uid] [Can W .free] (hK : Kept P W Z s) : Kept P W Z (doFlitReceive port flit s) := by
  unfold doFlitReceive; try dsimp only
  repeat' (with_reducible first | exact hK | intro _ | assumption | apply Kept.ite | apply ungate_kept | apply bumpi_kept | apply discardFlit_kept | apply forceLinkError_kept | apply adoptFlit_kept | apply modLink_kept | apply obsEvent_kept | apply modSleep_kept | apply acceptFlit_kept | split)

theorem countUnit_kept (s : State) (u : Nat) [Can W .obs] (hK : Kept P W Z s) : Kept P W Z (countUnit s u) := by
  unfold countUnit; try dsimp only
  repeat' (with_reducible first | exact hK | intro _ | assumption | apply Kept.ite | apply obsBump_kept | apply forEach_kept | apply obsEventPc_kept | apply forEach_kept | split)

theorem countBeat_kept (s : State) [Can W .obs] (hK : Kept P W Z s) : Kept P W Z (countBeat s) := by
  unfold countBeat; try dsimp only
  repeat' (with_reducible first | exact hK | intro _ | assumption | apply Kept.ite | apply forEach_kept | apply countUnit_kept | apply forEach_kept | split)

theorem passTime_kept (s : State) [Can W .time] [Can W .now] (hK : Kept P W Z s) : Kept P W Z (passTime s) := by
  unfold passTime
  dsimp only
  split
  · exact Kept.set_now (Kept.set_time (Kept.eta hK) id (fun _ => Nat.mod_lt _ (by decide)))
  · exact Kept.set_now (Kept.set_time (Kept.eta hK) id id)

theorem tick_kept (s : State) [Can W .regs] [Can W .time] [Can W .links] [Can W .agents] [Can W .flights] [Can W .tree] [Can W .home] [Can W .pchs] [Can W .chans] [Can W .slices] [Can W .sleep] [Can W .mbx] [Can W .masters] [Can W .side] [Can W .ev] [Can W .funs] [Can W .ledgers] [Can W .obs] [Can W .out] [Can W .now] [Can W .free] (hK : Kept P W Z s) : Kept P W Z (tick s) := by
  unfold tick; try dsimp only
  repeat' (with_reducible first | exact hK | apply Kept.ite | apply passTime_kept | apply countBeat_kept | apply settleGates_kept | apply watchMasters_kept | apply beginFunResets_kept | apply takeForces_kept | apply startHolds_kept | apply startDeferred_kept | apply beatTree_kept | apply takeWrapped_kept | split)

end Sys2Proof.Machine
end

