-- ==== Sys2Proof/Laws/Raised.lean ====
section
/-!
SUPPORT. A raised event sets its status bit, and reporting clears none (14 R380).
-/
namespace Sys2Proof.Machine

/-- Status bits set in `s` are set in `t`. -/
def Sticks (s t : State) : Prop := ∀ g i, statusBit s g i = true → statusBit t g i = true

variable {z : State}

theorem Sticks.refl (s : State) : Sticks s s := fun _ _ h => h
theorem Sticks.trans {s t u : State} (h : Sticks s t) (k : Sticks t u) : Sticks s u := fun g i x => k g i (h g i x)
theorem sticks_of {s t : State} (h : Sticks z s) (e : t.ev.status = s.ev.status) : Sticks z t := by
  intro g i x; have := h g i x; unfold statusBit grpStatus at *; rw [e]; exact this
theorem Sticks.ite {c : Prop} [Decidable c] {s a b : State} (h : Sticks s a) (k : Sticks s b) : Sticks s (if c then a else b) := by
  split <;> assumption
theorem Answered.sticks {s t : State} (h : Answered s t) (k : Sticks z s) : Sticks z t := sticks_of k (by rw [show t.ev = s.ev from h .ev rfl])
theorem obsEvent_sticks (s : State) (u c n : Nat) (h : Sticks z s) : Sticks z (obsEvent s u c n) := (obsEvent_answered s u c n).sticks h
theorem sendEvt_sticks (s : State) (n g : Nat) (m : TxMsg) (h : Sticks z s) : Sticks z (sendEvt s n g m) := (sendEvt_answered s n g m).sticks h
theorem emit_sticks (s : State) (o : Out) (h : Sticks z s) : Sticks z (emit s o) := h
theorem put_sticks (s : State) (k d v : Nat) (h : Sticks z s) : Sticks z (put s k d v) := h
theorem bump_sticks (s : State) (r : Reg) (h : Sticks z s) : Sticks z (bump s r) := h
theorem wr_sticks (s : State) (r : Reg) (v : Nat) (h : Sticks z s) : Sticks z (wr s r v) := h
theorem forEach_sticks {α : Type} (l : List α) (s : State) (f : State → α → State) (hf : ∀ s a, Sticks z s → Sticks z (f s a))
    (h : Sticks z s) : Sticks z (forEach l s f) := by
  unfold forEach; induction l generalizing s with
  | nil => exact h
  | cons a l ih => exact ih _ (hf _ _ h)
theorem flushTelemetry_sticks (s : State) (h : Sticks z s) : Sticks z (flushTelemetry s) := by
  unfold flushTelemetry bumpTo wri; exact h
theorem side_sticks {s : State} {x : Sideband} (h : Sticks z s) : Sticks z { s with side := x } := h
theorem obs_sticks {s : State} {x : Obs} (h : Sticks z s) : Sticks z { s with obs := x } := h
theorem ev_sticks {s : State} {x : Events} (h : Sticks z s) (e : x.status = s.ev.status) : Sticks z { s with ev := x } := sticks_of h e

theorem pendingIbi_sticks (s : State) (h : Sticks z s) : Sticks z (pendingIbi s) := by
  unfold pendingIbi; try dsimp only
  repeat' (with_reducible first | exact h | assumption | rfl | decide | intro _ | apply Sticks.ite | apply emit_sticks | apply side_sticks | apply obs_sticks | apply ev_sticks | split)
theorem queueTelemetry_sticks (s : State) (b : List Nat) (h : Sticks z s) : Sticks z (queueTelemetry s b) := by
  unfold queueTelemetry; try dsimp only
  repeat' (with_reducible first | exact h | assumption | rfl | decide | intro _ | apply Sticks.ite | apply pendingIbi_sticks | apply flushTelemetry_sticks | apply bump_sticks | apply side_sticks | apply obs_sticks | apply ev_sticks | split)
theorem sendTelemetry_sticks (s : State) (x : Slot) (h : Sticks z s) : Sticks z (sendTelemetry s x) := by
  unfold sendTelemetry; try dsimp only
  repeat' (with_reducible first | exact h | assumption | rfl | decide | intro _ | apply Sticks.ite | apply queueTelemetry_sticks | apply forEach_sticks | apply side_sticks | apply obs_sticks | apply ev_sticks | split)
theorem sendAlert_sticks (s : State) (g : Nat) (h : Sticks z s) : Sticks z (sendAlert s g) := by
  unfold sendAlert; try dsimp only
  repeat' (with_reducible first | exact h | assumption | rfl | decide | intro _ | apply Sticks.ite | apply emit_sticks | apply side_sticks | apply obs_sticks | apply ev_sticks | split)
theorem deliverTo_sticks (s : State) (g d : Nat) (h : Sticks z s) : Sticks z (deliverTo s g d) := by
  unfold deliverTo; try dsimp only
  repeat' (with_reducible first | exact h | assumption | rfl | decide | intro _ | apply Sticks.ite | apply sendAlert_sticks | apply sendTelemetry_sticks | apply sendEvt_sticks | apply obsEvent_sticks | apply side_sticks | apply obs_sticks | apply ev_sticks | split)
theorem deliver_sticks (s : State) (g : Nat) (h : Sticks z s) : Sticks z (deliver s g) := by
  unfold deliver; try dsimp only
  repeat' (with_reducible first | exact h | assumption | rfl | decide | intro _ | apply Sticks.ite | apply deliverTo_sticks | apply forEach_sticks | apply side_sticks | apply obs_sticks | apply ev_sticks | split)
theorem enabledEffects_sticks (s : State) (g i d : Nat) (f : Bool) (h : Sticks z s) : Sticks z (enabledEffects s g i d f) := by
  unfold enabledEffects; try dsimp only
  repeat' (with_reducible first | exact h | assumption | rfl | decide | intro _ | apply Sticks.ite | apply side_sticks | apply obs_sticks | apply ev_sticks | split)
theorem traceAppend_sticks (s : State) (r : List Nat) (h : Sticks z s) : Sticks z (traceAppend s r) := by
  unfold traceAppend; try dsimp only
  repeat' (with_reducible first | exact h | assumption | rfl | decide | intro _ | apply Sticks.ite | apply side_sticks | apply obs_sticks | apply ev_sticks | split)
theorem traceDrop_sticks (s : State) (h : Sticks z s) : Sticks z (traceDrop s) := by
  unfold traceDrop; try dsimp only
  repeat' (with_reducible first | exact h | assumption | rfl | decide | intro _ | apply Sticks.ite | apply side_sticks | apply obs_sticks | apply ev_sticks | split)
theorem countDrop_sticks (s : State) (h : Sticks z s) : Sticks z (countDrop s) := by
  unfold countDrop; try dsimp only
  repeat' (with_reducible first | exact h | assumption | rfl | decide | intro _ | apply Sticks.ite | apply bump_sticks | apply side_sticks | apply obs_sticks | apply ev_sticks | split)

/-- A defined source's status bit is set by its raising, and no other is cleared. -/
theorem raiseUntraced_sets (s : State) (g i d : Nat) (f : Bool) (h : bitOf (definedMask g) i = true) :
    statusBit (raiseUntraced s g i d f) g i = true := by
  unfold raiseUntraced
  rw [if_neg (by simp [h])]
  dsimp only
  generalize hx : ({ s with ev := _ } : State) = x
  have h1 : statusBit x g i = true := by
    rw [← hx]; unfold statusBit grpStatus
    simp only [tget_tset_same, putBit, bitOf, if_true]
    simp [Nat.testBit_or, Nat.testBit_shiftLeft]
  split
  · split
    · exact deliver_sticks _ _ (enabledEffects_sticks _ _ _ _ _ (Sticks.refl _)) _ _ h1
    · exact enabledEffects_sticks _ _ _ _ _ (Sticks.refl _) _ _ h1
  · exact h1

theorem raiseUntraced_sticks (s : State) (g i d : Nat) (f : Bool) (h : Sticks z s) : Sticks z (raiseUntraced s g i d f) := by
  refine h.trans fun g' i' hb => ?_
  unfold raiseUntraced
  split
  · exact hb
  · dsimp only
    generalize hx : ({ s with ev := _ } : State) = x
    have h1 : statusBit x g' i' = true := by
      rw [← hx]; unfold statusBit grpStatus at *
      dsimp only
      by_cases hg : g' = g
      · subst hg
        simp only [tget_tset_same, putBit, bitOf, if_true] at *
        simp [Nat.testBit_or, hb]
      · rw [tget_tset_ne _ _ _ hg]; exact hb
    split
    · split
      · exact deliver_sticks _ _ (enabledEffects_sticks _ _ _ _ _ (Sticks.refl _)) _ _ h1
      · exact enabledEffects_sticks _ _ _ _ _ (Sticks.refl _) _ _ h1
    · exact h1

theorem traceRecord_sticks (s : State) (r : List Nat) (h : Sticks z s) : Sticks z (traceRecord s r) := by
  unfold traceRecord; try dsimp only
  repeat' (with_reducible first | exact h | assumption | rfl | decide | intro _ | apply Sticks.ite | apply countDrop_sticks | apply raiseUntraced_sticks | apply traceAppend_sticks | apply traceDrop_sticks | apply side_sticks | apply obs_sticks | apply ev_sticks | split)
theorem raiseDet_sticks (s : State) (g i d : Nat) (f : Bool) (h : Sticks z s) : Sticks z (raiseDet s g i d f) := by
  unfold raiseDet; try dsimp only
  repeat' (with_reducible first | exact h | assumption | rfl | decide | intro _ | apply Sticks.ite | apply traceRecord_sticks | apply raiseUntraced_sticks | apply side_sticks | apply obs_sticks | apply ev_sticks | split)
theorem raiseEv_sticks (s : State) (g i hi lo : Nat) (h : Sticks z s) : Sticks z (raiseEv s g i hi lo) := by
  unfold raiseEv; try dsimp only
  repeat' (with_reducible first | exact h | assumption | rfl | decide | intro _ | apply Sticks.ite | apply raiseDet_sticks | apply side_sticks | apply obs_sticks | apply ev_sticks | split)
theorem raiseFirst_sticks (s : State) (g i hi lo : Nat) (h : Sticks z s) : Sticks z (raiseFirst s g i hi lo) := by
  unfold raiseFirst; try dsimp only
  repeat' (with_reducible first | exact h | assumption | rfl | decide | intro _ | apply Sticks.ite | apply raiseEv_sticks | apply side_sticks | apply obs_sticks | apply ev_sticks | split)

/-- While the beat runs, raising a defined source sets its bit (14 R380). -/
theorem raiseEv_sets (s : State) (g i hi lo : Nat) (hr : s.time.run = true) (h : bitOf (definedMask g) i = true) :
    statusBit (raiseEv s g i hi lo) g i = true := by
  unfold raiseEv
  rw [if_pos hr]
  unfold raiseDet
  dsimp only
  have := raiseUntraced_sets s g i (detail hi lo) false h
  split
  · exact traceRecord_sticks _ _ (Sticks.refl _) _ _ this
  · exact this

theorem raiseFirst_sets (s : State) (g i hi lo : Nat) (hr : s.time.run = true) (h : bitOf (definedMask g) i = true) :
    statusBit (raiseFirst s g i hi lo) g i = true := by
  unfold raiseFirst
  split
  · assumption
  · exact raiseEv_sets s g i hi lo hr h

/-- Latched events, taken on the restart beat, are Reported; the beat then runs (11 R315). -/
theorem takeLatched_reported (s : State) (h : Reported z s) : Reported z (takeLatched s) := by
  unfold takeLatched
  exact forEach_reported _ _ _ (fun s a h => raiseEv_reported _ _ _ _ _ h) (ev_reported h)

theorem setQuality_reported (s : State) (q : Nat) : Reported { s with time := { s.time with quality := q } } (setQuality s q) := by
  unfold setQuality
  split
  · rename_i h
    have : ({ s with time := { s.time with quality := q } } : State) = s := by subst h; rfl
    rw [this]; exact Reported.refl s
  · exact raiseEv_reported _ _ _ _ _ (Reported.refl _)

end Sys2Proof.Machine
end

