-- ==== Sys2Proof/Laws/Reset.lean ====
section
/-!
SUPPORT. A reset of the islands: which values its registers hold, and every other part (00 R14, 02 R36, R38).
-/
namespace Sys2Proof.Machine

theorem own_fold (s : State) (l : Tbl Copies) (t : Tbl Nat) (k : Nat) (h : ownStore k = true) :
    tget? (l.foldl (fun t (x : Nat × Copies) => if ownStore x.1 then t else tput t x.1 x.2.value (dfltAt s x.1)) t) k = tget? t k := by
  induction l generalizing t with
  | nil => rfl
  | cons x l ih =>
    rw [List.foldl_cons, ih]
    split
    · rfl
    · rename_i hx
      have : k ≠ x.1 := by rintro rfl; exact hx h
      unfold tput; split
      · exact tget?_tdel_ne _ this
      · exact tget?_tset_ne _ _ this
theorem filter_tget (p : Nat → Bool) (t : Tbl Nat) (k : Nat) (h : p k = true) : tget? (t.filter fun (k, _) => p k) k = tget? t k := by
  induction t with
  | nil => rfl
  | cons x t ih =>
    obtain ⟨i, v⟩ := x
    by_cases hp : p i = true
    · rw [List.filter_cons_of_pos (by simpa using hp)]; simp only [tget?, ih]
    · rw [List.filter_cons_of_neg (by simpa using hp), ih]
      have : k ≠ i := by rintro rfl; exact hp h
      simp only [tget?]; rw [if_neg (fun e => this (by omega))]
theorem filter_tget_no (p : Nat → Bool) (t : Tbl Nat) (k : Nat) (h : p k = false) : tget? (t.filter fun (k, _) => p k) k = none := by
  induction t with
  | nil => rfl
  | cons x t ih =>
    obtain ⟨i, v⟩ := x
    by_cases hp : p i = true
    · rw [List.filter_cons_of_pos (by simpa using hp)]
      have : k ≠ i := by rintro rfl; rw [hp] at h; cases h
      simp only [tget?]; rw [if_neg (fun e => this (by omega)), ih]
    · rw [List.filter_cons_of_neg (by simpa using hp), ih]
theorem not_own_fold (s : State) (l : Tbl Copies) (t : Tbl Nat) (k : Nat) (h : tget? l k = none) :
    tget? (l.foldl (fun t (x : Nat × Copies) => if ownStore x.1 then t else tput t x.1 x.2.value (dfltAt s x.1)) t) k = tget? t k := by
  induction l generalizing t with
  | nil => rfl
  | cons x l ih =>
    have hk : k ≠ x.1 ∧ tget? l k = none := by
      obtain ⟨i, v⟩ := x
      simp only [tget?] at h
      split at h
      · cases h
      · rename_i hne; exact ⟨fun e => hne (by omega), h⟩
    rw [List.foldl_cons, ih _ hk.2]
    split
    · rfl
    · unfold tput; split
      · exact tget?_tdel_ne _ hk.1
      · exact tget?_tset_ne _ _ hk.1
theorem train_fold (s : State) (l t : Tbl Nat) (k : Nat) (h : trainKey k = false ∨ tget? l k = none) :
    tget? (l.foldl (fun t (x : Nat × Nat) => if trainKey x.1 then tput t x.1 x.2 (dfltAt s x.1) else t) t) k = tget? t k := by
  induction l generalizing t with
  | nil => rfl
  | cons x l ih =>
    have hl : trainKey k = false ∨ tget? l k = none := h.imp_right fun e => by
      simp only [tget?] at e; split at e
      · cases e
      · exact e
    rw [List.foldl_cons, ih _ hl]
    split
    · rename_i hx
      have hk : k ≠ x.1 := by
        rintro rfl
        rcases h with h | h
        · rw [hx] at h; cases h
        · simp [tget?] at h
      unfold tput; split
      · exact tget?_tdel_ne _ hk
      · exact tget?_tset_ne _ _ hk
    · rfl

/-- The repair map, image slots and fuse copies keep their values over a reset. -/
theorem reloadRegs_own (s : State) (k : Nat) (h : ownStore k = true) (ht : trainKey k = false) :
    tget? (reloadRegs s) k = tget? s.regs k := by
  unfold reloadRegs
  exact ((own_fold s _ _ k h).trans (train_fold s _ _ k (.inl ht))).trans
    (filter_tget (fun k => ownStore k && !trainKey k) _ _ (by simp [h, ht]))

/-- An entry with no stored value takes its Default. -/
theorem reloadRegs_default (s : State) (k : Nat) (h : ownStore k = false ∨ trainKey k = true)
    (hp : tget? s.mram.params k = none) (ht : trainKey k = false ∨ tget? s.mram.trainRegs k = none) :
    tget? (reloadRegs s) k = none := by
  unfold reloadRegs
  refine ((not_own_fold s _ _ k ?_).trans (train_fold s _ _ k ht)).trans
    (filter_tget_no (fun k => ownStore k && !trainKey k) _ _ (by rcases h with h | h <;> simp [h]))
  split
  · rfl
  · exact hp

theorem forEach_val {α : Type} (l : List α) (s : State) (f : State → α → State) (k d : Nat)
    (hf : ∀ s, ∀ a ∈ l, val (f s a) k d = val s k d) : val (forEach l s f) k d = val s k d := by
  unfold forEach
  induction l generalizing s with
  | nil => rfl
  | cons a l ih =>
    rw [List.foldl_cons, ih _ (fun s b hb => hf s b (List.mem_cons_of_mem _ hb)), hf s a List.mem_cons_self]

/-- A fold that writes registers alone leaves the rest. -/
theorem forEach_within {α : Type} (w : Part → Bool) (l : List α) (s : State) (f : State → α → State) (hf : ∀ s a, Within w s (f s a)) :
    Within w s (forEach l s f) := by
  unfold forEach
  induction l generalizing s with
  | nil => intro p _; cases p <;> rfl
  | cons a l ih =>
    intro p hp
    have h1 := hf s a p hp
    have h2 := ih (f s a) p hp
    cases p <;> exact Eq.trans h2 h1

theorem wri_within (s : State) (r : Reg) (i v : Nat) : Within (fun p => p == .regs) s (wri s r i v) := by
  intro p hp; cases p <;> first | rfl | cases hp

theorem wr_within (s : State) (r : Reg) (v : Nat) : Within (fun p => p == .regs) s (wr s r v) := wri_within s r 0 v

/-- The reset of the islands beyond its registers. -/
theorem islandsReset_within (s : State) (c p : Nat) (k : Bool) :
    Within (fun p => p == .regs) (islandsCleared s p k) (islandsReset s c p k) := by
  unfold islandsReset
  exact ((((wr_within _ _ _).trans (wr_within _ _ _)).trans (wr_within _ _ _)).trans
    (forEach_within _ _ _ _ fun s a => wri_within s _ _ _)).trans (wr_within _ _ _)

theorem islandsReset_home (s : State) (c p : Nat) (k : Bool) :
    (islandsReset s c p k).home = {} := islandsReset_within s c p k .home rfl
theorem islandsReset_flights (s : State) (c p : Nat) (k : Bool) :
    (islandsReset s c p k).flights = [] := islandsReset_within s c p k .flights rfl
theorem islandsReset_tree (s : State) (c p : Nat) (k : Bool) :
    (islandsReset s c p k).tree = {} := islandsReset_within s c p k .tree rfl
theorem islandsReset_obs (s : State) (c p : Nat) (k : Bool) :
    (islandsReset s c p k).obs = {} := islandsReset_within s c p k .obs rfl
theorem islandsReset_mbx (s : State) (c p : Nat) (k : Bool) :
    (islandsReset s c p k).mbx = [] := islandsReset_within s c p k .mbx rfl
theorem islandsReset_masters (s : State) (c p : Nat) (k : Bool) :
    (islandsReset s c p k).masters = [] := islandsReset_within s c p k .masters rfl
theorem islandsReset_links (s : State) (c p : Nat) (k : Bool) :
    (islandsReset s c p k).links = [] := islandsReset_within s c p k .links rfl
theorem islandsReset_agents (s : State) (c p : Nat) (k : Bool) :
    (islandsReset s c p k).agents = [] := islandsReset_within s c p k .agents rfl
theorem islandsReset_pchs (s : State) (c p : Nat) (k : Bool) :
    (islandsReset s c p k).pchs = [] := islandsReset_within s c p k .pchs rfl
theorem islandsReset_side (s : State) (c p : Nat) (k : Bool) :
    (islandsReset s c p k).side = {} := islandsReset_within s c p k .side rfl
theorem islandsReset_funs (s : State) (c p : Nat) (k : Bool) :
    (islandsReset s c p k).funs = [] := islandsReset_within s c p k .funs rfl
theorem islandsReset_ledgers (s : State) (c p : Nat) (k : Bool) :
    (islandsReset s c p k).ledgers = [] := islandsReset_within s c p k .ledgers rfl
theorem islandsReset_dict (s : State) (c p : Nat) (k : Bool) :
    (islandsReset s c p k).dict = {} := islandsReset_within s c p k .dict rfl
theorem islandsReset_avs (s : State) (c p : Nat) (k : Bool) :
    (islandsReset s c p k).avs = {} := islandsReset_within s c p k .avs rfl
theorem islandsReset_ump (s : State) (c p : Nat) (k : Bool) :
    (islandsReset s c p k).ump = {} := islandsReset_within s c p k .ump rfl
theorem islandsReset_fuses (s : State) (c p : Nat) (k : Bool) :
    (islandsReset s c p k).fuses = s.fuses := islandsReset_within s c p k .fuses rfl
theorem islandsReset_images (s : State) (c p : Nat) (k : Bool) :
    (islandsReset s c p k).images = s.images := islandsReset_within s c p k .images rfl
theorem islandsReset_out (s : State) (c p : Nat) (k : Bool) :
    (islandsReset s c p k).out = s.out := islandsReset_within s c p k .out rfl
theorem islandsReset_now (s : State) (c p : Nat) (k : Bool) :
    (islandsReset s c p k).now = s.now := islandsReset_within s c p k .now rfl
theorem islandsReset_uid (s : State) (c p : Nat) (k : Bool) :
    (islandsReset s c p k).uid = s.uid := islandsReset_within s c p k .uid rfl
theorem islandsReset_free (s : State) (c p : Nat) (k : Bool) :
    (islandsReset s c p k).free = s.free := islandsReset_within s c p k .free rfl
theorem islandsReset_ply16 (s : State) (c p : Nat) (k : Bool) :
    (islandsReset s c p k).ply16 = s.ply16 := islandsReset_within s c p k .ply16 rfl
theorem islandsReset_pending (s : State) (c p : Nat) (k : Bool) :
    (islandsReset s c p k).pending = s.pending := islandsReset_within s c p k .pending rfl
theorem islandsReset_array (s : State) (c p : Nat) (k : Bool) :
    (islandsReset s c p k).array = if k then s.array else {} := islandsReset_within s c p k .array rfl
theorem islandsReset_time (s : State) (c p : Nat) (k : Bool) :
    (islandsReset s c p k).time = { s.time with named := none, conflict := false, slew8 := 0, slewLeft := 0 } := islandsReset_within s c p k .time rfl
theorem islandsReset_start (s : State) (c p : Nat) (k : Bool) :
    (islandsReset s c p k).start =
      { phase := .reset, path := p, ackSeenLow := !s.pins.rstCmplAck, wall0 := s.time.t, beats0 := s.time.beats, cold := false
        resetAt := some s.now, refLost := s.start.refLost, trial := s.start.trial || rd s R.UPG_STATE = 2 } := islandsReset_within s c p k .start rfl
theorem islandsReset_pins (s : State) (c p : Nat) (k : Bool) :
    (islandsReset s c p k).pins = { resetPins s.pins with cdiRstN := k && s.pins.cdiRstN } := islandsReset_within s c p k .pins rfl

theorem islandsReset_path (s : State) (c p : Nat) (k : Bool) : rd (islandsReset s c p k) R.BUP_START_PATH = p := by
  unfold islandsReset; exact rd_wr_same _ _ _

theorem islandsReset_cause (s : State) (c p : Nat) (k : Bool) : rd (islandsReset s c p k) R.BLK_RESET_CAUSE = resetCause s c := by
  unfold islandsReset
  dsimp only
  rw [rd_wr_ne _ _ (by decide)]
  have key : ∀ (l : List Nat) (t : State), rd (forEach l t fun s' pc => wri s' R.INT_REPAIR_STATE pc 5) R.BLK_RESET_CAUSE = rd t R.BLK_RESET_CAUSE := by
    intro l
    induction l with
    | nil => intro t; rfl
    | cons a l ih =>
      intro t
      exact (ih _).trans (rdi_wri_ne _ _ (by show 4096 ≠ 8454152 + a * 256; omega))
  rw [key, rd_wr_ne _ _ (by decide)]
  exact rd_wr_same _ _ _

/-- A register that the reset itself does not set holds its reloaded value. -/
theorem islandsReset_val (s : State) (c p : Nat) (kp : Bool) (k d : Nat) (h1 : k ≠ R.ENG_CLASS_LOG_NEXT.key) (h2 : k ≠ R.BLK_RESET_CAUSE.key)
    (h3 : k ≠ R.BUP_START_PATH.key) (h5 : k ≠ R.RFH_PROF_PARKED.key) (h4 : ∀ pc, k ≠ R.INT_REPAIR_STATE.key + pc * R.INT_REPAIR_STATE.stride) :
    val (islandsReset s c p kp) k d = tget (reloadRegs s) k ((namedDefault k).getD d) := by
  unfold islandsReset
  dsimp only
  unfold wr wri
  rw [val_put_ne _ _ _ _ (by simpa using h3), forEach_val _ _ _ _ _ (fun s a _ => val_put_ne _ _ _ _ (h4 a)),
    val_put_ne _ _ _ _ (by simpa using h5), val_put_ne _ _ _ _ (by simpa using h2), val_put_ne _ _ _ _ (by simpa using h1)]
  rfl

end Sys2Proof.Machine
end

