-- ==== Sys2Proof/WellFormed.lean ====
section
/-!
DEFINITION. Well-formed commands: every operand lies in the range the spec gives its field, and a write that has a row of its own
carries the value that row stands for. The ranges are PLY-32's; a resource that PLY-16 lacks is met by each meaning.
-/
namespace Sys2Proof

def Sender.wf : Sender → Bool
  | .inband port fn => decide (port < 8) && decide (fn < 16)
  | .sideband eid => decide (eid < 256)
  | .umpire id => id = 0x30 || id = 0x31

/-- Table LNK-11: MTAG of 8 bits, VALUE of 64. -/
def Access.wf (a : Access) : Bool := a.src.wf && decide (a.mtag < 256) && decide (a.value < 2 ^ 64)

def DictMsg.wf (d : DictMsg) : Bool :=
  d.src.wf && decide (d.mtag < 256) && decide (d.index < 65536) && decide (d.sub < 256) && decide (d.offset < 256) &&
    decide (d.nslots < 16) && decide (d.value < 2 ^ 64) && (d.data.all fun b => decide (b < 256))

/-- Table LNK-4. -/
def ReqHdr.wf (h : ReqHdr) : Bool :=
  decide (h.port < 8) && decide (h.fn < 16) && decide (h.label < 16384) && decide (h.agent < 4096) && decide (h.tag < 65536) &&
    decide (h.line < 2 ^ 46)

/-- Table LNK-10: SNOOP_ID of 16 bits. -/
def SnoopRsp.wf (r : SnoopRsp) : Bool := decide (r.port < 8) && decide (r.agent < 4096) && decide (r.snoopId < 65536)

/-- Table LNK-6. -/
def AtomSpec.wf (x : AtomSpec) : Bool := decide (x.aop < 16) && decide (x.offset < 64)

/-- 16 R420: repair words at 0x100 to 0x7FF. -/
def FuseImage.wf (f : FuseImage) : Bool :=
  decide (f.pen < 2 ^ 32) && (f.repair.all fun (k, w) => decide (0x100 ≤ k) && decide (k < 0x800) && decide (w < 2 ^ 32))

/-- 08 R203: words of 20 bits at most, an ACT's two; the four SIDs of a channel. -/
def flipsWf (l : Flips) : Bool := l.all fun (sid, bits) => decide (sid < 4) && decide (bits < 2 ^ 40)

def Instr.wf : Instr → Bool
  | .porAssert => true
  | .blockResetAssert => true
  | .resetRelease => true
  | .fuseLoadDone f => f.wf
  | .rstCmplAckRise => true
  | .rstCmplAckFall => true
  | .mramLoadDone _ => true
  | .mbistDone _ _ _ _ => true
  | .firmwareVerifyDone _ => true
  | .trainingDone _ => true
  | .marchDone _ _ => true
  | .hardRepairDone _ => true
  | .fuseProgramDone readBack => decide (readBack < 2 ^ 32)
  | .fillDone _ => true
  | .pwrAck supply _ => decide (supply < 2)
  | .pwrAckTimeout supply => decide (supply < 2)
  | .refclkLoss => true
  | .refclkReturn => true
  | .holdoverClockSwitch => true
  | .pllLockLoss pll => decide (pll < 32)
  | .avsMarginLow step => decide (step < 256)
  | .avsMarginHighHold step => decide (step < 256)
  | .avsAck _ => true
  | .avsAckDrop => true
  | .avsAckTimeout => true
  | .dieCattripRise die _ => decide (die < 16)
  | .extWake _ => true
  | .tsyncEdge eighths _ _ _ => decide (eighths < 8)
  | .timeErrorLimit => true
  | .dynamicAddressAssign addr => decide (addr < 128)
  | .plProtocolVld port _ => decide (port < 8)
  | .fdiActive port => decide (port < 8)
  | .retrainEntry port => decide (port < 8)
  | .retrainExit port => decide (port < 8)
  | .retrainLimitExpiry port => decide (port < 8)
  | .linkResetDone port => decide (port < 8)
  | .adapterLinkerror port => decide (port < 8)
  | .l1Reached port => decide (port < 8)
  | .plStallreq port => decide (port < 8)
  | .plClkReq port => decide (port < 8)
  | .plRxActiveReq port => decide (port < 8)
  | .plError port => decide (port < 8)
  | .plNferror port => decide (port < 8)
  | .plCerror port => decide (port < 8)
  | .plPhyinrecenter port => decide (port < 8)
  | .lnkPortEnable a => a.wf
  | .flitReceive port _ => decide (port < 8)
  | .nakReceive port ackSeq => decide (port < 8) && decide (ackSeq < 1024)
  | .nakRepeat port => decide (port < 8)
  | .idleFlitSend port => decide (port < 8)
  | .negOffer port _ _ => decide (port < 8)
  | .negTimeout port => decide (port < 8)
  | .agentJoin port agent fn cell _ => decide (port < 8) && decide (agent < 4096) && decide (fn < 16) && decide (cell < 16)
  | .agentLeave port agent => decide (port < 8) && decide (agent < 4096)
  | .agentLeaveWalkDone agent _ line => decide (agent < 4096) && decide (line < 2 ^ 46)
  | .rd h => h.wf
  | .rdShared h => h.wf
  | .rdOwn h => h.wf
  | .upgrade h => h.wf
  | .wrFull h _ => h.wf
  | .wrPart h _ _ => h.wf
  | .wbDirty h _ => h.wf
  | .wrHint h target _ => h.wf && decide (target < 4096)
  | .atom h x => h.wf && x.wf
  | .unsupportedOpcode h opcode => h.wf && decide (opcode < 64)
  | .cmpAck port count _ => decide (port < 8) && decide (count < 16)
  | .rspNotPresent r => r.wf
  | .rspInvClean r => r.wf
  | .rspShared r => r.wf
  | .rspDirty r _ => r.wf
  | .rspWbInFlight r => r.wf
  | .hintAccept r => r.wf
  | .hintDecline r => r.wf
  | .dictRd d => d.wf
  | .dictWr d => d.wf
  | .blobStagingTimeout master => decide (master < 256)
  | .pwrCmdA0 src mtag groups => src.wf && decide (mtag < 256) && decide (groups < 256)
  | .pwrCmdS1 src mtag groups => src.wf && decide (mtag < 256) && decide (groups < 256)
  | .pwrCmdS2 src mtag groups => src.wf && decide (mtag < 256) && decide (groups < 256)
  | .pwrCmdGroupS1 src mtag groups => src.wf && decide (mtag < 256) && decide (groups < 256)
  | .timeNext port value => decide (port < 8) && decide (value < 2 ^ 64)
  | .sbTimeValue eid value => decide (eid < 256) && decide (value < 2 ^ 64)
  | .eventMessageSend group => decide (group < 16)
  | .responseSend port _ => decide (port < 8)
  | .dispatch trunk _ => decide (trunk < 8)
  | .regulationUpdate => true
  | .leafReclaim leaf => decide (leaf < 262144)
  | .modelWindowEnd _ => true
  | .rmwCharge => true
  | .gateEntryStart trunk => decide (trunk < 8)
  | .gateGuardStart trunk => decide (trunk < 8)
  | .treGateSwitch a trunk => a.wf && decide (trunk < 8)
  | .gateSwitchApply trunk => decide (trunk < 8)
  | .treGateSwitchCancel a trunk => a.wf && decide (trunk < 8)
  | .treLeafCreate a => a.wf
  | .treLeafBucketReset a => a.wf
  | .treBranchBucketReset a => a.wf
  | .treTrunkBucketReset a trunk => a.wf && decide (trunk < 8)
  | .treLeafClear a => a.wf
  | .treLeafCir a => a.wf
  | .treLeafOlMax a => a.wf
  | .treLeafBranch a => a.wf
  | .treBranchCtrl a => a.wf
  | .treBranchMin a => a.wf
  | .treBranchMax a => a.wf
  | .treTrunkMax a trunk => a.wf && decide (trunk < 8)
  | .homeAccept _ => true
  | .transactionActivate txn _ => decide (txn < 8192)
  | .possessionWindowEnd line agent => decide (line < 2 ^ 46) && decide (agent < 4096)
  | .snoopTimeout txn agent => decide (txn < 8192) && decide (agent < 4096)
  | .wbPairingTimeout txn agent => decide (txn < 8192) && decide (agent < 4096)
  | .ackTimeout txn => decide (txn < 8192)
  | .responseTimeout lost n => lost || decide (n < 8192)
  | .cellFallComplete cell _ line => decide (cell < 16) && decide (line < 2 ^ 46)
  | .homCellTakeDown a cell => a.wf && decide (cell < 16) && decide (a.value = 1)
  | .homCellRestart a cell => a.wf && decide (cell < 16) && decide (a.value = 2)
  | .homFunCoherent a => a.wf
  | .homFilterProbeAddr a _ => a.wf
  | .homFilterProbeDone => true
  | .homCellEpochArm a cell => a.wf && decide (cell < 16) && decide (a.value = 1)
  | .homCellEpochCancel a cell => a.wf && decide (cell < 16) && decide (a.value = 2)
  | .epochSwitch cell => decide (cell < 16)
  | .mapCommit a => a.wf
  | .commitWalkStart _ => true
  | .commitWalkDone => true
  | .commitApply => true
  | .mapCommitCancel a => a.wf
  | .mapTableStoreDone => true
  | .mapXlateAddr a => a.wf
  | .mapXlateSlot a => a.wf
  | .mapXlateDone => true
  | .engineReadEnqueue txn _ => decide (txn < 8192)
  | .engineWritePlace txn _ => decide (txn < 8192)
  | .mergeTimeout pc _ => decide (pc < 64)
  | .requestAged pc _ => decide (pc < 64)
  | .act pc sid bank row _ flips => decide (pc < 64) && decide (sid < 4) && decide (bank < 32) && decide (row < 16384) && flipsWf flips
  | .pre pc sid bank sag _ flips => decide (pc < 64) && decide (sid < 4) && decide (bank < 32) && decide (sag < 2) && flipsWf flips
  | .columnRd pc _ _ _ flips => decide (pc < 64) && flipsWf flips
  | .wr pc _ _ flips => decide (pc < 64) && flipsWf flips
  | .refpb pc sid bank sag group _ flips => decide (pc < 64) && decide (sid < 4) && decide (bank < 32) && decide (sag < 2) && decide (group < 512) && flipsWf flips
  | .reft pc sid bank sag _ flips => decide (pc < 64) && decide (sid < 4) && decide (bank < 32) && decide (sag < 2) && flipsWf flips
  | .refab pc sid _ flips => decide (pc < 64) && decide (sid < 4) && flipsWf flips
  | .prea pc sid _ flips => decide (pc < 64) && decide (sid < 4) && flipsWf flips
  | .mrw channel sid ma data _ flips => decide (channel < 32) && decide (sid < 4) && decide (ma < 32) && decide (data < 256) && flipsWf flips
  | .mrr channel sid ma _ flips => decide (channel < 32) && decide (sid < 4) && decide (ma < 32) && flipsWf flips
  | .mrrResult channel sid ma own _ => decide (channel < 32) && decide (sid < 4) && decide (ma < 32) && decide (own < 256)
  | .sre channel _ flips => decide (channel < 32) && flipsWf flips
  | .sreConfirmed channel => decide (channel < 32)
  | .srx channel _ flips => decide (channel < 32) && flipsWf flips
  | .wrFifo pc sid entry _ _ flips => decide (pc < 64) && decide (sid < 4) && decide (entry < 8) && flipsWf flips
  | .rdFifo pc sid entry _ flips => decide (pc < 64) && decide (sid < 4) && decide (entry < 8) && flipsWf flips
  | .rdCal pc sid pattern _ flips => decide (pc < 64) && decide (sid < 4) && decide (pattern < 4) && flipsWf flips
  | .wckSync pc sid _ flips => decide (pc < 64) && decide (sid < 4) && flipsWf flips
  | .softRepair channel sid _ flips => decide (channel < 32) && decide (sid < 4) && flipsWf flips
  | .hardRepair channel sid _ flips => decide (channel < 32) && decide (sid < 4) && flipsWf flips
  | .writeBurstEnd pc _ => decide (pc < 64)
  | .readDecode pc _ _ _ => decide (pc < 64)
  | .qualTestStart pc sid bank _ => decide (pc < 64) && decide (sid < 4) && decide (bank < 32)
  | .qualTestDone pc sid bank => decide (pc < 64) && decide (sid < 4) && decide (bank < 32)
  | .qualBandSettle => true
  | .engQualEnable a => a.wf
  | .engBankClassCap a channel bank => a.wf && decide (channel < 32) && decide (bank < 256)
  | .preambleGapRequest pc sid => decide (pc < 64) && decide (sid < 4)
  | .periodicRetrain pc => decide (pc < 64)
  | .retrainComplete pc _ => decide (pc < 64)
  | .statusPoll channel sid _ flips => decide (channel < 32) && decide (sid < 4) && flipsWf flips
  | .commandErrorRecovery channel => decide (channel < 32)
  | .commandBusRetrain channel _ _ => decide (channel < 32)
  | .cdiMrRead a => a.wf
  | .cdiMrReadDone own => decide (own < 256)
  | .refreshStepStart slice => decide (slice < 128)
  | .refreshRelease pc sid bank sag => decide (pc < 64) && decide (sid < 4) && decide (bank < 32) && decide (sag < 2)
  | .refreshUrgent pc sid bank sag => decide (pc < 64) && decide (sid < 4) && decide (bank < 32) && decide (sag < 2)
  | .sliceTempPoll slice => decide (slice < 128)
  | .sliceTempReading slice _ _ => decide (slice < 128)
  | .blockSensorRead _ => true
  | .scaleFall slice => decide (slice < 128)
  | .allowanceRise channel => decide (channel < 32)
  | .thermalTripEnd => true
  | .binTableSave => true
  | .rfhBinReset a => a.wf
  | .rfhBinMax a => a.wf
  | .rfhProfEnable a => a.wf
  | .profilerWalkStart pc => decide (pc < 64)
  | .groupPark pc group => decide (pc < 64) && decide (group < 131072)
  | .retentionHoldEnd pc group _ => decide (pc < 64) && decide (group < 131072)
  | .retentionTestResult pc group => decide (pc < 64) && decide (group < 131072)
  | .scrubRowStart pc => decide (pc < 64)
  | .suspectScrubRow pc => decide (pc < 64)
  | .intRetireRow a => a.wf
  | .intRetireBank a => a.wf
  | .repairPrepared pc => decide (pc < 64)
  | .repairSwitch pc => decide (pc < 64)
  | .repairDone pc => decide (pc < 64)
  | .testWriteEncoded a => a.wf && decide (a.value = 1)
  | .testWriteRaw a => a.wf && decide (a.value = 2)
  | .testReadRaw a => a.wf && decide (a.value = 3)
  | .testReadDecoded a => a.wf && decide (a.value = 4)
  | .intTestDone _ => true
  | .entryE1 => true
  | .entryE2 => true
  | .entryE3 _ => true
  | .entryE4 => true
  | .entryTimeout => true
  | .entryUndo => true
  | .beatStop => true
  | .s2Wake => true
  | .beatRestart => true
  | .s1Exit groups => decide (groups < 256)
  | .exitDispatchResume _ => true
  | .wakeAt => true
  | .islandIdleGate island => decide (island < 42)
  | .mgtDictLock a => a.wf
  | .mgtPersistErase a => a.wf
  | .persistStore _ _ => true
  | .mgtDescribe a => a.wf
  | .mgtDescriptorDone master => decide (master < 256)
  | .inboundFrame bytes _ => (bytes.all fun b => decide (b < 256))
  | .setEndpointId source eid => decide (source < 256) && decide (eid < 256)
  | .getEndpointId source => decide (source < 256)
  | .getMctpVersionSupport source msgType => decide (source < 256) && decide (msgType < 256)
  | .getMessageTypeSupport source => decide (source < 256)
  | .getVendorDefinedMessageSupport source selector => decide (source < 256) && decide (selector < 256)
  | .unsupportedMctpCommand source code => decide (source < 256) && decide (code < 256)
  | .getVersion source => decide (source < 256)
  | .getCapabilities source => decide (source < 256)
  | .negotiateAlgorithms source _ => decide (source < 256)
  | .getDigests source => decide (source < 256)
  | .getCertificate source slot offset length => decide (source < 256) && decide (slot < 256) && decide (offset < 65536) && decide (length < 65536)
  | .challenge source slot summary nonce => decide (source < 256) && decide (slot < 256) && decide (summary < 256) && decide (nonce < 2 ^ 256)
  | .getMeasurements source index _ nonce => decide (source < 256) && decide (index < 256) && decide (nonce < 2 ^ 256)
  | .spdmSigningDone => true
  | .unsupportedSpdmRequest source code => decide (source < 256) && decide (code < 256)
  | .outboundFrameRead _ => true
  | .ibiRepeat => true
  | .sbFlushTelemetry a => a.wf && decide (a.value = 1)
  | .sbFlushControl a => a.wf && decide (a.value = 2)
  | .sbFlushBoth a => a.wf && decide (a.value = 3)
  | .mgtMbxPost src mtag channel value => src.wf && decide (mtag < 256) && decide (channel < 64) && decide (value < 2 ^ 64)
  | .mgtMbxTake src mtag channel => src.wf && decide (mtag < 256) && decide (channel < 64)
  | .mgtMbxLockAcquire src mtag channel => src.wf && decide (mtag < 256) && decide (channel < 64)
  | .mgtMbxLockRelease src mtag channel value => src.wf && decide (mtag < 256) && decide (channel < 64) && decide (value < 2 ^ 64)
  | .mgtMbxBind a channel => a.wf && decide (channel < 64)
  | .mgtMbxTableLock a => a.wf
  | .mgtMasterSleep a master => a.wf && decide (master < 256)
  | .mbxTimeout channel => decide (channel < 64)
  | .umpireLockstepMismatch => true
  | .umpireWatchdogExpiry => true
  | .mgtUmpireRestart a => a.wf
  | .umpireRestartDone => true
  | .upgLoadBegin a => a.wf
  | .upgLoadData a _ => a.wf
  | .upgVerify a => a.wf
  | .upgVerifyDone _ => true
  | .upgActivate a => a.wf
  | .upgCommit a => a.wf
  | .upgRollback a => a.wf
  | .trialPeriodExpiry => true
  | .upgSvnFloor a => a.wf
  | .fltGrpStatus a group => a.wf && decide (group < 16)
  | .fltGrpEnable a group => a.wf && decide (group < 16)
  | .fltGrpForce a group => a.wf && decide (group < 16)
  | .fltGrpLatchClear a group => a.wf && decide (group < 16)
  | .fltGrpQuiet a group => a.wf && decide (group < 16)
  | .quietTimerExpiry group => decide (group < 16)
  | .inputStuck input => decide (input < 18)
  | .inputReleaseCheck input _ => decide (input < 18)
  | .fltBlockReset a => a.wf
  | .commandedResetEffect => true
  | .fltLinkReset a => a.wf
  | .funReset a fn => a.wf && decide (fn < 16)
  | .funResetDrainLimitExpiry fn => decide (fn < 16)
  | .funResetComplete fn => decide (fn < 16)
  | .funLedgerClear a fn => a.wf && decide (fn < 16)
  | .counterOverflow unit counter => decide (unit < 52) && decide (counter < 9)
  | .obsFreeze a => a.wf && decide (a.value = 1)
  | .obsUnfreeze a => a.wf && decide (a.value = 2)
  | .obsSnapshot a => a.wf && decide (a.value = 3)
  | .obsClear a => a.wf && decide (a.value = 4)
  | .obsCaptureBeat => true
  | .obsUnitClear a unit => a.wf && decide (unit < 52)
  | .obsRingClear a => a.wf
  | .obsTraceEnable a => a.wf
  | .traceDump => true
  | .traceSyncTimer => true
  | .blkXingParityClear a => a.wf
  | .lnkCountersClear a => a.wf
  | .homCountersClear a => a.wf
  | .engCountersClear a => a.wf
  | .cdiCountersClear a => a.wf
  | .rfhCountersClear a => a.wf
  | .intCountersClear a => a.wf
  | .slpCountersClear a => a.wf
  | .mgtCountersClear a => a.wf
  | .fltCountersClear a => a.wf
  | .obsStatsClear a => a.wf
  | .porRelease => true
  | .dieCattripFall die => decide (die < 16)
  | .plInbandPres port => decide (port < 8)
  | .portL1Exit port => decide (port < 8)
  | .plStallreqRelease port => decide (port < 8)
  | .binTableSaveDone => true
  | .traceWordSend => true
  | .refclk25Return => true
  | .holdoverClockLoss => true

end Sys2Proof
end

