-- ==== Sys2Proof/Tests/Slice0.lean ====
section
/-!
SUPPORT. Own tests: a term that each check of well-formedness refuses, for each statement a state and operands that meet its
hypotheses clause by clause, and worked figures of the spec.
-/
set_option Elab.async false
namespace Sys2Proof.Tests
open Sys2Proof Sys2Proof.Machine

/-- The block in service. -/
def ready : State :=
  { ({} : State) with
    time := { ({} : TimeBase) with run := true }
    start := { ({} : StartUp) with phase := .service, done4 := true }
    pins := { ({} : Pins) with porN := true, rstN := true, pwrReq := 3, pwrAck := 3, rstCmpl := true, rstCmplAck := true, cdiRstN := true } }

/-- The block in start-up, past step 2. -/
def rising : State := { ready with start := { ({} : StartUp) with phase := .starting } }

/-- `s` with the registers' instances given the values. -/
def holding (s : State) (l : List (Reg × Nat × Nat)) : State := forEach l s fun s (r, i, v) => wri s r i v

/-- The same, long after. -/
def late (s : State) : State := { s with now := 10 ^ 18 }

/-- An access of the umpires. -/
def write (v : Nat) : Access := ⟨.umpire 0x30, 1, v⟩

/-! Witnesses: start-up, clocks and supplies. -/

theorem witness_ResetsTakeTheIslands : ready.pins.porN = true ∧ ({} : State).pins.porN = false ∧ diesAsleep ready = false ∧
    ownStore 0x500300 = false ∧ tget? ready.mram.params 0x500300 = none ∧
    0x500300 ∉ [R.BLK_RESET_CAUSE.key, R.BUP_START_PATH.key, R.ENG_CLASS_LOG_NEXT.key] ∧ R.INT_REPAIR_STATE.stride = 256 ∧
    R.INT_REPAIR_STATE.key % 256 ≠ 0 := by decide +kernel

theorem witness_SuppliesAndReleaseStartTheBlock :
    ({} : State).pins.porN = false ∧ ready.pins.pwrAck = 3 ∧ { ready with start := { ({} : StartUp) with phase := .reset } }.start.refLost = false ∧
    { ready with start := { ({} : StartUp) with phase := .reset, refLost := true } }.start.refLost = true ∧
    { rising with start := { rising.start with waitAck := true } }.start.waitAck = true ∧ ready.pins.rstCmpl = true ∧
    rd ready R.SLP_STATE ≠ 3 ∧ bitOf ({} : State).pins.pwrReq 1 = false ∧ bitOf ready.pins.pwrReq 1 = true ∧ bitOf ready.pins.pwrAck 1 = true ∧
    (∃ s : State, s = { ready with pins := { ready.pins with pwrAck := 1 } } ∧ s.pins.porN = true ∧ s.time.run = true ∧
      bitOf s.pins.pwrReq 1 ≠ bitOf s.pins.pwrAck 1) := by
  refine ⟨rfl, rfl, rfl, rfl, rfl, rfl, ?_, rfl, rfl, rfl, _, rfl, ?_⟩ <;> decide +kernel

/-- VDDP is asked for since 5 ns, and its acknowledgement is missing. -/
def unpowered : State := { ready with pins := { ready.pins with pwrAck := 1, pwrAt := [(1, 5)] } }
theorem witness_SuppliesAndReleaseStartTheBlock_limit : unpowered.now < 5 + rd unpowered R.BLK_PWR_ACK_LIMIT * 1000 ∧
    (late unpowered).pins.porN = true ∧ (late unpowered).time.run = true ∧
    bitOf (late unpowered).pins.pwrReq 1 ≠ bitOf (late unpowered).pins.pwrAck 1 ∧ tget? (late unpowered).pins.pwrAt 1 = some 5 ∧
    5 + rd (late unpowered) R.BLK_PWR_ACK_LIMIT * 1000 ≤ (late unpowered).now := by decide +kernel

/-- Start-up in step 1, with the words of a PLY-32 macro and of the other variant. -/
def inStepOne : State := { rising with start := { rising.start with inStep1 := true } }

theorem witness_FuseLoadEndsStepOne : inStepOne.start.phase = .starting ∧ inStepOne.start.inStep1 = true ∧ inStepOne.pins.ref25 = true ∧
    inStepOne.pins.ref100 = true ∧ cattripHigh inStepOne = false ∧
    cattripHigh { inStepOne with pins := { inStepOne.pins with dieCattrip := 0x8000 } } = true ∧ (FuseImage.mk true true 0 0 0 []).variantOk = true ∧ (FuseImage.mk false true 0 0 0 []).variantOk = false := by
  decide +kernel

/-- The beat stopped, time in holdover. -/
def stopped : State := { ready with time := { ({} : TimeBase) with quality := 1 } }

theorem witness_ClockInputsAreWatched : ready.pins.ref100 = true ∧ ready.pins.porN = true ∧ rd ready R.SLP_STATE ≠ 3 ∧
    { ready with start := { ready.start with refLost := true } }.start.refLost = true ∧ ready.pins.rstN = true ∧
    stopped.pins.xtal32k = true ∧ stopped.time.run = false ∧ stopped.time.onXtal = false ∧ stopped.time.quality = 1 ∧
    { stopped with time := { stopped.time with quality := 2 } }.time.quality = 2 ∧ ready.time.run = true := by decide +kernel

/-- Adaptive supply enabled at code 195. -/
def adaptive : State := holding ready [(R.BLK_AVS_ENABLE, 0, 1), (R.BLK_AVS_CODE, 0, 195)]

theorem witness_AdaptiveSupplyRequestsAreBounded : avsFree adaptive = true ∧
    rd adaptive R.BLK_AVS_CODE < min (rd adaptive R.BLK_AVS_CODE + min 10 10) 200 ∧ 0 < rd adaptive R.BLK_AVS_CODE ∧
    avsFree (holding ready [(R.BLK_AVS_ENABLE, 0, 0)]) = false ∧ rd adaptive R.BLK_AVS_ENABLE = 1 ∧
    rd (holding adaptive [(R.BLK_AVS_ENABLE, 0, 0)]) R.BLK_AVS_ENABLE = 0 ∧ adaptive.pins.avsReq = false ∧
    rd adaptive R.BLK_AVS_CODE < 200 ∧ rd adaptive R.SLP_STATE ≠ 3 ∧
    (late { adaptive with pins := { adaptive.pins with avsReq := true } }).pins.avsReq = true ∧ adaptive.pins.avsAck = false ∧
    (late adaptive).avs.reqAt + 20000 ≤ (late adaptive).now ∧ adaptive.avs.want = none ∧
    { adaptive with avs := { adaptive.avs with want := some 0 } }.avs.want = some 0 := by decide +kernel

def slotGood : SlotInfo := ⟨true, 1, 0, 0, 2⟩
def slotBad : SlotInfo := ⟨false, 1, 0, 0, 2⟩

theorem witness_StartUpTracksEnd : startRuns rising = true ∧ rising.start.done3A = false ∧ rising.start.done3B = false ∧
    bitOf 0x8000 15 = true ∧ bitOf 1 0 = true ∧ bitOf 0x80 7 = true ∧ bitOf 0x800 11 = true ∧
    (∃ s : State, s = { rising with start := { rising.start with done3A := true } } ∧ mgmtUp s = true ∧ s.start.waitAck = false ∧
      s.start.done3A = true ∧ s.start.done4 = false ∧ s.start.trial = false ∧ rd s R.UPG_ACTIVE_SLOT = 0 ∧
      bitOf (rd s R.BUP_MBIST_FAILED) 12 = false ∧ slotPasses s 0 slotGood = true ∧ slotBad.ok = false) := by
  refine ⟨?_, rfl, rfl, rfl, rfl, rfl, rfl, _, rfl, ?_⟩ <;> decide +kernel

/-- Steps 3A and 3B done. -/
def track5 : State := { rising with now := 200000, start := { rising.start with done3A := true, done3B := true } }
def trainGood : TrainReport := ⟨[], true, [], [], [], [], [], [], [], [], [], [], 5000⟩

theorem witness_TrainingAndMarchEnd : startRuns track5 = true ∧ track5.start.done3A = true ∧ track5.start.done3B = true ∧
    track5.start.trained = false ∧ track5.pins.cdiRstN = true ∧ track5.start.cdiAt + 200000 ≤ track5.now ∧ trainClean trainGood = true ∧
    { trainGood with badDies := [(0, 1, 0)] }.badDies = [(0, 1, 0)] ∧ track5.start.path = 0 ∧
    { track5 with start := { track5.start with trained := true } }.start.trained = true ∧ track5.start.marched = false ∧
    track5.start.hard = none := by decide +kernel

def failing : MarchFail := ⟨31, 1, 3, 30, 16383, 15, 1, 71⟩

theorem witness_HardRepairAndFillEnd :
    (∃ s : State, s = late { track5 with start := { track5.start with hard := some failing } } ∧ s.start.fuseWord = none ∧
      freeWord s = some 0x100 ∧ s.start.hardFrom + 200000000 ≤ s.now) ∧
    (∃ s : State, s = { track5 with start := { track5.start with hard := some failing, fuseWord := some 0x7FF } } ∧
      s.start.fuseWord = some 0x7FF ∧ s.start.todo = [] ∧ 2 ^ 31 + repairWord failing < 2 ^ 32 ∧ 0 ≠ 2 ^ 31 + repairWord failing) ∧
    (∃ s : State, s = { track5 with start := { track5.start with trained := true, path := 2 } } ∧ startRuns s = true ∧
      s.start.trained = true ∧ s.start.path = 2 ∧ s.time.run = true) := by
  refine ⟨⟨_, rfl, ?_⟩, ⟨_, rfl, ?_⟩, ⟨_, rfl, ?_⟩⟩ <;> decide +kernel

theorem witness_InputsAreMaskedAndReleased : rdi ready R.FLT_INPUT_STATE 17 = 0 ∧
    rdi (holding ready [(R.FLT_INPUT_LEVEL, 17, 1)]) R.FLT_INPUT_LEVEL 17 = 1 ∧
    rdi (holding ready [(R.FLT_INPUT_STATE, 0, 1)]) R.FLT_INPUT_STATE 0 ≠ 0 ∧ ready.time.run = true ∧ mgmtUp ready = true ∧
    (∃ s, s = late ready ∧ tget s.ev.highAt 17 0 + rd s R.FLT_STUCK_LIMIT * 1000000 ≤ s.now) ∧
    ready.now < tget ready.ev.highAt 17 0 + rd ready R.FLT_STUCK_LIMIT * 1000000 ∧
    tget (late ready).ev.highAt 0 0 + 100000000 ≤ (late ready).now ∧ ready.now < tget ready.ev.highAt 0 0 + 100000000 := by
  refine ⟨?_, ?_, ?_, ?_, ?_, ⟨_, rfl, ?_⟩, ?_, ?_, ?_⟩ <;> decide +kernel

/-- An edge named 500 ns ahead of the time base, 10 ms after its value came. -/
def named : State := { ready with now := 20000000, time := { ready.time with named := some 500, namedAt := 10000000 } }

theorem witness_EdgesDisciplineTheTimeBase : mgmtUp ready = true ∧ ready.time.named = none ∧ ready.time.conflict = false ∧
    named.time.named = some 500 ∧ portState (holding ready [(R.LNK_PORT_STATE, 7, 2), (R.LNK_PORT_REVISION, 7, 3)]) 7 = portUp ∧
    portRev (holding ready [(R.LNK_PORT_STATE, 7, 2), (R.LNK_PORT_REVISION, 7, 3)]) 7 ≠ 2 ∧ rdi ready R.FLT_INPUT_STATE 17 = 0 ∧
    ready.start.phase ≠ .reset ∧ named.time.lastEdge = none ∧ named.time.namedAt + 10000000 ≤ named.now ∧
    (4000 : Int) = (8 * 500 : Nat) - (named.time.t / 8000000000 + 0 % 8 : Nat) ∧
    (∃ s : State, s = { ready with time := { ready.time with quality := 2, err := 10 ^ 20 } } ∧ s.time.quality = 2 ∧
      rd s R.SLP_ERR_LIMIT < timeError s) ∧ timeError ready ≤ rd ready R.SLP_ERR_LIMIT := by
  refine ⟨?_, rfl, rfl, rfl, ?_, ?_, ?_, ?_, rfl, ?_, ?_, ⟨_, rfl, ?_⟩, ?_⟩ <;> decide +kernel

/-- An edge named 5,000 ns ahead. -/
def namedFar : State := { named with time := { named.time with named := some 5000 } }
theorem witness_EdgesDisciplineTheTimeBase_steps : namedFar.time.named = some 5000 ∧ namedFar.time.lastEdge = none ∧
    namedFar.time.conflict = false ∧ namedFar.time.namedAt + 10000000 ≤ namedFar.now ∧ (8000 : Int) < 40000 ∧
    (40000 : Int) = (8 * 5000 : Nat) - (namedFar.time.t / 8000000000 + 0 % 8 : Nat) := by decide +kernel

theorem witness_TranslationsAnswerWhole : Permitted ready (write 0x40) 0x2003 0 ∧ Permitted ready (write 0x40) 0x2003 3 ∧
    rd ready R.BLK_USABLE_CAPACITY ≤ (write (124 * 2 ^ 30)).value ∧ Permitted ready (write (124 * 2 ^ 30)) 0x2003 3 ∧
    { ready with home := { ready.home with xlate := some 7 } }.home.xlate = some 7 ∧ ready.home.xlate = none ∧
    { ready with mram := { ready.mram with pending := some {} } }.mram.pending = some {} := by
  unfold Permitted; decide +kernel

theorem witness_SlotOffsetsNameLocations : 63 < nPcs ready ∧ (31 : Nat) < nPcs { ready with ply16 := true } ∧
    rd ready R.BLK_USABLE_CAPACITY ≤ 124 * 2 ^ 30 := by decide +kernel

/-- Region 5 at address 0 of the pool: one way, one row, granule 0, function 0. -/
def mapped : State := holding ready [(R.MAP_ACT_CTRL, 5, 2 ^ 31), (R.MAP_ACT_ROWS, 5, 1)]

theorem witness_DecodeKeepsAddressesApart : findRegion mapped 64 = some 5 ∧ (regionAt mapped false 5).gran ≤ 8 ∧
    (regionAt mapped false 5).ways < 10 ∧ 0 < (regionAt mapped false 5).rows ∧
    (regionAt mapped false 5).pos < waysOf (regionAt mapped false 5).ways ∧ (mapDecode mapped 64 0).isSome = true := by decide +kernel

theorem witness_ClearsZeroTheirCounts : Permitted ready (write 1) 0x0003 1 ∧ Permitted ready (write 1) 0x1031 0 ∧
    Permitted ready (write 1) 0x4011 0 ∧ Permitted ready (write 1) 0x5003 0 ∧ Permitted ready (write 1) 0x6601 0 ∧
    Permitted ready (write 1) 0x7110 0 ∧ Permitted ready (write 1) 0x8005 0 ∧ Permitted ready (write 1) 0x9102 0 ∧
    Permitted ready (write 1) 0xAF00 0 ∧ Permitted ready (write 1) 0xB403 0 ∧ Permitted ready (write 1) 0xCB00 0 := by
  unfold Permitted; decide +kernel

/-! Witnesses: requests, the home, cells and the map. -/

/-- Port 7 up on revision 3 with function 15 bound, agent 4095 of cell 15 joined there, and agent 9 of cell 3. -/
def linked : State :=
  { holding ready [(R.LNK_PORT_STATE, 7, 2), (R.LNK_PORT_REVISION, 7, 3), (R.LNK_PORT_FUNCTIONS, 7, 0x8000)] with
    agents := [(9, { caching := true, cell := 3, fn := 15, port := 7 }), (4095, { caching := true, cell := 15, fn := 15, port := 7 })] }
def header : ReqHdr := ⟨7, 15, 16383, 4095, 65535, 5⟩
def request : Flight := { op := .rd, h := header }

theorem witness_RequestsMeetTheirPortsChecks : requestOf (.rd header) = some request ∧ 7 < nPorts linked ∧
    requestOf (.unsupportedOpcode header 63) = some { op := .other 63, h := header } ∧
    portState (holding linked [(R.LNK_PORT_STATE, 7, 1)]) 7 = portNegotiating ∧ portState linked 7 = portUp ∧ linked.sleep.pastE4 = false ∧
    unsupported linked { op := .other 63, h := header } = true ∧ unsupported linked request = false ∧
    unsupported (holding linked [(R.LNK_PORT_REVISION, 7, 2)]) request = true ∧
    portBound (holding linked [(R.LNK_PORT_FUNCTIONS, 7, 0)]) 7 15 = false ∧ portBound linked 7 15 = true ∧
    joinedHere { linked with agents := [] } header false = false ∧ joinedHere linked header false = true ∧
    inReset { linked with funs := [(15, ⟨0, false, true, 0⟩)] } 15 = true := by decide +kernel

def leafDesc (pir : Nat) : LeafDesc :=
  { cir := 0, cbs := 1, eir := 0, ebs := 1, pir := pir, pbs := 1, tier := 0, olMax := 1, olMin := 1, branch := 0, fn := 15,
    label := 16383, pinned := false, closed := false, olInit := 1 }
/-- Leaf 3 of (function 15, label 16383), whose policer holds `p`. -/
def grown (pir : Nat) (p : Int) : State :=
  { linked with tree := { linked.tree with
      labels := [(pairNo 15 16383, 3)], leaves := [(3, { d := leafDesc pir, c := 65536, e := 65536, p := p, limit := 1 })] } }

theorem witness_RequestsReachTheirLeaf : Sound (grown 0 0) request ∧ (grown 0 0).sleep.entry = none ∧
    tget? (grown 0 0).tree.labels (pairNo 15 16383) = some 3 ∧ (leafOf (grown 0 0) 3).map (fun l => (l.d.closed, l.d.pir)) = some (false, 0) ∧
    (leafOf (grown 1 65535) 3).map (fun l => (l.d.closed, l.d.pir, l.p)) = some (false, 1, 65535) ∧ Sound (grown 1 65535) request ∧
    tget? linked.tree.labels (pairNo 15 16383) = none ∧ findRule linked 15 16383 = none ∧ Sound linked request ∧
    { linked with sleep := { linked.sleep with pastE4 := true } }.sleep.queue.length < 255 ∧
    Sound { linked with sleep := { linked.sleep with pastE4 := true } } request := by
  unfold Sound; decide +kernel

/-- The request with its response decided, on an Active link of unlimited credit. -/
def answered : State :=
  { linked with
    links := [(7, { ({} : Link) with fdi := .active, up := true })]
    flights := [(0, { request with stage := .ready, rsp := some (errRsp 4 0) })] }
/-- A transaction of the request that waits for its CMP_ACK, with a grant of STATE 2. -/
def owed (granted : Bool) : Txn :=
  { gen := 0, line := 5, origin := .request 0, active := true, agent := 4095, rev := 3, finished := true, responded := true, waitAck := true,
    granted := granted, coh := true }
def owing (granted : Bool) : State :=
  { holding linked [(R.HOM_CELL_REVISION, 15, 3), (R.HOM_POSSESSION_WINDOW, 15, 100)] with
    links := [(7, { ({} : Link) with fdi := .active, up := true })]
    flights := [(0, { request with stage := .done })]
    home := { ({} : Home) with txns := [(7935, owed granted)], order := [7935] } }

/-- The request, lost in a crossing with response `r`. -/
def mislaid (r : Option Rsp) : State := { late linked with flights := [(0, { request with stage := .lost, rsp := r })] }

theorem witness_ResponsesLeaveAndAreAcknowledged : portState answered 7 = portUp ∧
    readyResponse answered 7 = some (0, { request with stage := .ready, rsp := some (errRsp 4 0) }) ∧
    flightOf answered 0 = some { request with stage := .ready, rsp := some (errRsp 4 0) } ∧ answered.time.run = true ∧
    readyResponse linked 7 = none ∧ ackOwed linked 7 65535 = none ∧ ackOwed (owing false) 7 65535 = some (7935, owed false) ∧
    txnOf (owing false) 7935 = some (owed false) ∧ Unhurried (owing false) ∧ ackOwed (owing true) 7 65535 = some (7935, owed true) ∧
    (agentOf (owing true) 4095).map (·.caching) = some true ∧ cellRevision (owing true) 15 = 3 ∧
    rdi (owing true) R.HOM_POSSESSION_WINDOW 15 ≠ 0 ∧ (owing true).home.windows.length < 2048 ∧ Unhurried (owing true) ∧
    txnOf (owing true) 7935 = some (owed true) ∧ (owed true).lost = [] ∧
    (flightOf (mislaid (some (errRsp 5 0))) 0).map (fun f => (f.stage, f.rsp)) = some (.lost, some (errRsp 5 0)) := by
  unfold Unhurried; decide +kernel

/-- A flow of line 5 that awaits agents 4095, its exclusive holder, and 9. -/
def awaiting (op : Nat) : Txn :=
  { gen := 3, line := 5, origin := .request 0, active := true, agent := 8, coh := true, found := .exclusive, taken := true, snooped := true,
    snoops := [⟨4095, op, true, true⟩, ⟨9, op, true, false⟩] }
def snooping (op : Nat) : State :=
  { linked with
    flights := [(0, { request with stage := .home })]
    home := { ({} : Home) with txns := [(7935, awaiting op)], order := [7935], filter := [(5, ⟨5, true, false, [4095], 0, 1⟩)] } }
def rsp (gen : Nat) : SnoopRsp := ⟨7, 4095, gen * 8192 + 7935⟩
/-- A transaction whose hint to agent 4095 is unanswered. -/
def hinted : State :=
  { linked with
    flights := [(0, { request with op := .wrHint, stage := .done, target := 4095 })]
    home := { ({} : Home) with
      txns := [(7935, { gen := 3, line := 5, origin := .request 0, active := true, agent := 8, finished := true, hint := 2 })], order := [7935]
      filter := [(5, ⟨5, true, false, [4095], 0, 1⟩)] } }

theorem witness_AnswersOfHoldersAreCollected : Awaited (snooping 1) (rsp 3) 7935 (awaiting 1) ⟨4095, 1, true, true⟩ ∧
    Awaited (snooping snpShare) (rsp 3) 7935 (awaiting snpShare) ⟨4095, snpShare, true, true⟩ ∧
    (findEntryOf (snooping 1) 5).map (fun e => (e.coarse, e.holders)) = some (false, [4095]) ∧
    waitingWb (snooping 1) 5 4095 = none ∧ walkHeldWb (snooping 1) 5 4095 = none ∧ txnNamed linked (rsp 3).snoopId = none ∧
    (agentOf { linked with agents := [] } 4095).map (·.port) ≠ some 7 ∧ (txnOf hinted 7935).map (fun t => (t.hint, t.finished, t.snoops)) =
      some (2, true, []) ∧ Unhurried hinted ∧ (findEntryOf hinted 5).isSome = true ∧
    (txnOf hinted 7935).map (fun t => reqOf hinted t) = some (some (0, { request with op := .wrHint, stage := .done, target := 4095 })) ∧
    (∀ t, txnOf hinted 7935 = some t → txnNamed hinted (rsp 3).snoopId = some (7935, t)) := by
  unfold Awaited Names Unhurried
  refine ⟨?_, ?_, ?_, ?_, ?_, ?_, ?_, ?_, ?_, ?_, ?_, fun t h => by cases h; decide +kernel⟩ <;> decide +kernel

/-- Region 5 at address 0 of the pool: one way, 1,024 rows, function 15; the request waits in the crossing. -/
def crossing : State :=
  { holding linked [(R.MAP_ACT_CTRL, 5, 2 ^ 31 + 15 * 2 ^ 24), (R.MAP_ACT_ROWS, 5, 1024)] with
    flights := [(0, { request with stage := .crossing })], tree := { ({} : Tree) with crossing := [0] } }
/-- A transaction of the request that has not begun, in entry 0. -/
def begun : Txn := { gen := 0, line := 5, origin := .request 0, agent := 4095 }
def beginning (coh : Nat) : State :=
  { holding crossing [(R.HOM_FUN_COHERENT, 0, coh)] with
    flights := [(0, { request with stage := .home })]
    home := { ({} : Home) with txns := [(0, begun)], order := [0], filter := [(5, ⟨5, true, false, [9], 0, 1⟩)] } }
/-- Every transaction entry in use. -/
def fullHome : State := { crossing with home := { ({} : Home) with txns := (nums 0 7936).map fun i => (i, begun), order := nums 0 7936 } }

theorem full_entries (l : List Nat) (i : Nat) (h : i ∈ l) : (tget? (l.map fun i => (i, begun)) i).isSome = true := by
  induction l with
  | nil => cases h
  | cons j l ih =>
    simp only [List.map_cons, tget?]
    split
    · rfl
    · exact ih ((List.mem_cons.mp h).resolve_left ‹_›)

theorem witness_full_home : freeIndex fullHome 0 7936 = none := by
  unfold freeIndex; rw [List.find?_eq_none]; intro i hi
  have : (txnOf fullHome i).isSome = true := full_entries _ i hi
  simp [Option.isSome_iff_exists] at this ⊢; obtain ⟨t, ht⟩ := this; rw [ht]; simp

theorem witness_TheHomeTakesRequestsInOrder : crossing.tree.crossing = [0] ∧ freeIndex crossing 0 7936 = some 0 ∧
    (mapDecode crossing (5 * 64) 15).isSome = true ∧ mapDecode crossing (5 * 64) 14 = none ∧ crossing.home.walking = false ∧
    (∀ l, mapDecode crossing (5 * 64) 15 = some l → pcFailed crossing l.pc = false) ∧ coherent crossing 14 = false ∧
    cellDown crossing 4095 = false ∧ txnOf (beginning 0) 0 = some begun ∧ lineBlocked (beginning 0) 0 5 = false ∧
    coherent (beginning 0) 15 = false ∧ Unhurried (beginning 0) ∧ coherent (beginning 0xFFFF) 15 = true ∧
    cellDown (beginning 0xFFFF) 4095 = false ∧ (findEntryOf (beginning 0xFFFF) 5).map (fun e => (e.excl, e.coarse, e.holders)) =
      some (true, false, [9]) ∧ (agentOf (beginning 0xFFFF) 9).map (·.fallen) = some false ∧
    possessedBy (beginning 0xFFFF) 5 9 = false ∧
    lineBlocked { beginning 0 with home := { (beginning 0).home with poisonTodo := [(3, 5)] } } 0 5 = true := by
  unfold Unhurried
  refine ⟨?_, ?_, ?_, ?_, ?_, fun l h => ?_, ?_, ?_, ?_, ?_, ?_, ?_, ?_, ?_, ?_, ?_, ?_, ?_⟩
  case refine_6 =>
    have : (mapDecode crossing (5 * 64) 15).map (pcFailed crossing ·.pc) = some false := by decide +kernel
    rw [h] at this; exact Option.some.inj this
  all_goals decide +kernel

/-- A transaction whose snoop of agent 9, writeback of agent 9 and memory read have long been open. -/
def slow (s : List Snoop) (w : List Nat) (mem : Nat) (ack : Bool) : State :=
  { late linked with
    flights := [(0, { request with stage := .home })]
    home := { ({} : Home) with
      txns := [(0, { begun with active := true, snoops := s, wbWait := w, mem := mem, waitAck := ack, finished := ack, responded := ack })]
      order := [0], windows := [⟨5, 9, 7⟩] } }

theorem witness_TimeoutsFallTheAgentsCell : (txnOf (slow [⟨9, 1, true, true⟩] [] 0 false) 0).map
      (fun t => t.snoops.any fun n => n.agent = 9 && n.sent) = some true ∧ (agentOf (slow [] [9] 0 false) 9).map (·.cell) = some 3 ∧
    rdi linked R.HOM_CELL_STATE 3 = 0 ∧ rdi (holding (slow [] [9] 0 false) [(R.HOM_CELL_STATE, 3, 1)]) R.HOM_CELL_STATE 3 ≠ 0 ∧
    (txnOf (slow [] [9] 0 false) 0).map (·.wbWait) = some [9] ∧ (txnOf (slow [] [] 0 true) 0).map (fun t => (t.waitAck, t.coh, t.hint)) =
      some (true, false, 0) ∧ Unhurried (slow [] [] 0 true) ∧ (txnOf (slow [] [] 2 false) 0).map (fun t => (t.mem, t.responded)) = some (2, false) ∧
    Unhurried (slow [] [] 2 false) ∧ windowOver (slow [] [] 0 true) 5 9 = true ∧ windowOver (slow [] [] 0 true) 5 8 = false ∧
    windowOver { slow [] [] 0 true with now := 6 } 5 9 = false ∧
    (txnOf (slow [] [] 2 false) 0).map (·.lost) = some [] ∧
    (flightOf (mislaid none) 0).map (fun f => (f.stage, f.rsp, f.dropRsp)) = some (.lost, none, false) ∧ flightOf (mislaid none) 1 = none ∧
    (flightOf (mislaid none) 0).map (fun f => decide (f.lostAt + rd (mislaid none) R.HOM_RESPONSE_TIMEOUT * 1000 ≤ (mislaid none).now)) =
      some true := by
  unfold Unhurried; decide +kernel

/-- The waits of transaction 0 have lasted their limits, and have not at first. -/
theorem witness_TimeoutsFallTheAgentsCell_waits :
    (∃ s, s = slow [⟨9, 1, true, true⟩] [] 0 false ∧ waitOver s 0 (waitSnoop 9) (rd s R.HOM_SNOOP_TIMEOUT) = true ∧
      waitOver { s with now := 0 } 0 (waitSnoop 9) (rd s R.HOM_SNOOP_TIMEOUT) = false) ∧
    (∃ s, s = slow [] [9] 0 false ∧ waitOver s 0 (waitPair 9) (rd s R.HOM_SNOOP_TIMEOUT) = true ∧
      waitOver { s with now := 0 } 0 (waitPair 9) (rd s R.HOM_SNOOP_TIMEOUT) = false) ∧
    (∃ s, s = slow [] [] 0 true ∧ waitOver s 0 waitCmpAck (rd s R.HOM_ACK_TIMEOUT) = true ∧
      waitOver { s with now := 0 } 0 waitCmpAck (rd s R.HOM_ACK_TIMEOUT) = false) ∧
    (∃ s, s = slow [] [] 2 false ∧ waitOver s 0 waitEngine (rd s R.HOM_RESPONSE_TIMEOUT) = true ∧
      waitOver { s with now := 0 } 0 waitEngine (rd s R.HOM_RESPONSE_TIMEOUT) = false) ∧
    (∃ s, s = late hinted ∧ waitOver s 7935 waitHint (rd s R.HOM_SNOOP_TIMEOUT) = true ∧
      waitOver hinted 7935 waitHint (rd s R.HOM_SNOOP_TIMEOUT) = false) := by
  refine ⟨⟨_, rfl, ?_⟩, ⟨_, rfl, ?_⟩, ⟨_, rfl, ?_⟩, ⟨_, rfl, ?_⟩, ⟨_, rfl, ?_⟩⟩ <;> decide +kernel

theorem witness_TimeoutsFallTheAgentsCell_requests :
    (txnOf (slow [] [] 0 true) 0).map (fun t => (t.responded, t.active, t.finished, (reqOf (slow [] [] 0 true) t).map (·.1))) =
      some (true, true, true, some 0) ∧
    (txnOf (slow [] [] 2 false) 0).map (fun t => (t.active, (reqOf (slow [] [] 2 false) t).map (fun x => (x.2.op, x.2.dropRsp)))) =
      some (true, some (.rd, false)) ∧
    (txnOf hinted 7935).map (fun t => (t.hint, (reqOf hinted t).map (·.2.target))) = some (2, some 4095) ∧ linked.time.run = true := by
  decide +kernel

theorem witness_CellsFallAndRestart : Permitted linked (write 1) (0x4100 + 15) 1 ∧ rdi linked R.HOM_CELL_STATE 15 = 0 ∧
    Permitted (holding linked [(R.HOM_CELL_STATE, 15, 1)]) (write 2) (0x4100 + 15) 1 ∧
    rdi (holding linked [(R.HOM_CELL_STATE, 15, 1)]) R.HOM_CELL_STATE 15 = 1 ∧
    rdi (holding linked [(R.HOM_CELL_STATE, 0, 2)]) R.HOM_CELL_STATE 0 = 2 ∧ linked.home.poisonTodo.any (·.1 = 15) = false ∧
    (linked.home.txns.any fun (_, t) => t.origin = .fall 15) = false ∧ Permitted linked (write 0xFFFF) 0x4000 0 ∧
    (linked.agents.any fun (_, x) => x.caching && bitOf (rd linked R.HOM_FUN_COHERENT ^^^ rd linked R.HOM_FUN_COHERENT) x.fn) = false ∧
    (linked.agents.any fun (_, x) => x.caching && bitOf (rd linked R.HOM_FUN_COHERENT ^^^ (rd linked R.HOM_FUN_COHERENT ^^^ 0x8000)) x.fn) = true ∧
    Permitted linked (write 0x140) 0x4010 0 ∧
    { linked with home := { linked.home with probe := some 5 } }.home.probe = some 5 ∧ findEntryOf linked 5 = none ∧
    (∃ e, findEntryOf { linked with home := { linked.home with filter := [(5, ⟨5, false, true, [], 8, 1⟩)] } } 5 = some e ∧ e.coarse = true) := by
  unfold Permitted
  refine ⟨?_, ?_, ?_, ?_, ?_, ?_, ?_, ?_, ?_, ?_, ?_, ?_, ?_, ⟨_, rfl, rfl⟩⟩ <;> decide +kernel

/-- A shadow table whose region 1023 has no rows. -/
def shadowBad : State := holding ready [(R.MAP_RGN_CTRL, 1023, 2 ^ 31)]
/-- A commit under way, `done` where its walk has ended. -/
def committing (done : Bool) : State :=
  { holding ready [(R.MAP_COMMIT_STATUS, 0, 1)] with home := { ({} : Home) with walking := true, walkDone := done } }

theorem witness_CommitsMakeTheShadowTableActive : Permitted ready (write 1) 0x2001 0 ∧ rd (committing false) R.MAP_COMMIT_STATUS = 1 ∧
    Permitted (committing false) (write 1) 0x2001 0 ∧ rd ready R.MAP_COMMIT_STATUS ≠ 1 ∧ rd ready R.MAP_COMMIT_STATUS ≠ 9 ∧
    (checkTable shadowBad).isSome = true ∧ Permitted shadowBad (write 1) 0x2001 0 ∧ checkTable ready = none ∧
    rd (holding ready [(R.MAP_COMMIT_TIME, 0, 100001)]) R.MAP_COMMIT_TIME = 100001 ∧
    poolNs (holding ready [(R.MAP_COMMIT_TIME, 0, 100001)]) + 100000 < 100001 ∧ rd ready R.MAP_COMMIT_TIME = 0 ∧ ready.home.filter = [] ∧
    Unhurried ready ∧ rd (holding ready [(R.MAP_COMMIT_STATUS, 0, 9)]) R.MAP_COMMIT_STATUS = 9 ∧ (committing false).home.walkDone = false ∧
    (committing false).home.victimTodo = [] ∧ (committing false).home.poisonTodo = [] ∧
    (committing true).home.walkDone = true ∧ rd (committing true) R.MAP_COMMIT_TIME ≤ poolNs (committing true) ∧
    poolNs ready < rd (holding ready [(R.MAP_COMMIT_TIME, 0, 1)]) R.MAP_COMMIT_TIME ∧ Permitted ready (write 1) 0x2001 5 ∧
    Permitted (committing true) (write 1) 0x2001 5 := by
  unfold Permitted Unhurried; decide +kernel

/-- A switch of cell 15 to revision 3 at 1 ms. -/
def epoch (status cap : Nat) : State :=
  holding linked [(R.HOM_CELL_EPOCH_REV, 15, 3), (R.HOM_CELL_EPOCH_TIME, 15, 1000000), (R.HOM_CELL_EPOCH_STATUS, 15, status),
    (R.UPG_IMAGE_CAP, 0, cap)]

/-- Agent 9 leaves, its walk in the first reserved entry. -/
def parting : State :=
  { linked with
    agents := [(9, { caching := true, cell := 3, fn := 15, port := 7, leaving := true })]
    home := { ({} : Home) with txns := [(7936, { gen := 0, line := 0, origin := .leave })] } }

theorem witness_EpochsSwitchAndAgentsJoin : Permitted (epoch 0 3) (write 1) (0x4100 + 15) 11 ∧
    rdi (epoch 0 3) R.HOM_CELL_EPOCH_REV 15 ≠ cellRevision (epoch 0 3) 15 ∧ rdi (epoch 0 3) R.HOM_CELL_EPOCH_REV 15 ≤ activeCap (epoch 0 3) ∧
    poolNs (epoch 0 3) + 1000000 ≤ rdi (epoch 0 3) R.HOM_CELL_EPOCH_TIME 15 ∧ rd (epoch 0 3) R.UPG_STATE ≠ 2 ∧
    rdi (epoch 0 3) R.HOM_CELL_EPOCH_STATUS 15 ≠ 1 ∧ activeCap (epoch 0 2) < rdi (epoch 0 2) R.HOM_CELL_EPOCH_REV 15 ∧
    Permitted (epoch 0 2) (write 1) (0x4100 + 15) 11 ∧ Permitted (epoch 1 3) (write 2) (0x4100 + 15) 11 ∧
    rdi (epoch 1 3) R.HOM_CELL_EPOCH_STATUS 15 = 1 ∧
    rdi (epoch 1 3) R.HOM_CELL_EPOCH_TIME 15 ≤ poolNs { epoch 1 3 with time := { ready.time with t := 1000000 * 64000000000 } } ∧
    poolNs (epoch 1 3) < rdi (epoch 1 3) R.HOM_CELL_EPOCH_TIME 15 ∧ ctlPending linked 7 < 4 ∧ agentOf linked 8 = none ∧
    portBound linked 7 15 = true ∧ portBound linked 7 14 = false ∧ rdi linked R.HOM_CELL_STATE 15 = 0 ∧ agentOf linked 9 ≠ none ∧
    agentBusy linked 9 = false ∧ agentBusy answered 4095 = true ∧ ctlPending answered 7 < 4 ∧
    (agentOf linked 9).map (fun x => (x.port, x.leaving)) = some (7, false) ∧
    (agentOf parting 9).map (·.leaving) = some true ∧ leaveWalks parting = true ∧ (freeIndex linked requestEntries reservedEntries).isSome = true := by
  unfold Permitted; decide +kernel


/-! Witnesses: the tree. -/

/-- Leaf 3 on branch 4095 of trunk 7, a request of the line 16,383 at its head. -/
def picking (cir eir : Nat) : State :=
  putBr (putBr { linked with
    flights := [(0, { request with stage := .queued, leaf := 3 })]
    tree := { linked.tree with
      labels := [(pairNo 15 16383, 3)]
      leaves := [(3, { d := { leafDesc 0 with cir := cir, eir := eir, branch := 4095 }, c := 0, e := 0, p := 0, limit := 1, queue := [0] })] } }
    4095 0 (2 ^ 31 + 7)) 4095 1 (if cir = 0 ∧ eir = 0 then 1 else 0)
def trippedTree : State := { linked with tree := { linked.tree with holdTrip := true } }
/-- The pick of trunk 7, and that the request and its leaf are there. -/
def pickSeen (s : State) (v : Nat) : Bool :=
  grantedPick s 7 = some (3, 4095, v, 0) && (flightOf s 0).isSome && (leafOf s 3).isSome

theorem witness_DispatchTakesThePick : dispatchHeld (picking 1 0) = false ∧ (picking 1 0).tree.tags < 65536 ∧ 7 < nPorts (picking 1 0) ∧
    pickSeen (picking 1 0) 0 = true ∧ pickSeen (picking 0 1) 5 = true ∧
    pickSeen (picking 0 0) 4 = true ∧
    dispatchHeld trippedTree = true ∧ grantedPick linked 7 = none ∧ (picking 1 0).tree.crossing.contains 0 = false ∧ (flightOf (picking 1 0) 0).map (·.dropRsp) = some false ∧ (picking 1 0).time.run = true := by
  decide +kernel

/-- Leaf 3 of CIR 0 whose target was congested, or stayed low. -/
def regulated (congested : Bool) : State :=
  { linked with tree := { linked.tree with
      leaves := [(3, { d := leafDesc 0, c := 65536, e := 65536, p := 65536, limit := 1, dispatched := true, congested := congested, belowLow := !congested })] } }
def rmwDue : State := { picking 1 0 with tree := { (picking 1 0).tree with rmw := [⟨3, pairNo 15 16383, 0, 4095, 7⟩] } }

theorem witness_TheTreeRegulatesAndReclaims : (leafOf (regulated true) 3).map (fun l => (l.d.cir, l.dispatched, l.congested)) =
      some (0, true, true) ∧ (leafOf (regulated false) 3).map (fun l => (l.dispatched, l.congested, l.belowLow)) = some (true, false, true) ∧
    (leafOf (picking 1 0) 3).map (·.d.cir) = some 1 ∧ (leafOf (regulated false) 3).map reclaimable = some true ∧
    (leafOf (picking 1 0) 3).map reclaimable = some false ∧ windowCounts linked = false ∧
    windowCounts { linked with
      time := { linked.time with t := 10000 * 64000000000 }, tree := { linked.tree with countFrom := some 0 } } = true ∧
    rmwDue.tree.rmw.head?.map (brValid rmwDue ·.branch) = some true ∧ (tierScales 5 [4, 4, 1, 0]).getD 0 0 = 65536 ∧
    (tierScales 3 [4, 4, 1, 0]).getD 0 0 < 65536 := by decide +kernel

theorem witness_TheTreeRegulatesAndReclaims_periods :
    (∃ s, s = late (regulated false) ∧ s.tree.regAt + rd s R.TRE_REG_PERIOD ≤ s.now ∧
      (leafOf s 3).map (fun l => reclaimable l && decide (l.busyAt + rd s R.TRE_LEAF_IDLE_TIMEOUT * 1000 ≤ s.now)) = some true) ∧
    (∃ s, s = regulated false ∧ s.now < s.tree.regAt + rd s R.TRE_REG_PERIOD ∧
      (leafOf s 3).map (fun l => decide (s.now < l.busyAt + rd s R.TRE_LEAF_IDLE_TIMEOUT * 1000)) = some true) := by
  refine ⟨⟨_, rfl, ?_⟩, ⟨_, rfl, ?_⟩⟩ <;> decide +kernel

/-- Trunk 7's shadow list: two entries of 100 ns, a switch asked for at 1 ns where `p` is 1. -/
def gated (p : Nat) : State :=
  holding ready [(R.TRE_GATE_SHADOW_LEN, 7, 2), (R.TRE_GATE_SWITCH_TIME, 7, p), (R.TRE_GATE_SWITCH_PENDING, 7, p)]
/-- Trunk 7 gated by its active list of one entry, from a base of 1 ns, at 250 ns. -/
def open250 : State :=
  holding { ready with time := { ready.time with t := 250 * 64000000000 } }
    [(R.TRE_GATE_ACTIVE_LEN, 7, 1), (R.TRE_GATE_ENABLE, 7, 1), (R.TRE_GATE_BASE, 7, 1)]

theorem witness_GatesSwitchAtTheirTime : Permitted (gated 1) (write 1) (0x3400 + 7) 7 ∧ rdi (gated 1) R.TRE_GATE_SWITCH_PENDING 7 = 1 ∧
    Permitted (gated 0) (write 1) (0x3400 + 7) 7 ∧ rdi (gated 0) R.TRE_GATE_SWITCH_PENDING 7 ≠ 1 ∧ shadowOk (gated 0) 7 = true ∧
    shadowOk (holding ready [(R.TRE_GATE_SHADOW_LEN, 7, 0)]) 7 = false ∧
    Permitted (holding ready [(R.TRE_GATE_SHADOW_LEN, 7, 0)]) (write 1) (0x3400 + 7) 7 ∧
    rdi (gated 1) R.TRE_GATE_SWITCH_TIME 7 ≤ poolNs { gated 1 with time := { ready.time with t := 64000000000 } } ∧
    poolNs (gated 1) < rdi (gated 1) R.TRE_GATE_SWITCH_TIME 7 ∧ Permitted (gated 1) (write 1) (0x3400 + 7) 0x0D ∧
    Permitted (gated 0) (write 1) (0x3400 + 7) 0x0D ∧ rdi open250 R.TRE_GATE_ENABLE 7 = 1 ∧ rdi open250 R.TRE_GATE_BASE 7 ≠ 0 ∧
    (gatePos open250 7).map (fun (k, e, start, _) => (k, e, decide ((trunkOf open250 7).entered ≠ start))) = some (2, 0, true) := by
  unfold Permitted; decide +kernel

/-- The umpires' bench selects leaf 3 and branch 4095; the modelled floor is `floor`. -/
def selecting (cir olMin floor : Nat) : State :=
  let s := picking cir 1
  holding (setSel (setSel { s with tree := { s.tree with
      leaves := s.tree.leaves.map fun (n, l) => (n, { l with d := { l.d with olMin := olMin } }) } } 0x30 selLeaf 3) 0x30 selBranch 4095)
    [(R.TRE_MODEL_FLOOR, 0, floor), (R.TRE_ADMIT_RATIO, 0, 65536), (R.TRE_FUN_LEAF_QUOTA, 15, 8)]
/-- The leaf with CIR `v`, as an admission test sees it. -/
def raised (s : State) (v : Nat) : Option (Bool × Bool) :=
  (leafOf s 3).map fun l => (olCarries { l.d with cir := v },
    admits (setLeaf s 3 (settleLimit { l with d := { l.d with cir := v } })) [4095] [7])

theorem witness_LeafWritesMeetAdmission : selOf (selecting 0 1 9) (masterOf (selecting 0 1 9) (write 0).src) selLeaf = 3 ∧
    (leafOf (selecting 0 1 9) 3).map (fun l => (l.d.branch, brTrunk (selecting 0 1 9) 4095)) = some (4095, 7) ∧
    isOwner (masterOf (selecting 0 1 9) (write 0).src) = false ∧ Permitted (selecting 0 1 9) (write 1) 0x3200 0x15 ∧
    Permitted (selecting 0 1 9) (write 1) 0x3200 0x18 ∧ Permitted (selecting 0 1 9) (write 0) 0x3200 1 ∧
    Permitted (selecting 0 1 9) (write 9) 0x3200 1 ∧ raised (selecting 0 1 9) 9 = some (true, true) ∧
    raised (selecting 0 1 8) 9 = some (true, false) ∧ Permitted (selecting 0 1 8) (write 9) 0x3200 1 ∧
    Permitted (selecting 0 2 9) (write 1) 0x3200 8 ∧ (leafOf (selecting 0 2 9) 3).map (·.d.olMin) = some 2 ∧
    Permitted (selecting 0 1 9) (write 1) 0x3200 8 := by
  unfold Permitted; decide +kernel
theorem witness_LeafWritesMeetAdmission_branches : Permitted (selecting 0 1 9) (write 4094) 0x3200 0x16 ∧
    brValid (selecting 0 1 9) 4094 = false ∧ Permitted (selecting 0 1 9) (write 4095) 0x3200 0x16 ∧
    brValid (selecting 0 1 9) 4095 = true ∧ leafOf ready (selOf ready (masterOf ready (write 1).src) selLeaf) = none ∧
    Permitted ready (write 1) 0x3200 0x15 ∧ Permitted ready (write 1) 0x3200 0x18 ∧ Permitted ready (write 1) 0x3200 1 ∧
    Permitted ready (write 1) 0x3200 8 ∧ Permitted ready (write 1) 0x3200 0x16 := by
  unfold Permitted; decide +kernel
/-- (Function 15, label 16,382), profile 255, branch `b`. -/
def creating (b : Nat) : Access := write (b * 2 ^ 26 + 255 * 2 ^ 18 + 15 * 2 ^ 14 + 16382)

theorem witness_LeafWritesMeetAdmission_create : Permitted (selecting 0 1 9) (creating 4094) 0x3900 0 ∧
    Permitted (selecting 0 1 9) (creating 4095) 0x3900 0 ∧ brValid (selecting 0 1 9) (field (creating 4094).value 26 12) = false ∧
    brValid (selecting 0 1 9) (field (creating 4095).value 26 12) = true ∧
    tget? (selecting 0 1 9).tree.labels (pairNo (field (creating 4095).value 14 4) (field (creating 4095).value 0 14)) = none ∧
    quotaFull (selecting 0 1 9) 15 = false ∧ profileField (selecting 0 1 9) (field (creating 4095).value 18 8) 0 = 0 := by
  unfold Permitted; decide +kernel

/-- Branch 4095 selected, MIN `m`, MAX `x`, no leaves where `bare`. -/
def branched (m x floor : Nat) (bare : Bool) : State :=
  let s := putBr (putBr (selecting 0 1 floor) 4095 1 m) 4095 3 x
  if bare then { s with tree := { s.tree with leaves := [] } } else s

theorem witness_BranchAndTrunkWritesMeetAdmission : selOf (branched 1 9 9 true) (masterOf (branched 1 9 9 true) (write 0).src) selBranch = 4095 ∧
    Permitted (branched 1 9 9 true) (write 1) 0x3300 9 ∧ Permitted (branched 1 9 9 false) (write 0) 0x3300 0 ∧
    0 < brLeaves (branched 1 9 9 false) 4095 ∧ bitOf (write (2 ^ 31 + 7)).value 31 = true ∧
    Permitted (branched 1 9 9 false) (write (2 ^ 31 + 7)) 0x3300 0 ∧ brTrunk (branched 1 9 9 false) 4095 = field (2 ^ 31 + 7) 0 3 ∧
    Permitted (branched 1 9 9 true) (write 10) 0x3300 1 ∧ Permitted (branched 1 9 9 true) (write 0) 0x3300 1 ∧
    Permitted (branched 1 9 9 true) (write 9) 0x3300 1 ∧ brDesc (branched 1 9 9 true) 4095 3 = 9 ∧ brDesc (branched 1 9 9 true) 4095 1 = 1 ∧
    brValid (branched 1 9 9 true) 4095 = true := by
  unfold Permitted; decide +kernel
theorem witness_BranchAndTrunkWritesMeetAdmission_trunk :
    admits (putBr (branched 1 9 8 true) 4095 1 9) [4095] [brTrunk (branched 1 9 8 true) 4095] = false ∧
    Permitted (branched 1 9 9 true) (write 0) 0x3300 3 ∧ Permitted (branched 1 9 9 true) (write 9) 0x3300 3 ∧
    Permitted (holding ready [(R.TRE_TRUNK_MAX, 7, 5)]) (write 5) (0x3400 + 7) 0 ∧
    rdi (holding ready [(R.TRE_TRUNK_MAX, 7, 5)]) R.TRE_TRUNK_MAX 7 ≤ (write 5).value ∧
    rdi (branched 1 9 9 true) R.TRE_TRUNK_MAX 7 > (write 0).value ∧ Permitted (branched 1 9 9 true) (write 0) (0x3400 + 7) 0 ∧
    admits (wri (branched 1 9 9 true) R.TRE_TRUNK_MAX 7 0) [] [7] = false ∧ Permitted ready (write 1) (0x3400 + 7) 0x0C := by
  unfold Permitted; decide +kernel

/-! Witnesses: the engine and the core-die interface. -/

/-- In service past training. -/
def serving : State := { ready with start := { ready.start with trained := true } }
/-- Pseudo-channel 63 (channel 31, the far end of the block), and the SAG and line of its last row. -/
def lastPc (p : Pch) : State := { serving with pchs := [(63, p)] }
def lastKey : Nat := locKey 3 31 16383 15
def lastSag : Nat := sagNo 3 31 1
def readHeld : Held := { hold := .read, key := lastKey }
def writeHeld : Held := { hold := .write, key := lastKey, mask := BitVec.allOnes 64, data := 5 }
/-- The last SAG with `row` open. -/
def opened (row : Nat) : Sag := { ({} : Sag) with row := some row, latch := some row }
def withOpen (h : Held) : State := lastPc { ({} : Pch) with held := [(0, h)], next := 1, sags := [(lastSag, opened 16383)] }
/-- The SAG has a refresh of group 7, urgent where said; its row is open and a targeted refresh pending where said. -/
def sagDue (urgent : Bool) (row : Option Nat) (reft : Option Nat) : State :=
  lastPc { ({} : Pch) with
    refresh := [(lastSag, [⟨7, urgent, 0, false, false, 0⟩])]
    sags := [(lastSag, { ({} : Sag) with row := row, reft := reft })] }
def refabDue : State := lastPc { ({} : Pch) with refab := [(3, [⟨0, false, 0, false, false, 0⟩])] }
/-- Row 16,383 is under test at class 5, at `stage`. -/
def testing (stage : QualStage) (row : Option Nat) : State :=
  lastPc { ({} : Pch) with
    qual := some { bank := 127, cls := 5, rows := [16383], spare := [], chosen := [16383], stage := stage }
    sags := [(lastSag, { ({} : Sag) with row := row })] }
/-- A read of row 16,383 waits while another row of its SAG is open. -/
def conflicted (aged : Bool) : State :=
  lastPc { ({} : Pch) with held := [(0, { readHeld with aged := aged })], next := 1, sags := [(lastSag, opened 9000)] }

theorem witness_RowCommandsOpenAndClose :
    (∃ s, s = lastPc { ({} : Pch) with held := [(0, readHeld)], next := 1 } ∧ commandable s 63 = true ∧
      (sagAt s 63 (sagNo 3 31 (sagOf 16383))).row = none ∧ (sagAt s 63 (sagNo 3 31 (sagOf 16383))).reft = none ∧
      urgentSag s 63 (sagNo 3 31 (sagOf 16383)) = false ∧ (waitingRow s 63 3 31 16383 (modeAllows s 63 0)).isSome = true ∧
      EngineMaySend s 63 (actOf s 63 3 31 16383 0)) ∧
    (∃ s, s = testing .next none ∧ commandable s 63 = true ∧ (qualOpens s 63 3 31 16383).isSome = true ∧
      urgentSag s 63 lastSag = false ∧ EngineMaySend s 63 (actOf s 63 3 31 16383 0)) ∧
    (∃ s, s = sagDue false none none ∧ (tget (pchOf s 63).refresh (sagNo 3 31 1) []).find? (fun r => r.group = 7) =
        some ⟨7, false, 0, false, false, 0⟩ ∧ commandable s 63 = true ∧ (sagAt s 63 (sagNo 3 31 1)).row = none ∧
      EngineMaySend s 63 ⟨0, cRefpb, 63 % 2, 3, 31, 1, 7, (bankClass s 63 3 31).cls⟩) ∧
    (∃ s, s = refabDue ∧ (tget (pchOf s 63).refab 3 []).head? = some ⟨0, false, 0, false, false, 0⟩ ∧ commandable s 63 = true ∧
      allClosed s 63 3 = true ∧ EngineMaySend s 63 ⟨0, cRefab, 63 % 2, 3, 0, 0, 0, 0⟩) ∧
    (∃ s, s = sagDue false none (some 4) ∧ commandable s 63 = true ∧ (sagAt s 63 (sagNo 3 31 1)).reft ≠ none ∧
      (sagAt s 63 (sagNo 3 31 1)).row = none ∧ EngineMaySend s 63 ⟨0, cReft, 63 % 2, 3, 31, 1, 0, (bankClass s 63 3 31).cls⟩ ∧
      s.stack.parks = [] ∧ (sagAt s 63 (sagNo 3 31 1)).latch = none ∧
      executes s 31 ⟨0, cReft, 63 % 2, 3, 31, 1, 0, (bankClass s 63 3 31).cls⟩ [] 3 = true) ∧
    (∃ s, s = withOpen readHeld ∧ 63 < nPcs s ∧ pcFailed s 63 = false ∧ MaySend s 31 (seqIssued 0 cPrea 63 3 0 0)) := by
  unfold EngineMaySend MaySend
  refine ⟨⟨_, rfl, ?_⟩, ⟨_, rfl, ?_⟩, ⟨_, rfl, ?_⟩, ⟨_, rfl, ?_⟩, ⟨_, rfl, ?_⟩, ⟨_, rfl, ?_⟩⟩ <;> decide +kernel

/-- A PRE of the last SAG's open row, as its clause has it. -/
def Closes (s : State) (row : Nat) : Prop :=
  commandable s 63 = true ∧ (sagAt s 63 (sagNo 3 31 1)).row = some row ∧ EngineMaySend s 63 (preOf s 63 3 31 1 row 0)

theorem witness_RowCommandsOpenAndClose_pre :
    (∃ s, s = sagDue true (some 16383) none ∧ Closes s 16383 ∧ urgentSag s 63 (sagNo 3 31 1) = true) ∧
    (∃ s, s = sagDue false (some 16383) (some 4) ∧ Closes s 16383 ∧ (sagAt s 63 (sagNo 3 31 1)).reft ≠ none) ∧
    (∃ s, s = { conflicted false with stack := { ({} : Stack) with trip := true } } ∧ Closes s 9000 ∧ closingAll s (63 / 2) = true) ∧
    (∃ s q, s = testing .close (some 16383) ∧ Closes s 16383 ∧ qualOf s 63 3 31 = some q ∧ q.rows.head? = some 16383 ∧
      q.stage ≠ .next ∧ qualCloses s 63 q = true) := by
  unfold Closes EngineMaySend MaySend
  refine ⟨⟨_, rfl, ?_⟩, ⟨_, rfl, ?_⟩, ⟨_, rfl, ?_⟩, ⟨_, _, rfl, ?_, rfl, ?_⟩⟩ <;> decide +kernel

theorem witness_RowCommandsOpenAndClose_pre_for_others :
    (∃ s, s = conflicted false ∧ Closes s 9000 ∧ qualOf s 63 3 31 = none ∧ mayClose s 63 3 31 9000 0 = true ∧
      (conflicting s 63 (sagNo 3 31 1) 9000 (modeAllows s 63 0)).isSome = true) ∧
    (∃ s, s = sagDue false (some 16383) none ∧ Closes s 16383 ∧ qualOf s 63 3 31 = none ∧ mayClose s 63 3 31 16383 0 = true ∧
      tget (pchOf s 63).refresh (sagNo 3 31 1) [] ≠ []) ∧
    (∃ s, s = lastPc { ({} : Pch) with
          held := [(0, { readHeld with aged := true }), (1, { readHeld with key := locKey 3 31 9000 0 })], next := 2
          sags := [(lastSag, opened 9000)] } ∧
      Closes s 9000 ∧ qualOf s 63 3 31 = none ∧ mayClose s 63 3 31 9000 0 = false ∧
      (conflicting s 63 (sagNo 3 31 1) 9000 (·.aged)).isSome = true) := by
  unfold Closes EngineMaySend MaySend
  refine ⟨⟨_, rfl, ?_⟩, ⟨_, rfl, ?_⟩, ⟨_, rfl, ?_⟩⟩ <;> decide +kernel

/-- A transaction of a line of pseudo-channel 63 that reads, or writes. -/
def placed (mem : Nat) (w : List HomeWrite) : Txn :=
  { begun with active := true, placed := true, pc := 63, key := lastKey, mem := mem, writes := w }
def withTxn (t : Txn) : State := { serving with home := { ({} : Home) with txns := [(7935, t)], order := [7935] } }
def homeWrite (own : Bool) : HomeWrite := ⟨5, true, own, true, none, []⟩

/-- The same a second later. -/
def later (s : State) : State := { s with now := 1000000000 }
def mergeHeld : Held := { writeHeld with hold := .merge, mask := 1 }

theorem witness_EngineHoldsRequests : txnOf (withTxn (placed 1 [])) 7935 = some (placed 1 []) ∧ (placed 1 []).active = true ∧
    (placed 1 []).mem = 1 ∧ readsInUse (withTxn (placed 1 [])) 63 < 64 ∧ pcFailed (withTxn (placed 1 [])) 63 = false ∧
    forwardData (withTxn (placed 1 [])) 63 (heldFor (withTxn (placed 1 [])) (txnLoc (placed 1 [])) .read .host) = none ∧
    txnOf (withTxn (placed 0 [homeWrite true])) 7935 = some (placed 0 [homeWrite true]) ∧
    writeFits (withTxn (placed 0 [homeWrite true])) 63 true = true ∧ pcFailed (withTxn (placed 0 [homeWrite true])) 63 = false ∧
    txnOf (withTxn (placed 0 [homeWrite false])) 7935 = some (placed 0 [homeWrite false]) ∧ (homeWrite false).mask = none ∧
    writeFits (withTxn (placed 0 [homeWrite false])) 63 false = true ∧ (pchOf (withTxn (placed 0 [homeWrite false])) 63).held = [] := by
  decide +kernel
theorem witness_EngineHoldsRequests_times : heldOf (later (withOpen mergeHeld)) 63 0 = some mergeHeld ∧
    isMerge mergeHeld = true ∧ (0 : Nat) < (pchOf (later (withOpen mergeHeld)) 63).next ∧
    nckPassed (later (withOpen mergeHeld)) mergeHeld.from_ (rd (later (withOpen mergeHeld)) R.ENG_MERGE_TIMEOUT) = true ∧
    heldOf (later (withOpen readHeld)) 63 0 = some readHeld ∧ 63 < nPcs (later (withOpen readHeld)) ∧ readHeld.hold ≠ .test ∧
    nckPassed (later (withOpen readHeld)) readHeld.from_ (rd (later (withOpen readHeld)) R.ENG_AGE_CAP) = true ∧
    (later (withOpen readHeld)).time.run = true := by decide +kernel

def scrubHeld : Held := { hold := .internal, purpose := .writeback, key := lastKey, stale := true }

theorem witness_ColumnCommandsMoveLines : heldOf (withOpen readHeld) 63 0 = some readHeld ∧ wantsColumn readHeld = true ∧
    needsRead readHeld = true ∧ columnReady (withOpen readHeld) 63 0 readHeld 0 = true ∧ readsBlocked (withOpen readHeld) 63 = false ∧
    gapMet (withOpen readHeld) 63 readHeld 0 = true ∧ EngineMaySend (withOpen readHeld) 63 (columnOf (withOpen readHeld) 63 cRd readHeld 0) ∧
    wantsColumn writeHeld = true ∧ readyToWrite writeHeld = true ∧ discarded writeHeld = false ∧
    columnReady (withOpen writeHeld) 63 0 writeHeld 0 = true ∧
    EngineMaySend (withOpen writeHeld) 63 (columnOf (withOpen writeHeld) 63 cWr writeHeld 0) := by
  unfold EngineMaySend MaySend; decide +kernel
theorem witness_ColumnCommandsMoveLines_ends : heldOf (withOpen scrubHeld) 63 0 = some scrubHeld ∧ wantsColumn scrubHeld = true ∧
    readyToWrite scrubHeld = true ∧ discarded scrubHeld = true ∧ (0 : Nat) < (pchOf (withOpen scrubHeld) 63).next ∧
    heldOf (withOpen { writeHeld with issued := some 0 }) 63 0 = some { writeHeld with issued := some 0 } ∧
    readyToWrite { writeHeld with issued := some 0 } = true ∧ (writeHeld.unheard = false) ∧
    (0 : Nat) < (pchOf (withOpen { writeHeld with issued := some 0 }) 63).next := by decide +kernel

/-- A write has issued to a place other than the one the tables now give its line. -/
def movedHeld : Held := { writeHeld with issued := some 0, key := locKey 3 31 9000 15, lsid := 3, lbank := 31, lrow := 16383 }
theorem witness_ColumnCommandsMoveLines_further : heldOf (withOpen movedHeld) 63 0 = some movedHeld ∧ readyToWrite movedHeld = true ∧
    isInternal movedHeld = false ∧ movedHeld.hold ≠ .test ∧ furtherKeys (withOpen movedHeld) 63 movedHeld = [lastKey] ∧
    furtherKeys (withOpen { movedHeld with key := lastKey }) 63 { movedHeld with key := lastKey } = [] := by decide +kernel

/-- The read of a stored line has issued. -/
def stored : State :=
  { withOpen { readHeld with issued := some 0 } with array := { ({} : Array') with lines := [(cellKey 63 lastKey, encodeLine 5 false)] } }
theorem witness_ColumnCommandsMoveLines_decode : heldOf stored 63 0 = some { readHeld with issued := some 0 } ∧
    (0 : Nat) < (pchOf stored 63).next ∧ tget? stored.array.lines (cellKey 63 lastKey) = some (encodeLine 5 false) ∧
    (decodeLine (markedLanes stored 63) (encodeLine 5 false ^^^ 0)).out = .clean := by decide +kernel

/-- Channel 31, SID 3 awaits the value of mode register `ma`; MR24 to MR26 name row 16,383 of bank 31 of pseudo-channel 63. -/
def mrAwaited (ma : Nat) (heard : Bool) : MrRead := ⟨3, ma, 1, 0x20, heard⟩
def awaitingMr (ma : Nat) (heard : Bool) : State :=
  { serving with
    chans := [(31, { ({} : Chan) with mrrs := [mrAwaited ma heard] })]
    slices := [(127, { ({} : Slice) with mr := [(24, 159), (25, 255), (26, 63)] })] }
/-- The whole word of a command changed in its parity bit alone, for the slice of SID 3. -/
def parityLost : Flips := [(3, 1)]

theorem witness_SequencerCommandsReachTheDies : MaySend serving 31 (seqIssued 0 cMrw 0 3 0 (31 * 256 + 255 % 256)) ∧
    executes serving 31 (seqIssued 0 cMrw 0 3 0 (31 * 256 + 255 % 256)) [] 3 = true ∧ mrMask 26 ≠ none ∧ mrMask 31 = none ∧
    (received serving 31 (seqIssued 0 cMrw 0 3 0 (26 * 256 + 255 % 256)) parityLost 3).isSome = true ∧
    inError (sliceOf serving 31 3) = false ∧ unproven serving 31 3 < 3583 := by unfold MaySend; decide +kernel
theorem witness_SequencerCommandsReachTheDies_reads : 31 < nChannels serving ∧ rdi serving R.CDI_CHANNEL_STATE 31 = 0 ∧
    timingMet serving 31 (mrrCommand serving 31 3 31 0) = true ∧ (chanOf serving 31).selfRef = false ∧
    pollDue (later serving) 31 3 = true ∧ MaySend (later serving) 31 (mrrCommand (later serving) 31 3 3 0) ∧
    (mrAwaited 31 true).value < 256 ∧
    (chanOf (awaitingMr 3 true) 31).mrrs.find? (fun r => r.sid = 3 && r.ma = 3) = some (mrAwaited 3 true) ∧
    (chanOf (awaitingMr 31 false) 31).mrrs.find? (fun r => r.sid = 3 && r.ma = 31) = some (mrAwaited 31 false) ∧
    (mrAwaited 31 false).heard = false := by unfold MaySend; decide +kernel
theorem witness_SequencerCommandsReachTheDies_polls :
    (∃ v, v = readBack (mrAwaited 3 true) 0 0 (Config.freeValue (awaitingMr 3 true).free).toNat ∧ v &&& 0xC0 = 0 ∧ bitOf v 5 = true) ∧
    (∃ v, v = readBack { mrAwaited 3 true with value := 0x40 } 0 0 (Config.freeValue (awaitingMr 3 true).free).toNat ∧ v &&& 0xC0 ≠ 0) := by
  refine ⟨⟨_, rfl, ?_⟩, ⟨_, rfl, ?_⟩⟩ <;> decide +kernel
theorem witness_SequencerCommandsReachTheDies_fifo : pcCommanded serving 63 3 = true ∧ MaySend serving 31 (seqIssued 0 cWrFifo 63 3 0 7) ∧
    executes serving 31 (seqIssued 0 cWrFifo 63 3 0 7) [] 3 = true ∧ executes serving 31 (seqIssued 0 cWrFifo 63 3 0 7) parityLost 3 = false ∧
    MaySend serving 31 (seqIssued 0 cRdFifo 63 3 0 7) ∧ executes serving 31 (seqIssued 0 cRdFifo 63 3 0 7) [] 3 = true ∧
    MaySend serving 31 (seqIssued 0 cRdCal 63 3 0 3) ∧ executes serving 31 (seqIssued 0 cRdCal 63 3 0 3) [] 3 = true ∧
    MaySend serving 31 (seqIssued 0 cWckSync 63 3 0 0) := by unfold MaySend; decide +kernel
theorem witness_SequencerCommandsReachTheDies_repair : repairRow (awaitingMr 3 true) 31 3 = (1, 31, 16383) ∧
    pcCommanded (awaitingMr 3 true) (31 * 2 + 1) 3 = true ∧
    (sagAt (awaitingMr 3 true) 63 (sagNo 3 31 0)).row = none ∧ (sagAt (awaitingMr 3 true) 63 (sagNo 3 31 1)).row = none ∧
    MaySend (awaitingMr 3 true) 31 (seqIssued 0 cSoft 1 3 31 16383) ∧ MaySend (awaitingMr 3 true) 31 (seqIssued 0 cHard 1 3 31 16383) ∧
    executes (awaitingMr 3 true) 31 (seqIssued 0 cSoft 1 3 31 16383) [] 3 = true ∧
    executes (awaitingMr 3 true) 31 (seqIssued 0 cHard 1 3 31 16383) parityLost 3 = false := by
  unfold MaySend; decide +kernel

/-- A thermal trip; channel 31 in self-refresh, confirmed where said, SID 3 having missed a command where said. -/
def tripped : State := { serving with stack := { ({} : Stack) with trip := true } }
def dozing (confirmed deaf : Bool) : State :=
  later { serving with
    chans := [(31, { ({} : Chan) with
      selfRef := true, ck := true, wck := true, sreConfirmed := confirmed, counts := if deaf then [(3, 1)] else [] })] }

theorem witness_SelfRefreshIsConfirmed : entersRefresh tripped 31 = true ∧ channelQuiet tripped 31 = true ∧
    MaySend tripped 31 (seqIssued 0 cSre 0 0 0 0) ∧ 31 < nChannels (dozing false false) ∧ (chanOf (dozing false false) 31).selfRef = true ∧
    (chanOf (dozing false false) 31).sreConfirmed = false ∧ (chanOf (dozing false false) 31).sreNow + 10 ≤ (dozing false false).now ∧
    (dozing false true).time.run = true ∧ { dozing false true with now := 9 }.now < (chanOf (dozing false true) 31).sreNow + 10 ∧
    (chanOf (dozing true false) 31).sreConfirmed = true ∧ (chanOf (dozing true false) 31).ck = true ∧
    (chanOf (dozing true false) 31).ckFrom * 8 + 80 ≤ 16 * 5 ∧ (dozing true false).stack.trip = false ∧
    staysAsleep (dozing true false) 31 = false ∧ rdi (dozing true false) R.CDI_CHANNEL_STATE 31 = 0 ∧
    timingMet (dozing true false) 31 (seqIssued 16 cSrx 0 0 0 0) = true := by unfold MaySend; decide +kernel
theorem witness_SelfRefreshIsConfirmed_counts : (confirmCounts (dozing false false) 31 (nckNow (dozing false false))).1 = [] ∧
    (confirmCounts (dozing false true) 31 (nckNow (dozing false true))).1 = [3] := by decide +kernel

/-- Retraining enabled where said, the pseudo-channel's retrain due since `l`, at 20 µs. -/
def retraining (on : Nat) (l : Option Nat) : State :=
  holding { lastPc { ({} : Pch) with late := l, turn := 9 } with now := 20000 } [(R.CDI_RETRAIN_ENABLE, 0, on)]
def heldPc : State := lastPc { ({} : Pch) with hold := true }
/-- A lane that fails on both sides. -/
def badLane : LaneProbe := { lane := 37, minus := true, plus := true, high := false, low := false }
/-- Channel 31 is in trouble, or its dies are in loopback. -/
def recovering : State := { serving with chans := [(31, { ({} : Chan) with trouble := true })] }
def sweeping : State := { serving with chans := [(31, { ({} : Chan) with cbt := .held })] }

theorem witness_RetrainingAndRecoveryComplete : pcServes serving 63 = true ∧ pcServes (late serving) 63 = true ∧
    tget (pchOf (late serving) 63).heardAt 3 0 + rd (late serving) R.CDI_TRACK_GAP ≤ (late serving).now ∧
    serving.now < tget (pchOf serving 63).heardAt 3 0 + rd serving R.CDI_TRACK_GAP ∧ pcServes (retraining 0 none) 63 = true ∧
    (pchOf (retraining 0 none) 63).hold = false ∧ Machine.retrainDue (retraining 0 none) 63 = true ∧
    retrainFree (retraining 0 none) 63 = false ∧ retrainFree (retraining 1 none) 63 = true ∧
    pcServes (retraining 1 (some 9999)) 63 = true ∧ Machine.retrainDue (retraining 1 (some 9999)) 63 = true ∧
    retrainFree (retraining 1 (some 9999)) 63 = true ∧
    (pchOf (retraining 1 (some 9999)) 63).late.any (fun l => decide (l + 10000 < (retraining 1 (some 9999)).now)) = true ∧
    (pchOf (retraining 1 (some 10000)) 63).late.any (fun l => decide (l + 10000 < (retraining 1 (some 10000)).now)) = false ∧
    rd (retraining 1 (some 9999)) R.SLP_STATE ≠ 7 ∧ Machine.retrainDue serving 63 = false := by decide +kernel
theorem witness_RetrainingAndRecoveryComplete_ends : (pchOf heldPc 63).hold = true ∧ (chanOf heldPc 31).cbt ≠ .held ∧
    63 < nPcs heldPc ∧ val heldPc (wrVrefKey 63 (pchOf heldPc 63).sid) 0 ≤ 255 ∧ heldPc.time.run = true ∧
    (∃ x ∈ [badLane], x.lane < 38 ∧ laneFails x = true) ∧ channelServes recovering 31 = true ∧ (chanOf recovering 31).trouble = true ∧
    (chanOf recovering 31).cbt ≠ .held ∧ recovering.time.run = true ∧ channelServes sweeping 31 = true ∧
    (chanOf sweeping 31).cbt = .held := by decide +kernel
/-- Channel 31, SID 3, MA 31. -/
def lastMr : Access := write (31 * 2 ^ 11 + 3 * 2 ^ 8 + 31)
theorem witness_RetrainingAndRecoveryComplete_reads :
    Permitted { serving with ply16 := true } lastMr 0x6600 0 ∧ nChannels { serving with ply16 := true } ≤ field lastMr.value 11 5 ∧
    Permitted (holding serving [(R.CDI_CHANNEL_STATE, 31, 1)]) lastMr 0x6600 0 ∧
    rdi (holding serving [(R.CDI_CHANNEL_STATE, 31, 1)]) R.CDI_CHANNEL_STATE (field lastMr.value 11 5) = 1 ∧
    (pchOf heldPc (field lastMr.value 11 5 * 2 + 1)).hold = true ∧ Permitted heldPc lastMr 0x6600 0 ∧ Permitted serving lastMr 0x6600 0 ∧
    rdi serving R.CDI_CHANNEL_STATE (field lastMr.value 11 5) ≠ 1 ∧
    (pchOf serving (field lastMr.value 11 5 * 2)).hold = false ∧ (pchOf serving (field lastMr.value 11 5 * 2 + 1)).hold = false ∧
    { serving with stack := { serving.stack with mrRead := some (31, mrAwaited 31 true) } }.stack.mrRead = some (31, mrAwaited 31 true) ∧
    serving.stack.mrRead = none := by
  unfold Permitted; decide +kernel

/-- The worked example of 08: ACT and RD of ch14.pc1.sid2.bk03 row 0x0A0C column 10. -/
theorem test_command_words :
    commandWords ⟨0, cAct, 1, 2, 3, 0, 0x0A0C, 0⟩ = [0x70CA1, 0x60000] ∧
      commandWords ⟨0, cRd, 1, 2, 3, 0, 0x0A0C * 16 + 10, 0⟩ = [0x70D5] ∧
      lanePair 10 0x70CA1 none = (0x0A1, 0x1C3) ∧ lanePair 8 0x70D5 none = (0xD5, 0x70) := by decide

/-! Witnesses: refresh, heat, classes and parks. -/

/-- Slice 127 (channel 31, SID 3) on a pass begun, at step `step`, groups in the wanted mode. -/
def stepping (step : Nat) (p : Plan) : State :=
  put (holding { serving with stack := { ({} : Stack) with plans := [(127, p)] } } [(R.RFH_MODE_ACTIVE, 0, 0)]) (passKey 127) 0 step
def started : Plan := { ({} : Plan) with fresh := false, started := true }
/-- The row group of the last slot is listed at bin 1. -/
def slow5 : State :=
  { stepping 1 started with stack := { (stepping 1 started).stack with bins := [(binKey 63 3 31 (8192 + 16), 1)] } }

/-- The slot's refresh waits at the engine; the pseudo-channel has failed. -/
def waiting5 : State :=
  { stepping 1 started with
    pchs := [(63, { ({} : Pch) with refresh := [(lastSag, [{ group := 1, urgent := false, deadline := 77878, step := 1 }])] })] }
def failed5 : State := holding (stepping 1 started) [(R.CDI_PC_STATE, 63, 3)]

theorem witness_RefreshIsPlannedByStep : channelServes (stepping 510 started) (127 / 4) = true ∧ (planOf (stepping 510 started) 127).fresh = false ∧
    stepNo (stepping 510 started) 127 < 511 ∧ 511 ≤ stepNo (stepping 511 started) 127 ∧ (planOf (stepping 511 started) 127).fresh = false ∧
    (planOf (stepping 5 {}) 127).fresh = true ∧ channelServes (stepping 5 {}) (127 / 4) = true ∧ (stepping 5 {}).stack.parks = [] ∧
    63 < nPcs slow5 ∧ channelServes slow5 (63 / 2) = true ∧ (planOf slow5 (63 / 2 * 4 + 3)).started = true ∧ rd slow5 R.RFH_MODE_ACTIVE ≠ 2 ∧
    releaseStep slow5 127 (fun len => slotOff len 3 31 1 63) = (1, 0, false, 62278, 62400) ∧ groupDue slow5 63 3 31 1 1 0 false = false := by
  decide +kernel
theorem witness_RefreshIsPlannedByStep_release :
    releaseStep (late (stepping 1 started)) 127 (fun len => slotOff len 3 31 1 63) = (1, 0, false, 62278, 62400) ∧
    62278 ≤ (late (stepping 1 started)).now + 62400 / 4 ∧ (stepping 1 started).now + 62400 / 4 < 62278 ∧
    groupDue (late (stepping 1 started)) 63 3 31 1 1 0 false = true ∧ pcFailed (late (stepping 1 started)) 63 = false ∧
    tget (pchOf (late (stepping 1 started)) 63).refresh lastSag [] = [] ∧
    releaseStep waiting5 127 (fun len => slotOff len 3 31 1 63) = (1, 0, false, 62278, 62400) ∧ groupDue waiting5 63 3 31 1 1 0 false = true ∧
    pcFailed waiting5 63 = false ∧ (∃ r ∈ tget (pchOf waiting5 63).refresh lastSag [], r.step = 0 * 512 + 1 ∧ r.extra = false) ∧
    releaseStep failed5 127 (fun len => slotOff len 3 31 1 63) = (1, 0, false, 62278, 62400) ∧ pcFailed failed5 63 = true := by decide +kernel
theorem witness_RefreshIsPlannedByStep_urgent : rd (sagDue false none none) R.RFH_MODE_ACTIVE ≠ 2 ∧
    tget (pchOf (sagDue false none none) 63).refresh (sagNo 3 31 1) [] = [] ++ ⟨7, false, 0, false, false, 0⟩ :: [] ∧
    (0 : Nat) ≤ (sagDue false none none).now + lenOf (sagDue false none none) 127 / 8 ∧
    (sagDue false none none).now + lenOf (sagDue false none none) 127 / 8 < 7801 ∧ slicesRead serving (127 / 4) = true ∧
    tget? serving.stack.pollAt 127 = none := by decide +kernel
/-- A step of slice 127 is over; slice 127 was polled at 7 ns. -/
def polled : State := { serving with stack := { ({} : Stack) with pollAt := [(127, 7)] } }
theorem witness_RefreshIsPlannedByStep_periods : stepOver (late (stepping 510 started)) 127 = true ∧
    channelServes (late (stepping 510 started)) (127 / 4) = true ∧ (planOf (late (stepping 510 started)) 127).fresh = false ∧
    stepNo (late (stepping 510 started)) 127 < 511 ∧ stepOver (late (stepping 511 started)) 127 = true ∧
    channelServes (late (stepping 511 started)) (127 / 4) = true ∧ 511 ≤ stepNo (late (stepping 511 started)) 127 ∧
    stepOver (stepping 510 started) 127 = false ∧ tget? polled.stack.pollAt 127 = some 7 ∧ polled.now < 7 + rd polled R.RFH_TEMP_POLL * 1000 ∧
    7 + rd (late polled) R.RFH_TEMP_POLL * 1000 ≤ (late polled).now ∧ slicesRead (late polled) (127 / 4) = true := by decide +kernel

/-- Slice 127 reads `v`; its scale is `sc`. -/
def sensed (v : Int) (sc : Nat) : State :=
  put { late serving with stack := { ({} : Stack) with sensors := [(127, ⟨some v, 0⟩)] } } (scaleKey 127) 0 sc
/-- A trip in force: every sensor is cool, or a die's flag that counts as low stands. -/
def trippedHot : State := { sensed 0 0 with stack := { (sensed 0 0).stack with trip := true } }

theorem witness_HeatIsMeasuredAndAnswered : slicesRead serving (127 / 4) = true ∧ mgmtUp serving = true ∧ serving.ply16 = false ∧
    ((List.replicate 11 ((0 : Int), false)) ++ [(2080, true)])[11]? = some (2080, true) ∧ taken (sensed 0 2) 127 = some 0 ∧
    127 < nChannels (sensed 0 2) * 4 ∧ 0 < sliceScale (sensed 0 2) 127 ∧ sliceScale (sensed 0 2) 127 = 2 ∧
    (0 : Int) < scaleUp (sensed 0 2) R.RFH_SCALE_UP_4 - 32 ∧ taken (sensed 0 1) 127 = some 0 ∧
    sliceScale (sensed 0 1) 127 = 1 ∧ (0 : Int) < scaleUp (sensed 0 1) R.RFH_SCALE_UP_2 - 32 ∧ (sensed 0 1).time.run = true ∧
    allowanceRow (rdi (holding (late serving) [(R.RFH_ALLOWANCE, 31, 2)]) R.RFH_ALLOWANCE 31) = 5 ∧
    rdS (holding (late serving) [(R.RFH_ALLOWANCE, 31, 2)]) R.RFH_THETA 31 ≤
      limit (holding (late serving) [(R.RFH_ALLOWANCE, 31, 2)]) R.RFH_THROTTLE_START + 16 * (5 - 1 : Nat) - 8 := by decide +kernel
theorem witness_HeatIsMeasuredAndAnswered_trip : trippedHot.stack.trip = true ∧ cattripHigh trippedHot = false ∧
    (liveSensors trippedHot).all (fun k => (taken trippedHot k).all fun t => decide (t < limit trippedHot R.RFH_TRIP_CLEAR)) = true ∧
    trippedHot.time.run = true ∧
    inputArmed serving 15 = true ∧ serving.pins.porN = true ∧ rd serving R.SLP_STATE ≠ 3 ∧ mgmtUp serving = true ∧
    rd (holding (sensed 1519 0) [(R.ENG_QUAL_BAND, 0, 5)]) R.ENG_QUAL_BAND = 5 := by decide +kernel
/-- Every hold is over long after, and none at first. -/
theorem witness_HeatIsMeasuredAndAnswered_holds :
    (∃ s, s = sensed 0 2 ∧ tget s.stack.hotAt 127 0 + rd s R.RFH_SCALE_HOLD * 1000000 ≤ s.now) ∧
    (∃ s, s = holding (late serving) [(R.RFH_ALLOWANCE, 31, 2)] ∧ tget s.stack.warmAt 31 0 + rd s R.RFH_THROTTLE_HOLD * 1000000 ≤ s.now) ∧
    trippedHot.stack.tripHotAt + rd trippedHot R.RFH_TRIP_HOLD * 1000000 ≤ trippedHot.now ∧
    (∃ s, s = sensed 1519 0 ∧ s.stack.bandAt + rd s R.ENG_QUAL_SETTLE * 1000000 ≤ s.now) ∧
    serving.now < tget serving.stack.hotAt 127 0 + rd serving R.RFH_SCALE_HOLD * 1000000 ∧
    serving.now < tget serving.stack.warmAt 31 0 + rd serving R.RFH_THROTTLE_HOLD * 1000000 ∧
    serving.now < serving.stack.tripHotAt + rd serving R.RFH_TRIP_HOLD * 1000000 ∧
    serving.now < serving.stack.bandAt + rd serving R.ENG_QUAL_SETTLE * 1000000 := by
  refine ⟨⟨_, rfl, ?_⟩, ⟨_, rfl, ?_⟩, ?_, ⟨_, rfl, ?_⟩, ?_, ?_, ?_, ?_⟩ <;> decide +kernel
theorem witness_HeatIsMeasuredAndAnswered_band :
    hottestOf (sensed 1519 0) ((liveSensors (sensed 1519 0)).filter (· < 0x100)) = some (1519, 127) ∧
    rd (holding serving [(R.ENG_QUAL_BAND, 0, 4)]) R.ENG_QUAL_BAND ≠ 5 := by decide +kernel

/-- Bank 31 of SID 3 of pseudo-channel 63 in class state `c`, qualification on in band 3. -/
def classed (c : BankClass) : State :=
  holding { lastPc { ({} : Pch) with classes := [(127, c)] } with now := 3600 * 10 ^ 9 * 24 * 30 }
    [(R.ENG_QUAL_ENABLE, 0, 1), (R.ENG_QUAL_BAND, 0, 3), (R.ENG_QUAL_PERIOD, 0, 1)]
def classAt (n : Nat) : BankClass := { ({} : BankClass) with cls := n }
def tested (retest : Bool) : BankClass := { ({} : BankClass) with test := 2, retest := retest }
/-- Sixteen rows at the top of each SAG, and one more. -/
def testRows : List Nat := nums 8176 16 ++ nums 16368 16 ++ [0]
/-- The bank's test, its rows still to test and its verdict as given. -/
def testedBy (retest : Bool) (rows : List Nat) (failed : Bool) : State :=
  modPch (classed (tested retest)) 63 fun p => { p with
    qual := some { bank := 127, cls := 2, rows := rows, spare := [], chosen := testRows, failed := failed } }

theorem witness_ClassesRiseByTest : (qualRows testRows).map (fun x => (x.1.length, x.2)) = some (32, [0]) ∧
    awake (classed (classAt 3)) = true ∧ pcServes (classed (classAt 3)) 63 = true ∧ bankOut (classed (classAt 3)) 63 3 31 = false ∧
    rd (classed (classAt 3)) R.ENG_QUAL_ENABLE = 1 ∧ rd (classed (classAt 3)) R.ENG_QUAL_BAND = 3 ∧
    (bankClass (classed (classAt 3)) 63 3 31).test = 0 ∧ (pchOf (classed (classAt 3)) 63).qual = none ∧
    (classAt 3).since + qualPeriod (classed (classAt 3)) ≤ (classed (classAt 3)).now ∧
    (classAt 0).cls + 1 ≤ bankCap (classed (classAt 0)) 63 3 31 ∧ awake (classed (classAt 0)) = true ∧
    tget? (classAt 0).failedAt (3 * 8) = none ∧ tget? (classAt 0).failedAt (3 * 8 + 2) = none ∧
    tget? { classAt 0 with failedAt := [(24, 0)] }.failedAt (3 * 8) = some 0 ∧
    0 + qualPeriod (classed (classAt 0)) ≤ (classed (classAt 0)).now := by decide +kernel
theorem witness_ClassesRiseByTest_done : (bankClass (testedBy true [] true) 63 3 31).test ≠ 0 ∧
    (bankClass (testedBy false [] false) 63 3 31).test ≠ 0 ∧
    (∃ q, qualOf (testedBy true [] true) 63 3 31 = some q ∧ q.rows = [] ∧ q.failed = true) ∧
    (∃ q, qualOf (testedBy false [] false) 63 3 31 = some q ∧ q.rows = [] ∧ q.failed = false) ∧
    (∃ q, qualOf (testedBy false [16383] false) 63 3 31 = some q ∧ q.rows ≠ []) ∧ (testedBy true [] true).time.run = true := by
  refine ⟨?_, ?_, ⟨_, rfl, ?_⟩, ⟨_, rfl, ?_⟩, ⟨_, rfl, ?_⟩, ?_⟩ <;> decide +kernel
theorem witness_ClassesRiseByTest_writes : Permitted serving (write 0) 0x5001 0 ∧ Permitted serving (write 1) 0x5001 0 ∧
    Permitted (classed (classAt 3)) (write 3) (0x5440 + 31) (1 * 128 + 3 * 32 + 31) ∧
    (bankClass (classed (classAt 3)) (31 * 2 + 1) 3 31).cls ≤ (write 3).value ∧
    (write 2).value < (bankClass (classed (classAt 3)) (31 * 2 + 1) 3 31).cls ∧
    Permitted (classed (classAt 3)) (write 2) (0x5440 + 31) (1 * 128 + 3 * 32 + 31) := by unfold Permitted; decide +kernel

/-- The profiler walks pseudo-channel 63 and is to park group `lastGroup`, of bank 30; the park, where there is one, is `p`, at bin `b`. -/
def lastGroup : Nat := (3 * 32 + 30) * 1024 + 1023
def profiling (walk : Tbl Nat) (p : Option Park) (b : Nat) : State :=
  holding { serving with stack := { ({} : Stack) with
      walkAt := walk, bins := [(63 * 131072 + lastGroup, b)], parks := (p.map fun p => (63 * 131072 + lastGroup, p)).toList } }
    [(R.RFH_MODE_ACTIVE, 0, 0), (R.RFH_PROF_ENABLE, 0, 1)]
def parked (pass : Nat) (candidate : Bool) (failed : Option Bool) : Park := ⟨0, pass, candidate, failed, 3, 0, false, 0⟩

/-- The walk is at the last group it may reach; its park has the verdict given. -/
def walking : State := profiling [(63, lastGroup)] none 1
def judged (pass : Nat) (candidate : Bool) (failed : Option Bool) (b : Nat) : State := profiling [] (some (parked pass candidate failed)) b
def lastPark : Nat := 63 * 131072 + lastGroup

theorem witness_GroupsAreProfiledInParks : mgmtUp serving = true ∧ profiles (profiling [] none 1) 63 = true ∧
    tget? (profiling [] none 1).stack.walkAt 63 = none ∧ lastGroup < 131072 ∧ lastGroup / 1024 % 32 ≠ 31 ∧
    profiles walking 63 = true ∧ tget? walking.stack.walkAt 63 = some lastGroup ∧ walkReaches walking 63 lastGroup = true ∧
    targeted walking 63 (fun r => r / 16 = lastGroup) = false ∧
    (parksWhere walking fun j _ => j / 131072 = 63).length < rd walking R.RFH_PROF_PARALLEL ∧
    testable walking 63 lastPark = true ∧
    freeBlock walking 63 (freeSpares walking 63 (some (parkSid lastPark))) = some (3, 0) ∧ 64 ≤ freeEntries walking 63 ∧
    (modStack walking fun t => { t with verify := [lastPark] }).stack.verify.contains lastPark = true := by decide +kernel
/-- The park's rows have been held for as long as the plan counts. -/
def heldLong : State := modStack (judged 1 true none 1) fun t => { t with plans := [(127, { started with used := 10 ^ 12 })] }
theorem witness_GroupsAreProfiledInParks_periods : holdOver heldLong lastPark (parked 1 true none) = true ∧
    tget? heldLong.stack.parks lastPark = some (parked 1 true none) ∧ holdOver (judged 1 true none 1) lastPark (parked 1 true none) = false ∧
    mgmtUp (late serving) = true ∧ (late serving).mram.binSavedAt + rd (late serving) R.RFH_BIN_SAVE_PERIOD * 1000000000 ≤ (late serving).now ∧
    serving.now < serving.mram.binSavedAt + rd serving R.RFH_BIN_SAVE_PERIOD * 1000000000 ∧
    tget? (profiling [] none 1).stack.walkFrom 63 = none ∧
    tget? (modStack walking fun t => { t with walkFrom := [(63, 7)] }).stack.walkFrom 63 = some 7 ∧
    walking.now < 7 + rd walking R.RFH_PROF_WALK_MIN * 3600000000000 ∧
    7 + rd walking R.RFH_PROF_WALK_MIN * 3600000000000 ≤ (late walking).now := by decide +kernel
theorem witness_GroupsAreProfiledInParks_results :
    tget? (judged 1 true none 1).stack.parks lastPark = some (parked 1 true none) ∧ (parked 1 true none).idle = false ∧
    (parked 1 true none).failed = none ∧
    tget? (judged 1 true (some false) 1).stack.parks lastPark = some (parked 1 true (some false)) ∧
    tget? (judged 1 true (some true) 1).stack.parks lastPark = some (parked 1 true (some true)) ∧
    tget? (judged 1 false (some true) 0).stack.parks lastPark = some (parked 1 false (some true)) ∧
    tget (judged 1 false (some true) 0).stack.bins lastPark 0 = 0 ∧ (judged 1 false (some true) 0).time.run = true ∧
    tget? (judged 2 true (some false) 1).stack.parks lastPark = some (parked 2 true (some false)) ∧
    tget (judged 2 true (some false) 1).stack.bins lastPark 0 < rd (judged 2 true (some false) 1) R.RFH_BIN_MAX ∧
    tget? (judged 2 true (some false) 4).stack.parks lastPark = some (parked 2 true (some false)) ∧
    rd (judged 2 true (some false) 4) R.RFH_BIN_MAX ≤ tget (judged 2 true (some false) 4).stack.bins lastPark 0 ∧
    tget? (judged 2 false (some false) 1).stack.parks lastPark = some (parked 2 false (some false)) ∧
    tget? (judged 1 false (some true) 1).stack.parks lastPark = some (parked 1 false (some true)) ∧
    0 < tget (judged 1 false (some true) 1).stack.bins lastPark 0 := by decide +kernel
theorem witness_GroupsAreProfiledInParks_masters :
    Permitted serving (write 1) 0x7102 1 ∧ Permitted (profiling [] none 3) (write 1) 0x7102 0 ∧
    (write 1).value < tget (profiling [] none 3).stack.bins lastPark 0 ∧ Permitted serving (write 1) 0x7103 0 ∧
    Permitted serving (write 0) 0x7103 0 ∧ serving.stack.parks = [] ∧
    Permitted (profiling [] (some (parked 1 false none)) 1) (write 0) 0x7103 0 := by unfold Permitted; decide +kernel

/-! Witnesses: scrubbing, repair and the checker. -/

/-- The scrubber of pseudo-channel 63 is at the row; bank 127 and bank 5 of SID 0 are suspect where said, at row `r`. -/
def scrubbing (sid bank row : Nat) (suspects : List Nat) (r : Nat) : State :=
  holding { serving with stack := { ({} : Stack) with
      suspects := if suspects.isEmpty then [] else [(63, suspects)], suspectRow := [(63, r)] } }
    [(R.INT_SCRUB_ENABLE, 0, 1), (R.INT_SCRUB_ROW, 63, sid * 2 ^ 21 + bank * 2 ^ 14 + row)]

theorem witness_ScrubbersWalkEveryRow : scrubFree (scrubbing 3 30 16383 [] 0) 63 = true ∧
    rd (scrubbing 3 30 16383 [] 0) R.INT_SCRUB_ENABLE = 1 ∧ tget (scrubbing 3 30 16383 [] 0).stack.suspects 63 [] = [] ∧
    rdi (scrubbing 3 30 16383 [] 0) R.INT_SCRUB_ROW 63 = 3 * 2 ^ 21 + 30 * 2 ^ 14 + 16383 ∧
    tget (scrubbing 0 0 0 [8191, 5] 16382).stack.suspects 63 [] = [8191, 5] ∧ scrubFree (scrubbing 0 0 0 [8191, 5] 16382) 63 = true ∧
    tget (scrubbing 0 0 0 [8191, 5] 16382).stack.suspectRow 63 0 = 16382 ∧ servedRow (scrubbing 0 0 0 [8190] 0) 63 3 30 16382 = some ⟨63, 3, 30, 16382, 0⟩ ∧
    tget (scrubbing 0 0 0 [8191, 5] 16383).stack.suspectRow 63 0 = 16383 ∧ (scrubbing 0 0 0 [8191, 5] 16383).time.run = true ∧
    tget? (scrubbing 3 30 16383 [] 0).stack.scrubAt 63 = none := by decide +kernel
theorem witness_ScrubbersWalkEveryRow_pace : tget? (modStack serving fun t => { t with scrubAt := [(63, 7)] }).stack.scrubAt 63 = some 7 ∧
    serving.now < 7 + rd serving R.INT_SCRUB_PERIOD * 1000000000 / 2031616 ∧ serving.now < 7 + 2000 ∧
    7 + rd serving R.INT_SCRUB_PERIOD * 1000000000 / 2031616 ≤ (late serving).now ∧ 7 + 2000 ≤ (late serving).now := by decide +kernel

/-- Retirement of rows `row` to `row + n - 1` of logical bank 30 of SID 3 of pseudo-channel 63. -/
def retire (bank row n : Nat) : Access := write ((63 * 128 + 3 * 32 + bank) * 2 ^ 51 + row * 2 ^ 37 + n * 2 ^ 32)
def retireOk : Nat := 63 * 128 + 3 * 32 + 30

theorem witness_RepairJobsRunToTheirEnd : Permitted serving (retire 30 16368 16) 0x8003 0 ∧
    field (retire 30 16368 16).value 51 13 = retireOk ∧ field (retire 30 16368 16).value 37 14 = 16368 ∧ field (retire 30 16368 16).value 32 5 = 16 ∧
    retireOk / 128 < nPcs serving ∧ retireOk % 32 < 31 ∧ (retire 30 16368 16).value % 2 ^ 32 = 0 ∧ sagOf 16368 = sagOf (16368 + 16 - 1) ∧
    ¬ (1 ≤ rdi serving R.INT_REPAIR_STATE (retireOk / 128) ∧ rdi serving R.INT_REPAIR_STATE (retireOk / 128) ≤ 3) ∧
    pcFailed serving (retireOk / 128) = false ∧ replacement serving (retireOk / 128) (retireOk / 32 % 4) = none ∧
    16 ≤ freeEntries serving 63 + (parksWhere serving fun k _ => k / 131072 = 63).length * 16 ∧
    16 ≤ (allocRows serving 63 (sagOf 16368) 16 (freeSpares serving 63 (some 3))).length ∧
    Permitted serving (retire 31 0 1) 0x8003 0 ∧ field (retire 31 0 1).value 51 13 % 32 = 31 ∧ Permitted serving (retire 30 0 0) 0x8003 0 ∧
    Permitted serving (retire 30 16383 2) 0x8003 0 ∧ serving.time.run = true := by unfold Permitted; decide +kernel
theorem witness_RepairJobsRunToTheirEnd_bank : Permitted serving (write retireOk) 0x8003 1 ∧ retireOk < 8192 ∧ 1 < (freeSpares serving 63 none).length ∧
    Permitted (holding serving [(R.INT_REPAIR_STATE, 63, 3)]) (write retireOk) 0x8003 1 ∧
    rdi (holding serving [(R.INT_REPAIR_STATE, 63, 3)]) R.INT_REPAIR_STATE (retireOk / 128) = 3 := by unfold Permitted; decide +kernel

/-- A job of pseudo-channel 63 in state `st`. -/
def working (st : Nat) (j : Job) : State :=
  holding { serving with stack := { ({} : Stack) with jobs := [(63, j)] } } [(R.INT_REPAIR_STATE, 63, st)]
def rowsJob : Job := ⟨false, retireOk, 16368, 2, [(3, 16368), (3, 16369)], 0, 32⟩
def bankJob : Job := ⟨true, retireOk, 0, 16384, [], 2, 262144⟩

theorem witness_RepairJobsRunToTheirEnd_job : jobOf (working 1 rowsJob) 63 = some rowsJob ∧ rdi (working 1 rowsJob) R.INT_REPAIR_STATE 63 = 1 ∧
    (working 1 rowsJob).stack.parks = [] ∧
    (allocRows (working 1 rowsJob) 63 (sagOf 16368) 2 (freeSpares (working 1 rowsJob) 63 (some (retireOk / 32 % 4)))).length = 2 ∧
    jobOf (working 1 bankJob) 63 = some bankJob ∧ (freeSpares (working 1 bankJob) 63 none).length ≠ 0 ∧ (pcGrafts (working 1 bankJob) 63) = [] ∧
    targeted (working 1 bankJob) 63 (fun r => r / 16384 = ((freeSpares (working 1 bankJob) 63 none).headD 0) * 32 + 31) = false ∧
    rdi (working 2 rowsJob) R.INT_REPAIR_STATE 63 = 2 ∧ jobLines rowsJob ≤ rowsJob.copied ∧ jobLines bankJob ≤ bankJob.copied ∧
    jobOf (working 2 bankJob) 63 = some bankJob ∧ rdi (working 3 rowsJob) R.INT_REPAIR_STATE 63 = 3 ∧
    sourceBusy (working 3 rowsJob) 63 rowsJob = false ∧ jobOf (working 3 rowsJob) 63 = some rowsJob := by decide +kernel

/-- Command `n` of the checker mode on the last line of the array, which is stored. -/
def checking (n : Nat) : State :=
  holding { stored with stack := { ({} : Stack) with testCmd := n } }
    [(R.INT_TEST_LOC, 0, 31 * 2 ^ 27 + 2 ^ 26 + 3 * 2 ^ 24 + 31 * 2 ^ 19 + 16383 * 2 ^ 5 + 15)]

theorem witness_CheckerCommandsActBelowTheCodec : Permitted (checking 0) (write 1) 0x8004 3 ∧ Permitted (checking 1) (write 1) 0x8004 3 ∧
    (checking 1).stack.testCmd ≠ 0 ∧ (checking 0).stack.testCmd = 0 ∧ pcServes (checking 0) (testPc (rd (checking 0) R.INT_TEST_LOC)) = true ∧
    pcServes (holding (checking 0) [(R.CDI_PC_STATE, 63, 3)]) (testPc (rd (checking 0) R.INT_TEST_LOC)) = false ∧
    testPc (rd (checking 0) R.INT_TEST_LOC) = 63 ∧ testKey (rd (checking 0) R.INT_TEST_LOC) = lastKey ∧
    tget? (checking 3).stack.jobs 63 = none ∧ tget? (checking 3).array.lines (cellKey 63 lastKey) = some (encodeLine 5 false) ∧
    Permitted (holding (checking 0) [(R.CDI_PC_STATE, 63, 3)]) (write 4) 0x8004 3 := by unfold Permitted; decide +kernel

/-! Witnesses: host ports and flits. -/

/-- Port 7's link in FDI state `f` with a request; the port's own state is `st`. -/
def port (st : Nat) (l : Link) : State :=
  { holding ready [(R.LNK_PORT_STATE, 7, st), (R.LNK_PORT_REVISION, 7, 3), (R.LNK_PORT_ENABLE, 0, 0xFF)] with links := [(7, l)] }
def fdi (f : Fdi) : Link := { ({} : Link) with fdi := f }

theorem witness_PortsFollowTheirAdapters : 7 < nPorts (port 1 (fdi .active)) ∧ mgmtUp (port 1 (fdi .active)) = true ∧
    configOk ⟨7, 15, true, true, 64, 32⟩ = true ∧ configOk ⟨0, 0, true, false, 32, 64⟩ = false ∧
    (linkOf (port 1 (fdi .active)) 7).fdi = .active ∧ (linkOf (port 4 (fdi .reset)) 7).fdi = .reset ∧ ready.pins.rstCmplAck = true ∧
    bitOf (rd (port 4 (fdi .reset)) R.LNK_PORT_ENABLE) 7 = true ∧ (port 4 (fdi .reset)).start.phase = .service ∧
    (linkOf (port 4 (fdi .reset)) 7).faulty = false ∧ (linkOf (port 4 (fdi .reset)) 7).cfgRefused = false ∧
    (linkOf (port 4 { fdi .reset with req := 1 }) 7).req = 1 ∧ (linkOf (port 4 (fdi .linkReset)) 7).fdi = .linkReset ∧
    (linkOf (port 4 (fdi .disabled)) 7).fdi = .disabled ∧ (linkOf (port 3 (fdi .retrain)) 7).fdi = .retrain ∧
    (linkOf (port 4 (fdi .linkError)) 7).fdi = .linkError := by decide +kernel
theorem witness_PortsFollowTheirAdapters_masters : portState (late (port portRetrain (fdi .retrain))) 7 = portRetrain ∧
    (linkOf (late (port portRetrain (fdi .retrain))) 7).fdi = .retrain ∧
    (∃ s, s = late (port portRetrain (fdi .retrain)) ∧ (linkOf s 7).retrainAt + rd s R.BLK_FDI_RETRAIN_LIMIT * 1000 ≤ s.now) ∧
    rd (port 1 (fdi .active)) R.SLP_STATE ≠ 3 ∧ Permitted (port 1 (fdi .active)) (write 7) 0xB401 0 ∧
    nPorts { port 1 (fdi .active) with ply16 := true } ≤ (write 4).value ∧ Permitted { port 1 (fdi .active) with ply16 := true } (write 4) 0xB401 0 ∧
    carries (port portUp (fdi .active)) 7 = true ∧ Permitted (port 1 (fdi .active)) (write 0x7F) 0x1000 0 ∧
    bitOf ((write 0x7F).value &&& portMask (port 1 (fdi .active))) 7 = false ∧
    ((nums 0 7).all fun n => bitOf (0x7F &&& portMask (port 1 (fdi .active))) n = bitOf (rd (port 1 (fdi .active)) R.LNK_PORT_ENABLE) n) = true ∧
    bitOf (rd (holding (port 4 (fdi .disabled)) [(R.LNK_PORT_ENABLE, 0, 0x7F)]) R.LNK_PORT_ENABLE) 7 = false ∧
    Permitted (holding (port 4 (fdi .disabled)) [(R.LNK_PORT_ENABLE, 0, 0x7F)]) (write 0xFF) 0x1000 0 ∧
    bitOf ((write 0xFF).value &&& portMask (port 1 (fdi .active))) 7 = true := by
  unfold Permitted; refine ⟨?_, ?_, ⟨_, rfl, ?_⟩, ?_, ?_, ?_, ?_, ?_, ?_, ?_, ?_, ?_, ?_, ?_⟩ <;> decide +kernel

/-- A fold, each step evaluated before the next. -/
def foldNow (f : Nat → Nat → Nat) : List Nat → Nat → Nat
  | [], a => a
  | b :: l, a => match f a b with
    | 0 => foldNow f l 0
    | n + 1 => foldNow f l (n + 1)
theorem foldNow_eq (f : Nat → Nat → Nat) (l : List Nat) (a : Nat) : l.foldl f a = foldNow f l a := by
  induction l generalizing a with
  | nil => rfl
  | cons b l ih => rw [List.foldl_cons, ih, foldNow]; cases f a b <;> rfl
theorem crc32_eq (l : List Nat) : crc32 l = foldNow crcByte l 0xFFFFFFFF ^^^ 0xFFFFFFFF := by unfold crc32; rw [foldNow_eq]

/-- A flit with KIND and SEQ and `msgs` in its message slots, its CRC right. -/
def flitOf (kind seq msgs : Nat) : BitVec 2048 :=
  let b := kind * 2 ^ 126 + seq * 2 ^ 116 + msgs
  BitVec.ofNat 2048 (b + crc32 (bytesLE b 256))
def plainFlit (kind seq : Nat) : BitVec 2048 := flitOf kind seq 0
/-- A CMP_ACK of one TAG, and the header of a WR_FULL, in the last slot. -/
def lastSlot (header : Nat) : Nat := header * 2 ^ (128 * 15)
def ackMsg : Nat := 4 * 2 ^ 124 + 6 * 2 ^ 118 + 1 * 2 ^ 115 + 0xFFFF * 2 ^ 96
def cutMsg : Nat := 1 * 2 ^ 124 + 2 * 2 ^ 118
/-- Port 7's link at receive sequence 1,023 and as given. -/
def linked7 (l : Link) : State := port portUp { l with fdi := .active, up := true, rxNext := 1023 }
/-- A replay buffer of flit 5, acknowledged up to 4. -/
def replaying (naks : Nat) : Link := { ({} : Link) with txBuf := [(5, plainFlit 0 5)], peerAck := 4, nakSeq := 4, naks := naks }

theorem witness_FlitsAreKeptInOrder : 7 < nPorts (linked7 {}) ∧ mgmtUp (linked7 {}) = true ∧ (linkOf (linked7 {}) 7).fdi = .active ∧
    crc32 (bytesLE ((plainFlit 0 1023).toNat - (plainFlit 0 1023).toNat % 2 ^ 32) 256) = (plainFlit 0 1023).toNat % 2 ^ 32 ∧
    field (plainFlit 0 1023).toNat 126 2 = 0 ∧ bitOf (linked7 {}).sleep.nakOwed 7 = false ∧
    field (plainFlit 0 1023).toNat 116 10 = (linkOf (linked7 {}) 7).rxNext % 1024 ∧ (linked7 {}).sleep.pastE4 = false ∧
    (linkOf (linked7 {}) 7).txq = [] ∧ (linkOf (linked7 {}) 7).evq = [] ∧
    scanFlit (portRev (linked7 {}) 7) true (plainFlit 0 1023).toNat 15 1 (linkOf (linked7 {}) 7).rxUsed = ([], .fine) ∧ noReplayRoom (linked7 {}) (reqCount (portRev (linked7 {}) 7) (plainFlit 0 1023).toNat) = false ∧
    (field (plainFlit 0 510).toNat 116 10 + 1024 - (linkOf (linked7 {}) 7).rxNext) % 1024 = 511 ∧
    (field (plainFlit 0 511).toNat 116 10 + 1024 - (linkOf (linked7 {}) 7).rxNext) % 1024 = 512 ∧
    crc32 (bytesLE ((plainFlit 0 510).toNat - (plainFlit 0 510).toNat % 2 ^ 32) 256) = (plainFlit 0 510).toNat % 2 ^ 32 ∧
    crc32 (bytesLE ((1 : BitVec 2048).toNat - (1 : BitVec 2048).toNat % 2 ^ 32) 256) ≠ (1 : BitVec 2048).toNat % 2 ^ 32 := by
  simp only [plainFlit, flitOf, crc32_eq]; decide +kernel
theorem witness_FlitsAreKeptInOrder_repeat :
    (∃ s, s = linked7 { ({} : Link) with waitSeq := true } ∧ (linkOf (late s) 7).waitSeq = true ∧ (linkOf (late s) 7).frozen = none ∧
      (linkOf (late s) 7).nakAt + 128 ≤ (late s).now ∧ s.now < (linkOf s 7).nakAt + 128) := by refine ⟨_, rfl, ?_⟩; decide +kernel
theorem witness_FlitsAreKeptInOrder_negotiation :
    (∃ s, s = port portNegotiating (fdi .active) ∧ portState (late s) 7 = portNegotiating ∧ (late s).time.run = true ∧
      (linkOf (late s) 7).negAt + rd (late s) R.LNK_NEG_TIMEOUT * 1000 ≤ (late s).now ∧
      s.now < (linkOf s 7).negAt + rd s R.LNK_NEG_TIMEOUT * 1000) := by refine ⟨_, rfl, ?_⟩; decide +kernel
theorem witness_FlitsAreKeptInOrder_messages :
    (∃ f, f = flitOf 0 1023 (lastSlot ackMsg) ∧ crc32 (bytesLE (f.toNat - f.toNat % 2 ^ 32) 256) = f.toNat % 2 ^ 32 ∧
      scanFlit (portRev (linked7 {}) 7) true f.toNat 15 1 (linkOf (linked7 {}) 7).rxUsed = ([15], .fine) ∧ field f.toNat 116 10 = 1023 ∧
      (messageOf 7 f.toNat 15).isSome = true) ∧
    (∃ f, f = flitOf 0 1023 (lastSlot cutMsg) ∧ crc32 (bytesLE (f.toNat - f.toNat % 2 ^ 32) 256) = f.toNat % 2 ^ 32 ∧
      scanFlit (portRev (linked7 {}) 7) true f.toNat 15 1 (linkOf (linked7 {}) 7).rxUsed = ([], .malformed) ∧ field f.toNat 116 10 = 1023) := by
  refine ⟨⟨_, rfl, ?_⟩, ⟨_, rfl, ?_⟩⟩ <;> simp only [flitOf, crc32_eq] <;> decide +kernel
theorem witness_FlitsAreKeptInOrder_naks : (linkOf (linked7 {}) 7).waitSeq = false ∧ (linkOf (linked7 {}) 7).frozen = none ∧
    (adoptAck (linkOf (linked7 (replaying 0)) 7) 4).peerAck = 4 ∧ (adoptAck (linkOf (linked7 (replaying 0)) 7) 4).txBuf ≠ [] ∧
    0 + 1 < rd (linked7 (replaying 0)) R.LNK_REPLAY_LIMIT ∧
    (linkOf (linked7 (replaying 0)) 7).peerAck = 4 ∧ (linkOf (linked7 (replaying 0)) 7).peerAck ≠ 900 ∧
    ((linkOf (linked7 (replaying 0)) 7).txBuf.all fun e => e.1 ≠ 900) = true ∧
    rd (holding (linked7 (replaying 0)) [(R.LNK_REPLAY_LIMIT, 0, 1)]) R.LNK_REPLAY_LIMIT ≤ 0 + 1 ∧
    (linkOf (linked7 { ({} : Link) with waitSeq := true }) 7).waitSeq = true ∧ (linkOf (linked7 { ({} : Link) with dirty := true }) 7).dirty = true ∧
    (linkOf (linked7 { ({} : Link) with dirty := true }) 7).stallAck = false ∧ carries (linked7 {}) 7 = true ∧
    portState (linked7 {}) 7 ≠ portNegotiating ∧ portState (port portNegotiating (fdi .active)) 7 = portNegotiating ∧
    bitOf (0xFF &&& 12) 3 = true ∧ bitOf (4 &&& 12) 3 = false ∧ bitOf (4 &&& 12) 2 = true ∧ bitOf (0xF3 &&& 12) 2 = false ∧
    (linkOf (port portNegotiating { fdi .active with offered := 12 }) 7).offered = 12 := by
  simp only [replaying, plainFlit, flitOf, crc32_eq]; decide +kernel

/-! Witnesses: sleep. -/

/-- Port 7 up, function 15 bound there, power-state commands allowed from it where said. -/
def commander (ports : Nat) : State := holding linked [(R.LNK_PWR_CMD_PORTS, 0, ports), (R.SLP_STATE_ALLOW, 0, 7)]

theorem witness_PowerCommandsAreChecked : (3, Instr.pwrCmdGroupS1 (.inband 7 15) 65535 255) ∈ powerRow (.inband 7 15) 65535 255 ∧
    reaches (commander 0x80) (.inband 7 15) = true ∧ portBound (commander 0x80) 7 14 = false ∧ reaches (commander 0x80) (.inband 7 14) = true ∧
    portBound (commander 0) 7 15 = true ∧ bitOf (rd (commander 0) R.LNK_PWR_CMD_PORTS) 7 = false ∧ MayCommand (commander 0x80) 7 15 ∧
    pwrMalformed (commander 0x80) 3 0 = true ∧ pwrMalformed (commander 0x80) 3 255 = false ∧ (commander 0x80).sleep.entry = none ∧
    pwrRefuser (holding (commander 0x80) [(R.SLP_STATE_ALLOW, 0, 3)]) 3 = some (ident 5 0x20) ∧ (commander 0x80).time.run = true ∧
    pwrRefuser (commander 0x80) 3 = none ∧ targetReached (commander 0x80) 3 255 = false ∧ (commander 0x80).sleep.pastE4 = false ∧
    pwrRefuser (commander 0x80) 0 = none ∧ rd (commander 0x80) R.SLP_GROUPS_ASLEEP = 0 ∧ pwrMalformed (commander 0x80) 0 255 = false := by
  unfold MayCommand; decide +kernel
/-- The whole block past E4. -/
def asleep : State := { commander 0x80 with sleep := { ({} : Sleep) with pastE4 := true } }
theorem witness_PowerCommandsAreChecked_a0 : MayCommand asleep 7 15 ∧ asleep.sleep.entry = none ∧ pwrRefuser asleep 0 = none ∧
    asleep.sleep.wake = none ∧ asleep.sleep.exit = none ∧ pwrMalformed asleep 0 255 = false := by unfold MayCommand; decide +kernel

/-- An entry to target `st`, of group 7 or all, at point `p`. -/
def entry (st : Nat) (abort : Option Nat) (undoing : Bool) : Entering :=
  ⟨st, if st = 2 then 0x80 else 0, [(.inband 7 15, 9, 0x80)], ident 2 7, 0, abort, undoing⟩
def entering (e : Entering) (p : Nat) : State :=
  { holding serving [(R.SLP_ENTRY_POINT, 0, p), (R.SLP_STATE, 0, if e.st = 2 then 0 else 4)] with
    sleep := { ({} : Sleep) with entry := some e }
    chans := (nums 0 32).map fun c => (c, { ({} : Chan) with selfRef := decide (p = 4) && !e.undoing, sreConfirmed := decide (p = 4) }) }
def atPoint (st p : Nat) : State := entering (entry st none false) p

theorem witness_EntriesPassTheirPoints : entryAt (atPoint 0 1) 1 = some (entry 0 none false) ∧
    crossingClear (atPoint 0 1) (entry 0 none false) = true ∧ homeClear (atPoint 0 1) (entry 0 none false) = true ∧
    entryAt (atPoint 0 2) 2 = some (entry 0 none false) ∧ (entryPcs (atPoint 0 2)).all (flushed (atPoint 0 2)) = true ∧
    entryAt (atPoint 1 3) 3 = some (entry 1 none false) ∧ (entryPcs (atPoint 1 3)).all (saplingsDone (atPoint 1 3)) = true ∧
    mgmtUp (atPoint 1 3) = true ∧ entryAt (atPoint 0 4) 4 = some (entry 0 none false) ∧
    ((entryChannels (atPoint 0 4)).all fun c => (chanOf (atPoint 0 4) c).selfRef) = true ∧ (atPoint 0 4).time.run = true ∧
    entryAt (atPoint 1 4) 4 = some (entry 1 none false) ∧ ((entryChannels (atPoint 1 4)).all fun c => (chanOf (atPoint 1 4) c).selfRef) = true ∧
    entryAt (atPoint 2 4) 4 = some (entry 2 none false) ∧ ((entryChannels (atPoint 2 4)).all fun c => (chanOf (atPoint 2 4) c).selfRef) = true := by
  decide +kernel
/-- The whole block descends to S2, at `step`. -/
def falling (step : Nat) : State :=
  { holding serving [(R.SLP_STATE, 0, 5)] with
    sleep := { ({} : Sleep) with pastE4 := true, entry := some { entry 1 none false with sources := [] }, step := step }
    chans := (nums 0 32).map fun c => (c, { ({} : Chan) with selfRef := true, sreConfirmed := true }) }
theorem witness_EntriesPassTheirPoints_ends : (entry 0 none false).start + rd (atPoint 0 3) R.SLP_ENTRY_LIMIT * 1000 ≤ 20000 ∧
    (atPoint 0 3).sleep.entry = some (entry 0 none false) ∧ (atPoint 0 3).sleep.pastE4 = false ∧
    (entering (entry 0 (some 5) true) 4).sleep.entry = some (entry 0 (some 5) true) ∧ (entry 0 (some 5) true).undoing = true ∧
    (entering (entry 2 (some 5) true) 2).sleep.entry = some (entry 2 (some 5) true) ∧
    rd (entering (entry 0 (some 5) true) 4) R.SLP_ENTRY_POINT = 4 ∧
    ((entryChannels (entering (entry 0 (some 5) true) 4)).all fun c => (chanOf (entering (entry 0 (some 5) true) 4) c).selfRef = false) = true ∧
    (entering (entry 0 (some 5) true) 4).sleep.exitFor = [] ∧ (entering (entry 0 (some 5) true) 4).time.run = true ∧
    descending (falling 2) = true ∧ (falling 2).sleep.wake = none ∧ (falling 2).sleep.step = 2 ∧ allConfirmed (falling 2) = true ∧
    (linkOf (port 1 { fdi .active with req := 2 }) 7).req = 2 ∧ mgmtUp (port 1 { fdi .active with req := 2 }) = true ∧
    descending (falling 4) = true ∧ (falling 4).sleep.step = 4 ∧ upPorts (falling 4) = [] := by decide +kernel
theorem witness_EntriesPassTheirPoints_gates : mgmtUp (holding serving [(R.SLP_A1_ENABLE, 0, 1)]) = true ∧
    41 < 10 + nChannels serving ∧ rd (holding serving [(R.SLP_A1_ENABLE, 0, 1)]) R.SLP_A1_ENABLE = 1 ∧
    rd (holding serving [(R.SLP_A1_ENABLE, 0, 1)]) R.SLP_STATE = 0 ∧ islandIdle (holding serving [(R.SLP_A1_ENABLE, 0, 1)]) 41 = true ∧
    bitOf serving.sleep.gated 41 = false ∧ serving.ply16 = false := by decide +kernel

/-- The block in sleep state `st`, its channels confirmed, with the wake and exit given. -/
def dreaming (st : Nat) (wake : Option Nat) (exit : Option (Nat × Nat × Bool)) : State :=
  { holding serving [(R.SLP_STATE, 0, st), (R.SLP_WAKE_AT, 0, 5), (R.LNK_PORT_ENABLE, 0, 0x80)] with
    sleep := { ({} : Sleep) with pastE4 := true, wake := wake, exit := exit }
    time := { ready.time with t := 5 * nsUnit }
    links := [(7, fdi .l1)]
    chans := (nums 0 32).map fun c => (c, { ({} : Chan) with selfRef := true, sreConfirmed := true }) }
def stillBeat (s : State) : State := { s with time := { s.time with run := false } }

theorem witness_WakesBeginExits : rd (dreaming 2 none none) R.SLP_WAKE_AT ≠ 0 ∧ (dreaming 2 none none).sleep.pastE4 = true ∧
    (dreaming 2 none none).sleep.wake = none ∧ (dreaming 2 none none).sleep.exit = none ∧
    rd (dreaming 2 none none) R.SLP_WAKE_AT ≤ countedPool (dreaming 2 none none) ∧
    rd (holding (atPoint 0 2) [(R.SLP_WAKE_AT, 0, 5)]) R.SLP_WAKE_AT ≤ countedPool { atPoint 0 2 with time := { ready.time with t := 5 * nsUnit } } ∧
    rd (holding (atPoint 0 2) [(R.SLP_WAKE_AT, 0, 5)]) R.SLP_WAKE_AT ≠ 0 ∧ (atPoint 0 2).sleep.pastE4 = false ∧
    inputArmed (dreaming 2 none none) 16 = true ∧ (dreaming 2 none none).pins.porN = true ∧
    rd (stillBeat (dreaming 3 (some 5) none)) R.SLP_STATE = 3 ∧ (stillBeat (dreaming 3 (some 5) none)).sleep.wake = some 5 ∧
    (stillBeat (dreaming 7 none (some (0, 0, true)))).time.run = false ∧ bitOf (stillBeat (dreaming 7 none none)).pins.pwrAck 1 = true ∧
    (dreaming 7 none none).pins.avsReq = false ∧ (dreaming 7 none none).pins.ref100 = true ∧
    (linkOf (dreaming 7 none none) 7).fdi = .l1 ∧ rd (dreaming 2 (some 5) none) R.SLP_STATE = 2 ∧ allConfirmed (dreaming 2 (some 5) none) = true ∧
    ((dreaming 2 none none).links.all fun (_, l) => l.req ≠ 2 && !l.errWaits) = true := by decide +kernel
/-- Port 7 in L1, Active asked for, a link reset waiting; the supply's handshake under way. -/
def owedReset : State := port 3 { fdi .l1 with req := 1, resetWaits := true }
def busyAvs : State := { stillBeat (dreaming 3 (some 5) none) with avs := { ({} : Avs) with busy := true } }
theorem witness_WakesBeginExits_waits : (stillBeat (dreaming 3 (some 5) none)).avs.busy = false ∧ busyAvs.avs.busy = true ∧
    rd busyAvs R.SLP_STATE = 3 ∧ busyAvs.sleep.wake = some 5 ∧ (stillBeat (dreaming 7 none (some (0, 0, true)))).avs.want = none ∧
    (linkOf (dreaming 7 none none) 7).errWaits = false ∧ (linkOf owedReset 7).fdi = .l1 ∧ (linkOf owedReset 7).req = 1 ∧
    (linkOf owedReset 7).resetWaits = true ∧ mgmtUp owedReset = true ∧ (linkOf (port 3 { fdi .l1 with req := 1 }) 7).resetWaits = false ∧
    rd (dreaming 3 (some 5) none) R.SLP_STATE = 3 ∧ rd (dreaming 7 none (some (0, 0, true))) R.SLP_STATE ≠ 2 := by decide +kernel
/-- The exit from S2, its retrains done. -/
def exitingS2 : State :=
  { holding serving [(R.SLP_STATE, 0, 7)] with sleep := { ({} : Sleep) with exit := some (0, 0, true), pastE4 := true } }
theorem witness_WakesBeginExits_s2 : exitingS2.sleep.exit = some (0, 0, true) ∧ exitingS2.time.run = true ∧ exitingS2.stack.trip = false ∧
    exitingS2.stack.jobs = [] ∧ exitingS2.links = [] ∧ exitingS2.chans = [] ∧ exitingS2.pchs = [] ∧ exitingS2.sleep.queue = [] ∧
    rd exitingS2 R.SLP_STATE = 7 := by decide +kernel
/-- Group 7 asleep with a wake; the exit, at its end, of group 7 or of the whole block. -/
def groupAsleep : State :=
  { holding serving [(R.SLP_GROUPS_ASLEEP, 0, 0x80)] with
    sleep := { ({} : Sleep) with groupWake := 0x80 }
    chans := (nums 28 4).map fun c => (c, { ({} : Chan) with selfRef := true, sreConfirmed := true }) }
def exiting (g : Nat) : State :=
  { holding serving [(R.SLP_GROUPS_ASLEEP, 0, g), (R.SLP_STATE, 0, if g = 0 then 6 else 0)] with
    sleep := { ({} : Sleep) with exit := some (g, 0, false), pastE4 := decide (g = 0) } }
theorem witness_WakesBeginExits_groups : groupAsleep.sleep.exit = none ∧ groupAsleep.sleep.pastE4 = false ∧
    0x80 &&& groupAsleep.sleep.groupWake = 0x80 ∧
    ((nums 0 (nChannels groupAsleep)).all fun c => !bitOf 0x80 (c / 4) || sleepConfirmed groupAsleep c) = true ∧ 7 < nPorts serving ∧
    (linkOf (port 3 { fdi .l1 with req := 1 }) 7).req = 1 ∧ mgmtUp (port 3 { fdi .l1 with req := 1 }) = true ∧
    (linkOf (dreaming 2 none none) 7).req ≠ 1 ∧ bitOf (rd (dreaming 2 none none) R.LNK_PORT_ENABLE) 7 = true ∧
    (exiting 0).sleep.exit = some (0, 0, false) ∧ (exiting 0).time.run = true ∧ (exiting 0).stack.trip = false ∧
    ((nums 0 (nChannels (exiting 0))).all fun c => (chanOf (exiting 0) c).selfRef = false) = true ∧ rd (exiting 0) R.SLP_STATE ≠ 7 ∧
    (exiting 0).stack.jobs = [] ∧ (exiting 0).sleep.queue = [] ∧ (exiting 0).links = [] ∧ (exiting 0x80).sleep.exit = some (0x80, 0, false) ∧
    rd (exiting 0x80) R.SLP_STATE ≠ 7 := by decide +kernel

/-! Witnesses: the dictionary, the sideband and the umpires' services. -/

/-- A DICT message of the umpires' bench for index `i`, subindex `b`, with a value. -/
def dict (i b v : Nat) : DictMsg := ⟨.umpire 0x30, 9, i, b, 0, 0, v, []⟩
/-- SLP_ERR_LIMIT stands at `v`; the stored copy is `c`. -/
def persisting (v : Nat) (c : Option Copies) : State :=
  { holding ready [(R.SLP_ERR_LIMIT, 0, v)] with mram := { ({} : Mram) with params := (c.map fun c => (0x910008, c)).toList } }

theorem witness_TheDictionaryAnswers : reaches ready (dict 0 0 0).src = true ∧ accessStatus ready (.umpire 0x30) false 0xEFFF 0 0 0 0 ≠ 0 ∧
    accessStatus ready (.umpire 0x30) true 0xEFFF 0 0 0 0 ≠ 0 ∧ (findEntry 0x9100 8).map (fun e => decide (e.ty ≠ 10)) = some true ∧
    accessStatus ready (.umpire 0x30) false 0x9100 8 0 0 0 = 0 ∧ (findEntry 0x9100 8).map (absent16 · 0x9100 8) = some false ∧
    ready.obs.faulty = false ∧ accessStatus ready (.umpire 0x30) true 0x9100 8 1000 0 0 = 0 ∧
    (findEntry 0x9100 8).map (fun e => (singleAct e (keyOf 0x9100 8)).isNone && (arrayAct e 0x9100 8).isNone) = some true ∧
    (findEntry 0x9100 8).map (fun e => mapWrite 0x9100 8 (keptBits (takeMgtCredit ready (.umpire 0x30)) e 0x9100 8 1000)
      (takeMgtCredit ready (.umpire 0x30))) = some none ∧ epochWrite 0x9100 8 1000 (takeMgtCredit ready (.umpire 0x30)) = none ∧
    (treeWrite 0x30 0x9100 8 1000 (takeMgtCredit ready (.umpire 0x30))).isNone = true ∧ Permitted ready (write 1) 0xA001 0 ∧
    Permitted ready (write 1) 0xA002 1 ∧ persistentKey 0x910008 = true ∧ ownStore 0x910008 = false ∧ mgmtUp ready = true := by
  unfold Permitted; simp only [Option.isNone_iff_eq_none.symm]; decide +kernel
theorem witness_TheDictionaryAnswers_stores :
    { ready with mram := { ({} : Mram) with erased := true } }.mram.erased = true ∧ ready.pins.porN = true ∧ (persisting 5 none).mram.erased = false ∧
    tget? (persisting 5 none).mram.params 0x910008 = none ∧ val (persisting 5 none) 0x910008 (dfltAt ready 0x910008) ≠ dfltAt (persisting 5 none) 0x910008 ∧
    tget? (persisting 5 (some ⟨5, 7, none⟩)).mram.params 0x910008 = some ⟨5, 7, none⟩ ∧
    tget? (persisting 5 (some ⟨6, 2 ^ 32 - 1, none⟩)).mram.params 0x910008 = some ⟨6, 2 ^ 32 - 1, none⟩ ∧
    val (persisting 5 none) 0x910008 (dfltAt (persisting 5 none) 0x910008) = 5 ∧ Permitted ready (write 0x910008) 0xA004 0 ∧
    tget? { ready.dict with descReq := [(0x30, 0x910008)] }.descReq 0x30 = some 0x910008 := by unfold Permitted; decide +kernel

/-- The sideband at address 9; the inbound FIFO's pointers at `c`, or full. -/
def framed (c w : Nat) : State :=
  { holding ready [(R.MGT_I3C_ADDRESS, 0, 9)] with side := { ({} : Sideband) with inb := { ({} : Fifo) with r := c, c := c, w := w } } }
/-- One outbound frame waits, its in-band interrupt unanswered. -/
def outgoing : State :=
  { framed 0 0 with side := { ({} : Sideband) with ibi := true, outb := { ({} : Fifo) with words := [(0, 2 ^ 262)], c := 1, w := 1 } } }

/-- S2, where an I3C address has been assigned. -/
def addressed : State := holding (dreaming 3 none none) [(R.MGT_I3C_ADDRESS, 0, 9)]
theorem witness_FramesPassWhole : rd addressed R.SLP_STATE = 3 ∧ addressed.sleep.pastE4 = true ∧ rd addressed R.MGT_I3C_ADDRESS ≠ 0 ∧
    rd (dreaming 3 none none) R.SLP_STATE = 3 ∧ rd (dreaming 3 none none) R.MGT_I3C_ADDRESS = 0 ∧
    addressed.sleep.wake = none ∧ addressed.sleep.exit = none ∧ mgmtUp (framed 1023 511) = true ∧
    rd (framed 1023 511) R.MGT_I3C_ADDRESS ≠ 0 ∧ (framed 1023 511).time.run = true ∧ (framed 1023 511).side.inb.free < ([0] ++ [1]).length ∧
    ([1].length + 31) / 32 ≤ (framed 1023 1023).side.inb.free ∧ Fifo.ok (framed 1023 1023).side.inb ∧
    (framed 1023 1023).side.inb.r = (framed 1023 1023).side.inb.c ∧ (framed 1023 1023).side.inb.w = (framed 1023 1023).side.inb.c ∧
    mgmtUp outgoing = true ∧ outgoing.side.outb.isEmpty = false ∧ outgoing.side.ibi = true ∧ Permitted outgoing (write 1) 0xA011 1 ∧
    Permitted outgoing (write 2) 0xA011 1 ∧ Permitted outgoing (write 3) 0xA011 1 := by unfold Permitted Fifo.ok; decide +kernel

theorem witness_FramesPassWhole_repeat : (outgoing.side.outb.frameAt outgoing.side.outb.r 512).1 = [2 ^ 262] ∧
    mgmtUp (late outgoing) = true ∧ (late outgoing).side.ibiAt + 1000000 ≤ (late outgoing).now ∧
    outgoing.now < outgoing.side.ibiAt + 1000000 := by decide +kernel
/-- Master 0x30 has a blob staged since 7 ns. -/
def staged : State := { ready with dict := { ready.dict with staging := [(0x30, { index := 0x9100, sub := 8, bytes := [], at_ := 7 })] } }
theorem witness_TheDictionaryAnswers_staging : tget? staged.dict.staging 0x30 = some { index := 0x9100, sub := 8, bytes := [], at_ := 7 } ∧
    7 + 1000000 ≤ (late staged).now ∧ staged.now < 7 + 1000000 := by decide +kernel

/-- Manager 9 holds the SPDM connection at stage `k`. -/
def spdmAt (k : Nat) (x : Option Signing) : State :=
  { holding ready [(R.MGT_MANAGER_EID, 0, 9), (R.MGT_SPDM_REQUESTER, 0, 9)] with
    ump := { ({} : Umpires) with spdm := k, signing := x, certOk := true } }

theorem witness_SidebandServicesAnswer : umpiresUp ready = true ∧ ready.side.setSeen = false ∧ rd ready R.MGT_MANAGER_EID = 0 ∧
    umpiresServe (holding ready [(R.MGT_UMPIRE_STATE, 0, 1)]) = false ∧ mgmtUp (holding ready [(R.MGT_UMPIRE_STATE, 0, 1)]) = true ∧
    masterOf (spdmAt 0 none) (.sideband 9) ≠ 0 ∧ (spdmAt 0 none).ump.signing = none ∧ umpiresUp (spdmAt 0 none) = true ∧
    SpdmAt (spdmAt 1 none) 9 1 ∧ SpdmAt (spdmAt 2 none) 9 2 ∧ SpdmAt (spdmAt 3 none) 9 3 ∧ (spdmAt 3 none).ump.certOk = true ∧
    (spdmAt 3 (some (.measurements 9 0xFF 5))).ump.signing = some (.measurements 9 0xFF 5) := by unfold SpdmAt; decide +kernel

/-! Witnesses: mailboxes, umpires, images. -/

/-- Channel 63: umpire 0x30 sends to umpire 0x31, in mode `mode`; its mailbox is `b`. Channel 62 carries the other way. -/
def mailing (mode : Nat) (b : Mbx) : State :=
  { holding ready [(R.MGT_MBX_BIND, 63, 0x3031), (R.MGT_MBX_BIND, 62, 0x3130), (R.MGT_MBX_MODE, 63, mode)] with
    mbx := [(62, { ({} : Mbx) with full := true, late := true }), (63, b)] }
def lockedBy (m : Nat) (full : Bool) : Mbx := { ({} : Mbx) with lock := m, full := full, word := 5 }
def from31 (v : Nat) : Access := ⟨.umpire 0x31, 9, v⟩

theorem witness_MailboxesCarryWords : Permitted (mailing 0 {}) (from31 5) (0xA100 + 63) 1 ∧ maySend (mailing 0 {}) 63 0x31 = false ∧
    Permitted (mailing 1 (lockedBy 0x20 false)) (write 5) (0xA100 + 63) 1 ∧ maySend (mailing 1 (lockedBy 0x20 false)) 63 0x30 = true ∧
    rdi (mailing 1 (lockedBy 0x20 false)) R.MGT_MBX_MODE 63 ≠ 0 ∧ (mbxOf (mailing 1 (lockedBy 0x20 false)) 63).lock ≠ 0x30 ∧
    Permitted (mailing 1 (lockedBy 0x30 true)) (write 5) (0xA100 + 63) 1 ∧ (mbxOf (mailing 1 (lockedBy 0x30 true)) 63).full = true ∧
    (mbxOf (mailing 1 (lockedBy 0x30 false)) 63).lock = 0x30 ∧ Permitted (mailing 1 (lockedBy 0x30 false)) (write 5) (0xA100 + 63) 1 ∧
    Permitted (mailing 0 (lockedBy 0 true)) (write 5) (0xA100 + 63) 1 ∧ maySend (mailing 0 (lockedBy 0 true)) 63 0x30 = true ∧
    accessStatus (mailing 0 (lockedBy 0 true)) (.umpire 0x31) false (0xA100 + 63) 1 0 0 0 = 0 ∧
    masterOf (mailing 0 (lockedBy 0 true)) (.umpire 0x31) = mbxReceiver (mailing 0 (lockedBy 0 true)) 63 ∧
    reaches (mailing 0 (lockedBy 0 true)) (.umpire 0x31) = true ∧
    accessStatus (mailing 0 {}) (.umpire 0x31) false (0xA100 + 63) 1 0 0 0 = 0 ∧ (mbxOf (mailing 0 {}) 63).full = false := by
  unfold Permitted; decide +kernel
theorem witness_MailboxesCarryWords_locks : accessStatus (mailing 1 {}) (.umpire 0x30) false (0xA100 + 63) 4 0 0 0 = 0 ∧
    maySend (mailing 1 {}) 63 0x30 = true ∧ (mbxOf (mailing 1 {}) 63).lock = 0 ∧
    accessStatus (mailing 1 (lockedBy 0x20 true)) (.umpire 0x30) false (0xA100 + 63) 4 0 0 0 = 0 ∧
    Permitted (mailing 1 (lockedBy 0x30 true)) (write 0) (0xA100 + 63) 4 ∧ Permitted (mailing 1 (lockedBy 0x20 true)) (write 0) (0xA100 + 63) 4 ∧
    Permitted ready (write 0x3031) (0xA100 + 63) 0 ∧ isIdentity (0x3031 % 256) = true ∧ isIdentity (0x3031 / 256) = true ∧
    (mbxOf ready 63).full = false ∧ (mbxOf (mailing 0 (lockedBy 0 true)) 63).full = true ∧
    Permitted (mailing 0 (lockedBy 0 true)) (write 0x3031) (0xA100 + 63) 0 ∧ Permitted ready (write 0x3011) (0xA100 + 63) 0 ∧
    isIdentity (0x3011 % 256) = false ∧ Permitted ready (write 1) 0xA140 0 ∧ Permitted ready (write 1) 0xA143 0x30 ∧ isIdentity 0x30 = true ∧
    (mbxPairs (mailing 0 (lockedBy 0 true)) 63).contains 62 = true ∧ (mbxOf (mailing 0 (lockedBy 0 true)) 62).late = true ∧
    (mbxOf (mailing 0 (lockedBy 0 true)) 63).late = false ∧
    (late (mailing 0 (lockedBy 0 true))).time.run = true ∧ mgmtUp (late (mailing 0 (lockedBy 0 true))) = true ∧
    (mbxOf (late (mailing 0 (lockedBy 0 true))) 63).since + rdi (late (mailing 0 (lockedBy 0 true))) R.MGT_MBX_TIMEOUT 63 * 1000 ≤
      (late (mailing 0 (lockedBy 0 true))).now := by
  unfold Permitted; decide +kernel

/-- Umpires that restarted `n` times within the last second. -/
def restarted (n : Nat) : State := { ready with ump := { ({} : Umpires) with restarts := List.replicate n 0 } }

theorem witness_UmpiresRestart : umpiresUp ready = true ∧ rd ready R.UPG_STATE ≠ 2 ∧
    ((restarted 0).ump.restarts.filter fun t => (restarted 0).now < t + 1000000000).length + 1 < rd (restarted 0) R.MGT_UMPIRE_ESCALATE ∧
    rd (restarted 9) R.MGT_UMPIRE_ESCALATE ≤ ((restarted 9).ump.restarts.filter fun t => (restarted 9).now < t + 1000000000).length + 1 ∧
    (restarted 9).start.commanded = none ∧ (restarted 9).start.phase = .service ∧ diesAsleep (restarted 9) = false ∧ umpiresUp (restarted 9) = true ∧
    Permitted ready (write 1) 0xA200 5 ∧ rd ready R.MGT_UMPIRE_STATE ≠ 2 ∧
    Permitted (holding ready [(R.MGT_UMPIRE_STATE, 0, 2)]) (write 1) 0xA200 5 ∧
    rd (holding ready [(R.MGT_UMPIRE_STATE, 0, 2)]) R.MGT_UMPIRE_STATE = 2 ∧ rd (holding ready [(R.MGT_UMPIRE_STATE, 0, 1), (R.UPG_STATE, 0, 1)]) R.MGT_UMPIRE_STATE = 1 := by
  unfold Permitted; decide +kernel

/-- Slot 0 active with SVN 7, slot 1 in state `st` with SVN 5; UPG_STATE `u`, UPG_LOAD_STATUS `l`. -/
def upgrading (st u l : Nat) : State :=
  holding { ready with ump := { ready.ump with verifying := 1 } } [(R.UPG_IMAGE_STATE, 1, st), (R.UPG_IMAGE_SVN, 0, 7), (R.UPG_IMAGE_SVN, 1, 5), (R.UPG_IMAGE_CAP, 1, 3), (R.UPG_STATE, 0, u),
    (R.UPG_LOAD_STATUS, 0, l), (R.UPG_SVN_FLOOR, 0, 3)]

theorem witness_ImagesAreTriedBeforeTheyStay : inactiveSlot (upgrading 1 2 0) = 1 ∧ rd (upgrading 1 2 0) R.UPG_ACTIVE_SLOT ≤ 1 ∧
    Permitted (upgrading 1 2 0) (write 1) 0xA810 0 ∧ rd (upgrading 1 2 0) R.UPG_STATE = 2 ∧ Permitted (upgrading 1 0 0) (write 1) 0xA810 0 ∧
    rd (upgrading 1 0 0) R.UPG_STATE ≠ 2 ∧ Permitted (upgrading 2 0 0) (write 0) 0xA810 2 ∧ rdi (upgrading 2 0 0) R.UPG_IMAGE_STATE 1 ≠ 1 ∧
    Permitted (upgrading 1 0 0) (write 0) 0xA810 2 ∧ rdi (upgrading 1 0 0) R.UPG_IMAGE_STATE 1 = 1 ∧ Permitted ready (write 1) 0xA810 3 ∧
    rd (upgrading 1 0 2) R.UPG_LOAD_STATUS = 2 ∧ (upgrading 1 0 2).ump.verifying = 1 ∧ imageCheck (upgrading 1 0 2) 1 ⟨true, false⟩ ≠ 0 ∧ imageCheck (upgrading 1 0 2) 1 ⟨true, true⟩ = 0 ∧
    mgmtUp (upgrading 1 0 2) = true ∧ Permitted (upgrading 4 0 0) (write 1) 0xA811 0 ∧ activateStatus (upgrading 4 0 0) ≠ 0 ∧
    activateStatus (upgrading 2 0 0) = 0 ∧ Permitted (upgrading 2 0 0) (write 1) 0xA811 0 := by
  unfold Permitted; decide +kernel
theorem witness_ImagesAreTriedBeforeTheyStay_period : trialLeft (upgrading 2 2 0) ≠ 0 ∧ mgmtUp (upgrading 2 2 0) = true ∧
    rd (upgrading 2 2 0) R.UPG_STATE = 2 ∧
    trialLeft (late (upgrading 2 2 0)) = 0 ∧ mgmtUp (late (upgrading 2 2 0)) = true ∧ rd (late (upgrading 2 2 0)) R.UPG_STATE = 2 := by
  decide +kernel
theorem witness_ImagesAreTriedBeforeTheyStay_trial : Permitted (upgrading 2 2 0) (write 1) 0xA811 1 ∧ Permitted (upgrading 2 0 0) (write 1) 0xA811 1 ∧
    Permitted (upgrading 2 2 0) (write 1) 0xA811 2 ∧ Permitted (upgrading 4 0 0) (write 1) 0xA811 2 ∧
    activateStatus (upgrading 4 0 0) ≠ 0 ∧ Permitted (upgrading 2 0 0) (write 1) 0xA811 2 ∧ activateStatus (upgrading 2 0 0) = 0 ∧ mgmtUp (upgrading 2 2 0) = true ∧ Permitted (upgrading 2 0 0) (write 2) 0xA800 4 ∧
    (write 2).value < rd (upgrading 2 0 0) R.UPG_SVN_FLOOR ∧ rdi (upgrading 2 0 0) R.UPG_IMAGE_SVN (1 - 1) < (write 8).value ∧
    Permitted (upgrading 2 0 0) (write 8) 0xA800 4 ∧ Permitted (upgrading 2 0 0) (write 7) 0xA800 4 ∧
    rd (upgrading 2 0 0) R.UPG_SVN_FLOOR ≤ (write 7).value ∧ (write 7).value ≤ rdi (upgrading 2 0 0) R.UPG_IMAGE_SVN (1 - 1) ∧
    rdi (upgrading 2 0 0) R.UPG_IMAGE_SVN 1 < (write 7).value := by
  unfold Permitted; decide +kernel

/-! Witnesses: events, resets, observation and the whole machine. -/

/-- Group 15's status is `v`, its enable `e`, in the fault state with its quiet timer running where said. -/
def grouped (v e : Nat) (fault : Bool) : State :=
  { holding ready [(R.FLT_GRP_ENABLE, 15, e)] with
    ev := { ({} : Events) with status := [(15, v)], fault := if fault then 2 ^ 15 else 0, quiet := if fault then 2 ^ 15 else 0 } }

theorem witness_EventGroupsLatchAndRecover : Permitted (grouped 1 1 true) (write 1) (0xB000 + 15) 0 ∧ Permitted (grouped 1 0 false) (write 1) (0xB000 + 15) 1 ∧
    Permitted ready (write 1) (0xB000 + 15) 2 ∧ Permitted ready (write 1) (0xB000 + 15) 6 ∧ Permitted ready (write 1) (0xB000 + 15) 9 ∧
    (∃ s, s = { grouped 1 1 true with time := { ready.time with beats := 10 ^ 15 } } ∧ bitOf s.ev.fault 15 = true ∧
      bitOf s.ev.quiet 15 = true ∧ s.time.run = true ∧ tget s.ev.quietFrom 15 0 + rdi s R.FLT_GRP_QUIET 15 * 1000000 ≤ elapsedNs s) ∧
    (∃ s, s = holding (grouped 1 1 true) [(R.FLT_GRP_QUIET, 15, 5)] ∧
      elapsedNs s < tget s.ev.quietFrom 15 0 + rdi s R.FLT_GRP_QUIET 15 * 1000000) ∧
    bitOf (grouped 1 1 false).ev.fault 15 = false ∧ mgmtUp (grouped 1 1 false) = true ∧
    grpStatus (grouped 1 0 false) 15 &&& (1 &&& definedMask 15) = definedMask 15 &&& 2 ^ 0 ∧ bitOf (grpEnable (grouped 1 0 false) 15) 0 = false ∧
    bitOf (grpFirst (grouped 1 0 false) 15) 31 = false := by
  unfold Permitted; refine ⟨?_, ?_, ?_, ?_, ?_, ⟨_, rfl, ?_⟩, ⟨_, rfl, ?_⟩, ?_, ?_, ?_, ?_, ?_⟩ <;> decide +kernel
/-- Group 3 waits to send to port 7. -/
def eventDue : State :=
  { holding linked [(R.FLT_GRP_ROUTE, 3, 0x80)] with ev := { ({} : Events) with waiting := [(3 * 16 + 7, true)] } }
theorem witness_EventGroupsLatchAndRecover_sends : mgmtUp eventDue = true ∧ (destinations eventDue 3).contains 7 = true ∧
    tget eventDue.ev.waiting (3 * 16 + 7) false = true ∧ tget eventDue.ev.pace (3 * 16 + 7) 0 ≤ eventDue.now := by decide +kernel

/-- A commanded reset under way with every channel as said. -/
def commanded (confirmed : Bool) : State :=
  { serving with
    start := { serving.start with commanded := some 2 }
    chans := (nums 0 32).map fun c => (c, { ({} : Chan) with selfRef := confirmed, sreConfirmed := confirmed }) }
/-- Every channel in self-refresh past E4. -/
def resting : State :=
  { serving with
    sleep := { ({} : Sleep) with pastE4 := true }
    chans := (nums 0 32).map fun c => (c, { ({} : Chan) with selfRef := true, sreConfirmed := true }) }
def resetting (r : FunReset) : State := { linked with funs := [(15, r)] }
/-- The same with no request or agent of the function left. -/
def settled : State := { resetting ⟨0, false, true, 0⟩ with agents := [] }

theorem witness_CommandedAndFunctionResets : Permitted serving (write 1) 0xB400 0 ∧ serving.start.commanded = none ∧ serving.start.phase = .service ∧
    diesAsleep serving = false ∧ Permitted resting (write 1) 0xB400 0 ∧ diesAsleep resting = true ∧ resting.start.commanded = none ∧
    (commanded true).start.commanded = some 2 ∧
    ((nums 0 (nChannels (commanded true))).all fun c => (chanOf (commanded true) c).selfRef && (chanOf (commanded true) c).sreConfirmed) = true ∧
    31 < nChannels (commanded false) ∧ rdi (commanded false) R.CDI_CHANNEL_STATE 31 ≠ 1 ∧ (chanOf (commanded false) 31).selfRef = false ∧
    Permitted linked (write 1) (0xE000 + 15) 0 ∧ tget? linked.funs 15 = none ∧ Permitted (resetting ⟨0, false, true, 0⟩) (write 1) (0xE000 + 15) 0 ∧
    tget? (late (resetting ⟨0, true, true, 7⟩)).funs 15 = some ⟨0, true, true, 7⟩ ∧
    7 + rdi (resetting ⟨0, true, true, 7⟩) R.FUN_RESET_DRAIN_LIMIT 15 * 1000 ≤ (late (resetting ⟨0, true, true, 7⟩)).now ∧ inReset settled 15 = true ∧ funSettled settled 15 = true ∧
    settled.time.run = true := by
  unfold Permitted; decide +kernel
theorem witness_CommandedAndFunctionResets_ledger : inReset linked 15 = false ∧ Permitted linked (write 1) (0xE000 + 15) 10 ∧
    ledgerBusy linked 15 = false ∧ ledgerBusy { linked with flights := [(0, { request with dropRsp := true })] } 15 = true ∧
    Permitted (resetting ⟨0, false, true, 0⟩) (write 1) (0xE000 + 15) 10 := by
  unfold Permitted; decide +kernel

/-- Unit 50's counters 0 to 7 are on, each chained to the one before. -/
def counting : State :=
  forEach (nums 0 8) { ready with obs := { ({} : Obs) with counts := [(50 * 16 + 6, 2 ^ 48 - 1)] } } fun s k => put s (keyOf (0xC000 + 50) (9 + k)) 0 (3 * 2 ^ 30)
/-- Captures and the trace: a global command `v` due at `t` ns, the trace on where said. -/
def capturing (v t : Nat) : State :=
  { holding ready [(R.OBS_GLOBAL_TIME, 0, t)] with obs := { ({} : Obs) with pendingCmd := some v } }
def tracingOn (o : Obs) (lead : Nat) (clk : Bool) : State :=
  { holding ready [(R.OBS_TRACE_ENABLE, 0, 1), (R.OBS_TRACE_SOURCES, 0, 7), (R.OBS_TRACE_DUMP_PERIOD, 0, 5)] with
    now := 1000000000, obs := { o with lead := lead }, pins := { ready.pins with trcClk := clk }
    time := { ready.time with t := 1000000000 * 64000000000 } }
def frozenObs : State := { ready with obs := { ({} : Obs) with frozen := true } }
def faultyObs : State := { ready with obs := { ({} : Obs) with faulty := true } }

theorem witness_CountersCaptureAndTrace : unitAbsent16 50 = false ∧ bitOf (obsCtrl counting 50 6) 31 = true ∧ counting.obs.frozen = false ∧
    mgmtUp counting = true ∧ obsVal counting 50 6 < 2 ^ 48 ∧ bitOf (obsCtrl counting 50 (6 + 1)) 30 = true ∧ obsVal counting 50 (6 + 1) + 1 < 2 ^ 48 ∧
    frozenObs.obs.frozen = true ∧ Permitted ready (write 4) 0xC800 0 ∧ ready.obs.pendingCmd = none ∧ (capturing 4 0).obs.pendingCmd = some 4 ∧
    Permitted (capturing 4 0) (write 4) 0xC800 0 ∧ poolNs (capturing 1 1) < rd (capturing 1 1) R.OBS_GLOBAL_TIME ∧
    rd (capturing 1 0) R.OBS_GLOBAL_TIME ≤ poolNs (capturing 1 0) ∧ (capturing 1 0).time.run = true ∧ Permitted ready (write 1) (0xC000 + 50) 18 ∧ Permitted faultyObs (write 1) 0xC900 11 ∧
    Permitted ready (write 1) 0xC900 11 ∧ Permitted faultyObs (write 1) 0xCA00 0 ∧ Permitted ready (write 1) 0xCA00 0 ∧
    rd ready R.OBS_TRACE_ENABLE ≠ (write 1).value := by
  unfold Permitted; decide +kernel
theorem witness_CountersCaptureAndTrace_port : tracing (tracingOn {} 0 true) = true ∧ mgmtUp (tracingOn {} 0 true) = true ∧
    bitOf (rd (tracingOn {} 0 true) R.OBS_TRACE_SOURCES) 2 = true ∧ rd (tracingOn {} 0 true) R.OBS_TRACE_DUMP_PERIOD ≠ 0 ∧
    (tracingOn {} 0 true).obs.dropped = 0 ∧ traceWords (tracingOn {} 0 true) + 3 ≤ 2048 ∧
    (tracingOn {} 0 true).obs.lastSync + 1000000000 ≤ poolNs (tracingOn {} 0 true) ∧ (tracingOn {} 0 true).pins.trcClk = true ∧
    (tracingOn { ({} : Obs) with sending := [7] } 0 true).obs.sending = [7] ∧ (tracingOn {} 1 true).obs.lead = 1 ∧
    (tracingOn { ({} : Obs) with fifo := [[7, 8]] } 0 true).obs.fifo = [7, 8] :: [] ∧
    (tracingOn { ({} : Obs) with fifo := [[7, 8]] } 0 true).obs.lead = 0 ∧
    (tracingOn {} 0 true).obs.sending = [] ∧ (tracingOn {} 0 true).obs.fifo = [] ∧
    (tracingOn {} 0 true).obs.dumpAt + rd (tracingOn {} 0 true) R.OBS_TRACE_DUMP_PERIOD * 1000 ≤ (tracingOn {} 0 true).now := by decide +kernel

theorem witness_EveryStepKeepsIntact : Intact State.reset := by unfold Intact IntactParts countsOk Fifo.ok; decide +kernel
theorem witness_StepsTakeTheFrontOfTheQueue : State.reset.pending = [] ∧ State.reset.time.run = false := by decide +kernel
theorem witness_RefusedAccessesChangeNothing : accessRow (.mgtDictLock (write 0)) = some (write 0, 0xA001, 0) ∧ reaches ready (write 0).src = true ∧
    accessStatus ready (write 0).src true 0xA001 0 (write 0).value 0 0 ≠ 0 ∧ (entriesOf 0xEFFF).all (fun e => !(e.index ≤ 0xEFFF && 0xEFFF < e.index + e.indices)) = true ∧
    reaches ready (dict 0xFFFF 0 0).src = true := by decide +kernel
theorem witness_no_entry (b : Nat) : findEntry 0xEFFF b = none := by
  rw [findEntry, List.find?_eq_none]; intro e he
  have := List.all_eq_true.mp witness_RefusedAccessesChangeNothing.2.2.2.1 e he
  revert this; cases decide (e.index ≤ 0xEFFF) <;> cases decide (0xEFFF < e.index + e.indices) <;> simp

/-! Well-formedness: one that breaks any one check is refused, and a command of every form with a check is taken. -/

def unsent : Access := ⟨.umpire 0x32, 1, 1⟩
theorem test_illformed_records : ([⟨.inband 8 0, 0, 0⟩, ⟨.inband 0 16, 0, 0⟩, ⟨.sideband 256, 0, 0⟩, ⟨.umpire 0x2F, 0, 0⟩, ⟨.umpire 0x30, 256, 0⟩,
      ⟨.umpire 0x30, 0, 2 ^ 64⟩] : List Access).all (!·.wf) = true ∧
    ([⟨.umpire 1, 0, 0, 0, 0, 0, 0, []⟩, ⟨.umpire 0x30, 256, 0, 0, 0, 0, 0, []⟩, ⟨.umpire 0x30, 0, 65536, 0, 0, 0, 0, []⟩,
      ⟨.umpire 0x30, 0, 0, 256, 0, 0, 0, []⟩, ⟨.umpire 0x30, 0, 0, 0, 256, 0, 0, []⟩, ⟨.umpire 0x30, 0, 0, 0, 0, 16, 0, []⟩,
      ⟨.umpire 0x30, 0, 0, 0, 0, 0, 2 ^ 64, []⟩, ⟨.umpire 0x30, 0, 0, 0, 0, 0, 0, [256]⟩] : List DictMsg).all (!·.wf) = true ∧
    ([⟨8, 0, 0, 0, 0, 0⟩, ⟨0, 16, 0, 0, 0, 0⟩, ⟨0, 0, 16384, 0, 0, 0⟩, ⟨0, 0, 0, 4096, 0, 0⟩, ⟨0, 0, 0, 0, 65536, 0⟩, ⟨0, 0, 0, 0, 0, 2 ^ 46⟩] :
      List ReqHdr).all (!·.wf) = true ∧
    ([⟨8, 0, 0⟩, ⟨0, 4096, 0⟩, ⟨0, 0, 65536⟩] : List SnoopRsp).all (!·.wf) = true ∧
    ([⟨16, true, 0, 0, 0⟩, ⟨0, true, 64, 0, 0⟩] : List AtomSpec).all (!·.wf) = true ∧
    ([⟨true, true, 2 ^ 32, 0, 0, []⟩, ⟨true, true, 0, 0, 0, [(0xFF, 1)]⟩, ⟨true, true, 0, 0, 0, [(0x800, 1)]⟩,
      ⟨true, true, 0, 0, 0, [(0x100, 2 ^ 32)]⟩] : List FuseImage).all (!·.wf) = true := by decide +kernel
theorem test_illformed_1 : ([
    .fuseLoadDone ⟨true, true, 2 ^ 32, 0, 0, []⟩, .fuseProgramDone 4294967296, .pwrAck 2 true, .pwrAckTimeout 2, .pllLockLoss 32,
    .avsMarginLow 256, .avsMarginHighHold 256, .dieCattripRise 16 0, .tsyncEdge 8 0 0 0, .dynamicAddressAssign 128,
    .plProtocolVld 8 ⟨0, 0, true, true, 32, 64⟩, .fdiActive 8, .retrainEntry 8, .retrainExit 8, .retrainLimitExpiry 8, .linkResetDone 8,
    .adapterLinkerror 8, .l1Reached 8, .plStallreq 8, .plClkReq 8, .plRxActiveReq 8, .plError 8, .plNferror 8, .plCerror 8,
    .plPhyinrecenter 8, .lnkPortEnable unsent, .flitReceive 8 0, .nakReceive 8 0, .nakReceive 0 1024, .nakRepeat 8, .idleFlitSend 8,
    .negOffer 8 0 [], .negTimeout 8, .agentJoin 8 0 0 0 true, .agentJoin 0 4096 0 0 true, .agentJoin 0 0 16 0 true,
    .agentJoin 0 0 0 16 true, .agentLeave 8 0, .agentLeave 0 4096, .agentLeaveWalkDone 4096 .ok 0, .agentLeaveWalkDone 0 .ok (2 ^ 46),
    .rd { header with port := 8 }, .rdShared { header with port := 8 }, .rdOwn { header with port := 8 },
    .upgrade { header with port := 8 }, .wrFull { header with port := 8 } 0, .wrPart { header with port := 8 } 0 0,
    .wbDirty { header with port := 8 } 0] : List Instr).all (!·.wf) = true := by decide +kernel
theorem test_illformed_2 : ([
    .wrHint { header with port := 8 } 0 0, .wrHint header 4096 0, .atom { header with port := 8 } ⟨15, true, 63, 0, 0⟩,
    .atom header ⟨16, true, 0, 0, 0⟩, .unsupportedOpcode { header with port := 8 } 0, .unsupportedOpcode header 64, .cmpAck 8 0 [],
    .cmpAck 0 16 [], .rspNotPresent { rsp 0 with port := 8 }, .rspInvClean { rsp 0 with port := 8 }, .rspShared { rsp 0 with port := 8 },
    .rspDirty { rsp 0 with port := 8 } 0, .rspWbInFlight { rsp 0 with port := 8 }, .hintAccept { rsp 0 with port := 8 },
    .hintDecline { rsp 0 with port := 8 }, .dictRd { dict 1 0 0 with mtag := 256 }, .dictWr { dict 1 0 0 with mtag := 256 },
    .blobStagingTimeout 256, .pwrCmdA0 (.umpire 0x32) 0 0, .pwrCmdA0 (.umpire 0x30) 256 0, .pwrCmdA0 (.umpire 0x30) 0 256,
    .pwrCmdS1 (.umpire 0x32) 0 0, .pwrCmdS1 (.umpire 0x30) 256 0, .pwrCmdS1 (.umpire 0x30) 0 256, .pwrCmdS2 (.umpire 0x32) 0 0,
    .pwrCmdS2 (.umpire 0x30) 256 0, .pwrCmdS2 (.umpire 0x30) 0 256, .pwrCmdGroupS1 (.umpire 0x32) 0 0,
    .pwrCmdGroupS1 (.umpire 0x30) 256 0, .pwrCmdGroupS1 (.umpire 0x30) 0 256, .timeNext 8 0, .timeNext 0 (2 ^ 64), .sbTimeValue 256 0,
    .sbTimeValue 0 (2 ^ 64), .eventMessageSend 16, .responseSend 8 .good, .dispatch 8 .good, .leafReclaim 262144, .gateEntryStart 8,
    .gateGuardStart 8, .treGateSwitch unsent 0, .treGateSwitch (write 1) 8, .gateSwitchApply 8, .treGateSwitchCancel unsent 0,
    .treGateSwitchCancel (write 1) 8, .treLeafCreate unsent, .treLeafBucketReset unsent, .treBranchBucketReset unsent] : List Instr).all (!·.wf) = true := by decide +kernel
theorem test_illformed_3 : ([
    .treTrunkBucketReset unsent 0, .treTrunkBucketReset (write 1) 8, .treLeafClear unsent, .treLeafCir unsent, .treLeafOlMax unsent,
    .treLeafBranch unsent, .treBranchCtrl unsent, .treBranchMin unsent, .treBranchMax unsent, .treTrunkMax unsent 0,
    .treTrunkMax (write 1) 8, .transactionActivate 8192 .ok, .possessionWindowEnd (2 ^ 46) 0, .possessionWindowEnd 0 4096,
    .snoopTimeout 8192 0, .snoopTimeout 0 4096, .wbPairingTimeout 8192 0, .wbPairingTimeout 0 4096, .ackTimeout 8192,
    .responseTimeout false 8192, .cellFallComplete 16 .ok 0, .cellFallComplete 0 .ok (2 ^ 46), .homCellTakeDown unsent 0,
    .homCellTakeDown (write 1) 16, .homCellTakeDown (write 9) 0, .homCellRestart unsent 0, .homCellRestart (write 2) 16,
    .homCellRestart (write 9) 0, .homFunCoherent unsent, .homFilterProbeAddr unsent .ok, .homCellEpochArm unsent 0,
    .homCellEpochArm (write 1) 16, .homCellEpochArm (write 9) 0, .homCellEpochCancel unsent 0, .homCellEpochCancel (write 2) 16,
    .homCellEpochCancel (write 9) 0, .epochSwitch 16, .mapCommit unsent, .mapCommitCancel unsent, .mapXlateAddr unsent,
    .mapXlateSlot unsent, .engineReadEnqueue 8192 .good, .engineWritePlace 8192 .good, .mergeTimeout 64 0, .requestAged 64 0,
    .act 64 0 0 0 0 [], .act 0 4 0 0 0 [], .act 0 0 32 0 0 []] : List Instr).all (!·.wf) = true := by decide +kernel
theorem test_illformed_4 : ([
    .act 0 0 0 16384 0 [], .act 0 0 0 0 0 [(4, 0)], .pre 64 0 0 0 0 [], .pre 0 4 0 0 0 [], .pre 0 0 32 0 0 [], .pre 0 0 0 2 0 [],
    .pre 0 0 0 0 0 [(4, 0)], .columnRd 64 0 0 ⟨[], []⟩ [], .columnRd 0 0 0 ⟨[], []⟩ [(4, 0)], .wr 64 0 0 [], .wr 0 0 0 [(4, 0)],
    .refpb 64 0 0 0 0 0 [], .refpb 0 4 0 0 0 0 [], .refpb 0 0 32 0 0 0 [], .refpb 0 0 0 2 0 0 [], .refpb 0 0 0 0 512 0 [],
    .refpb 0 0 0 0 0 0 [(4, 0)], .reft 64 0 0 0 0 [], .reft 0 4 0 0 0 [], .reft 0 0 32 0 0 [], .reft 0 0 0 2 0 [],
    .reft 0 0 0 0 0 [(4, 0)], .refab 64 0 0 [], .refab 0 4 0 [], .refab 0 0 0 [(4, 0)], .prea 64 0 0 [], .prea 0 4 0 [],
    .prea 0 0 0 [(4, 0)], .mrw 32 0 0 0 0 [], .mrw 0 4 0 0 0 [], .mrw 0 0 32 0 0 [], .mrw 0 0 0 256 0 [], .mrw 0 0 0 0 0 [(4, 0)],
    .mrr 32 0 0 0 [], .mrr 0 4 0 0 [], .mrr 0 0 32 0 [], .mrr 0 0 0 0 [(4, 0)], .mrrResult 32 0 0 0 0, .mrrResult 0 4 0 0 0,
    .mrrResult 0 0 32 0 0, .mrrResult 0 0 0 256 0, .sre 32 0 [], .sre 0 0 [(4, 0)], .sreConfirmed 32, .srx 32 0 [], .srx 0 0 [(4, 0)],
    .wrFifo 64 0 0 0 0 [], .wrFifo 0 4 0 0 0 []] : List Instr).all (!·.wf) = true := by decide +kernel
theorem test_illformed_5 : ([
    .wrFifo 0 0 8 0 0 [], .wrFifo 0 0 0 0 0 [(4, 0)], .rdFifo 64 0 0 0 [], .rdFifo 0 4 0 0 [], .rdFifo 0 0 8 0 [],
    .rdFifo 0 0 0 0 [(4, 0)], .rdCal 64 0 0 0 [], .rdCal 0 4 0 0 [], .rdCal 0 0 4 0 [], .rdCal 0 0 0 0 [(4, 0)], .wckSync 64 0 0 [],
    .wckSync 0 4 0 [], .wckSync 0 0 0 [(4, 0)], .softRepair 32 0 0 [], .softRepair 0 4 0 [], .softRepair 0 0 0 [(4, 0)],
    .hardRepair 32 0 0 [], .hardRepair 0 4 0 [], .hardRepair 0 0 0 [(4, 0)], .writeBurstEnd 64 0, .readDecode 64 0 0 .good,
    .qualTestStart 64 0 0 [], .qualTestStart 0 4 0 [], .qualTestStart 0 0 32 [], .qualTestDone 64 0 0, .qualTestDone 0 4 0,
    .qualTestDone 0 0 32, .engQualEnable unsent, .engBankClassCap unsent 0 0, .engBankClassCap (write 1) 32 0,
    .engBankClassCap (write 1) 0 256, .preambleGapRequest 64 0, .preambleGapRequest 0 4, .periodicRetrain 64,
    .retrainComplete 64 ⟨[], []⟩, .statusPoll 32 0 0 [], .statusPoll 0 4 0 [], .statusPoll 0 0 0 [(4, 0)], .commandErrorRecovery 32,
    .commandBusRetrain 32 [] [], .cdiMrRead unsent, .cdiMrReadDone 256, .refreshStepStart 128, .refreshRelease 64 0 0 0,
    .refreshRelease 0 4 0 0, .refreshRelease 0 0 32 0, .refreshRelease 0 0 0 2, .refreshUrgent 64 0 0 0] : List Instr).all (!·.wf) = true := by decide +kernel
theorem test_illformed_6 : ([
    .refreshUrgent 0 4 0 0, .refreshUrgent 0 0 32 0, .refreshUrgent 0 0 0 2, .sliceTempPoll 128, .sliceTempReading 128 0 true,
    .scaleFall 128, .allowanceRise 32, .rfhBinReset unsent, .rfhBinMax unsent, .rfhProfEnable unsent, .profilerWalkStart 64,
    .groupPark 64 0, .groupPark 0 131072, .retentionHoldEnd 64 0 true, .retentionHoldEnd 0 131072 true, .retentionTestResult 64 0,
    .retentionTestResult 0 131072, .scrubRowStart 64, .suspectScrubRow 64, .intRetireRow unsent, .intRetireBank unsent,
    .repairPrepared 64, .repairSwitch 64, .repairDone 64, .testWriteEncoded unsent, .testWriteEncoded (write 9), .testWriteRaw unsent,
    .testWriteRaw (write 9), .testReadRaw unsent, .testReadRaw (write 9), .testReadDecoded unsent, .testReadDecoded (write 9),
    .s1Exit 256, .islandIdleGate 42, .mgtDictLock unsent, .mgtPersistErase unsent, .mgtDescribe unsent, .mgtDescriptorDone 256,
    .inboundFrame [256] .none, .setEndpointId 256 0, .setEndpointId 0 256, .getEndpointId 256, .getMctpVersionSupport 256 0,
    .getMctpVersionSupport 0 256, .getMessageTypeSupport 256, .getVendorDefinedMessageSupport 256 0,
    .getVendorDefinedMessageSupport 0 256, .unsupportedMctpCommand 256 0] : List Instr).all (!·.wf) = true := by decide +kernel
theorem test_illformed_7 : ([
    .unsupportedMctpCommand 0 256, .getVersion 256, .getCapabilities 256, .negotiateAlgorithms 256 true, .getDigests 256,
    .getCertificate 256 0 0 0, .getCertificate 0 256 0 0, .getCertificate 0 0 65536 0, .getCertificate 0 0 0 65536, .challenge 256 0 0 0,
    .challenge 0 256 0 0, .challenge 0 0 256 0, .challenge 0 0 0 (2 ^ 256), .getMeasurements 256 0 true 0, .getMeasurements 0 256 true 0,
    .getMeasurements 0 0 true (2 ^ 256), .unsupportedSpdmRequest 256 0, .unsupportedSpdmRequest 0 256, .sbFlushTelemetry unsent,
    .sbFlushTelemetry (write 9), .sbFlushControl unsent, .sbFlushControl (write 9), .sbFlushBoth unsent, .sbFlushBoth (write 9),
    .mgtMbxPost (.umpire 0x32) 0 0 0, .mgtMbxPost (.umpire 0x30) 256 0 0, .mgtMbxPost (.umpire 0x30) 0 64 0,
    .mgtMbxPost (.umpire 0x30) 0 0 (2 ^ 64), .mgtMbxTake (.umpire 0x32) 0 0, .mgtMbxTake (.umpire 0x30) 256 0,
    .mgtMbxTake (.umpire 0x30) 0 64, .mgtMbxLockAcquire (.umpire 0x32) 0 0, .mgtMbxLockAcquire (.umpire 0x30) 256 0,
    .mgtMbxLockAcquire (.umpire 0x30) 0 64, .mgtMbxLockRelease (.umpire 0x32) 0 0 0, .mgtMbxLockRelease (.umpire 0x30) 256 0 0,
    .mgtMbxLockRelease (.umpire 0x30) 0 64 0, .mgtMbxLockRelease (.umpire 0x30) 0 0 (2 ^ 64), .mgtMbxBind unsent 0,
    .mgtMbxBind (write 1) 64, .mgtMbxTableLock unsent, .mgtMasterSleep unsent 0, .mgtMasterSleep (write 1) 256, .mbxTimeout 64,
    .mgtUmpireRestart unsent, .upgLoadBegin unsent, .upgLoadData unsent 0, .upgVerify unsent] : List Instr).all (!·.wf) = true := by decide +kernel
theorem test_illformed_8 : ([
    .upgActivate unsent, .upgCommit unsent, .upgRollback unsent, .upgSvnFloor unsent, .fltGrpStatus unsent 0, .fltGrpStatus (write 1) 16,
    .fltGrpEnable unsent 0, .fltGrpEnable (write 1) 16, .fltGrpForce unsent 0, .fltGrpForce (write 1) 16, .fltGrpLatchClear unsent 0,
    .fltGrpLatchClear (write 1) 16, .fltGrpQuiet unsent 0, .fltGrpQuiet (write 1) 16, .quietTimerExpiry 16, .inputStuck 18,
    .inputReleaseCheck 18 true, .fltBlockReset unsent, .fltLinkReset unsent, .funReset unsent 0, .funReset (write 1) 16,
    .funResetDrainLimitExpiry 16, .funResetComplete 16, .funLedgerClear unsent 0, .funLedgerClear (write 1) 16, .counterOverflow 52 0,
    .counterOverflow 0 9, .obsFreeze unsent, .obsFreeze (write 9), .obsUnfreeze unsent, .obsUnfreeze (write 9), .obsSnapshot unsent,
    .obsSnapshot (write 9), .obsClear unsent, .obsClear (write 9), .obsUnitClear unsent 0, .obsUnitClear (write 1) 52,
    .obsRingClear unsent, .obsTraceEnable unsent, .blkXingParityClear unsent, .lnkCountersClear unsent, .homCountersClear unsent,
    .engCountersClear unsent, .cdiCountersClear unsent, .rfhCountersClear unsent, .intCountersClear unsent, .slpCountersClear unsent,
    .mgtCountersClear unsent] : List Instr).all (!·.wf) = true := by decide +kernel
theorem test_illformed_9 : ([
    .fltCountersClear unsent, .obsStatsClear unsent, .dieCattripFall 16, .plInbandPres 8, .portL1Exit 8, .plStallreqRelease 8] : List Instr).all (!·.wf) = true := by decide +kernel
theorem test_wellformed_1 : ([
    .fuseLoadDone ⟨true, true, 0, 0, 0, []⟩, .fuseProgramDone 0, .pwrAck 0 true, .pwrAckTimeout 0, .pllLockLoss 0, .avsMarginLow 0,
    .avsMarginHighHold 0, .dieCattripRise 0 0, .tsyncEdge 0 0 0 0, .dynamicAddressAssign 0, .plProtocolVld 0 ⟨0, 0, true, true, 32, 64⟩,
    .fdiActive 0, .retrainEntry 0, .retrainExit 0, .retrainLimitExpiry 0, .linkResetDone 0, .adapterLinkerror 0, .l1Reached 0,
    .plStallreq 0, .plClkReq 0, .plRxActiveReq 0, .plError 0, .plNferror 0, .plCerror 0, .plPhyinrecenter 0, .lnkPortEnable (write 1),
    .flitReceive 0 0, .nakReceive 0 0, .nakRepeat 0, .idleFlitSend 0, .negOffer 0 0 [], .negTimeout 0, .agentJoin 0 0 0 0 true,
    .agentLeave 0 0, .agentLeaveWalkDone 0 .ok 0, .rd header, .rdShared header, .rdOwn header, .upgrade header, .wrFull header 0,
    .wrPart header 0 0, .wbDirty header 0, .wrHint header 0 0, .atom header ⟨15, true, 63, 0, 0⟩, .unsupportedOpcode header 0,
    .cmpAck 0 0 [], .rspNotPresent (rsp 0), .rspInvClean (rsp 0)] : List Instr).all (·.wf) = true := by decide +kernel
theorem test_wellformed_2 : ([
    .rspShared (rsp 0), .rspDirty (rsp 0) 0, .rspWbInFlight (rsp 0), .hintAccept (rsp 0), .hintDecline (rsp 0), .dictRd (dict 1 0 0),
    .dictWr (dict 1 0 0), .blobStagingTimeout 0, .pwrCmdA0 (.umpire 0x30) 0 0, .pwrCmdS1 (.umpire 0x30) 0 0,
    .pwrCmdS2 (.umpire 0x30) 0 0, .pwrCmdGroupS1 (.umpire 0x30) 0 0, .timeNext 0 0, .sbTimeValue 0 0, .eventMessageSend 0,
    .responseSend 0 .good, .dispatch 0 .good, .leafReclaim 0, .gateEntryStart 0, .gateGuardStart 0, .treGateSwitch (write 1) 0,
    .gateSwitchApply 0, .treGateSwitchCancel (write 1) 0, .treLeafCreate (write 1), .treLeafBucketReset (write 1),
    .treBranchBucketReset (write 1), .treTrunkBucketReset (write 1) 0, .treLeafClear (write 1), .treLeafCir (write 1),
    .treLeafOlMax (write 1), .treLeafBranch (write 1), .treBranchCtrl (write 1), .treBranchMin (write 1), .treBranchMax (write 1),
    .treTrunkMax (write 1) 0, .transactionActivate 0 .ok, .possessionWindowEnd 0 0, .snoopTimeout 0 0, .wbPairingTimeout 0 0,
    .ackTimeout 0, .responseTimeout false 0, .cellFallComplete 0 .ok 0, .homCellTakeDown (write 1) 0, .homCellRestart (write 2) 0,
    .homFunCoherent (write 1), .homFilterProbeAddr (write 1) .ok, .homCellEpochArm (write 1) 0, .homCellEpochCancel (write 2) 0] : List Instr).all (·.wf) = true := by decide +kernel
theorem test_wellformed_3 : ([
    .epochSwitch 0, .mapCommit (write 1), .mapCommitCancel (write 1), .mapXlateAddr (write 1), .mapXlateSlot (write 1),
    .engineReadEnqueue 0 .good, .engineWritePlace 0 .good, .mergeTimeout 0 0, .requestAged 0 0, .act 0 0 0 0 0 [], .pre 0 0 0 0 0 [],
    .columnRd 0 0 0 ⟨[], []⟩ [], .wr 0 0 0 [], .refpb 0 0 0 0 0 0 [], .reft 0 0 0 0 0 [], .refab 0 0 0 [], .prea 0 0 0 [],
    .mrw 0 0 0 0 0 [], .mrr 0 0 0 0 [], .mrrResult 0 0 0 0 0, .sre 0 0 [], .sreConfirmed 0, .srx 0 0 [], .wrFifo 0 0 0 0 0 [],
    .rdFifo 0 0 0 0 [], .rdCal 0 0 0 0 [], .wckSync 0 0 0 [], .softRepair 0 0 0 [], .hardRepair 0 0 0 [], .writeBurstEnd 0 0,
    .readDecode 0 0 0 .good, .qualTestStart 0 0 0 [], .qualTestDone 0 0 0, .engQualEnable (write 1), .engBankClassCap (write 1) 0 0,
    .preambleGapRequest 0 0, .periodicRetrain 0, .retrainComplete 0 ⟨[], []⟩, .statusPoll 0 0 0 [], .commandErrorRecovery 0,
    .commandBusRetrain 0 [] [], .cdiMrRead (write 1), .cdiMrReadDone 0, .refreshStepStart 0, .refreshRelease 0 0 0 0,
    .refreshUrgent 0 0 0 0, .sliceTempPoll 0, .sliceTempReading 0 0 true] : List Instr).all (·.wf) = true := by decide +kernel
theorem test_wellformed_4 : ([
    .scaleFall 0, .allowanceRise 0, .rfhBinReset (write 1), .rfhBinMax (write 1), .rfhProfEnable (write 1), .profilerWalkStart 0,
    .groupPark 0 0, .retentionHoldEnd 0 0 true, .retentionTestResult 0 0, .scrubRowStart 0, .suspectScrubRow 0, .intRetireRow (write 1),
    .intRetireBank (write 1), .repairPrepared 0, .repairSwitch 0, .repairDone 0, .testWriteEncoded (write 1), .testWriteRaw (write 2),
    .testReadRaw (write 3), .testReadDecoded (write 4), .s1Exit 0, .islandIdleGate 0, .mgtDictLock (write 1), .mgtPersistErase (write 1),
    .mgtDescribe (write 1), .mgtDescriptorDone 0, .inboundFrame [] .none, .setEndpointId 0 0, .getEndpointId 0,
    .getMctpVersionSupport 0 0, .getMessageTypeSupport 0, .getVendorDefinedMessageSupport 0 0, .unsupportedMctpCommand 0 0,
    .getVersion 0, .getCapabilities 0, .negotiateAlgorithms 0 true, .getDigests 0, .getCertificate 0 0 0 0, .challenge 0 0 0 0,
    .getMeasurements 0 0 true 0, .unsupportedSpdmRequest 0 0, .sbFlushTelemetry (write 1), .sbFlushControl (write 2),
    .sbFlushBoth (write 3), .mgtMbxPost (.umpire 0x30) 0 0 0, .mgtMbxTake (.umpire 0x30) 0 0, .mgtMbxLockAcquire (.umpire 0x30) 0 0,
    .mgtMbxLockRelease (.umpire 0x30) 0 0 0] : List Instr).all (·.wf) = true := by decide +kernel
theorem test_wellformed_5 : ([
    .mgtMbxBind (write 1) 0, .mgtMbxTableLock (write 1), .mgtMasterSleep (write 1) 0, .mbxTimeout 0, .mgtUmpireRestart (write 1),
    .upgLoadBegin (write 1), .upgLoadData (write 1) 0, .upgVerify (write 1), .upgActivate (write 1), .upgCommit (write 1),
    .upgRollback (write 1), .upgSvnFloor (write 1), .fltGrpStatus (write 1) 0, .fltGrpEnable (write 1) 0, .fltGrpForce (write 1) 0,
    .fltGrpLatchClear (write 1) 0, .fltGrpQuiet (write 1) 0, .quietTimerExpiry 0, .inputStuck 0, .inputReleaseCheck 0 true,
    .fltBlockReset (write 1), .fltLinkReset (write 1), .funReset (write 1) 0, .funResetDrainLimitExpiry 0, .funResetComplete 0,
    .funLedgerClear (write 1) 0, .counterOverflow 0 0, .obsFreeze (write 1), .obsUnfreeze (write 2), .obsSnapshot (write 3),
    .obsClear (write 4), .obsUnitClear (write 1) 0, .obsRingClear (write 1), .obsTraceEnable (write 1), .blkXingParityClear (write 1),
    .lnkCountersClear (write 1), .homCountersClear (write 1), .engCountersClear (write 1), .cdiCountersClear (write 1),
    .rfhCountersClear (write 1), .intCountersClear (write 1), .slpCountersClear (write 1), .mgtCountersClear (write 1),
    .fltCountersClear (write 1), .obsStatsClear (write 1), .dieCattripFall 0, .plInbandPres 0, .portL1Exit 0] : List Instr).all (·.wf) = true := by decide +kernel
theorem test_wellformed_6 : ([
    .plStallreqRelease 0] : List Instr).all (·.wf) = true := by decide +kernel

/-! Worked figures of the spec. -/

/-- Region 17 of 04's worked example: F5, three ways of 4 KiB, position 1, rows 2,560 to 3,583, under order `o`. -/
def region17 (o : Nat) : State :=
  holding ready [(R.MAP_ACT_POOL_BASE, 17, 0x4000000000000), (R.MAP_ACT_ROW_BASE, 17, 2560), (R.MAP_ACT_ROWS, 17, 1024),
    (R.MAP_ACT_CTRL, 17, 2 ^ 31 + 5 * 2 ^ 24 + 2 * 2 ^ 20 + 4 * 2 ^ 16 + 1 * 2 ^ 10 + o * 2 ^ 8)]

/-- 04 Table MAP-3: the line at 0x4_0000_1234_6680 under each order, and the slot offset of order 0. -/
theorem test_canopy_decode : mapDecode (region17 0) 0x4000012346680 5 = some ⟨29, 2, 3, 0x0A0C, 10⟩ ∧
    mapDecode (region17 1) 0x4000012346680 5 = some ⟨33, 1, 24, 0x0A0C, 10⟩ ∧
    mapDecode (region17 2) 0x4000012346680 5 = some ⟨1, 3, 4, 0x0B90, 10⟩ ∧
    mapDecode (region17 3) 0x4000012346680 5 = some ⟨5, 2, 19, 0x0A0C, 10⟩ ∧
    slotOffset ready ⟨29, 2, 3, 0x0A0C, 10⟩ = 20905555584 ∧ slotLoc ready 0x4DE117680 = ⟨29, 2, 3, 0x0A0C, 10⟩ := by decide +kernel
/-- 04: a bank replacement {logical bank 3, spare SID 0} of ch14.pc1.sid2 moves it to bank 31 of SID 0. -/
theorem test_bank_replacement :
    (repaired (holding ready [(R.MAP_BANK_REPLACE, 29 * 4 + 2, 2 ^ 15 + 3 * 256)]) ⟨29, 2, 3, 0x0A0C, 10⟩).1 = ⟨29, 0, 31, 0x0A0C, 10⟩ := by
  decide +kernel

/-- 05's time gate: trunk 2, four entries, pool time 7,000,003,600,250 ns: rally 3, entry 2. -/
def trunk2 : State :=
  let s := holding { ready with time := { ready.time with t := 7000003600250 * 64000000000 } }
    [(R.TRE_GATE_ACTIVE_LEN, 2, 4), (R.TRE_GATE_ENABLE, 2, 1), (R.TRE_GATE_BASE, 2, 7000000000000)]
  put (put (put s (gateKey 2 false 0 0) 100 250000) (gateKey 2 false 1 0) 100 250000) (gateKey 2 false 2 0) 100 400000
    |> fun s => put s (gateKey 2 false 3 0) 100 100000
theorem test_gate_position : (gatePos trunk2 2).map (fun (k, e, _, left) => (k, e, left)) = some (3, 2, 899999 + 1 - 600250) := by decide +kernel

/-- 05's worked example of commitments the memory cannot carry. -/
theorem test_tier_scales : (tierScales 1308622 [655360, 983040, 524288, 0]).take 3 = [65536, 43550, 0] := by decide +kernel
theorem test_shortfall : shortfall 1308622 2162688 = 25880 := by decide +kernel
/-- 09's slot of ch03.pc0.sid1.bk07 SAG 1, 14.747 µs into a step of 62.4 µs. -/
theorem test_slot_offset : slotOff 62400 1 7 1 6 = 14746 := by decide +kernel
/-- 02's upward supply step: code 82 goes to 92. -/
theorem test_supply_step : rd (doAvsMarginLow 10 (holding ready [(R.BLK_AVS_ENABLE, 0, 1), (R.BLK_AVS_CODE, 0, 82)])) R.BLK_AVS_CODE = 92 := by
  decide +kernel
/-- 16's fuse words 0x100 and 0x101. -/
theorem test_fuse_words : 2 ^ 31 + repairWord ⟨12, 0, 1, 4, 0x0A31, 0, 0, 0⟩ = 0xB090A310 ∧
    2 ^ 31 + repairWord ⟨12, 0, 1, 31, 0x3E07, 0, 0, 0⟩ = 0xB0FFE070 := by decide +kernel
/-- 10's INT_RETIRE_ROW word. -/
theorem test_retire_word : (field 0x3E6940A100000000 51 13, field 0x3E6940A100000000 37 14, field 0x3E6940A100000000 32 5) = (1997, 0x0A05, 1) := by
  decide +kernel
/-- 14's detail of input 9, and 12's inbound FIFO: 4 words free, a 68-byte frame takes 3, and the next does not fit. -/
theorem test_input_detail : detail 0 (ident 7 9) = 0x7009 := by decide +kernel
def fifo3 : Fifo := { ({} : Fifo) with r := 3, c := 0x1FF, w := 0x1FF }
theorem test_inbound_fifo : fifo3.occupancy = 508 ∧ fifo3.free = 4 ∧ (fifo3.write (frameWords false (List.replicate 68 1))).w = 0x202 ∧
    (fifo3.write (frameWords false (List.replicate 68 1))).occupancy = 511 ∧
    field (tget (fifo3.write (frameWords false (List.replicate 68 1))).words 1 0) 256 5 = 3 ∧
    ((fifo3.write (frameWords false (List.replicate 68 1))).free < (68 + 31) / 32) = true := by decide +kernel

/-- No row of the opcode table gives bits, so no word spells a command. -/
theorem test_no_words : decodeTableWord 0 0 = none ∧ decodeTableWord 16 0xFFFF = none := ⟨rfl, rfl⟩
/-- A step takes the command at the front: the block reset input rises. -/
theorem test_step_front : (match step { ready with pending := [.plClkReq 7, .entryTimeout] } with
    | .next t => (linkOf t 7).clkAck && t.pending == [.entryTimeout]
    | _ => false) = true := by decide +kernel

/-- 08's retrain of ch11.pc1.sid2, whose last RD went out at nCK −1, here at nCK 0: the nCK of its WR_FIFO, MRW and RD_FIFO. -/
def lastRead : State := { serving with chans := [(11, { ({} : Chan) with hist := [⟨0, cRd, 1, 2, 3, 0, 0, 0⟩] })] }
theorem test_retrain_times : ((chanOf (planAll lastRead 11 0 (retrainProbe lastRead 23 2)).2 11).hist.map (·.nck)).reverse =
    [0] ++ ([17, 21, 25, 29, 41, 49, 53, 65, 73, 77, 89, 101, 105, 109, 113, 117, 121, 125, 129].map (· + 1)) := by decide +kernel
/-- 08 R207: an MRR's value rides on four lanes a bit, and one altered lane of a bit changes nothing. -/
theorem test_majority : majority (mrrBurst 0xA5) 0 = 0xA5 ∧ majority ((mrrBurst 0xA5).set 8 0) 0 = 0xA5 ∧
    majority (((mrrBurst 0xA5).set 8 0).set 16 0) 0 = 0xA4 ∧ majority (((mrrBurst 0xA5).set 8 0).set 16 0) 1 = 0xA5 := by decide +kernel
end Sys2Proof.Tests
end

section
/-!
PROOFS. Refused accesses change nothing but their count (00 R9, 12 R326).
-/
namespace Sys2Proof.Machine

/-- A command that writes an entry of its own is that access: the checks of Table MGT-4 come before its action. -/
theorem exec_of_accessRow {c : Instr} {a : Access} {index sub : Nat} (h : accessRow c = some (a, index, sub)) (s : State) :
    ∃ body, exec c s = .next (accessWrite a index sub body s) := by
  revert h
  fun_cases accessRow c
  all_goals
    intro h
    cases h
  all_goals exact ⟨_, rfl⟩

/-- No access reaches an entry at this place: it lies above the areas of the dictionary, or no entry holds it (00 R9, 12 R320). -/
def Missing (index sub : Nat) : Prop := 0xF000 ≤ index ∨ findEntry index sub = none

theorem Missing.lookup {index sub : Nat} (h : Missing index sub) :
    (if index < 0xF000 ∧ exists' index sub = true then findEntry index sub else none) = none := by
  rcases h with h | h
  · rw [if_neg (by omega)]
  · rw [h, ite_self]

/-- An access to a missing place is answered as one to any other such place: neither the place nor the value decides. -/
theorem Missing.accessStatus_eq {i j b c : Nat} (hi : Missing i b) (hj : Missing j c) (s : State) (src : Sender) (w : Bool)
    (v u o n : Nat) : accessStatus s src w i b v o n = accessStatus s src w j c u o n := by
  unfold accessStatus
  rw [hi.lookup, hj.lookup]

theorem Missing.accessStatus_ne_zero {i b : Nat} (h : Missing i b) (s : State) (src : Sender) (w : Bool) (v o n : Nat) :
    accessStatus s src w i b v o n ≠ 0 := by
  unfold accessStatus
  rw [h.lookup]
  dsimp only
  repeat' split
  all_goals decide

/-- A read that fails a check of Table MGT-4 is refused with its status. -/
theorem doDictRd_checked {d : DictMsg} {s : State} (hr : reaches s d.src = true)
    (hs : accessStatus s d.src false d.index d.sub 0 d.offset d.nslots ≠ 0) :
    doDictRd d s = refuse (takeMgtCredit s d.src) d.src d.mtag 0x21 d.index d.sub d.offset
      (accessStatus s d.src false d.index d.sub 0 d.offset d.nslots) := by
  unfold doDictRd
  rw [if_neg (by simp [hr])]
  dsimp only
  rw [(takeMgtCredit_answered s d.src).accessStatus, if_pos hs]

/-- A write that fails a check of Table MGT-4 is refused with its status. -/
theorem doDictWr_checked {d : DictMsg} {s : State} (hr : reaches s d.src = true)
    (hs : accessStatus s d.src true d.index d.sub d.value d.offset d.nslots ≠ 0) :
    doDictWr d s = refuse (takeMgtCredit s d.src) d.src d.mtag 0x22 d.index d.sub d.offset
      (accessStatus s d.src true d.index d.sub d.value d.offset d.nslots) := by
  unfold doDictWr
  rw [if_neg (by simp [hr])]
  dsimp only
  rw [(takeMgtCredit_answered s d.src).accessStatus, if_pos hs]

/-- A DICT_RD that fails a check of Table MGT-4 changes nothing but the count of refusals with its status. -/
theorem dictRd_refused {d : DictMsg} {s : State} (hr : reaches s d.src = true)
    (hs : accessStatus s d.src false d.index d.sub 0 d.offset d.nslots ≠ 0) :
    ∃ t, exec (.dictRd d) s = .next t ∧
      Answered (bumpi s R.MGT_REFUSALS (accessStatus s d.src false d.index d.sub 0 d.offset d.nslots)) t ∧
      .answer d.src d.mtag 0x21 (accessStatus s d.src false d.index d.sub 0 d.offset d.nslots) 0 [] ∈ t.out :=
  ⟨_, congrArg Host.Outcome.next (doDictRd_checked hr hs),
    (bumpi_answered (takeMgtCredit_answered s d.src) _ _).trans (refuse_answered _ _ _ _ _ _ _ _), refuse_out _ _ _ _ _ _ _ _⟩

/-- A DICT_WR that fails a check of Table MGT-4 changes nothing but the count of refusals with its status. -/
theorem dictWr_refused {d : DictMsg} {s : State} (hr : reaches s d.src = true)
    (hs : accessStatus s d.src true d.index d.sub d.value d.offset d.nslots ≠ 0) :
    ∃ t, exec (.dictWr d) s = .next t ∧
      Answered (bumpi s R.MGT_REFUSALS (accessStatus s d.src true d.index d.sub d.value d.offset d.nslots)) t ∧
      .answer d.src d.mtag 0x22 (accessStatus s d.src true d.index d.sub d.value d.offset d.nslots) 0 [] ∈ t.out :=
  ⟨_, congrArg Host.Outcome.next (doDictWr_checked hr hs),
    (bumpi_answered (takeMgtCredit_answered s d.src) _ _).trans (refuse_answered _ _ _ _ _ _ _ _), refuse_out _ _ _ _ _ _ _ _⟩

/-- Settles O60: a command's access is its row's, refused by `refused_checked`; an index above 0xEFFF is as missing as one that no
entry holds. -/
theorem refusedAccessesChangeNothing : Obligations.RefusedAccessesChangeNothing := by
  unfold Obligations.RefusedAccessesChangeNothing
  refine ⟨fun c a index sub st s hrow hreach hst hne => ?_, fun s d index hlo _ hnone hreach => ?_⟩
  · obtain ⟨body, hexec⟩ := exec_of_accessRow hrow s
    exact refused_checked hexec hreach hst hne
  · have here : Missing d.index d.sub := .inl hlo
    have there : Missing index d.sub := .inr (hnone d.sub)
    have refused (w : Bool) (v : Nat) := here.accessStatus_ne_zero s d.src w v d.offset d.nslots
    obtain ⟨t, ht, hcount, hout⟩ := dictRd_refused hreach (refused false 0)
    obtain ⟨u, hu, hcount', hout'⟩ := dictWr_refused hreach (refused true d.value)
    exact ⟨⟨t, _, ht, here.accessStatus_eq there .., refused _ _, hcount, hout⟩,
      ⟨u, _, hu, here.accessStatus_eq there .., refused _ _, hcount', hout'⟩⟩

end Sys2Proof.Machine
end

section
/-!
PROOFS. What power-on reset and block reset take and keep (02 R36, R38, 00 R14).
-/
namespace Sys2Proof.Machine

/-- Training results lie among the entries with a store of their own. -/
theorem trainKey_of_not_ownStore {k : Nat} (h : ownStore k = false) : trainKey k = false := by
  cases ht : trainKey k with
  | false => rfl
  | true => simp only [ownStore, ht, Bool.true_or, reduceCtorEq] at h

/-- After MGT_PERSIST_ERASE a reload finds no stored parameter (12 R331). -/
theorem reloadRegs_erased {s : State} (h : s.mram.erased = true) :
    reloadRegs s = reloadRegs { s with mram := { s.mram with params := [] } } := by
  unfold reloadRegs
  simp only [h, if_true]
  rfl

/-- An entry without a stored value takes its Default, and after MGT_PERSIST_ERASE no parameter has one (00 R14, 12 R331). -/
theorem reloadRegs_no_store {s : State} {k : Nat} (hk : ownStore k = false ∨ trainKey k = true ∧ tget? s.mram.trainRegs k = none)
    (hp : tget? s.mram.params k = none ∨ s.mram.erased = true) : tget? (reloadRegs s) k = none := by
  have howns : ownStore k = false ∨ trainKey k = true := hk.imp_right And.left
  have htrain : trainKey k = false ∨ tget? s.mram.trainRegs k = none := hk.imp trainKey_of_not_ownStore And.right
  rcases hp with hp | he
  · exact reloadRegs_default s k howns hp htrain
  · rw [reloadRegs_erased he]
    exact reloadRegs_default _ k howns rfl htrain

theorem blockReset_porN (s : State) (cause : Nat) (ran : Bool) : (blockReset s cause ran).pins.porN = s.pins.porN := by
  change (islandsReset _ _ _ _).pins.porN = _
  rw [islandsReset_pins]
  rfl

theorem blockReset_start (s : State) (cause : Nat) (ran : Bool) :
    (blockReset s cause ran).start =
      { phase := .reset, path := if diesAsleep s then 3 else if ran then 4 else 2, ackSeenLow := !s.pins.rstCmplAck
        wall0 := s.time.t, beats0 := s.time.beats, cold := false, resetAt := some s.now, refLost := s.start.refLost
        trial := s.start.trial || rd s R.UPG_STATE = 2 } :=
  islandsReset_start ..

/-- A block reset leaves the time base to run on, but for the edge value that waits and the slew under way (02 R36). -/
theorem blockReset_time (s : State) (cause : Nat) (ran : Bool) :
    (blockReset s cause ran).time = { s.time with named := none, conflict := false, slew8 := 0, slewLeft := 0 } :=
  islandsReset_time ..

/-- The start path a block reset that ran no steps selects (02 R38, 16 R411). -/
theorem blockReset_path (s : State) (cause : Nat) :
    rd (blockReset s cause false) R.BUP_START_PATH = if diesAsleep s then 3 else 2 :=
  (rd_congr rfl rfl _).trans (islandsReset_path ..)

theorem blockReset_cause (s : State) (cause : Nat) (ran : Bool) :
    rd (blockReset s cause ran) R.BLK_RESET_CAUSE = resetCause s cause :=
  (rd_congr rfl rfl _).trans (islandsReset_cause ..)

/-- The dies keep their contents over a block reset that ran no steps exactly where they are asleep past E4 (02 R38). -/
theorem blockReset_array (s : State) (cause : Nat) :
    (blockReset s cause false).array = if diesAsleep s then s.array else {} := by
  refine (islandsReset_array ..).trans ?_
  cases diesAsleep s <;> rfl

/-- An entry that a block reset does not set, and that has no stored value, takes its Default (00 R14). -/
theorem blockReset_val {s : State} {k : Nat} (d cause : Nat) (ran : Bool)
    (hk : ownStore k = false ∨ trainKey k = true ∧ tget? s.mram.trainRegs k = none)
    (hp : tget? s.mram.params k = none ∨ s.mram.erased = true)
    (hset : k ∉ [R.BLK_RESET_CAUSE.key, R.BUP_START_PATH.key, R.ENG_CLASS_LOG_NEXT.key, R.RFH_PROF_PARKED.key])
    (hjob : ∀ pc, k ≠ R.INT_REPAIR_STATE.key + pc * R.INT_REPAIR_STATE.stride) :
    val (blockReset s cause ran) k d = (namedDefault k).getD d := by
  simp only [List.mem_cons, List.not_mem_nil, or_false, not_or] at hset
  obtain ⟨hcause, hpath, hclass, hparked⟩ := hset
  calc val (blockReset s cause ran) k d
      = tget (reloadRegs { s with ev := { s.ev with latched := [] } }) k ((namedDefault k).getD d) :=
        islandsReset_val _ _ _ _ k d hclass hcause hpath hparked hjob
    _ = (namedDefault k).getD d := by
        rw [tget, reloadRegs_no_store (s := { s with ev := { s.ev with latched := [] } }) hk hp]; rfl

/-- With ply_por_n high, ply_rst_n falling is a block reset of cause 1 (02 R38). -/
theorem exec_blockResetAssert_of_porN {s : State} (h : s.pins.porN = true) :
    exec .blockResetAssert s =
      .next { blockReset s 1 false with pins := { (blockReset s 1 false).pins with rstN := false } } :=
  congrArg Host.Outcome.next (if_pos h)

/-- Settles O1: each reset is a reset of the islands (`islandsReset_within`), and a register that none of its writes sets holds the
reloaded value. -/
theorem resetsTakeTheIslands : Obligations.ResetsTakeTheIslands := by
  unfold Obligations.ResetsTakeTheIslands
  refine ⟨fun s => ?_, fun s hpor => ?_, fun s hpor => ?_, fun s t key d hpor hexec hkey hparam hset hjob => ?_⟩
  · exact ⟨powerOnReset s, rfl, rfl, rfl, rfl, rfl, rfl, rfl, islandsReset_array .., islandsReset_home .., islandsReset_flights ..,
      islandsReset_tree .., islandsReset_obs .., islandsReset_mbx .., islandsReset_links .., islandsReset_agents ..,
      islandsReset_within _ _ _ _ .chans rfl, islandsReset_pchs .., rfl⟩
  · have hpins : (blockReset s 1 false).pins.porN = true := (blockReset_porN ..).trans hpor
    have hphase : (blockReset s 1 false).start.phase = .reset := by rw [blockReset_start]
    have ht : (blockReset s 1 false).time.t = s.time.t := by rw [blockReset_time]
    have hquality : (blockReset s 1 false).time.quality = s.time.quality := by rw [blockReset_time]
    have hbeats : (blockReset s 1 false).time.beats = s.time.beats := by rw [blockReset_time]
    exact ⟨_, exec_blockResetAssert_of_porN hpor, rfl, hpins, hphase, islandsReset_home .., islandsReset_flights ..,
      islandsReset_tree .., islandsReset_obs .., islandsReset_mbx .., islandsReset_links .., islandsReset_agents ..,
      islandsReset_pchs .., ht, hquality, hbeats, islandsReset_fuses .., islandsReset_images .., blockReset_cause ..,
      blockReset_path .., blockReset_array ..⟩
  · exact congrArg Host.Outcome.next (if_neg (by simp [hpor]))
  · cases (exec_blockResetAssert_of_porN hpor).symm.trans hexec
    exact blockReset_val d 1 false hkey hparam hset hjob

end Sys2Proof.Machine
end

section
/-!
PROOFS. Commands that clear counts (01 R26, 03 R86, 06 R167, 07 R199, 08 R230, 09 R257, 10 R288, 11 R319, 12 R360, 14 R395, 15 R410).
-/
namespace Sys2Proof.Machine

/-- The registers that `clearRegs` leaves as they are. -/
def keptByClear (sel : Nat → Nat → Bool) (key : Nat) : Bool := !(decide (key < 0x1000000) && sel (key / 256) (key % 256))

theorem keptByClear_eq_false_iff (sel : Nat → Nat → Bool) (key : Nat) :
    keptByClear sel key = false ↔ key < 0x1000000 ∧ sel (key / 256) (key % 256) = true := by
  rw [keptByClear, Bool.not_eq_false', Bool.and_eq_true, decide_eq_true_iff]

/-- What `clearRegs` names holds its Default; every other value stays. -/
theorem val_clearRegs (s : State) (sel : Nat → Nat → Bool) (key d : Nat) :
    val (clearRegs s sel) key d =
      if key < 0x1000000 ∧ sel (key / 256) (key % 256) = true then (namedDefault key).getD d else val s key d := by
  by_cases hnamed : key < 0x1000000 ∧ sel (key / 256) (key % 256) = true
  · have hgone : tget? (clearRegs s sel).regs key = none :=
      filter_tget_no (keptByClear sel) s.regs key ((keptByClear_eq_false_iff sel key).2 hnamed)
    rw [if_pos hnamed, val, tget, hgone, Option.getD_none]
  · have hstays : tget? (clearRegs s sel).regs key = tget? s.regs key :=
      filter_tget (keptByClear sel) s.regs key
        (eq_true_of_ne_false fun hgone => hnamed ((keptByClear_eq_false_iff sel key).1 hgone))
    rw [if_neg hnamed, val, tget, hstays, ← tget, ← val]

/-- A permitted access whose action nothing refuses is done, where the action leaves link state alone: the credit that the request
took shows in no other part. -/
theorem done_of_always {c : Instr} {s : State} {a : Access} {i b : Nat} (f : State → State)
    (hexec : exec c s = .next (accessWrite a i b (always f) s)) (hp : Permitted s a i b)
    (hlinks : ∀ l, f { s with links := l } = { f s with links := l }) : Done c s a (f s) :=
  have hbody : f (takeMgtCredit s a.src) = { f s with links := (takeMgtCredit s a.src).links } :=
    (congrArg f (takeMgtCredit_eq s a.src)).trans (hlinks _)
  done_of hexec hp (congrArg (Prod.mk 0) hbody) (answered_links _ _)

/-- A permitted clear returns the counts it names to their Defaults. -/
theorem done_of_clear {c : Instr} {s : State} {a : Access} {i b : Nat} {sel : Nat → Nat → Bool}
    (hexec : exec c s = .next (accessWrite a i b (actClear sel) s)) (hp : Permitted s a i b) : Done c s a (clearRegs s sel) :=
  done_of_always (clearRegs · sel) hexec hp fun _ => rfl

/-- FLT_COUNTERS_CLEAR clears the counts of sources and forced events held beside the registers too. -/
theorem done_fltCountersClear {s : State} {a : Access} (hp : Permitted s a 0xB403 0) :
    Done (.fltCountersClear a) s a (clearRegs { s with ev := { s.ev with forced := [], count := [] } } faultCounts) :=
  done_of_always (fun s => clearRegs { s with ev := { s.ev with forced := [], count := [] } } faultCounts) rfl hp fun _ => rfl

/-- Settles O14: a clear is `clearRegs` of its area's counts, whose values `val_clearRegs` gives. -/
theorem clearsZeroTheirCounts : Obligations.ClearsZeroTheirCounts := by
  unfold Obligations.ClearsZeroTheirCounts
  exact ⟨val_clearRegs, fun s a => ⟨done_of_clear rfl, done_of_clear rfl, done_of_clear rfl, done_of_clear rfl, done_of_clear rfl,
    done_of_clear rfl, done_of_clear rfl, done_of_clear rfl, done_of_clear rfl, done_fltCountersClear, done_of_clear rfl⟩⟩

end Sys2Proof.Machine
end

section
/-!
PROOFS. BEAT_RESTART changes a part that its list lacks (11 R304): the channels.
-/
namespace Sys2Proof.Machine

/-- The end of an exit from S2: VDDP is acknowledged, the adaptive supply's handshake is over and the reference runs, with the beat
and every CK still stopped. -/
def wakingFromS2 : State :=
  { State.reset with
    sleep := { State.reset.sleep with exit := some (0, 0, true) }
    pins := { State.reset.pins with pwrAck := 2, avsReq := false, ref100 := true } }

theorem exec_beatRestart (s : State) : exec .beatRestart s = .next (doBeatRestart s) := rfl

theorem beatRestart_starts_ck :
    (chanOf wakingFromS2 0).ck = false ∧ (chanOf (doBeatRestart wakingFromS2) 0).ck = true := by decide +kernel

theorem chans_not_mem_mayChange_beatRestart : Part.chans ∉ mayChange .beatRestart := by decide

/-- Refutes O59: BEAT_RESTART starts CK and WCK of every channel in service (`restartClocks`, 11 R304 step 6), and `.chans` is not
among the parts named for it. -/
theorem not_commandsStayWithinTheirParts : ¬ Obligations.CommandsStayWithinTheirParts := by
  unfold Obligations.CommandsStayWithinTheirParts
  rintro ⟨hframe, -⟩
  obtain ⟨t, hexec, hsame⟩ := hframe .beatRestart wakingFromS2
  obtain rfl := Host.Outcome.next.inj ((exec_beatRestart wakingFromS2).symm.trans hexec)
  have hchans : (doBeatRestart wakingFromS2).chans = wakingFromS2.chans := hsame .chans chans_not_mem_mayChange_beatRestart
  have hck : (chanOf (doBeatRestart wakingFromS2) 0).ck = (chanOf wakingFromS2 0).ck := by rw [chanOf, hchans, chanOf]
  obtain ⟨hstopped, hruns⟩ := beatRestart_starts_ck
  rw [hstopped, hruns] at hck
  cases hck

end Sys2Proof.Machine
end

section
/-!
PROOFS. ACK_TIMEOUT where the transaction table lists an entry twice (06 R145, R161).
-/
namespace Sys2Proof.Machine

/-- A request that is over but for its CMP_ACK, in a function that is not coherent. -/
def awaitingAck : Txn :=
  { gen := 0, line := 5, origin := .request 0, active := true, finished := true, responded := true, waitAck := true }

/-- Its request. -/
def awaitingFlight : Flight := { op := .rd, h := { port := 0, fn := 0, label := 0, agent := 0, tag := 0, line := 5 } }

/-- The walk of an agent's leave (06 R165). -/
def leaveWalk : Txn := { gen := 0, line := 2 ^ 46, origin := .leave, active := true }

/-- Entry 7936, the first of the home's own, listed twice: the transaction that awaits its CMP_ACK hides the leave walk of agent 0.
The statement admits such a table; a sorted one never is (`tsorted`, which `tset` and `tdel` keep). -/
def ackHidesLeave : State :=
  { State.reset with
    time := { State.reset.time with run := true }
    agents := [(0, { caching := true, cell := 0, fn := 0, port := 0, leaving := true })]
    flights := [(0, awaitingFlight)]
    home := { State.reset.home with txns := [(requestEntries, awaitingAck), (requestEntries, leaveWalk)] }
    now := 1000000 }

theorem ackHidesLeave_unhurried : Unhurried ackHidesLeave := ⟨rfl, rfl, rfl, rfl, rfl, rfl⟩

theorem ackHidesLeave_waitOver :
    waitOver ackHidesLeave requestEntries waitCmpAck (rd ackHidesLeave R.HOM_ACK_TIMEOUT) = true := by decide +kernel

theorem exec_ackTimeout (id : Nat) (s : State) : exec (.ackTimeout id) s = .next (doAckTimeout id s) := rfl

/-- The close of the hiding transaction deletes both; agent 0 still leaves, so its walk opens anew in the entry just freed. -/
theorem ackTimeout_reopens_leave :
    (txnOf (doAckTimeout requestEntries ackHidesLeave) requestEntries).map (·.origin) = some .leave := by decide +kernel

/-- Refutes O20: the clause that an ACK_TIMEOUT of a finished transaction leaves its entry free fails where the entry also holds,
hidden, the leave walk, which the close takes away with it and `settleLeave` opens again there. -/
theorem not_timeoutsFallTheAgentsCell : ¬ Obligations.TimeoutsFallTheAgentsCell := by
  unfold Obligations.TimeoutsFallTheAgentsCell
  rintro ⟨-, -, -, -, -, -, hcloses, -⟩
  obtain ⟨u, hexec, hfree, -⟩ := hcloses ackHidesLeave requestEntries 0 awaitingAck awaitingFlight rfl rfl rfl ackHidesLeave_waitOver
    rfl rfl rfl rfl rfl rfl rfl rfl rfl ackHidesLeave_unhurried rfl
  obtain rfl := Host.Outcome.next.inj ((exec_ackTimeout requestEntries ackHidesLeave).symm.trans hexec)
  have hreopened := ackTimeout_reopens_leave
  rw [hfree] at hreopened
  cases hreopened

end Sys2Proof.Machine
end

section
/-!
PROOFS. What a request that fails its port's checks leaves as it was (03 R71, R83).
-/
namespace Sys2Proof.Machine

/-- The parts listed. -/
def onlyParts (l : List Part) (p : Part) : Bool := decide (p ∈ l)

theorem obsEvent_within (s : State) (u c n : Nat) : Within (onlyParts [.obs]) s (obsEvent s u c n) :=
  have := can_of (w := onlyParts [.obs]) .obs rfl
  (obsEvent_kept s u c n (Kept.start (s := s))).2

@[simp] theorem obsEvent_links (s : State) (u c n : Nat) : (obsEvent s u c n).links = s.links := obsEvent_within s u c n .links rfl
@[simp] theorem obsEvent_regs (s : State) (u c n : Nat) : (obsEvent s u c n).regs = s.regs := obsEvent_within s u c n .regs rfl

/-- The request that a command brings arrives, with no ledger slot and its response wanted. -/
theorem exec_of_requestOf {c : Instr} {f : Flight} (h : requestOf c = some f) (s : State) :
    exec c s = .next (arrive s f) ∧ f.ledger = none ∧ f.dropRsp = false := by
  revert h
  fun_cases requestOf c
  case case10 header n hn =>
    intro h
    cases h
    exact ⟨congrArg Host.Outcome.next (if_pos hn), rfl, rfl⟩
  all_goals
    intro h
    cases h
  all_goals exact ⟨rfl, rfl, rfl⟩

theorem arrive_negotiating {s : State} {f : Flight} (hp : f.h.port < nPorts s) (hneg : portState s f.h.port = portNegotiating) :
    arrive s f = bumpi s R.LNK_DISCARDS f.h.port := by
  unfold arrive
  rw [if_neg (by omega), if_pos hneg]

/-- A request and its data have taken their credits, and the port counts it. -/
def arriving (s : State) (f : Flight) : State := obsEvent (ungate (takeReqCredit s f) f.h.port) f.h.port 21 1

/-- The record that a request gets on its arrival, with its stamps. -/
def arrived (s : State) (f : Flight) : Flight := { f with t0 := (arriving s f).now, t0Pool := poolNs (arriving s f) }

/-- An arriving request is on record, before the checks of 03 R71. -/
def admitted (s : State) (f : Flight) : State :=
  { arriving s f with
    uid := (arriving s f).uid + 1
    flights := tset (arriving s f).flights (arriving s f).uid (arrived s f) }

theorem arriving_within (s : State) (f : Flight) : Within (onlyParts [.links, .sleep, .obs]) s (arriving s f) :=
  have := can_of (w := onlyParts [.links, .sleep, .obs]) .links rfl
  have := can_of (w := onlyParts [.links, .sleep, .obs]) .sleep rfl
  have := can_of (w := onlyParts [.links, .sleep, .obs]) .obs rfl
  (obsEvent_kept _ _ _ _ (ungate_kept _ _ (takeReqCredit_kept _ _ (Kept.start (s := s))))).2

theorem arriving_uid (s : State) (f : Flight) : (arriving s f).uid = s.uid := arriving_within s f .uid rfl

theorem flightOf_admitted (s : State) (f : Flight) : flightOf (admitted s f) s.uid = some (arrived s f) := by
  rw [← arriving_uid s f]
  exact tget?_tset_same ..

/-- The checks of 03 R71 read registers, agents and function resets alone. -/
theorem linkRefusal_congr {s t : State} (f : Flight) (hregs : t.regs = s.regs) (hply : t.ply16 = s.ply16)
    (hagents : t.agents = s.agents) (hfuns : t.funs = s.funs) : linkRefusal t f = linkRefusal s f := by
  unfold linkRefusal unsupported joinedHere portBound portRev inReset
  simp only [rdi_congr hregs hply, hagents, hfuns]

theorem linkRefusal_of_failed {s : State} {f : Flight} {code : Nat}
    (h : unsupported s f = true ∧ code = 10 ∨
      unsupported s f = false ∧ portBound s f.h.port f.h.fn = false ∧ code = 8 ∨
      unsupported s f = false ∧ portBound s f.h.port f.h.fn = true ∧ joinedHere s f.h f.op.needsCache = false ∧ code = 9 ∨
      unsupported s f = false ∧ portBound s f.h.port f.h.fn = true ∧ joinedHere s f.h f.op.needsCache = true ∧
        inReset s f.h.fn = true ∧ code = 7) : linkRefusal s f = some code := by
  unfold linkRefusal
  rcases h with ⟨hu, rfl⟩ | ⟨hu, hb, rfl⟩ | ⟨hu, hb, hj, rfl⟩ | ⟨hu, hb, hj, hr, rfl⟩
  · simp only [hu, if_true]
  · simp [hu, hb]
  · simp [hu, hb, hj]
  · simp [hu, hb, hj, hr]

/-- A request refused by a check of 03 R71: counted, its credits given back. -/
def refusedState (s : State) (f : Flight) : State :=
  freeCredits (obsEvent (bumpi (admitted s f) R.LNK_LINK_REFUSALS f.h.port) f.h.port 22 1) (arrived s f)

/-- A request that fails a check of 03 R71 is answered with the check's code. -/
theorem arrive_refused {s : State} {f : Flight} {code : Nat} (hp : f.h.port < nPorts s) (hup : portState s f.h.port = portUp)
    (hawake : s.sleep.pastE4 = false) (hcode : linkRefusal s f = some code) :
    arrive s f = decide' (refusedState s f) s.uid (errRsp code 0) 0 := by
  have h := arriving_within s f
  have hchecks : linkRefusal (admitted s f) (arrived s f) = some code :=
    (linkRefusal_congr (s := s) _ (h .regs rfl) (h .ply16 rfl) (h .agents rfl) (h .funs rfl)).trans hcode
  calc arrive s f
      = match linkRefusal (admitted s f) (arrived s f) with
        | some code => decide' (refusedState s f) (arriving s f).uid (errRsp code 0) 0
        | none => accepted (admitted s f) (arriving s f).uid f.h.port := by
        unfold arrive
        rw [if_neg (by omega), if_neg (by rw [hup]; decide), if_neg (by simp [hup, replaying, hawake])]
        rfl
    _ = decide' (refusedState s f) s.uid (errRsp code 0) 0 := by rw [hchecks, arriving_uid]

theorem refusedState_within (s : State) (f : Flight) :
    Within (onlyParts [.regs, .links, .flights, .sleep, .obs, .uid]) s (refusedState s f) :=
  have := can_of (w := onlyParts [.regs, .links, .flights, .sleep, .obs, .uid]) .regs rfl
  have := can_of (w := onlyParts [.regs, .links, .flights, .sleep, .obs, .uid]) .links rfl
  have := can_of (w := onlyParts [.regs, .links, .flights, .sleep, .obs, .uid]) .flights rfl
  have := can_of (w := onlyParts [.regs, .links, .flights, .sleep, .obs, .uid]) .sleep rfl
  have := can_of (w := onlyParts [.regs, .links, .flights, .sleep, .obs, .uid]) .obs rfl
  have := can_of (w := onlyParts [.regs, .links, .flights, .sleep, .obs, .uid]) .uid rfl
  (freeCredits_kept _ _ (obsEvent_kept _ _ _ _ (bumpi_kept _ _ _ (Kept.set_flights (Kept.set_uid (Kept.eta
    (obsEvent_kept _ _ _ _ (ungate_kept _ _ (takeReqCredit_kept _ _ (Kept.start (s := s))))))))))).2

/-- Past the count, a refusal changes credits and observation alone. -/
theorem refusedState_counted (s : State) (f : Flight) :
    Within (onlyParts [.links, .obs]) (bumpi (admitted s f) R.LNK_LINK_REFUSALS f.h.port) (refusedState s f) :=
  have := can_of (w := onlyParts [.links, .obs]) .links rfl
  have := can_of (w := onlyParts [.links, .obs]) .obs rfl
  (freeCredits_kept _ _ (obsEvent_kept _ _ _ _
    (Kept.start (s := bumpi (admitted s f) R.LNK_LINK_REFUSALS f.h.port)))).2

theorem refusedState_uid (s : State) (f : Flight) : (refusedState s f).uid = s.uid + 1 :=
  (refusedState_counted s f .uid rfl).trans (congrArg (· + 1) (arriving_uid s f))

theorem flightOf_refusedState (s : State) (f : Flight) : flightOf (refusedState s f) s.uid = some (arrived s f) :=
  (congrArg (tget? · s.uid) (refusedState_counted s f .flights rfl)).trans (flightOf_admitted s f)

theorem refusedState_refusals (s : State) (f : Flight) :
    rdi (refusedState s f) R.LNK_LINK_REFUSALS f.h.port = min (rdi s R.LNK_LINK_REFUSALS f.h.port + 1) satMax := by
  have hcounted := refusedState_counted s f
  have harriving := arriving_within s f
  rw [rdi_congr (hcounted .regs rfl) (hcounted .ply16 rfl), rdi_bumpi_same,
    rdi_congr (t := admitted s f) (harriving .regs rfl) (harriving .ply16 rfl)]

theorem flightOf_modFlight_same {s : State} {uid : Nat} {f : Flight} (g : Flight → Flight) (h : flightOf s uid = some f) :
    flightOf (modFlight s uid g) uid = some (g f) := by
  unfold modFlight
  simp only [h]
  exact tget?_tset_same ..

theorem modFlight_within (s : State) (uid : Nat) (g : Flight → Flight) : Within (onlyParts [.flights]) s (modFlight s uid g) :=
  have := can_of (w := onlyParts [.flights]) .flights rfl
  (modFlight_kept _ _ _ (Kept.start (s := s))).2

/-- A request in no ledger leaves nothing to note there. -/
theorem noteLedger_of_none {s : State} {uid : Nat} {f : Flight} (hf : flightOf s uid = some f) (hledger : f.ledger = none)
    (final sent : Bool) : noteLedger s uid final sent = s := by
  unfold noteLedger
  simp only [hf, hledger]

/-- A response decided for a request that is in no ledger and wants it waits for its credit. -/
theorem decide'_ready {s : State} {uid : Nat} {f : Flight} (r : Rsp) (outcome : Nat) (hf : flightOf s uid = some f)
    (hledger : f.ledger = none) (hdrop : f.dropRsp = false) :
    Within (onlyParts [.flights]) s (decide' s uid r outcome) ∧
      (flightOf (decide' s uid r outcome) uid).map (fun g => (g.rsp, g.stage)) = some (some r, .ready) := by
  have hdecided := fun g => flightOf_modFlight_same g hf
  unfold decide'
  dsimp only
  rw [noteLedger_of_none (hdecided _) hledger]
  simp only [hdecided, hdrop, Bool.false_eq_true, if_false]
  exact ⟨modFlight_within _ _ _, rfl⟩

/-- Settles O15: a refused request goes no further than its record (`arrive_refused`), and `refusedState` is counted before the
response is decided. -/
theorem requestsMeetTheirPortsChecks : Obligations.RequestsMeetTheirPortsChecks := by
  unfold Obligations.RequestsMeetTheirPortsChecks
  intro c f s hc hp
  obtain ⟨hexec, hledger, hdrop⟩ := exec_of_requestOf hc s
  refine ⟨fun hneg => hexec.trans (congrArg _ (arrive_negotiating hp hneg)), fun code hup hawake hfailed => ?_⟩
  have harrive := arrive_refused hp hup hawake (linkRefusal_of_failed hfailed)
  obtain ⟨hrest, hrsp⟩ := decide'_ready (errRsp code 0) 0 (flightOf_refusedState s f) hledger hdrop
  have hkept := (refusedState_within s f).trans (hrest.mono fun p => by cases p <;> decide)
  exact ⟨_, hexec.trans (congrArg _ harrive), (hrest .uid rfl).trans (refusedState_uid s f), hrsp,
    (rdi_congr (hrest .regs rfl) (hrest .ply16 rfl) ..).trans (refusedState_refusals s f),
    hkept .tree rfl, hkept .home rfl, hkept .array rfl, hkept .agents rfl⟩

end Sys2Proof.Machine
end

section
/-!
PROOFS. CMP_ACK where the transaction table lists an entry twice (03 R76, 06 R145).
-/
namespace Sys2Proof.Machine

/-- `ackHidesLeave` with port 0 up and the request's response gone: the transaction awaits the CMP_ACK of TAG 0 there. -/
def cmpAckHidesLeave : State :=
  { ackHidesLeave with
    regs := [(R.LNK_PORT_STATE.key, portUp)]
    flights := [(0, { awaitingFlight with stage := .done })] }

theorem cmpAckHidesLeave_unhurried : Unhurried cmpAckHidesLeave := ⟨rfl, rfl, rfl, rfl, rfl, rfl⟩

theorem cmpAckHidesLeave_owed : ackOwed cmpAckHidesLeave 0 0 = some (requestEntries, awaitingAck) := by decide +kernel

theorem cmpAckHidesLeave_up : portState cmpAckHidesLeave 0 = portUp := by decide +kernel

theorem exec_cmpAck (p n : Nat) (tags : List Nat) (s : State) : exec (.cmpAck p n tags) s = .next (doCmpAck p n tags s) := rfl

/-- The CMP_ACK closes the hiding transaction, which deletes both; agent 0 still leaves, so its walk opens anew in the entry just
freed. -/
theorem cmpAck_reopens_leave :
    (txnOf (doCmpAck 0 1 [0] cmpAckHidesLeave) requestEntries).map (·.origin) = some .leave := by decide +kernel

/-- Refutes O17: the clause that a CMP_ACK leaves its transaction's entry free fails where the table lists the entry twice and the
second, hidden, transaction is the leave walk: the close takes it away too, and `settleLeave` opens it again there. -/
theorem not_responsesLeaveAndAreAcknowledged : ¬ Obligations.ResponsesLeaveAndAreAcknowledged := by
  unfold Obligations.ResponsesLeaveAndAreAcknowledged
  rintro ⟨-, -, -, -, -, hcloses, -⟩
  obtain ⟨u, hexec, hfree, -⟩ := hcloses cmpAckHidesLeave 0 0 requestEntries awaitingAck (by decide) cmpAckHidesLeave_up
    cmpAckHidesLeave_owed rfl rfl rfl rfl rfl rfl rfl rfl rfl rfl cmpAckHidesLeave_unhurried
  obtain rfl := Host.Outcome.next.inj ((exec_cmpAck 0 1 [0] cmpAckHidesLeave).symm.trans hexec)
  have hreopened := cmpAck_reopens_leave
  rw [hfree] at hreopened
  cases hreopened

end Sys2Proof.Machine
end

section
/-!
PROOFS. Flits: acceptance, replay and negotiation (03 R56, R58, R60 to R63, R67, R72, R83 to R85).
-/
namespace Sys2Proof.Machine

/-! A port's link after each operation. -/

theorem linkOf_congr {s t : State} (h : t.links = s.links) (n : Nat) : linkOf t n = linkOf s n := by rw [linkOf, h, linkOf]

@[simp] theorem linkOf_setLink_same (s : State) (n : Nat) (l : Link) : linkOf (setLink s n l) n = l := tget_tset_same ..
@[simp] theorem linkOf_modLink_same (s : State) (n : Nat) (f : Link → Link) : linkOf (modLink s n f) n = f (linkOf s n) :=
  linkOf_setLink_same ..
@[simp] theorem linkOf_obsEvent (s : State) (u c n m : Nat) : linkOf (obsEvent s u c n) m = linkOf s m :=
  linkOf_congr (obsEvent_links ..) m
@[simp] theorem linkOf_emit (s : State) (o : Out) (m : Nat) : linkOf (emit s o) m = linkOf s m := rfl
@[simp] theorem linkOf_bumpi (s : State) (r : Reg) (i m : Nat) : linkOf (bumpi s r i) m = linkOf s m := rfl
@[simp] theorem linkOf_setPortState (s : State) (i v m : Nat) : linkOf (setPortState s i v) m = linkOf s m := rfl

/-- The flit that leaves. -/
def flitSent (s : State) (n kind seq : Nat) (slots : List Slot) : Flit :=
  let (ack, cr) := (linkOf s n).frozen.getD (ackSeq (linkOf s n), (linkOf s n).rxRet)
  withCrc (flitBits kind seq ack cr slots)

/-- The link that flit `f` has left: a normal flit is numbered and stays in the replay buffer (03 R59, R61). -/
def flitLeft (kind seq : Nat) (f : Flit) (l : Link) : Link :=
  { l with
    dirty := false, wakeReq := true, wakeAck := true
    txSeq := if kind = 0 then (seq + 1) % 1024 else l.txSeq
    txBuf := if kind = 0 then l.txBuf ++ [(seq, f)] else l.txBuf }

theorem sendFlit_eq (s : State) (n kind seq : Nat) (slots : List Slot) :
    sendFlit s n kind seq slots =
      emit (modLink s n (flitLeft kind seq (flitSent s n kind seq slots))) (.flit n (flitSent s n kind seq slots)) := by
  by_cases hkind : kind = 0
  · subst hkind
    rfl
  · unfold sendFlit flitLeft
    simp only [if_neg hkind]
    rfl

/-! No message changes the state of a link or what its peer has acknowledged. -/

/-- Every link is in its state, with its peer's acknowledgement. -/
def LinksStand (s t : State) : Prop :=
  ∀ n, (linkOf t n).fdi = (linkOf s n).fdi ∧ (linkOf t n).peerAck = (linkOf s n).peerAck

section
variable {z : State}

theorem LinksStand.refl (s : State) : LinksStand s s := fun _ => ⟨rfl, rfl⟩
theorem LinksStand.fdi {s t : State} (h : LinksStand s t) (n : Nat) : (linkOf t n).fdi = (linkOf s n).fdi := (h n).1
theorem LinksStand.peerAck {s t : State} (h : LinksStand s t) (n : Nat) : (linkOf t n).peerAck = (linkOf s n).peerAck := (h n).2

theorem LinksStand.of_links {s t : State} (h : LinksStand z s) (e : t.links = s.links) : LinksStand z t := fun n => by
  rw [linkOf_congr e]
  exact h n

theorem LinksStand.ite {c : Prop} [Decidable c] {s a b : State} (h : LinksStand s a) (k : LinksStand s b) :
    LinksStand s (if c then a else b) := by
  split <;> assumption

theorem forEach_stand {α : Type} (l : List α) (s : State) (f : State → α → State)
    (hf : ∀ s a, LinksStand z s → LinksStand z (f s a)) (h : LinksStand z s) : LinksStand z (forEach l s f) := by
  unfold forEach
  induction l generalizing s with
  | nil => exact h
  | cons a l ih => exact ih _ (hf _ _ h)

theorem setLink_stand (s : State) (n : Nat) (l : Link) (h : LinksStand z s)
    (hl : l.fdi = (linkOf s n).fdi ∧ l.peerAck = (linkOf s n).peerAck) : LinksStand z (setLink s n l) := fun m => by
  by_cases hm : m = n
  · rw [hm, linkOf_setLink_same, hl.1, hl.2]
    exact h n
  · rw [show linkOf (setLink s n l) m = linkOf s m from tget_tset_ne _ _ _ hm]
    exact h m

theorem modLink_stand (s : State) (n : Nat) (f : Link → Link) (h : LinksStand z s)
    (hf : (f (linkOf s n)).fdi = (linkOf s n).fdi ∧ (f (linkOf s n)).peerAck = (linkOf s n).peerAck) :
    LinksStand z (modLink s n f) := setLink_stand s n _ h hf

theorem obsEvent_stand (s : State) (u c n : Nat) (h : LinksStand z s) : LinksStand z (obsEvent s u c n) :=
  h.of_links (obsEvent_links ..)

theorem sendFlit_stand (s : State) (n kind seq : Nat) (slots : List Slot) (h : LinksStand z s) :
    LinksStand z (sendFlit s n kind seq slots) := by
  rw [sendFlit_eq]
  exact modLink_stand s n _ h ⟨rfl, rfl⟩

theorem sendNow_stand (s : State) (n : Nat) (m : TxMsg) (h : LinksStand z s) : LinksStand z (sendNow s n m) := by
  have hcounted := obsEvent_stand _ n 17 1
    (modLink_stand s n (fun l => { l with txUsed := (creditsOf m).foldl (fun u c => modAt u c (· + 1)) l.txUsed }) h ⟨rfl, rfl⟩)
  exact sendFlit_stand _ _ _ _ _ (LinksStand.ite (modLink_stand _ _ _ hcounted ⟨rfl, rfl⟩) hcounted)

theorem sendMsg_stand (s : State) (n : Nat) (m : TxMsg) (h : LinksStand z s) : LinksStand z (sendMsg s n m) := by
  unfold sendMsg
  exact .ite h (.ite (sendNow_stand _ _ _ h) (modLink_stand _ _ _ h ⟨rfl, rfl⟩))

theorem sendEvt_stand (s : State) (n g : Nat) (m : TxMsg) (h : LinksStand z s) : LinksStand z (sendEvt s n g m) := by
  unfold sendEvt
  exact .ite h (.ite (sendNow_stand _ _ _ h) (modLink_stand _ _ _ h ⟨rfl, rfl⟩))

theorem drainTx_stand (s : State) (n : Nat) (h : LinksStand z s) : LinksStand z (drainTx s n) := by
  unfold drainTx
  refine forEach_stand _ _ _ (fun s a h => ?_) (forEach_stand _ _ _ (fun s a h => ?_) (setLink_stand _ _ _ h ⟨rfl, rfl⟩))
  · exact .ite (sendNow_stand _ _ _ h) (modLink_stand _ _ _ h ⟨rfl, rfl⟩)
  · exact .ite (sendNow_stand _ _ _ h) (modLink_stand _ _ _ h ⟨rfl, rfl⟩)

/-- A frame for the sideband touches no link. -/
theorem sendTelemetry_links (s : State) (x : Slot) : (sendTelemetry s x).links = s.links :=
  (@sendTelemetry_kept _ (onlyParts [.regs, .side, .out]) _ s x ⟨rfl⟩ ⟨rfl⟩ ⟨rfl⟩ Kept.start).2 .links rfl

theorem sendAlert_links (s : State) (g : Nat) : (sendAlert s g).links = s.links :=
  (@sendAlert_kept _ (onlyParts [.side, .out]) _ s g ⟨rfl⟩ ⟨rfl⟩ Kept.start).2 .links rfl

theorem deliverTo_stand (s : State) (g d : Nat) (h : LinksStand z s) : LinksStand z (deliverTo s g d) := by
  unfold deliverTo
  refine .ite (((obsEvent_stand _ _ _ _ ?_).of_links (sendTelemetry_links ..)).of_links (sendAlert_links ..))
    (sendEvt_stand _ _ _ _ (obsEvent_stand _ _ _ _ ?_)) <;> exact h

theorem deliver_stand (s : State) (g : Nat) (h : LinksStand z s) : LinksStand z (deliver s g) := by
  unfold deliver
  exact forEach_stand _ _ _ (fun s d h => .ite h (deliverTo_stand _ _ _ h)) h

theorem enabledEffects_links (s : State) (g i d : Nat) (forced : Bool) : (enabledEffects s g i d forced).links = s.links :=
  (@enabledEffects_kept _ (onlyParts [.ev]) _ s g i d forced ⟨rfl⟩ Kept.start).2 .links rfl

theorem raiseUntraced_stand (s : State) (g i d : Nat) (forced : Bool) (h : LinksStand z s) :
    LinksStand z (raiseUntraced s g i d forced) := by
  unfold raiseUntraced
  have heffects (x : State) (hx : LinksStand z x) : LinksStand z (enabledEffects x g i d forced) :=
    hx.of_links (enabledEffects_links ..)
  exact .ite h (.ite (.ite (deliver_stand _ _ (heffects _ h)) (heffects _ h)) h)

theorem traceRecord_stand (s : State) (r : List Nat) (h : LinksStand z s) : LinksStand z (traceRecord s r) := by
  have hdrop (x : State) (hx : LinksStand z x) : LinksStand z (traceDrop x) :=
    hx.of_links ((@traceDrop_kept _ (onlyParts [.obs]) _ x ⟨rfl⟩ Kept.start).2 .links rfl)
  have happend (x : State) (hx : LinksStand z x) : LinksStand z (traceAppend x r) :=
    hx.of_links ((@traceAppend_kept _ (onlyParts [.obs]) _ x r ⟨rfl⟩ Kept.start).2 .links rfl)
  have hcount (x : State) (hx : LinksStand z x) : LinksStand z (countDrop x) := hx.of_links rfl
  have hraise := raiseUntraced_stand (countDrop (traceDrop s)) 12 3
    (detail (min (countDrop (traceDrop s)).obs.dropped 0xFFFF) (ident 1 34)) false (hcount _ (hdrop _ h))
  unfold traceRecord
  exact .ite h (.ite (happend _ (hdrop _ h)) (.ite (hcount _ hraise) hraise))

theorem raiseEv_stand (s : State) (g i hi lo : Nat) (h : LinksStand z s) : LinksStand z (raiseEv s g i hi lo) := by
  have hraise := raiseUntraced_stand s g i (detail hi lo) false h
  unfold raiseEv raiseDet
  exact .ite (.ite (traceRecord_stand _ _ hraise) hraise) h

end

/-! A port that comes up, or goes to LinkError, and shows it. -/

theorem nPorts_le (s : State) : nPorts s ≤ 8 := by
  unfold nPorts
  split <;> omega

/-- A port's state and revision are no counts of reporting. -/
theorem portKeys_not_reportKeys : ∀ n < 8,
    R.LNK_PORT_STATE.key + n * R.LNK_PORT_STATE.stride ∉ reportKeys ∧
      R.LNK_PORT_REVISION.key + n * R.LNK_PORT_REVISION.stride ∉ reportKeys := by decide

/-- A port's state and its revision are registers of their own. -/
theorem portRevisionKey_ne_portStateKey : ∀ n < 8,
    R.LNK_PORT_REVISION.key + n * R.LNK_PORT_REVISION.stride ≠ R.LNK_PORT_STATE.key + n * R.LNK_PORT_STATE.stride := by decide

theorem raiseEv_portState (s : State) (g i hi lo : Nat) {n : Nat} (hn : n < 8) :
    portState (raiseEv s g i hi lo) n = portState s n :=
  (raiseEv_reported _ _ _ _ _ (Reported.refl s)).rdi _ _ (portKeys_not_reportKeys n hn).1

theorem raiseEv_portRev (s : State) (g i hi lo : Nat) {n : Nat} (hn : n < 8) :
    portRev (raiseEv s g i hi lo) n = portRev s n :=
  (raiseEv_reported _ _ _ _ _ (Reported.refl s)).rdi _ _ (portKeys_not_reportKeys n hn).2

@[simp] theorem portState_setPortState_same (s : State) (n v : Nat) : portState (setPortState s n v) n = v := rdi_wri_same ..

theorem portRev_setPortState (s : State) {n : Nat} (v : Nat) (hn : n < 8) : portRev (setPortState s n v) n = portRev s n :=
  rdi_wri_ne s v (portRevisionKey_ne_portStateKey n hn)

theorem setFdi_shows (s : State) (n : Nat) (dst : Fdi) (code : Nat) :
    (linkOf (setPortState (modLink s n fun l => { l with fdi := dst }) n code) n).fdi = dst ∧
      portState (setPortState (modLink s n fun l => { l with fdi := dst }) n code) n = code :=
  ⟨by rw [linkOf_setPortState, linkOf_modLink_same], portState_setPortState_same ..⟩

/-- A port that goes down to `dst` shows `code` (02 R31). -/
theorem portDownTo_shows (s : State) {n : Nat} (dst : Fdi) (code row : Nat) (hn : n < 8) :
    (linkOf (portDownTo s n dst code row) n).fdi = dst ∧ portState (portDownTo s n dst code row) n = code := by
  unfold portDownTo
  dsimp only
  obtain ⟨hfdi, hshown⟩ := setFdi_shows (if carries s n = true then linkReset s n else setLink s n (freshLink (linkOf s n))) n
    dst code
  exact ite_ind (fun t => (linkOf t n).fdi = dst ∧ portState t n = code)
    ⟨((raiseEv_stand _ _ _ _ _ (LinksStand.refl _)).fdi n).trans hfdi, (raiseEv_portState _ _ _ _ _ hn).trans hshown⟩
    ⟨hfdi, hshown⟩

/-- A port's fall leaves the beat alone. -/
theorem portDownTo_time (s : State) (n : Nat) (dst : Fdi) (code row : Nat) : (portDownTo s n dst code row).time = s.time :=
  (@portDownTo_kept _ (fun p => decide (p ≠ .time)) _ s n dst code row ⟨rfl⟩ ⟨rfl⟩ ⟨rfl⟩ ⟨rfl⟩ ⟨rfl⟩ ⟨rfl⟩ ⟨rfl⟩ ⟨rfl⟩ ⟨rfl⟩ ⟨rfl⟩
    ⟨rfl⟩ ⟨rfl⟩ Kept.start).2 .time rfl

/-- Entry to LinkError shows in the link, its port and the status of group 1 (03 R85). -/
theorem enterLinkError_inError {s : State} {n : Nat} (row : Nat) (hn : n < 8) (hrun : s.time.run = true)
    (hfdi : (linkOf s n).fdi ≠ .linkError) : InError (enterLinkError s n row) n := by
  obtain ⟨hdown, hshown⟩ := portDownTo_shows (bumpi s R.LNK_LINK_ERRORS n) .linkError portError row hn
  have hruns : (portDownTo (bumpi s R.LNK_LINK_ERRORS n) n .linkError portError row).time.run = true := by
    rw [portDownTo_time]
    exact hrun
  unfold enterLinkError
  rw [if_neg hfdi]
  exact ⟨((raiseEv_stand _ _ _ _ _ (LinksStand.refl _)).fdi n).trans hdown, (raiseEv_portState _ _ _ _ _ hn).trans hshown,
    raiseEv_sets _ _ _ _ _ hruns (by decide)⟩

theorem forceLinkError_inError {s : State} {n : Nat} (row : Nat) (hn : n < 8) (hrun : s.time.run = true)
    (hfdi : (linkOf s n).fdi ≠ .linkError) : InError (forceLinkError s n row) n :=
  enterLinkError_inError row hn hrun (by rw [linkOf_modLink_same]; exact hfdi)

theorem portComesUp_shows {s : State} {n : Nat} (rev : Nat) (credits : List Nat) (hn : n < 8) (hrun : s.time.run = true) :
    portState (portComesUp s n rev credits) n = portUp ∧ portRev (portComesUp s n rev credits) n = rev ∧
      statusBit (portComesUp s n rev credits) 1 0 = true := by
  unfold portComesUp
  refine ⟨(raiseEv_portState _ _ _ _ _ hn).trans (portState_setPortState_same ..), ?_, raiseEv_sets _ _ _ _ _ hrun (by decide)⟩
  rw [raiseEv_portRev _ _ _ _ _ hn, portRev_setPortState _ _ hn]
  exact rdi_wri_same ..

/-! Slot order (03 R72) and the request header (03 Table LNK-4). -/

theorem deliveryOrder_perm (flit : Nat) (slots : List Nat) : (deliveryOrder flit slots).Perm slots := by
  unfold deliveryOrder
  have hrest := List.filter_append_perm (fun k => decide (classAt flit k = 4)) (slots.dropWhile fun k => decide (classAt flit k ≠ 1))
  simp only [← decide_not] at hrest
  rw [List.append_assoc]
  refine (hrest.append_left _).trans ?_
  rw [List.takeWhile_append_dropWhile]

/-- No answer to a snoop comes after a request. -/
theorem deliveryOrder_answers_first (flit : Nat) (slots : List Nat) :
    (deliveryOrder flit slots).Pairwise (fun a b => ¬ (classAt flit a = 1 ∧ classAt flit b = 4)) := by
  have hbefore (a : Nat) (ha : a ∈ slots.takeWhile fun k => decide (classAt flit k ≠ 1)) : classAt flit a ≠ 1 := by
    simpa using List.all_eq_true.1 List.all_takeWhile a ha
  have of_not_request {l : List Nat} (h : ∀ a ∈ l, classAt flit a ≠ 1) :
      l.Pairwise (fun a b => ¬ (classAt flit a = 1 ∧ classAt flit b = 4)) :=
    List.pairwise_of_forall_mem_list fun a ha _ _ hab => h a ha hab.1
  unfold deliveryOrder
  simp only [List.pairwise_append]
  refine ⟨⟨of_not_request hbefore, of_not_request ?_, fun a ha b _ hab => hbefore a ha hab.1⟩, ?_, ?_⟩
  · intro a ha h1
    have h4 : classAt flit a = 4 := by simpa using (List.mem_filter.1 ha).2
    omega
  · exact List.pairwise_of_forall_mem_list fun _ _ b hb hab => by simpa [hab.2] using (List.mem_filter.1 hb).2
  · intro a _ b hb hab
    simpa [hab.2] using (List.mem_filter.1 hb).2

/-- Messages other than those answers keep their order. -/
theorem deliveryOrder_keeps_rest (flit : Nat) (slots : List Nat) :
    (deliveryOrder flit slots).filter (fun k => classAt flit k ≠ 4) = slots.filter (fun k => classAt flit k ≠ 4) := by
  have hparts := List.takeWhile_append_dropWhile (p := fun k => decide (classAt flit k ≠ 1)) (l := slots)
  calc (deliveryOrder flit slots).filter (fun k => classAt flit k ≠ 4)
      = (slots.takeWhile fun k => classAt flit k ≠ 1).filter (fun k => classAt flit k ≠ 4) ++
          (slots.dropWhile fun k => classAt flit k ≠ 1).filter (fun k => classAt flit k ≠ 4) := by
        simp [deliveryOrder, List.filter_append, List.filter_filter]
    _ = slots.filter (fun k => classAt flit k ≠ 4) := by rw [← List.filter_append, hparts]

theorem deliveryOrder_singleton (flit k : Nat) : deliveryOrder flit [k] = [k] :=
  List.perm_singleton.1 (deliveryOrder_perm flit [k])

theorem reqHdrOf_layout {p : Nat} {h : ReqHdr} (hport : h.port = p) (hfn : h.fn < 2 ^ 4) (hlabel : h.label < 2 ^ 14)
    (hagent : h.agent < 2 ^ 12) (htag : h.tag < 2 ^ 16) (hline : h.line < 2 ^ 46) {op low : Nat} (_hop : op < 2 ^ 6)
    (hlow : low < 2 ^ 26) :
    reqHdrOf p (2 ^ 124 + op * 2 ^ 118 + h.fn * 2 ^ 114 + h.label * 2 ^ 100 + h.agent * 2 ^ 88 + h.tag * 2 ^ 72 +
      h.line * 2 ^ 26 + low) = h := by
  obtain ⟨port, fn, label, agent, tag, line⟩ := h
  simp only at hport hfn hlabel hagent htag hline
  simp only [reqHdrOf, field, Nat.shiftRight_eq_div_pow, ReqHdr.mk.injEq]
  refine ⟨hport.symm, ?_, ?_, ?_, ?_, ?_⟩ <;> omega

/-! Flits received (03 R60 to R62). -/

theorem linkRuns_of {s : State} {n : Nat} (hn : n < nPorts s) (hup : mgmtUp s = true) : linkRuns s n = true := by
  simp [linkRuns, hn, hup]

theorem run_of_mgmtUp {s : State} (hup : mgmtUp s = true) : s.time.run = true := by
  simp only [mgmtUp, Bool.and_eq_true] at hup
  exact hup.1.1

/-- Adopting an acknowledgement moves the replay buffer alone. -/
theorem adoptAck_eq (l : Link) (a : Nat) :
    ∃ peer naks buf, adoptAck l a = { l with peerAck := peer, naks := naks, txBuf := buf } := by
  unfold adoptAck
  dsimp only
  split
  · exact ⟨_, _, _, rfl⟩
  · exact ⟨_, _, _, rfl⟩

theorem adoptCredit_eq (l : Link) (c v : Nat) : ∃ ret, adoptCredit l c v = { l with txRet := ret } := by
  unfold adoptCredit
  dsimp only
  split
  · exact ⟨_, rfl⟩
  · exact ⟨_, rfl⟩

/-- Adopting a flit's totals moves the credits returned alone. -/
theorem adoptCredits_eq (l : Link) (flit : Nat) : ∃ ret, adoptCredits l flit = { l with txRet := ret } := by
  unfold adoptCredits
  generalize nums 0 6 = cs
  induction cs generalizing l with
  | nil => exact ⟨_, rfl⟩
  | cons c cs ih =>
    obtain ⟨ret, hret⟩ := adoptCredit_eq l c (field flit (92 - 12 * c) 12)
    rw [List.foldl_cons, hret]
    exact ih _

/-- Where nothing waits, nothing leaves. -/
theorem drainTx_idle {s : State} {n : Nat} (htxq : (linkOf s n).txq = []) (hevq : (linkOf s n).evq = []) :
    drainTx s n = setLink s n (linkOf s n) := by
  unfold drainTx
  have hsame : { linkOf s n with txq := [], evq := [] } = linkOf s n := by rw [← htxq, ← hevq]
  dsimp only
  rw [htxq, hevq, hsame]
  rfl

/-- A normal flit in order is taken: SEQ moves on, and what it acknowledges is adopted (03 R60, R62). -/
def flitTaken (s : State) (n flit : Nat) : State :=
  adoptFlit (modLink (obsEvent s n 16 1) n fun l => { l with rxNext := (l.rxNext + 1) % 1024, dirty := true, waitSeq := false }) n flit

theorem linkOf_flitTaken {s : State} {n : Nat} (flit : Nat) (htxq : (linkOf s n).txq = []) (hevq : (linkOf s n).evq = []) :
    ∃ peer naks buf ret, linkOf (flitTaken s n flit) n = { linkOf s n with
      rxNext := ((linkOf s n).rxNext + 1) % 1024, dirty := true, waitSeq := false
      peerAck := peer, naks := naks, txBuf := buf, txRet := ret } := by
  obtain ⟨peer, naks, buf, hack⟩ := adoptAck_eq { linkOf s n with
    rxNext := ((linkOf s n).rxNext + 1) % 1024, dirty := true, waitSeq := false } (field flit 106 10)
  obtain ⟨ret, hcredits⟩ := adoptCredits_eq { linkOf s n with
    rxNext := ((linkOf s n).rxNext + 1) % 1024, dirty := true, waitSeq := false
    peerAck := peer, naks := naks, txBuf := buf } flit
  refine ⟨peer, naks, buf, ret, ?_⟩
  unfold flitTaken adoptFlit
  rw [drainTx_idle, linkOf_setLink_same] <;>
    rw [linkOf_modLink_same, linkOf_modLink_same, linkOf_obsEvent, hack, hcredits]
  · exact htxq
  · exact hevq

theorem flitTaken_within (s : State) (n flit : Nat) : Within (onlyParts [.links, .obs, .out]) s (flitTaken s n flit) :=
  (@adoptFlit_kept _ (onlyParts [.links, .obs, .out]) _ _ n flit ⟨rfl⟩ ⟨rfl⟩ ⟨rfl⟩
    (@modLink_kept _ _ _ _ n _ ⟨rfl⟩ (@obsEvent_kept _ _ _ s n 16 1 ⟨rfl⟩ Kept.start))).2

/-- How acceptance ends a flit whose messages have acted. -/
def flitEnd (n : Nat) : Scan → State → State
  | .fine, s => s
  | .malformed, s => forceLinkError s n 6
  | .credit c, s => raiseEv (forceLinkError s n 7) 1 8 c (ident 2 n)

theorem acceptFlit_of_scan {s : State} {n flit : Nat} {slots : List Nat} {e : Scan} (htxq : (linkOf s n).txq = [])
    (hevq : (linkOf s n).evq = [])
    (hscan : scanFlit (portRev s n) (linkOf s n).up flit 15 1 (linkOf s n).rxUsed = (slots, e)) :
    acceptFlit s n flit = flitEnd n e
      (forEach (deliveryOrder flit slots) (flitTaken s n flit) fun t k => deliverMsg (linkOf s n).up n flit k t) := by
  obtain ⟨peer, naks, buf, ret, hlink⟩ := linkOf_flitTaken flit htxq hevq
  have hwithin := flitTaken_within s n flit
  have hrev : portRev (flitTaken s n flit) n = portRev s n := rdi_congr (hwithin .regs rfl) (hwithin .ply16 rfl) ..
  have htaken : scanFlit (portRev (flitTaken s n flit) n) (linkOf (flitTaken s n flit) n).up flit 15 1
      (linkOf (flitTaken s n flit) n).rxUsed = (slots, e) := by
    rw [hrev, hlink]
    exact hscan
  have hup : (linkOf (flitTaken s n flit) n).up = (linkOf s n).up := by rw [hlink]
  unfold acceptFlit
  dsimp only
  rw [show adoptFlit _ n flit = flitTaken s n flit from rfl, htaken, hup]
  cases e <;> rfl

/-- An opcode that Table LNK-5 does not name is unsupported (03 R71). -/
theorem deliverReq_unnamed {n flit k : Nat} (hop : 10 ≤ field (slotAt flit k) 118 6) (s : State) :
    deliverReq n flit k s =
      doUnsupportedOpcode (reqHdrOf n (slotAt flit k)) (field (slotAt flit k) 118 6) s := by
  have hlt : field (slotAt flit k) 118 6 < 64 := Nat.mod_lt _ (by decide)
  have harrive : doUnsupportedOpcode (reqHdrOf n (slotAt flit k)) (field (slotAt flit k) 118 6) s =
      arrive s { op := .other (field (slotAt flit k) 118 6), h := reqHdrOf n (slotAt flit k) } :=
    if_pos (by simp [hop, hlt])
  rw [harrive]
  unfold deliverReq
  dsimp only
  split
  case h_10 => rfl
  all_goals omega

/-- The message whose header stands in slot `k` acts as its own row. -/
theorem exec_of_messageOf {n flit k : Nat} {c : Instr} {up : Bool} (hc : messageOf n flit k = some c)
    (hup : up = true ∨ classAt flit k = 8) (s : State) : exec c s = .next (deliverMsg up n flit k s) := by
  have hctl : (!up && decide (classAt flit k ≠ 8)) = false := by
    rcases hup with h | h <;> simp [h]
  unfold deliverMsg
  dsimp only
  rw [hctl]
  unfold messageOf at hc
  dsimp only at hc
  split at hc
  case h_10 _ _ hcls _ _ _ _ _ _ _ _ _ =>
    split at hc
    case isTrue hop =>
      cases hc
      simp only [classAt, hcls, deliverReq_unnamed hop]
      rfl
    case isFalse => cases hc
  case h_25 => cases hc
  all_goals
    rename_i hcls hop
    cases hc
    simp only [classAt, hcls, hop, deliverReq, deliverSrs, deliverMgt, deliverCtl]
    rfl

/-- Number of places by which a normal flit's SEQ is ahead of the one expected (03 R60). -/
def seqAhead (s : State) (n flit : Nat) : Nat := (field flit 116 10 + 1024 - (linkOf s n).rxNext) % 1024

section
variable {s : State} {n : Nat} {f : BitVec 2048}

theorem flitReceive_bad (hruns : linkRuns s n = true) (hfdi : (linkOf s n).fdi = .active)
    (hcrc : crc32 (bytesLE (f.toNat - f.toNat % 2 ^ 32) 256) ≠ f.toNat % 2 ^ 32) :
    doFlitReceive n f s =
      if field f.toNat 126 2 = 1 || field f.toNat 126 2 = 2 then bumpi (ungate s n) R.LNK_CRC_ERRORS n
      else discardFlit (ungate s n) n := by
  unfold doFlitReceive
  rw [if_neg (by simp [hruns, hfdi])]
  dsimp only
  rw [if_pos hcrc]

/-- A normal flit whose CRC is right, on a port that owes no NAK: only its SEQ decides (03 R60). -/
theorem flitReceive_normal (hruns : linkRuns s n = true) (hfdi : (linkOf s n).fdi = .active)
    (hcrc : crc32 (bytesLE (f.toNat - f.toNat % 2 ^ 32) 256) = f.toNat % 2 ^ 32)
    (hkind : field f.toNat 126 2 = 0) (hnak : bitOf s.sleep.nakOwed n = false) :
    doFlitReceive n f s =
      if seqAhead s n f.toNat = 0 then
        if noReplayRoom s (reqCount (portRev s n) f.toNat) then
          modSleep (ungate s n) fun z => { z with nakOwed := putBit z.nakOwed n true }
        else acceptFlit (ungate s n) n f.toNat
      else if seqAhead s n f.toNat < 512 then discardFlit (ungate s n) n
      else ungate s n := by
  have hnak' : bitOf (ungate s n).sleep.nakOwed n = false := hnak
  unfold doFlitReceive
  rw [if_neg (by simp [hruns, hfdi])]
  dsimp only
  rw [if_neg (not_not_intro hcrc), if_neg (by omega), if_neg (by omega), if_neg (by omega), hnak']
  rfl

end

/-- An idle or NAK flit takes no SEQ: only its record and the wake handshake show in its link (03 R58, R60). -/
theorem linkOf_sendFlit_unnumbered (s : State) (n seq : Nat) {kind : Nat} (slots : List Slot) (hkind : kind ≠ 0) :
    linkOf (sendFlit s n kind seq slots) n = { linkOf s n with dirty := false, wakeReq := true, wakeAck := true } := by
  rw [sendFlit_eq, linkOf_emit, linkOf_modLink_same, flitLeft]
  simp only [hkind, if_false]

theorem sendFlit_regs (s : State) (n kind seq : Nat) (slots : List Slot) : (sendFlit s n kind seq slots).regs = s.regs := by
  rw [sendFlit_eq]
  rfl

theorem sendFlit_out (s : State) (n kind seq : Nat) (slots : List Slot) :
    (sendFlit s n kind seq slots).out = .flit n (flitSent s n kind seq slots) :: s.out := by
  rw [sendFlit_eq]
  rfl

theorem linkOf_sendNak (s : State) (n : Nat) :
    linkOf (sendNak s n) n = { linkOf s n with nakAt := s.now, dirty := false, wakeReq := true, wakeAck := true } := by
  unfold sendNak
  rw [linkOf_sendFlit_unnumbered _ _ _ _ (by decide), linkOf_obsEvent, linkOf_modLink_same]

theorem sendNak_regs (s : State) (n : Nat) : (sendNak s n).regs = s.regs := by
  unfold sendNak
  rw [sendFlit_regs, obsEvent_regs]
  rfl

theorem sendNak_out (s : State) (n : Nat) : ∃ f, (sendNak s n).out = .flit n f :: s.out := by
  unfold sendNak
  rw [sendFlit_out, obsEvent_out]
  exact ⟨_, rfl⟩

theorem linkOf_sendIdle (s : State) (n : Nat) :
    linkOf (sendIdle s n) n = { linkOf s n with dirty := false, wakeReq := true, wakeAck := true } := by
  unfold sendIdle
  rw [linkOf_sendFlit_unnumbered _ _ _ _ (by decide), linkOf_obsEvent]

theorem sendIdle_regs (s : State) (n : Nat) : (sendIdle s n).regs = s.regs := by
  unfold sendIdle
  rw [sendFlit_regs, obsEvent_regs]

theorem sendIdle_out (s : State) (n : Nat) : ∃ f, (sendIdle s n).out = .flit n f :: s.out := by
  unfold sendIdle
  rw [sendFlit_out, obsEvent_out]
  exact ⟨_, rfl⟩

/-- A discarded flit is counted, and the expected SEQ awaited (03 R60). -/
theorem discardFlit_spec (s : State) (n : Nat) :
    (linkOf (discardFlit s n) n).waitSeq = true ∧ (linkOf (discardFlit s n) n).rxNext = (linkOf s n).rxNext ∧
      (discardFlit s n).regs = (bumpi s R.LNK_CRC_ERRORS n).regs := by
  unfold discardFlit
  dsimp only
  split
  case isTrue hwait => exact ⟨hwait, rfl, rfl⟩
  case isFalse =>
    split
    · rw [linkOf_modLink_same]
      exact ⟨rfl, rfl, rfl⟩
    · rw [linkOf_sendNak, linkOf_modLink_same, sendNak_regs]
      exact ⟨rfl, rfl, rfl⟩

/-- The first discarded flit draws a NAK, unless the replay queue suspends it (03 R60, 11 R301). -/
theorem discardFlit_naks {s : State} {n : Nat} (hwait : (linkOf s n).waitSeq = false) (hfrozen : (linkOf s n).frozen = none) :
    ∃ f, (discardFlit s n).out = .flit n f :: s.out := by
  unfold discardFlit
  dsimp only
  rw [if_neg (by simp [hwait]), if_neg (by simp [hfrozen])]
  exact sendNak_out ..

/-! Replay (03 R61) and negotiation (03 R83). -/

theorem drainTx_records {z : State} (s : State) (n : Nat) (h : Records z s) : Records z (drainTx s n) := by
  unfold drainTx
  refine forEach_records _ _ _ (fun s a h => ?_) (forEach_records _ _ _ (fun s a h => ?_) (setLink_records _ _ _ h))
  · exact .ite (sendNow_records _ _ _ h) (modLink_records _ _ _ h)
  · exact .ite (sendNow_records _ _ _ h) (modLink_records _ _ _ h)

theorem drainTx_within (s : State) (n : Nat) : Within (onlyParts [.links, .obs, .out]) s (drainTx s n) :=
  (@drainTx_kept _ (onlyParts [.links, .obs, .out]) _ s n ⟨rfl⟩ ⟨rfl⟩ ⟨rfl⟩ Kept.start).2

/-- One flit of the replay buffer is sent again. -/
def resendFlit (n : Nat) (s : State) (e : Nat × Flit) : State := emit (obsEvent s n 17 1) (.flit n e.2)

theorem resendFlit_within (n : Nat) (s : State) (e : Nat × Flit) : Within (onlyParts [.obs, .out]) s (resendFlit n s e) :=
  (@emit_kept _ (onlyParts [.obs, .out]) _ _ _ ⟨rfl⟩ (@obsEvent_kept _ _ _ s n 17 1 ⟨rfl⟩ Kept.start)).2

theorem forEach_resendFlit_within (n : Nat) (b : List (Nat × Flit)) (s : State) :
    Within (onlyParts [.obs, .out]) s (forEach b s (resendFlit n)) := by
  unfold forEach
  induction b generalizing s with
  | nil => exact Within.refl _ s
  | cons e b ih => exact (resendFlit_within n s e).trans (ih _)

theorem forEach_resendFlit_out (n : Nat) {b : List (Nat × Flit)} {e : Nat × Flit} (he : e ∈ b) (s : State) :
    .flit n e.2 ∈ (forEach b s (resendFlit n)).out := by
  have hrecords (b : List (Nat × Flit)) (s : State) : Records s (forEach b s (resendFlit n)) :=
    forEach_records _ _ _ (fun s a h => emit_records _ _ (obsEvent_records _ _ _ _ h)) (Records.refl s)
  induction b generalizing s with
  | nil => cases he
  | cons d b ih =>
    rcases List.mem_cons.1 he with rfl | hb
    · exact hrecords b (resendFlit n s e) _ List.mem_cons_self
    · exact ih hb _

/-- Every unacknowledged flit is sent again, and the replay counted. -/
theorem replayFlits_eq {s : State} {n : Nat} (h : (linkOf s n).txBuf ≠ []) :
    replayFlits s n = forEach (linkOf s n).txBuf (bumpi s R.LNK_REPLAYS n) (resendFlit n) := by
  unfold replayFlits
  dsimp only
  rw [if_neg (by simpa using h)]
  rfl

theorem adoptAck_fdi (l : Link) (a : Nat) : (adoptAck l a).fdi = l.fdi := by
  obtain ⟨_, _, _, h⟩ := adoptAck_eq l a
  rw [h]

/-- NAKs in a row that named the same flit as this one, this one among them (03 R61). -/
def nakCount (l : Link) (a : Nat) : Nat := (if l.nakSeq = a then l.naks else 0) + 1

/-- The link that a NAK of a flit held has reached. -/
def nakTaken (l : Link) (a : Nat) : Link := { adoptAck l a with nakSeq := a, naks := nakCount (adoptAck l a) a }

section
variable {s : State} {n a : Nat}

/-- ACK_SEQ names the last flit acknowledged, or one of the replay buffer. -/
def nakHeld (l : Link) (a : Nat) : Prop := l.peerAck = a ∨ ∃ e ∈ l.txBuf, e.1 = a

theorem nakReceive_held (hruns : linkRuns s n = true) (hfdi : (linkOf s n).fdi = .active) (hheld : nakHeld (linkOf s n) a) :
    doNakReceive n a s =
      if rd s R.LNK_REPLAY_LIMIT ≤ nakCount (adoptAck (linkOf s n) a) a then
        forceLinkError (setLink s n (nakTaken (linkOf s n) a)) n 5
      else drainTx (replayFlits (setLink s n (nakTaken (linkOf s n) a)) n) n := by
  have hnamed : ¬ ((decide ((linkOf s n).peerAck ≠ a) && !(linkOf s n).txBuf.any fun e => decide (e.1 = a)) = true) := by
    rcases hheld with h | ⟨e, he, h⟩
    · simp [h]
    · simp only [Bool.and_eq_true, Bool.not_eq_true', List.any_eq_false, not_and]
      exact fun _ hnone => hnone e he (decide_eq_true h)
  unfold doNakReceive
  rw [if_neg (by simp [hruns, hfdi])]
  dsimp only
  rw [if_neg hnamed]
  rfl

theorem nakReceive_unheld (hruns : linkRuns s n = true) (hfdi : (linkOf s n).fdi = .active) (hheld : ¬ nakHeld (linkOf s n) a) :
    doNakReceive n a s = forceLinkError s n 5 := by
  simp only [nakHeld, not_or, not_exists, not_and] at hheld
  obtain ⟨hpeer, hbuf⟩ := hheld
  unfold doNakReceive
  rw [if_neg (by simp [hruns, hfdi])]
  dsimp only
  rw [if_pos (by simpa [hpeer] using hbuf)]

/-- A NAK within the limit replays every unacknowledged flit. -/
theorem nakReceive_replays (hruns : linkRuns s n = true) (hfdi : (linkOf s n).fdi = .active) (hheld : nakHeld (linkOf s n) a)
    (hpeer : (adoptAck (linkOf s n) a).peerAck = a) (hlimit : nakCount (adoptAck (linkOf s n) a) a < rd s R.LNK_REPLAY_LIMIT)
    (hbuf : (adoptAck (linkOf s n) a).txBuf ≠ []) :
    (linkOf (doNakReceive n a s) n).fdi = .active ∧ (linkOf (doNakReceive n a s) n).peerAck = a ∧
      rdi (doNakReceive n a s) R.LNK_REPLAYS n = min (rdi s R.LNK_REPLAYS n + 1) satMax ∧
      ∀ e ∈ (adoptAck (linkOf s n) a).txBuf, .flit n e.2 ∈ (doNakReceive n a s).out := by
  have hdo := nakReceive_held hruns hfdi hheld
  rw [if_neg (by omega)] at hdo
  have hlink : linkOf (setLink s n (nakTaken (linkOf s n) a)) n = nakTaken (linkOf s n) a := linkOf_setLink_same ..
  have hreplay := replayFlits_eq (s := setLink s n (nakTaken (linkOf s n) a)) (n := n) (by rw [hlink]; exact hbuf)
  rw [hlink] at hreplay
  have hresent := forEach_resendFlit_within n (nakTaken (linkOf s n) a).txBuf
    (bumpi (setLink s n (nakTaken (linkOf s n) a)) R.LNK_REPLAYS n)
  rw [hdo, hreplay]
  have hdrained := drainTx_within (forEach (nakTaken (linkOf s n) a).txBuf
    (bumpi (setLink s n (nakTaken (linkOf s n) a)) R.LNK_REPLAYS n) (resendFlit n)) n
  have hstand := drainTx_stand _ n ((LinksStand.refl (setLink s n (nakTaken (linkOf s n) a))).of_links (hresent .links rfl))
  refine ⟨?_, ?_, ?_, fun e he => drainTx_records _ _ (Records.refl _) _ (forEach_resendFlit_out n he _)⟩
  · rw [hstand.fdi, hlink]
    exact (adoptAck_fdi ..).trans hfdi
  · rw [hstand.peerAck, hlink]
    exact hpeer
  · rw [rdi_congr (hdrained .regs rfl) (hdrained .ply16 rfl), rdi_congr (hresent .regs rfl) (hresent .ply16 rfl),
      rdi_bumpi_same]
    rfl

/-- A NAK past the limit, or that names no flit held, is LinkError. -/
theorem nakReceive_inError (hn : n < nPorts s) (hup : mgmtUp s = true) (hfdi : (linkOf s n).fdi = .active)
    (h : ¬ nakHeld (linkOf s n) a ∨ rd s R.LNK_REPLAY_LIMIT ≤ nakCount (adoptAck (linkOf s n) a) a) :
    InError (doNakReceive n a s) n := by
  have hlt : n < 8 := by have := nPorts_le s; omega
  have hruns := linkRuns_of hn hup
  by_cases hheld : nakHeld (linkOf s n) a
  · rw [nakReceive_held hruns hfdi hheld, if_pos (h.resolve_left (not_not_intro hheld))]
    refine forceLinkError_inError 5 hlt (run_of_mgmtUp hup) ?_
    rw [linkOf_setLink_same, show (nakTaken (linkOf s n) a).fdi = .active from (adoptAck_fdi ..).trans hfdi]
    decide
  · rw [nakReceive_unheld hruns hfdi hheld]
    exact forceLinkError_inError 5 hlt (run_of_mgmtUp hup) (by rw [hfdi]; decide)

end

theorem sendCtl_within (s : State) (n : Nat) (slot : Slot) : Within (onlyParts [.links, .obs, .out]) s (sendCtl s n slot) :=
  (@sendCtl_kept _ (onlyParts [.links, .obs, .out]) _ s n slot ⟨rfl⟩ ⟨rfl⟩ ⟨rfl⟩ Kept.start).2

theorem carries_of_negotiating {s : State} {n : Nat} (h : portState s n = portNegotiating) : carries s n = true := by
  simp [carries, h]

/-- An offer to a negotiating port selects the highest common revision (03 R83). -/
theorem negOffer_negotiating {s : State} {n : Nat} (hruns : linkRuns s n = true) (hneg : portState s n = portNegotiating)
    (revs : Nat) (credits : List Nat) :
    doNegOffer n revs credits s =
      if bitOf (revs &&& (linkOf s n).offered) 3 then portComesUp (sendCtl s n (negSelectSlot 3)) n 3 credits
      else if bitOf (revs &&& (linkOf s n).offered) 2 then portComesUp (sendCtl s n (negSelectSlot 2)) n 2 credits
      else forceLinkError (sendCtl s n (negSelectSlot 0)) n 8 := by
  unfold doNegOffer
  rw [if_neg (by simp [hruns, carries_of_negotiating hneg]), if_neg (not_not_intro hneg)]

/-- A second offer is discarded (03 R83). -/
theorem negOffer_again {s : State} {n : Nat} (hruns : linkRuns s n = true) (hcarries : carries s n = true)
    (hneg : portState s n ≠ portNegotiating) (revs : Nat) (credits : List Nat) :
    doNegOffer n revs credits s = bumpi s R.LNK_DISCARDS n := by
  unfold doNegOffer
  rw [if_neg (by simp [hruns, hcarries]), if_pos hneg]

/-! The clauses of O43. -/

section
variable {s : State} {n : Nat}

/-- A normal flit in order whose requests fit the replay queue is taken with its messages. -/
theorem flitReceive_inOrder {f : BitVec 2048} {slots : List Nat} {e : Scan} (hruns : linkRuns s n = true)
    (hfdi : (linkOf s n).fdi = .active) (hcrc : crc32 (bytesLE (f.toNat - f.toNat % 2 ^ 32) 256) = f.toNat % 2 ^ 32)
    (hkind : field f.toNat 126 2 = 0) (hnak : bitOf s.sleep.nakOwed n = false)
    (hseq : field f.toNat 116 10 = (linkOf s n).rxNext % 1024) (hnext : (linkOf s n).rxNext < 1024)
    (hroom : noReplayRoom s (reqCount (portRev s n) f.toNat) = false) (htxq : (linkOf s n).txq = [])
    (hevq : (linkOf s n).evq = [])
    (hscan : scanFlit (portRev s n) (linkOf s n).up f.toNat 15 1 (linkOf s n).rxUsed = (slots, e)) :
    doFlitReceive n f s = flitEnd n e (forEach (deliveryOrder f.toNat slots) (flitTaken (ungate s n) n f.toNat)
      fun t k => deliverMsg (linkOf s n).up n f.toNat k t) := by
  have hahead : seqAhead s n f.toNat = 0 := by
    rw [Nat.mod_eq_of_lt hnext] at hseq
    unfold seqAhead
    omega
  rw [flitReceive_normal hruns hfdi hcrc hkind hnak, if_pos hahead, if_neg (by simp [hroom])]
  exact acceptFlit_of_scan (s := ungate s n) htxq hevq hscan

/-- A taken flit moves SEQ on, and leaves registers, requests and the home as they were. -/
theorem flitTaken_ungated (flit : Nat) (htxq : (linkOf s n).txq = []) (hevq : (linkOf s n).evq = []) :
    (linkOf (flitTaken (ungate s n) n flit) n).rxNext = ((linkOf s n).rxNext + 1) % 1024 ∧
      (linkOf (flitTaken (ungate s n) n flit) n).waitSeq = false ∧ (linkOf (flitTaken (ungate s n) n flit) n).dirty = true ∧
      (linkOf (flitTaken (ungate s n) n flit) n).fdi = (linkOf s n).fdi := by
  obtain ⟨_, _, _, _, hlink⟩ := linkOf_flitTaken (s := ungate s n) (n := n) flit htxq hevq
  rw [hlink]
  exact ⟨rfl, rfl, rfl, rfl⟩

/-- A flit discarded for its SEQ or its CRC is counted, and SEQ stays. -/
theorem discardFlit_ungated :
    (linkOf (discardFlit (ungate s n) n) n).waitSeq = true ∧
      (linkOf (discardFlit (ungate s n) n) n).rxNext = (linkOf s n).rxNext ∧
      rdi (discardFlit (ungate s n) n) R.LNK_CRC_ERRORS n = min (rdi s R.LNK_CRC_ERRORS n + 1) satMax := by
  obtain ⟨hwait, hnext, hregs⟩ := discardFlit_spec (ungate s n) n
  have hwithin := (@discardFlit_kept _ (onlyParts [.regs, .links, .obs, .out]) _ (ungate s n) n ⟨rfl⟩ ⟨rfl⟩ ⟨rfl⟩ ⟨rfl⟩ Kept.start).2
  exact ⟨hwait, hnext, (rdi_congr hregs (hwithin .ply16 rfl) ..).trans (rdi_bumpi_same ..)⟩

/-- A flit whose CRC fails is counted and leaves SEQ; a normal one is awaited again, and draws a NAK (03 R60, R62). -/
theorem flitReceive_badCrc {f : BitVec 2048} (hruns : linkRuns s n = true) (hfdi : (linkOf s n).fdi = .active)
    (hcrc : crc32 (bytesLE (f.toNat - f.toNat % 2 ^ 32) 256) ≠ f.toNat % 2 ^ 32) :
    (linkOf (doFlitReceive n f s) n).rxNext = (linkOf s n).rxNext ∧
      rdi (doFlitReceive n f s) R.LNK_CRC_ERRORS n = min (rdi s R.LNK_CRC_ERRORS n + 1) satMax ∧
      (field f.toNat 126 2 = 0 → (linkOf s n).waitSeq = false → (linkOf s n).frozen = none →
        (linkOf (doFlitReceive n f s) n).waitSeq = true ∧ ∃ g, (doFlitReceive n f s).out = .flit n g :: s.out) := by
  obtain ⟨hwait, hnext, hcount⟩ := discardFlit_ungated (s := s) (n := n)
  rw [flitReceive_bad hruns hfdi hcrc]
  split
  case isTrue hkind =>
    refine ⟨rfl, rdi_bumpi_same .., fun hnormal => ?_⟩
    simp [hnormal] at hkind
  case isFalse => exact ⟨hnext, hcount, fun _ hw hf => ⟨hwait, discardFlit_naks (s := ungate s n) hw hf⟩⟩

/-- A normal flit whose SEQ is ahead, up to half the sequence space, was sent too early; one beyond was seen before (03 R60). -/
theorem flitReceive_outOfOrder {f : BitVec 2048} (hruns : linkRuns s n = true) (hfdi : (linkOf s n).fdi = .active)
    (hcrc : crc32 (bytesLE (f.toNat - f.toNat % 2 ^ 32) 256) = f.toNat % 2 ^ 32)
    (hkind : field f.toNat 126 2 = 0) (hnak : bitOf s.sleep.nakOwed n = false) (hahead : 0 < seqAhead s n f.toNat) :
    doFlitReceive n f s = if seqAhead s n f.toNat < 512 then discardFlit (ungate s n) n else ungate s n := by
  rw [flitReceive_normal hruns hfdi hcrc hkind hnak, if_neg (by omega)]

theorem nakRepeat_sends (hruns : linkRuns s n = true) (hfdi : (linkOf s n).fdi = .active) (hwait : (linkOf s n).waitSeq = true)
    (hfrozen : (linkOf s n).frozen = none) (hdue : (linkOf s n).nakAt + 128 ≤ s.now) : doNakRepeat n s = sendNak s n :=
  if_pos (by simp [hruns, hfdi, hwait, hfrozen, hdue])

theorem nakRepeat_early (hdue : s.now < (linkOf s n).nakAt + 128) : doNakRepeat n s = s :=
  if_neg (by simp [Nat.not_le.2 hdue])

theorem idleFlitSend_sends (hruns : linkRuns s n = true) (hfdi : (linkOf s n).fdi = .active)
    (hstall : (linkOf s n).stallAck = false) (hdirty : (linkOf s n).dirty = true) : doIdleFlitSend n s = sendIdle s n :=
  if_pos (by simp [hruns, hfdi, hstall, hdirty])

theorem negTimeout_due (hruns : linkRuns s n = true) (hneg : portState s n = portNegotiating)
    (hdue : (linkOf s n).negAt + rd s R.LNK_NEG_TIMEOUT * 1000 ≤ s.now) : doNegTimeout n s = forceLinkError s n 8 :=
  if_pos (by simp [hruns, hneg, hdue])

theorem negTimeout_early (hdue : s.now < (linkOf s n).negAt + rd s R.LNK_NEG_TIMEOUT * 1000) : doNegTimeout n s = s :=
  if_neg (by simp [Nat.not_le.2 hdue])

/-- The outcome of an offer to a negotiating port (03 R83). -/
theorem negOffer_outcome (hn : n < nPorts s) (hup : mgmtUp s = true) (hfdi : (linkOf s n).fdi = .active)
    (hneg : portState s n = portNegotiating) (revs : Nat) (credits : List Nat) :
    (∀ rev, (bitOf (revs &&& (linkOf s n).offered) 3 = true ∧ rev = 3 ∨
        bitOf (revs &&& (linkOf s n).offered) 3 = false ∧ bitOf (revs &&& (linkOf s n).offered) 2 = true ∧ rev = 2) →
      portState (doNegOffer n revs credits s) n = portUp ∧ portRev (doNegOffer n revs credits s) n = rev ∧
        statusBit (doNegOffer n revs credits s) 1 0 = true) ∧
    (bitOf (revs &&& (linkOf s n).offered) 3 = false → bitOf (revs &&& (linkOf s n).offered) 2 = false →
      InError (doNegOffer n revs credits s) n) := by
  have hlt : n < 8 := Nat.lt_of_lt_of_le hn (nPorts_le s)
  have hrun (slot : Slot) : (sendCtl s n slot).time.run = true := by
    rw [sendCtl_within s n slot .time rfl]
    exact run_of_mgmtUp hup
  have hstate (slot : Slot) : (linkOf (sendCtl s n slot) n).fdi = .active :=
    ((sendMsg_stand _ _ _ (LinksStand.refl s)).fdi n).trans hfdi
  rw [negOffer_negotiating (linkRuns_of hn hup) hneg]
  constructor
  · rintro rev (⟨h3, rfl⟩ | ⟨h3, h2, rfl⟩)
    · rw [if_pos h3]
      exact portComesUp_shows 3 credits hlt (hrun _)
    · rw [if_neg (by simp [h3]), if_pos h2]
      exact portComesUp_shows 2 credits hlt (hrun _)
  · intro h3 h2
    rw [if_neg (by simp [h3]), if_neg (by simp [h2])]
    exact forceLinkError_inError 8 hlt (hrun _) (by simp [hstate])

/-- A malformed flit in order, with no message before the fault, is LinkError (03 R67, R85). -/
theorem flitEnd_malformed_inError (flit : Nat) (hn : n < nPorts s) (hup : mgmtUp s = true) (hfdi : (linkOf s n).fdi = .active)
    (htxq : (linkOf s n).txq = []) (hevq : (linkOf s n).evq = []) :
    InError (flitEnd n .malformed (flitTaken (ungate s n) n flit)) n := by
  obtain ⟨_, _, _, hkept⟩ := flitTaken_ungated flit htxq hevq
  refine forceLinkError_inError 6 (Nat.lt_of_lt_of_le hn (nPorts_le s)) ?_ (by simp [hkept, hfdi])
  rw [flitTaken_within (ungate s n) n flit .time rfl]
  exact run_of_mgmtUp hup

end

/-- Settles O43: each clause is the lemma of its command. -/
theorem flitsAreKeptInOrder : Obligations.FlitsAreKeptInOrder := by
  unfold Obligations.FlitsAreKeptInOrder
  intro s p hp hup hfdi
  have hruns := linkRuns_of hp hup
  refine ⟨fun f hcrc hkind hnak => ⟨fun hseq hnext hroom htxq hevq => ?inOrder, fun d hd hpos => ?outOfOrder⟩,
    fun f hcrc => ?badCrc, fun a l hl => ?nak,
    fun hwait hfrozen hdue => ?nakRepeat, fun hearly => congrArg _ (nakRepeat_early hearly), fun hstall hdirty => ?idleFlit,
    fun revs credits hcarries hneg => congrArg _ (negOffer_again hruns hcarries hneg revs credits),
    fun revs credits hneg _ => ?negOffer, fun hneg hrun hdue => ?negTimeout, fun hearly => congrArg _ (negTimeout_early hearly),
    fun flit slots => ⟨deliveryOrder_perm flit slots, deliveryOrder_answers_first flit slots, deliveryOrder_keeps_rest flit slots⟩,
    fun h hport hfn hlabel hagent htag hline op low hop hlow => reqHdrOf_layout hport hfn hlabel hagent htag hline hop hlow⟩
  case inOrder =>
    have hwithin := flitTaken_within (ungate s p) p f.toNat
    obtain ⟨htaken, hwait, hdirty, hkept⟩ := flitTaken_ungated f.toNat htxq hevq
    refine ⟨fun hscan => ⟨_, rfl, ?_⟩, fun k c hscan hctl hc => ⟨flitTaken (ungate s p) p f.toNat, ?_, htaken, hwithin .regs rfl,
      hwithin .flights rfl, hwithin .home rfl⟩, fun hscan _ => ⟨_, rfl, ?_⟩⟩
    · rw [flitReceive_inOrder hruns hfdi hcrc hkind hnak hseq hnext hroom htxq hevq hscan]
      exact ⟨htaken, hwait, hdirty, hkept.trans hfdi, hwithin .regs rfl⟩
    · rw [exec_of_messageOf hc hctl]
      refine congrArg _ ((flitReceive_inOrder hruns hfdi hcrc hkind hnak hseq hnext hroom htxq hevq hscan).trans ?_)
      rw [deliveryOrder_singleton]
      rfl
    · rw [flitReceive_inOrder hruns hfdi hcrc hkind hnak hseq hnext hroom htxq hevq hscan]
      exact flitEnd_malformed_inError f.toNat hp hup hfdi htxq hevq
  case outOfOrder =>
    subst hd
    have hdo := flitReceive_outOfOrder hruns hfdi hcrc hkind hnak hpos
    refine ⟨fun hearly => ⟨_, rfl, ?_⟩, fun hseen => congrArg _ (hdo.trans (if_neg (Nat.not_lt.2 hseen)))⟩
    rw [hdo.trans (if_pos hearly)]
    exact discardFlit_ungated
  case badCrc => exact ⟨_, rfl, flitReceive_badCrc hruns hfdi hcrc⟩
  case nak =>
    subst hl
    refine ⟨fun hheld hpeer hlimit hbuf => ⟨_, rfl, nakReceive_replays hruns hfdi hheld hpeer hlimit hbuf⟩,
      fun h _ => ⟨_, rfl, nakReceive_inError hp hup hfdi (h.imp_left ?_)⟩⟩
    rintro ⟨hpeer, hbuf⟩ (heq | ⟨e, he, heq⟩)
    · exact hpeer heq
    · exact hbuf e he heq
  case nakRepeat =>
    obtain ⟨g, hout⟩ := sendNak_out s p
    refine ⟨sendNak s p, g, congrArg _ (nakRepeat_sends hruns hfdi hwait hfrozen hdue), hout, ?_, ?_, sendNak_regs s p⟩ <;>
      rw [linkOf_sendNak]
  case idleFlit =>
    obtain ⟨g, hout⟩ := sendIdle_out s p
    refine ⟨sendIdle s p, g, congrArg _ (idleFlitSend_sends hruns hfdi hstall hdirty), hout, ?_, ?_, sendIdle_regs s p⟩ <;>
      rw [linkOf_sendIdle]
  case negOffer =>
    obtain ⟨hcomes, herror⟩ := negOffer_outcome hp hup hfdi hneg revs credits
    exact ⟨fun h3 => ⟨_, rfl, hcomes 3 (.inl ⟨h3, rfl⟩)⟩, fun h3 h2 => ⟨_, rfl, hcomes 2 (.inr ⟨h3, h2, rfl⟩)⟩,
      fun h3 h2 => ⟨_, rfl, herror h3 h2⟩⟩
  case negTimeout =>
    refine ⟨_, rfl, ?_⟩
    rw [negTimeout_due hruns hneg hdue]
    exact forceLinkError_inError 8 (Nat.lt_of_lt_of_le hp (nPorts_le s)) hrun (by simp [hfdi])

end Sys2Proof.Machine
end

section
/-!
PROOFS. Writes whose action raises an event, is tested for admission, or is refused (05 R131, R132, 12 R326).
-/
namespace Sys2Proof.Machine

section
variable {c : Instr} {s : State} {a : Access} {i b : Nat} {body : Nat → Nat → State → Nat × State}

/-- An action meets the state with the credit of its request taken, which differs in link state alone. -/
theorem body_credited {m v : Nat} {src : Sender} {f : Tbl Link → Nat × State} (h : ∀ l, body m v { s with links := l } = f l) :
    body m v (takeMgtCredit s src) = f (takeMgtCredit s src).links :=
  (congrArg _ (takeMgtCredit_eq s src)).trans (h _)

/-- A permitted access whose action answers 0 is done. -/
theorem done_of_body {e : State} (hexec : exec c s = .next (accessWrite a i b body s)) (hp : Permitted s a i b)
    (hbody : ∀ l, body (masterOf s a.src) a.value { s with links := l } = (0, { e with links := l })) : Done c s a e :=
  done_of hexec hp (body_credited hbody) (answered_links _ _)

/-- A permitted access that its action refuses without effect. -/
theorem refusedWith_of_body {st : Nat} (hexec : exec c s = .next (accessWrite a i b body s)) (hp : Permitted s a i b) (hst : st ≠ 0)
    (hbody : ∀ l, body (masterOf s a.src) a.value { s with links := l } = (st, { s with links := l })) : RefusedWith c s a st :=
  refused_of hexec hp hst (body_credited hbody) (answered_links _ _)

/-- A permitted access whose action answers 0 and raises an event. -/
theorem doneRaising_of_body {g n hi lo : Nat} (hexec : exec c s = .next (accessWrite a i b body s)) (hp : Permitted s a i b)
    (hrun : s.time.run = true) (hdef : bitOf (definedMask g) n = true)
    (hbody : ∀ l, body (masterOf s a.src) a.value { s with links := l } = (0, raiseEv { s with links := l } g n hi lo)) :
    DoneRaising c s a s g n := by
  obtain ⟨hreach, hstatus⟩ := hp
  exact ⟨_, hexec.trans (congrArg _ (accessWrite_done hreach hstatus (body_credited hbody))),
    grant_reported _ _ _ _ _ _ _ _ _ (raiseEv_reported _ _ _ _ _ (answered_links s _).reported),
    (grant_answered _ _ _ _ _ _ _ _ _).sticks (Sticks.refl _) _ _ (raiseEv_sets _ g n hi lo hrun hdef),
    grant_out _ _ _ _ _ _ _ _ _⟩

/-- A permitted access whose commitment fails the admission tests: counted, reported, and refused with status 3 (05 R132). -/
theorem refusedRaising_of_commitFails (hexec : exec c s = .next (accessWrite a i b body s)) (hp : Permitted s a i b)
    (hrun : s.time.run = true)
    (hbody : ∀ l, body (masterOf s a.src) a.value { s with links := l } = (3, commitFails { s with links := l })) :
    RefusedRaising c s a (bump s R.TRE_ADMIT_REFUSALS) 3 3 2 := by
  obtain ⟨hreach, hstatus⟩ := hp
  have hreported (l : Tbl Link) : Reported (bump s R.TRE_ADMIT_REFUSALS) (commitFails { s with links := l }) :=
    raiseEv_reported _ _ _ _ _ ((answered_links s l).reported.bump _ (by decide))
  have hraised (l : Tbl Link) : statusBit (commitFails { s with links := l }) 3 2 = true := raiseEv_sets _ 3 2 0 0 hrun rfl
  have hrefused (e : State) := refuse_answered e a.src a.mtag 0x22 i b 0 3
  exact ⟨_, hexec.trans (congrArg _ (accessWrite_refused hreach hstatus (by decide) (body_credited hbody))),
    ((hreported _).bumpi R.MGT_REFUSALS 3 (by decide)).trans (hrefused _).reported,
    (hrefused _).sticks (Sticks.refl _) _ _ (hraised _), refuse_out _ _ _ _ _ _ _ _⟩

end

theorem tryCommit_refused {s s' : State} {branches trunks : List Nat} {carries : Bool} (h : admits s' branches trunks = false) :
    tryCommit s s' branches trunks carries = (3, commitFails s) := by
  unfold tryCommit
  rw [h, Bool.and_false]
  rfl

end Sys2Proof.Machine
end

section
/-!
PROOFS. Branches and trunks written through the selection (05 R112, R132, R133).
-/
namespace Sys2Proof.Machine

section
variable {s : State} {m v b n : Nat}

theorem actBranchCtrl_stays_valid (hb : selOf s m selBranch = b) (hply : s.ply16 = false) (hvalid : brValid s b = true)
    (hoff : bitOf v 31 = false) (hleaves : 0 < brLeaves s b) : actBranchCtrl m v s = (5, s) := by
  subst hb
  unfold actBranchCtrl
  simp [hply, hvalid, hoff, hleaves]

/-- A valid branch that stays valid on its trunk makes no new commitment. -/
theorem actBranchCtrl_same_trunk (hb : selOf s m selBranch = b) (hply : s.ply16 = false) (hvalid : brValid s b = true)
    (hon : bitOf v 31 = true) (htrunk : brTrunk s b = field v 0 3) : actBranchCtrl m v s = (0, putBr s b 0 v) := by
  subst hb
  unfold actBranchCtrl
  simp [hply, hvalid, hon, htrunk]

theorem actBranchMin_above_max (hb : selOf s m selBranch = b) (h : brDesc s b 3 < v) : actBranchMin m v s = (3, s) := by
  subst hb
  exact if_pos h

theorem actBranchMin_untested (hb : selOf s m selBranch = b) (hmax : v ≤ brDesc s b 3)
    (h : v ≤ brDesc s b 1 ∨ brValid s b = false) : actBranchMin m v s = (0, putBr s b 1 v) := by
  subst hb
  unfold actBranchMin
  rw [if_neg (Nat.not_lt.2 hmax), if_neg]
  rcases h with h | h
  · simp [h]
  · simp [h]

theorem actBranchMin_fails (hb : selOf s m selBranch = b) (hmax : v ≤ brDesc s b 3) (hrise : brDesc s b 1 < v)
    (hvalid : brValid s b = true) (hfails : admits (putBr s b 1 v) [b] [brTrunk s b] = false) :
    actBranchMin m v s = (3, commitFails s) := by
  subst hb
  unfold actBranchMin
  rw [if_neg (Nat.not_lt.2 hmax), if_pos (by simp [hvalid, hrise])]
  exact tryCommit_refused hfails

theorem actBranchMax_below_min (hb : selOf s m selBranch = b) (h : v < brDesc s b 1) : actBranchMax m v s = (3, s) := by
  subst hb
  exact if_pos h

theorem actBranchMax_untested (hb : selOf s m selBranch = b) (hmin : brDesc s b 1 ≤ v) (hmax : brDesc s b 3 ≤ v) :
    actBranchMax m v s = (0, putBr s b 3 v) := by
  subst hb
  exact (if_neg (Nat.not_lt.2 hmin)).trans (if_neg (Nat.not_lt.2 hmax))

theorem actTrunkMax_untested (h : rdi s R.TRE_TRUNK_MAX n ≤ v) : actTrunkMax n m v s = (0, wri s R.TRE_TRUNK_MAX n v) :=
  if_neg (Nat.not_lt.2 h)

theorem actTrunkMax_fails (h : v < rdi s R.TRE_TRUNK_MAX n) (hfails : admits (wri s R.TRE_TRUNK_MAX n v) [] [n] = false) :
    actTrunkMax n m v s = (3, commitFails s) :=
  (if_pos h).trans (tryCommit_refused hfails)

end

/-- Settles O28: each write is its action, whose branches the lemmas above name; the credit that the request took changes neither a
descriptor nor an admission test. -/
theorem branchAndTrunkWritesMeetAdmission : Obligations.BranchAndTrunkWritesMeetAdmission := by
  unfold Obligations.BranchAndTrunkWritesMeetAdmission
  intro s a b hb
  refine ⟨fun hp => ?_, fun hp hply hvalid hoff hleaves => ?_, fun hp hply hvalid hon htrunk => ?_, fun hp habove => ?_,
    fun hp hmax hrise => ?_, fun hp hmax hrise hvalid hrun hfails => ?_, fun hp hbelow => ?_, fun hp hmin hmax => ?_,
    fun n hp hrise => ?_, fun n hp hlower hrun hfails => ?_, fun n hp => ?_⟩
  · subst hb
    exact done_of_body rfl hp fun _ => rfl
  · exact refusedWith_of_body rfl hp (by decide) fun _ => actBranchCtrl_stays_valid hb hply hvalid hoff hleaves
  · exact done_of_body rfl hp fun _ => actBranchCtrl_same_trunk hb hply hvalid hon htrunk
  · exact refusedWith_of_body rfl hp (by decide) fun _ => actBranchMin_above_max hb habove
  · exact done_of_body rfl hp fun _ => actBranchMin_untested hb hmax hrise
  · exact refusedRaising_of_commitFails rfl hp hrun fun _ => actBranchMin_fails hb hmax hrise hvalid hfails
  · exact refusedWith_of_body rfl hp (by decide) fun _ => actBranchMax_below_min hb hbelow
  · exact done_of_body rfl hp fun _ => actBranchMax_untested hb hmin hmax
  · exact done_of_body rfl hp fun _ => actTrunkMax_untested hrise
  · exact refusedRaising_of_commitFails rfl hp hrun fun _ => actTrunkMax_fails hlower hfails
  · exact done_of_body rfl hp fun _ => rfl

end Sys2Proof.Machine
end

section
/-!
PROOFS. Time gates: where a gate stands, the change of its lists, and its switch (05 R120 to R123).
-/
namespace Sys2Proof.Machine

/-! Trunk `n` and what its gate reads. -/

@[simp] theorem trunkOf_setTrunk_same (s : State) (n : Nat) (x : Trunk) : trunkOf (setTrunk s n x) n = x := tget_tset_same ..

theorem trunkOf_setTrunk_ne (s : State) {n k : Nat} (x : Trunk) (h : k ≠ n) : trunkOf (setTrunk s n x) k = trunkOf s k :=
  tget_tset_ne _ _ _ h

/-- The gate of trunk `n` reads the same in `t` as in `s`: pool time, its switch, its base and its active list (R120 to R123). -/
structure SameGate (s t : State) (n : Nat) : Prop where
  pool : poolNs t = poolNs s
  enable : rdi t R.TRE_GATE_ENABLE n = rdi s R.TRE_GATE_ENABLE n
  len : rdi t R.TRE_GATE_ACTIVE_LEN n = rdi s R.TRE_GATE_ACTIVE_LEN n
  base : gateBase t n = gateBase s n
  guard : rd t R.TRE_GATE_GUARD = rd s R.TRE_GATE_GUARD
  dur : gateDur t n false = gateDur s n false
  mask : gateMask t n false = gateMask s n false

theorem gateWalk_congr {s t : State} {n : Nat} (h : gateDur t n false = gateDur s n false) (off : Nat) {e start : Nat} (fuel : Nat) :
    gateWalk t n off e start fuel = gateWalk s n off e start fuel := by
  induction fuel generalizing e start with
  | zero => simp only [gateWalk, h]
  | succ fuel ih => simp only [gateWalk, h, ih]

theorem SameGate.gatePos {s t : State} {n : Nat} (h : SameGate s t n) : gatePos t n = gatePos s n := by
  unfold Sys2Proof.Machine.gatePos gateCycle
  simp only [h.pool, h.enable, h.len, h.base, h.dur, gateWalk_congr h.dur]

theorem SameGate.gateOpen {s t : State} {n : Nat} (h : SameGate s t n) : gateOpen t n = gateOpen s n := by
  unfold Sys2Proof.Machine.gateOpen
  simp only [h.gatePos, h.len, h.guard, h.mask]

theorem gateBase_of_stated {s : State} {n : Nat} (h : rdi s R.TRE_GATE_BASE n ≠ 0) : gateBase s n = rdi s R.TRE_GATE_BASE n :=
  if_pos h

/-- A trunk that keeps the base it found for itself keeps its gate. -/
theorem sameGate_setTrunk (s : State) (n : Nat) (x : Trunk) (h : x.autoBase = (trunkOf s n).autoBase) :
    SameGate s (setTrunk s n x) n := by
  refine ⟨rfl, rfl, rfl, ?_, rfl, rfl, rfl⟩
  unfold gateBase
  rw [trunkOf_setTrunk_same, h]
  rfl

/-! A gate that follows the time base. -/

/-- Trunk `n` with base `auto` where none is stated, as `settleGate` sets it. -/
def withAutoBase (s : State) (n auto : Nat) : State := setTrunk s n { trunkOf s n with autoBase := auto }

/-- Trunk `n`, opening what pool time says. -/
def trunkOpened (s : State) (n : Nat) : Trunk := { trunkOf s n with open_ := gateOpen s n }

theorem settleGate_eq (s : State) (n : Nat) :
    ∃ auto, settleGate s n = setTrunk (withAutoBase s n auto) n (trunkOpened (withAutoBase s n auto) n) :=
  ⟨_, rfl⟩

theorem settleGate_tree (s : State) (n : Nat) : settleGate s n = { s with tree := (settleGate s n).tree } := rfl

theorem settleGate_leaves (s : State) (n : Nat) : (settleGate s n).tree.leaves = s.tree.leaves := rfl

/-- A settled gate opens what pool time says. -/
theorem settleGate_open (s : State) (n : Nat) : (trunkOf (settleGate s n) n).open_ = gateOpen (settleGate s n) n := by
  obtain ⟨auto, h⟩ := settleGate_eq s n
  rw [h, trunkOf_setTrunk_same, (sameGate_setTrunk _ n (trunkOpened _ n) rfl).gateOpen]
  rfl

theorem settleGate_entered (s : State) (n : Nat) : (trunkOf (settleGate s n) n).entered = (trunkOf s n).entered := by
  obtain ⟨auto, h⟩ := settleGate_eq s n
  rw [h, trunkOf_setTrunk_same, trunkOpened, withAutoBase, trunkOf_setTrunk_same]

theorem trunkOf_settleGate_ne (s : State) {n k : Nat} (h : k ≠ n) : trunkOf (settleGate s n) k = trunkOf s k := by
  obtain ⟨auto, heq⟩ := settleGate_eq s n
  rw [heq, trunkOf_setTrunk_ne _ _ h, withAutoBase, trunkOf_setTrunk_ne _ _ h]

/-- A gate whose base is stated stands where it stood. -/
theorem sameGate_settleGate {s : State} {n : Nat} (h : rdi s R.TRE_GATE_BASE n ≠ 0) : SameGate s (settleGate s n) n :=
  ⟨rfl, rfl, rfl, (gateBase_of_stated (s := settleGate s n) h).trans (gateBase_of_stated h).symm, rfl, rfl, rfl⟩

/-- The count of rallies is not among what a gate reads. -/
theorem sameGate_countRally (s : State) (n : Nat) : SameGate s (bumpWrap s R.TRE_GATE_RALLIES n 1 64) n := by
  have hlist (e k d : Nat) : val (bumpWrap s R.TRE_GATE_RALLIES n 1 64) (gateKey n false e k) d = val s (gateKey n false e k) d :=
    val_put_ne _ _ _ _ (by simp only [gateKey, R.TRE_GATE_RALLIES, Bool.false_eq_true, if_false]; omega)
  have hreg (r : Reg) (hs : r.stride = 256) (hk : r.key ≠ 0x340009) :
      rdi (bumpWrap s R.TRE_GATE_RALLIES n 1 64) r n = rdi s r n :=
    rdi_wri_ne _ _ (by simp only [R.TRE_GATE_RALLIES, hs]; omega)
  exact {
    pool := rfl
    enable := hreg _ rfl (by decide)
    len := hreg _ rfl (by decide)
    base := by unfold gateBase; rw [hreg _ rfl (by decide)]; rfl
    guard := rdi_wri_ne _ _ (by simp only [R.TRE_GATE_RALLIES, R.TRE_GATE_GUARD]; omega)
    dur := funext fun e => hlist e 0 100
    mask := funext fun e => hlist e 1 0 }

/-- The trunk of a settled gate takes note of the entry in force. -/
def entryTaken (s : State) (n start : Nat) : State := setTrunk (settleGate s n) n { trunkOf (settleGate s n) n with entered := start }

theorem doGateEntryStart_new {s : State} {n k e start left : Nat} (hbase : rdi s R.TRE_GATE_BASE n ≠ 0)
    (hpos : gatePos s n = some (k, e, start, left)) (hnew : (trunkOf s n).entered ≠ start) :
    doGateEntryStart n s =
      if e = 0 ∧ 0 < k then bumpWrap (entryTaken s n start) R.TRE_GATE_RALLIES n 1 64 else entryTaken s n start := by
  unfold doGateEntryStart
  simp only [(sameGate_settleGate hbase).gatePos, hpos, settleGate_entered, if_neg hnew, Bool.and_eq_true, decide_eq_true_eq]
  rfl

theorem sameGate_entryTaken (s : State) (n start : Nat) : SameGate (settleGate s n) (entryTaken s n start) n :=
  sameGate_setTrunk _ _ _ rfl

/-- The trunk shows the entry it took, and opens what pool time says. -/
theorem entryTaken_shows (s : State) (n start : Nat) : (trunkOf (entryTaken s n start) n).entered = start ∧
    (trunkOf (entryTaken s n start) n).open_ = gateOpen (entryTaken s n start) n := by
  rw [(sameGate_entryTaken s n start).gateOpen, ← settleGate_open, entryTaken, trunkOf_setTrunk_same]
  exact ⟨rfl, rfl⟩

/-- An entry that starts takes effect, and one that begins a later rally counts it. -/
theorem gateEntryStart_takes {s : State} {n k e start left : Nat} (hbase : rdi s R.TRE_GATE_BASE n ≠ 0)
    (hpos : gatePos s n = some (k, e, start, left)) (hnew : (trunkOf s n).entered ≠ start) :
    (trunkOf (doGateEntryStart n s) n).entered = start ∧
      (trunkOf (doGateEntryStart n s) n).open_ = gateOpen (doGateEntryStart n s) n ∧
      rdi (doGateEntryStart n s) R.TRE_GATE_RALLIES n =
        if e = 0 ∧ 0 < k then (rdi s R.TRE_GATE_RALLIES n + 1) % 2 ^ 64 else rdi s R.TRE_GATE_RALLIES n := by
  obtain ⟨hentered, hopen⟩ := entryTaken_shows s n start
  rw [doGateEntryStart_new hbase hpos hnew]
  split
  · exact ⟨hentered, hopen.trans (sameGate_countRally _ n).gateOpen.symm, rdi_wri_same ..⟩
  · exact ⟨hentered, hopen, rfl⟩

/-! The lists change places. -/

/-- Word `k` of entry `e` of a list of trunk `n`: 0 its duration, 1 its mask. -/
def gateWord (s : State) (n : Nat) (sh : Bool) (e k : Nat) : Nat := val s (gateKey n sh e k) (windowDflt (gateKey n sh e k))

theorem gateKey_eq (n : Nat) (sh : Bool) (e k : Nat) : gateKey n sh e k = 0x2000000 + n * 1024 + sh.toNat * 512 + e * 2 + k := by
  cases sh <;> simp only [gateKey, Bool.toNat_false, Bool.toNat_true, Bool.false_eq_true, if_false, if_true] <;> omega

theorem windowDflt_gateKey (n : Nat) (sh : Bool) (e : Nat) {k : Nat} (hk : k < 2) :
    windowDflt (gateKey n sh e k) = if k = 0 then 100 else 0 := by
  rw [gateKey_eq, windowDflt, if_neg (by omega)]
  congr 1
  exact propext (by omega)

theorem gateDur_eq_gateWord (s : State) (n : Nat) (sh : Bool) (e : Nat) : gateDur s n sh e = gateWord s n sh e 0 := by
  rw [gateWord, windowDflt_gateKey n sh e (by decide)]
  rfl

theorem gateMask_eq_gateWord (s : State) (n : Nat) (sh : Bool) (e : Nat) : gateMask s n sh e = gateWord s n sh e 1 := by
  rw [gateWord, windowDflt_gateKey n sh e (by decide)]
  rfl

/-- A word of a list is written. -/
def putGateWord (s : State) (n : Nat) (sh : Bool) (e k v : Nat) : State :=
  put s (gateKey n sh e k) (windowDflt (gateKey n sh e k)) v

theorem gateWord_putGateWord (s : State) (n : Nat) {sh th : Bool} {e f k j : Nat} (v : Nat) (he : e < 256) (hf : f < 256)
    (hk : k < 2) (hj : j < 2) :
    gateWord (putGateWord s n sh e k v) n th f j = if th = sh ∧ f = e ∧ j = k then v else gateWord s n th f j := by
  split
  case isTrue h =>
    obtain ⟨rfl, rfl, rfl⟩ := h
    exact val_put_same ..
  case isFalse h =>
    refine val_put_ne _ _ _ _ fun hkey => h ?_
    rw [gateKey_eq, gateKey_eq] at hkey
    cases sh <;> cases th <;> simp only [Bool.toNat_false, Bool.toNat_true, reduceCtorEq, false_and, true_and] at hkey ⊢ <;> omega

/-- Entry `e` of the two lists changes places. -/
def swapEntry (n : Nat) (s : State) (e : Nat) : State :=
  putGateWord (putGateWord (putGateWord (putGateWord s n false e 0 (gateDur s n true e)) n false e 1 (gateMask s n true e))
    n true e 0 (gateDur s n false e)) n true e 1 (gateMask s n false e)

theorem swapLists_eq (s : State) (n : Nat) : swapLists s n = forEach (nums 0 256) s (swapEntry n) := rfl

theorem gateWord_swapEntry (s : State) (n : Nat) {sh : Bool} {e f k : Nat} (he : e < 256) (hf : f < 256) (hk : k < 2) :
    gateWord (swapEntry n s e) n sh f k = if f = e then gateWord s n (!sh) f k else gateWord s n sh f k := by
  have hword : k = 0 ∨ k = 1 := by omega
  simp only [swapEntry, gateWord_putGateWord _ n _ he hf, hk, Nat.one_lt_two, Nat.zero_lt_two, gateDur_eq_gateWord, gateMask_eq_gateWord]
  by_cases hfe : f = e
  · subst hfe
    rcases hword with rfl | rfl <;> cases sh <;> simp
  · simp [hfe]

/-- A swap of entries `a` to `a + m - 1` swaps those alone. -/
theorem gateWord_swapEntries (s : State) (n : Nat) {sh : Bool} {a m f k : Nat} (ham : a + m ≤ 256) (hf : f < 256) (hk : k < 2) :
    gateWord (forEach (nums a m) s (swapEntry n)) n sh f k =
      if a ≤ f ∧ f < a + m then gateWord s n (!sh) f k else gateWord s n sh f k := by
  induction m generalizing a s with
  | zero => exact (if_neg (by omega)).symm
  | succ m ih =>
    calc gateWord (forEach (nums a (m + 1)) s (swapEntry n)) n sh f k
        = gateWord (forEach (nums (a + 1) m) (swapEntry n s a) (swapEntry n)) n sh f k := rfl
      _ = if a ≤ f ∧ f < a + (m + 1) then gateWord s n (!sh) f k else gateWord s n sh f k := by
        rw [ih _ (by omega), gateWord_swapEntry s n (by omega) hf hk, gateWord_swapEntry s n (by omega) hf hk]
        by_cases hfa : f = a
        · subst hfa
          rw [if_neg (by omega), if_pos rfl, if_pos (by omega)]
        · simp only [if_neg hfa]
          congr 1
          exact propext (by omega)

theorem gateWord_swapLists (s : State) (n : Nat) {sh : Bool} {f k : Nat} (hf : f < 256) (hk : k < 2) :
    gateWord (swapLists s n) n sh f k = gateWord s n (!sh) f k := by
  rw [swapLists_eq, gateWord_swapEntries s n (by omega) hf hk, if_pos (by omega)]

/-- The swap changes the lists alone. -/
theorem val_swapLists (s : State) (n : Nat) {key : Nat} (d : Nat) (h : key < 0x2000000) :
    val (swapLists s n) key d = val s key d := by
  have hne (sh : Bool) (e k : Nat) : key ≠ gateKey n sh e k := by rw [gateKey_eq]; omega
  rw [swapLists_eq]
  refine forEach_val _ _ _ _ _ fun s e _ => ?_
  simp only [swapEntry, putGateWord, val_put_ne _ _ _ _ (hne _ _ _)]

theorem swapLists_within (s : State) (n : Nat) : Within (fun p => p == .regs) s (swapLists s n) :=
  forEach_within _ _ _ (swapEntry n) fun s e p hp => by cases p <;> first | rfl | cases hp

/-! The switch (R121). -/

/-- The lists of trunk `n` have changed places, the switch time is the base, and no switch is pending. -/
def switched (s : State) (n : Nat) : State :=
  wri (wri (wri (wri (swapLists s n) R.TRE_GATE_ACTIVE_LEN n (rdi s R.TRE_GATE_SHADOW_LEN n))
    R.TRE_GATE_SHADOW_LEN n (rdi s R.TRE_GATE_ACTIVE_LEN n)) R.TRE_GATE_BASE n (rdi s R.TRE_GATE_SWITCH_TIME n))
    R.TRE_GATE_SWITCH_PENDING n 0

theorem switched_within (s : State) (n : Nat) : Within (fun p => p == .regs) s (switched s n) :=
  ((((swapLists_within s n).trans (wri_within _ _ _ _)).trans (wri_within _ _ _ _)).trans (wri_within _ _ _ _)).trans (wri_within _ _ _ _)

/-- A trunk's registers lie side by side, and a write of one leaves the others. -/
theorem rdi_wri_trunk (s : State) {r q : Reg} (n v : Nat) (hr : r.stride = 256) (hq : q.stride = 256) (h : q.key ≠ r.key) :
    rdi (wri s r n v) q n = rdi s q n :=
  rdi_wri_ne _ _ (by rw [hr, hq]; omega)

theorem rdi_swapLists (s : State) {r : Reg} {n : Nat} (hn : n < 8) (hr : r.stride = 256) (hkey : r.key < 0x1000000) :
    rdi (swapLists s n) r n = rdi s r n := by
  rw [rdi, show (swapLists s n).ply16 = s.ply16 from swapLists_within s n .ply16 rfl]
  exact val_swapLists s n _ (by rw [hr]; omega)

theorem doGateSwitchApply_due {s : State} {n : Nat} (hn : n < 8) (hpending : rdi s R.TRE_GATE_SWITCH_PENDING n = 1)
    (hdue : rdi s R.TRE_GATE_SWITCH_TIME n ≤ poolNs s) :
    doGateSwitchApply n s = settleGate (raiseEv (switched s n) 3 5 0 (ident 2 n)) n := by
  have htime : rdi (wri (wri (swapLists s n) R.TRE_GATE_ACTIVE_LEN n (rdi s R.TRE_GATE_SHADOW_LEN n))
      R.TRE_GATE_SHADOW_LEN n (rdi s R.TRE_GATE_ACTIVE_LEN n)) R.TRE_GATE_SWITCH_TIME n = rdi s R.TRE_GATE_SWITCH_TIME n := by
    rw [rdi_wri_trunk _ _ _ rfl rfl (by decide), rdi_wri_trunk _ _ _ rfl rfl (by decide), rdi_swapLists s hn rfl (by decide)]
  unfold doGateSwitchApply
  rw [if_pos (by simp [switchPending, hpending, hdue])]
  dsimp only
  rw [htime]
  rfl

theorem switched_registers (s : State) (n : Nat) :
    rdi (switched s n) R.TRE_GATE_ACTIVE_LEN n = rdi s R.TRE_GATE_SHADOW_LEN n ∧
    rdi (switched s n) R.TRE_GATE_SHADOW_LEN n = rdi s R.TRE_GATE_ACTIVE_LEN n ∧
    rdi (switched s n) R.TRE_GATE_BASE n = rdi s R.TRE_GATE_SWITCH_TIME n ∧
    rdi (switched s n) R.TRE_GATE_SWITCH_PENDING n = 0 := by
  have hstep := fun (s : State) (r q : Reg) => rdi_wri_trunk s (r := r) (q := q) n
  unfold switched
  refine ⟨?_, ?_, ?_, rdi_wri_same ..⟩
  · rw [hstep _ _ _ _ rfl rfl (by decide), hstep _ _ _ _ rfl rfl (by decide), hstep _ _ _ _ rfl rfl (by decide), rdi_wri_same]
  · rw [hstep _ _ _ _ rfl rfl (by decide), hstep _ _ _ _ rfl rfl (by decide), rdi_wri_same]
  · rw [hstep _ _ _ _ rfl rfl (by decide), rdi_wri_same]

theorem gateWord_switched (s : State) {n : Nat} (hn : n < 8) {sh : Bool} {f k : Nat} (hf : f < 256) (hk : k < 2) :
    gateWord (switched s n) n sh f k = gateWord s n (!sh) f k := by
  have hwri (s : State) (r : Reg) (v d : Nat) (hr : r.stride = 256) (hkey : r.key < 0x1000000) :
      val (wri s r n v) (gateKey n sh f k) d = val s (gateKey n sh f k) d :=
    val_put_ne _ _ _ _ (by rw [gateKey_eq, hr]; omega)
  rw [← gateWord_swapLists s n hf hk]
  unfold switched gateWord
  rw [hwri _ _ _ _ rfl (by decide), hwri _ _ _ _ rfl (by decide), hwri _ _ _ _ rfl (by decide), hwri _ _ _ _ rfl (by decide)]

section
variable (s : State) (n g i hi lo : Nat)

/-! A settled gate and a raised event leave every register but reporting's counts. -/

theorem val_settleGate_raiseEv {key : Nat} (d : Nat) (h : key ∉ reportKeys) :
    val (settleGate (raiseEv s g i hi lo) n) key d = val s key d :=
  (raiseEv_reported _ _ _ _ _ (Reported.refl s)).2 key d h

theorem rdi_settleGate_raiseEv (r : Reg) (j : Nat) (h : r.key + j * r.stride ∉ reportKeys) :
    rdi (settleGate (raiseEv s g i hi lo) n) r j = rdi s r j :=
  (raiseEv_reported _ _ _ _ _ (Reported.refl s)).rdi r j h

theorem statusBit_settleGate (h : Nat) : statusBit (settleGate s n) g h = statusBit s g h := rfl

end

/-- At its time a switch swaps the lists, and reports it. -/
theorem gateSwitchApply_due {s : State} {n : Nat} (hn : n < 8) (hpending : rdi s R.TRE_GATE_SWITCH_PENDING n = 1)
    (hdue : rdi s R.TRE_GATE_SWITCH_TIME n ≤ poolNs s) (hrun : s.time.run = true) :
    (∀ sh f k, f < 256 → k < 2 → gateWord (doGateSwitchApply n s) n sh f k = gateWord s n (!sh) f k) ∧
      (∀ r ∈ [R.TRE_GATE_ACTIVE_LEN, R.TRE_GATE_SHADOW_LEN, R.TRE_GATE_BASE, R.TRE_GATE_SWITCH_PENDING],
        rdi (doGateSwitchApply n s) r n = rdi (switched s n) r n) ∧
      statusBit (doGateSwitchApply n s) 3 5 = true := by
  rw [doGateSwitchApply_due hn hpending hdue]
  refine ⟨fun sh f k hf hk => ?_, fun r hr => ?_, ?_⟩
  · refine (val_settleGate_raiseEv _ _ _ _ _ _ _ ?_).trans (gateWord_switched s hn hf hk)
    rw [gateKey_eq]
    simp only [reportKeys, R.OBS_TRACE_DROPPED, R.MGT_SB_DISCARDS, List.mem_cons, List.not_mem_nil, or_false]
    omega
  · have hkey : ∀ n < 8, ∀ r ∈ [R.TRE_GATE_ACTIVE_LEN, R.TRE_GATE_SHADOW_LEN, R.TRE_GATE_BASE, R.TRE_GATE_SWITCH_PENDING],
      r.key + n * r.stride ∉ reportKeys := by decide
    exact rdi_settleGate_raiseEv _ _ _ _ _ _ _ _ (hkey n hn r hr)
  · have htime : (switched s n).time = s.time := switched_within s n .time rfl
    exact (statusBit_settleGate ..).trans (raiseEv_sets _ _ _ _ _ ((congrArg TimeBase.run htime).trans hrun) rfl)

theorem doGateSwitchApply_early {s : State} {n : Nat} (h : poolNs s < rdi s R.TRE_GATE_SWITCH_TIME n) : doGateSwitchApply n s = s :=
  if_neg (by simp [Nat.not_le.2 h])

section
variable {s : State} {n m v : Nat}

theorem switchPending_eq_true_iff : switchPending s n = true ↔ rdi s R.TRE_GATE_SWITCH_PENDING n = 1 := decide_eq_true_iff

theorem actGateSwitch_pending (h : rdi s R.TRE_GATE_SWITCH_PENDING n = 1) : actGateSwitch n m v s = (5, s) :=
  if_pos (switchPending_eq_true_iff.2 h)

theorem actGateSwitch_sound (h : rdi s R.TRE_GATE_SWITCH_PENDING n ≠ 1) (hok : shadowOk s n = true) :
    actGateSwitch n m v s = (0, wri s R.TRE_GATE_SWITCH_PENDING n 1) :=
  (if_neg (mt switchPending_eq_true_iff.1 h)).trans (if_pos hok)

theorem actGateSwitch_unsound (h : rdi s R.TRE_GATE_SWITCH_PENDING n ≠ 1) (hok : shadowOk s n = false) :
    actGateSwitch n m v s = (0, raiseEv s 3 6 0 (ident 2 n)) :=
  (if_neg (mt switchPending_eq_true_iff.1 h)).trans (if_neg (by simp [hok]))

theorem actGateCancel_pending (h : rdi s R.TRE_GATE_SWITCH_PENDING n = 1) :
    actGateCancel n m v s = (0, wri s R.TRE_GATE_SWITCH_PENDING n 0) :=
  if_pos (switchPending_eq_true_iff.2 h)

theorem actGateCancel_none (h : rdi s R.TRE_GATE_SWITCH_PENDING n ≠ 1) : actGateCancel n m v s = (3, s) :=
  if_neg (mt switchPending_eq_true_iff.1 h)

end

/-- Settles O26: the swap is `gateWord_swapLists`, a settled gate opens what pool time says (`settleGate_open`), and the count of
rallies moves no gate (`sameGate_countRally`). -/
theorem gatesSwitchAtTheirTime : Obligations.GatesSwitchAtTheirTime := by
  unfold Obligations.GatesSwitchAtTheirTime
  refine ⟨fun s a n hp => ⟨fun hpending => ?_, fun hfree hok => ?_, fun hfree hok hrun => ?_⟩, fun s n hn hpending hdue hrun => ?_,
    fun s n hearly => congrArg Host.Outcome.next (doGateSwitchApply_early hearly),
    fun s a n hp => ⟨fun hpending => ?_, fun hfree => ?_⟩, fun s n => ?_, fun s n k e start left _ hbase hpos hnew => ?_⟩
  · exact refusedWith_of_body rfl hp (by decide) fun _ => actGateSwitch_pending hpending
  · exact done_of_body rfl hp fun _ => actGateSwitch_sound hfree hok
  · exact doneRaising_of_body rfl hp hrun rfl fun _ => actGateSwitch_unsound hfree hok
  · obtain ⟨hlists, hregs, hstatus⟩ := gateSwitchApply_due hn hpending hdue hrun
    obtain ⟨hactive, hshadow, hbase, hdone⟩ := switched_registers s n
    refine ⟨_, rfl, fun e he => ?_, (hregs _ (by simp)).trans hactive, (hregs _ (by simp)).trans hshadow,
      (hregs _ (by simp)).trans hbase, (hregs _ (by simp)).trans hdone, hstatus⟩
    simp only [gateDur_eq_gateWord, gateMask_eq_gateWord]
    exact ⟨hlists _ _ _ he (by decide), hlists _ _ _ he (by decide), hlists _ _ _ he (by decide), hlists _ _ _ he (by decide)⟩
  · exact done_of_body rfl hp fun _ => actGateCancel_pending hpending
  · exact refusedWith_of_body rfl hp (by decide) fun _ => actGateCancel_none hfree
  · exact ⟨_, rfl, settleGate_tree s n, settleGate_open s n, settleGate_leaves s n, fun k hk => trunkOf_settleGate_ne s hk⟩
  · exact ⟨_, rfl, gateEntryStart_takes hbase hpos hnew⟩

end Sys2Proof.Machine
end

section
/-!
PROOFS. Sound requests: their way to a leaf, and the refusals on it (04 R92, 05 R103, R107, R109, 11 R300).
-/
namespace Sys2Proof.Machine

/-! The map's decode reads the active regions alone (04 R91 to R94). -/

theorem filterMap_tset {α β : Type} (g : Nat × α → Option β) (t : Tbl α) {k : Nat} (v : α) (h : ∀ v, g (k, v) = none) :
    (tset t k v).filterMap g = t.filterMap g := by
  induction t with
  | nil => simp [tset, h]
  | cons p t ih =>
    obtain ⟨j, w⟩ := p
    unfold tset
    split
    · subst_vars
      simp [h]
    · split
      · simp [h]
      · simp [List.filterMap_cons, ih]

theorem filterMap_tdel {α β : Type} (g : Nat × α → Option β) (t : Tbl α) {k : Nat} (h : ∀ v, g (k, v) = none) :
    (tdel t k).filterMap g = t.filterMap g := by
  induction t with
  | nil => rfl
  | cons p t ih =>
    obtain ⟨j, w⟩ := p
    unfold tdel
    split
    · subst_vars
      simp [h, ih]
    · simp [List.filterMap_cons, ih]

theorem filterMap_tput {α β : Type} [DecidableEq α] (g : Nat × α → Option β) (t : Tbl α) {k : Nat} (v d : α)
    (h : ∀ v, g (k, v) = none) : (tput t k v d).filterMap g = t.filterMap g := by
  unfold tput
  split
  · exact filterMap_tdel g t h
  · exact filterMap_tset g t v h

section
variable (s : State) {r : Reg} (i v : Nat) (hstride : r.stride = 256) (hkey : 4 ≤ r.key % 256)
include hstride hkey

/-! Registers whose subindex is not a region's leave the table as it is. -/

theorem validRegions_wri : validRegions (wri s r i v) false = validRegions s false := by
  refine filterMap_tput _ _ _ _ fun w => if_neg ?_
  simp only [Bool.false_eq_true, if_false, R.MAP_ACT_CTRL, hstride]
  omega

theorem regionAt_wri (n : Nat) : regionAt (wri s r i v) false n = regionAt s false n := by
  have hreg (q : Reg) (hq : q.stride = 256) (hlow : q.key % 256 < 4) : rdi (wri s r i v) q n = rdi s q n :=
    rdi_wri_ne _ _ (by rw [hq, hstride]; omega)
  simp only [regionAt, Bool.false_eq_true, if_false]
  rw [hreg R.MAP_ACT_CTRL rfl (by decide), hreg R.MAP_ACT_POOL_BASE rfl (by decide), hreg R.MAP_ACT_ROW_BASE rfl (by decide),
    hreg R.MAP_ACT_ROWS rfl (by decide)]

theorem mapDecode_wri (a f : Nat) : mapDecode (wri s r i v) a f = mapDecode s a f := by
  have hfind : findRegion (wri s r i v) a = findRegion s a := by
    unfold findRegion
    simp only [validRegions_wri s i v hstride hkey, regionAt_wri s i v hstride hkey]
    rfl
  unfold mapDecode
  rw [hfind]
  simp only [regionAt_wri s i v hstride hkey]
  rfl

end

theorem mapDecode_congr {s t : State} (hregs : t.regs = s.regs) (hply : t.ply16 = s.ply16) (a f : Nat) :
    mapDecode t a f = mapDecode s a f := by
  have heq : t = { t with regs := s.regs, ply16 := s.ply16 } := by rw [← hregs, ← hply]
  rw [heq]
  rfl

/-! A sound request on its way to the tree (03 R72). -/

theorem linkRefusal_of_sound {s : State} {f : Flight} (h : Sound s f) : linkRefusal s f = none := by
  obtain ⟨hsupported, hbound, hjoined, hrunning⟩ := h
  unfold linkRefusal
  simp [hsupported, hbound, hjoined, hrunning]

theorem takeReqCredit_within (s : State) (f : Flight) : Within (onlyParts [.links]) s (takeReqCredit s f) :=
  have := can_of (w := onlyParts [.links]) .links rfl
  (takeReqCredit_kept _ _ (Kept.start (s := s))).2

theorem freeCredits_within (s : State) (f : Flight) : Within (onlyParts [.links]) s (freeCredits s f) :=
  have := can_of (w := onlyParts [.links]) .links rfl
  (freeCredits_kept _ _ (Kept.start (s := s))).2

/-- Of the sleep state, an arrival touches the gating of its port alone. -/
theorem arriving_sleep (s : State) (f : Flight) :
    (arriving s f).sleep = { s.sleep with gated := putBit s.sleep.gated f.h.port false } := by
  have hsleep : (takeReqCredit s f).sleep = s.sleep := takeReqCredit_within s f .sleep rfl
  calc (arriving s f).sleep
      = (ungate (takeReqCredit s f) f.h.port).sleep := obsEvent_within _ _ _ _ .sleep rfl
    _ = { s.sleep with gated := putBit s.sleep.gated f.h.port false } := by rw [ungate, modSleep, hsleep]

/-- A request that passes the checks of 03 R71 while the replay queue has room. -/
theorem arrive_sound {s : State} {f : Flight} (hp : f.h.port < nPorts s) (hup : portState s f.h.port = portUp)
    (hroom : (replaying s && replayFull s) = false) (hsound : Sound s f) :
    arrive s f = accepted (admitted s f) s.uid f.h.port := by
  have h := arriving_within s f
  have hchecks : linkRefusal (admitted s f) (arrived s f) = none :=
    (linkRefusal_congr (s := s) _ (h .regs rfl) (h .ply16 rfl) (h .agents rfl) (h .funs rfl)).trans (linkRefusal_of_sound hsound)
  calc arrive s f
      = match linkRefusal (admitted s f) (arrived s f) with
        | some code =>
          decide' (freeCredits (obsEvent (bumpi (admitted s f) R.LNK_LINK_REFUSALS f.h.port) f.h.port 22 1) (arrived s f))
            (arriving s f).uid (errRsp code 0) 0
        | none => accepted (admitted s f) (arriving s f).uid f.h.port := by
        unfold arrive
        rw [if_neg (by omega), if_neg (by rw [hup]; decide), if_neg (by simp [hup, hroom])]
        rfl
    _ = accepted (admitted s f) s.uid f.h.port := by rw [hchecks, arriving_uid]

/-- A request at the tree, before its label is looked up. -/
def atTree (s : State) (f : Flight) : State := obsEvent (ungate (admitted s f) unitTree) unitTree 16 1

theorem atTree_within (s : State) (f : Flight) : Within (onlyParts [.links, .flights, .sleep, .obs, .uid]) s (atTree s f) :=
  have hadmitted : Within (onlyParts [.links, .flights, .sleep, .obs, .uid]) (arriving s f) (ungate (admitted s f) unitTree) :=
    fun p hp => by cases p <;> first | rfl | cases hp
  (((arriving_within s f).mono fun p => by cases p <;> decide).trans hadmitted).trans
    ((obsEvent_within _ _ _ _).mono fun p => by cases p <;> decide)

theorem atTree_uid (s : State) (f : Flight) : (atTree s f).uid = s.uid + 1 :=
  (obsEvent_within _ _ _ _ .uid rfl).trans (congrArg (· + 1) (arriving_uid s f))

theorem flightOf_atTree (s : State) (f : Flight) : flightOf (atTree s f) s.uid = some (arrived s f) :=
  (congrArg (tget? · s.uid) (obsEvent_within _ _ _ _ .flights rfl)).trans (flightOf_admitted s f)

theorem leafOf_atTree (s : State) (f : Flight) (n : Nat) : leafOf (atTree s f) n = leafOf s n :=
  congrArg (fun t : Tree => tget? t.leaves n) (atTree_within s f .tree rfl)

/-- With no entry in progress and before E4, a sound request reaches the tree. -/
theorem arrive_at_tree {s : State} {f : Flight} (hp : f.h.port < nPorts s) (hup : portState s f.h.port = portUp) (hsound : Sound s f)
    (hawake : s.sleep.pastE4 = false) (hentry : s.sleep.entry = none) :
    arrive s f = treeArrive (ungate (admitted s f) unitTree) s.uid := by
  have hsleep : (admitted s f).sleep = { s.sleep with gated := putBit s.sleep.gated f.h.port false } := arriving_sleep s f
  rw [arrive_sound hp hup (by rw [replaying, hawake]; rfl) hsound, accepted]
  simp only [replaying, hsleep, hawake, hentry, Bool.false_eq_true, if_false]

theorem treeArrive_labelled {s : State} {uid n : Nat} {f : Flight} (hf : flightOf s uid = some f)
    (hlabel : tget? (obsEvent s unitTree 16 1).tree.labels (pairNo f.h.fn f.h.label) = some n) :
    treeArrive s uid = meetPolicer (obsEvent s unitTree 16 1) uid n f := by
  unfold treeArrive
  simp only [hf, hlabel]

theorem treeArrive_unruled {s : State} {uid : Nat} {f : Flight} (hf : flightOf s uid = some f)
    (hlabel : tget? (obsEvent s unitTree 16 1).tree.labels (pairNo f.h.fn f.h.label) = none)
    (hrule : findRule (obsEvent s unitTree 16 1) f.h.fn f.h.label = none) :
    treeArrive s uid = refuseAdmission (obsEvent s unitTree 16 1) uid f := by
  unfold treeArrive
  simp only [hf, hlabel, hrule]

theorem findRule_congr {s t : State} (h : t.regs = s.regs) (fn label : Nat) : findRule t fn label = findRule s fn label := by
  unfold findRule
  simp only [val_congr h]

theorem labels_atTree (s : State) (f : Flight) : (atTree s f).tree.labels = s.tree.labels :=
  congrArg Tree.labels (atTree_within s f .tree rfl)

section
variable {s : State} {f : Flight} (hp : f.h.port < nPorts s) (hup : portState s f.h.port = portUp) (hsound : Sound s f)
  (hawake : s.sleep.pastE4 = false) (hentry : s.sleep.entry = none)
include hp hup hsound hawake hentry

theorem arrive_labelled {n : Nat} (hlabel : tget? s.tree.labels (pairNo f.h.fn f.h.label) = some n) :
    arrive s f = meetPolicer (atTree s f) s.uid n (arrived s f) :=
  (arrive_at_tree hp hup hsound hawake hentry).trans
    (treeArrive_labelled (flightOf_admitted s f) ((congrArg (tget? · _) (labels_atTree s f)).trans hlabel))

theorem arrive_unruled (hlabel : tget? s.tree.labels (pairNo f.h.fn f.h.label) = none)
    (hrule : findRule s f.h.fn f.h.label = none) : arrive s f = refuseAdmission (atTree s f) s.uid (arrived s f) :=
  (arrive_at_tree hp hup hsound hawake hentry).trans
    (treeArrive_unruled (flightOf_admitted s f) ((congrArg (tget? · _) (labels_atTree s f)).trans hlabel)
      ((findRule_congr (atTree_within s f .regs rfl) _ _).trans hrule))

end

/-! A leaf, its policer and its queue (05 R103, R107, R109). -/

@[simp] theorem leafOf_setLeaf_same (s : State) (n : Nat) (l : Leaf) : leafOf (setLeaf s n l) n = some l := tget?_tset_same ..

theorem leafOf_congr {s t : State} (h : t.tree = s.tree) (n : Nat) : leafOf t n = leafOf s n := by rw [leafOf, h, leafOf]

/-- A request of another port than its leaf's trunk is counted (R101). -/
def countCrossed (s : State) (l : Leaf) (f : Flight) : State :=
  if f.h.port ≠ brTrunk s l.d.branch then bumpi s R.TRE_TRUNK_CROSSED (brTrunk s l.d.branch) else s

theorem countCrossed_within (s : State) (l : Leaf) (f : Flight) : Within (onlyParts [.regs]) s (countCrossed s l f) := by
  unfold countCrossed
  split
  · intro p hp
    cases p <;> first | rfl | cases hp
  · exact Within.refl _ s

theorem mapDecode_countCrossed (s : State) (l : Leaf) (f : Flight) (a fn : Nat) :
    mapDecode (countCrossed s l f) a fn = mapDecode s a fn := by
  unfold countCrossed
  split
  · exact mapDecode_wri s _ _ rfl (by decide) a fn
  · rfl

/-- Leaf `l` with request `uid` last in its queue. -/
def queued (s : State) (uid : Nat) (l : Leaf) : Leaf :=
  { l with queue := l.queue ++ [uid], depthMax := max l.depthMax (l.queue ++ [uid]).length, busyAt := s.now }

theorem groupTouch_within (s : State) (pc port : Nat) : Within (onlyParts [.regs, .pchs, .sleep]) s (groupTouch s pc port) :=
  have := can_of (w := onlyParts [.regs, .pchs, .sleep]) .regs rfl
  have := can_of (w := onlyParts [.regs, .pchs, .sleep]) .pchs rfl
  have := can_of (w := onlyParts [.regs, .pchs, .sleep]) .sleep rfl
  (groupTouch_kept _ _ _ (Kept.start (s := s))).2

/-- A request whose place is `place` touches that place's group, where it needs room there (11 R302). -/
def touching (s : State) (f : Flight) (place : Option Loc) : State :=
  match place with
  | some p => if f.op.room = 0 then s else groupTouch s p.pc f.h.port
  | none => s

theorem touching_within (s : State) (f : Flight) (place : Option Loc) :
    Within (onlyParts [.regs, .pchs, .sleep]) s (touching s f place) := by
  unfold touching
  split
  · split
    · exact Within.refl _ s
    · exact groupTouch_within _ _ _
  · exact Within.refl _ s

/-- The record of a request that joined leaf `n` at `now`. -/
def asQueued (n now : Nat) (place : Option Loc) (f : Flight) : Flight :=
  { f with stage := .queued, leaf := n, joined := now, misrouted := place.isNone, roomPc := (place.map (·.pc)).getD 0 }

/-- A leaf's queue, with the request last, in front of the place that the request names. -/
def inQueue (s : State) (uid n : Nat) (l : Leaf) (f : Flight) : State :=
  touching (setLeaf s n (queued s uid l)) f (mapDecode s (f.h.line * 64) f.h.fn)

theorem joinLeaf_eq {s : State} {uid n : Nat} {l : Leaf} (f : Flight) (hl : leafOf s n = some l) :
    joinLeaf s uid n f = modFlight (inQueue s uid n l f) uid
      (asQueued n (inQueue s uid n l f).now (mapDecode s (f.h.line * 64) f.h.fn)) := by
  have hdecode : mapDecode (setLeaf s n (queued s uid l)) (f.h.line * 64) f.h.fn = mapDecode s (f.h.line * 64) f.h.fn :=
    mapDecode_congr rfl rfl _ _
  unfold joinLeaf inQueue
  simp only [hl]
  rw [← hdecode]
  rfl

theorem inQueue_within (s : State) (uid n : Nat) (l : Leaf) (f : Flight) :
    Within (onlyParts [.regs, .tree, .pchs, .sleep]) s (inQueue s uid n l f) :=
  have hleaf : Within (onlyParts [.regs, .tree, .pchs, .sleep]) s (setLeaf s n (queued s uid l)) :=
    fun p hp => by cases p <;> first | rfl | cases hp
  hleaf.trans ((touching_within _ _ _).mono fun p => by cases p <;> decide)

/-- A request joins its leaf last in its queue, marked where its address decodes to no place of its function. -/
theorem joinLeaf_joins {s : State} {uid n : Nat} {l : Leaf} {f g : Flight} (hl : leafOf s n = some l) (hg : flightOf s uid = some g) :
    Within (onlyParts [.regs, .flights, .tree, .pchs, .sleep]) s (joinLeaf s uid n f) ∧
      leafOf (joinLeaf s uid n f) n = some (queued s uid l) ∧
      ∃ now, flightOf (joinLeaf s uid n f) uid = some (asQueued n now (mapDecode s (f.h.line * 64) f.h.fn) g) := by
  have hin := inQueue_within s uid n l f
  have htree : (inQueue s uid n l f).tree = (setLeaf s n (queued s uid l)).tree := touching_within _ _ _ .tree rfl
  have hflight : flightOf (inQueue s uid n l f) uid = some g := (congrArg (tget? · uid) (hin .flights rfl)).trans hg
  have hmod := fun h => modFlight_within (inQueue s uid n l f) uid h
  rw [joinLeaf_eq f hl]
  exact ⟨(hin.mono fun p => by cases p <;> decide).trans ((hmod _).mono fun p => by cases p <;> decide),
    (leafOf_congr (hmod _ .tree rfl) n).trans ((leafOf_congr htree n).trans (leafOf_setLeaf_same ..)),
    _, flightOf_modFlight_same _ hflight⟩

/-- A leaf without a policer takes the request into its queue. -/
theorem meetPolicer_joins {s : State} {uid n : Nat} {l : Leaf} {f : Flight} (hl : leafOf s n = some l) (hopen : l.d.closed = false)
    (hpir : l.d.pir = 0) : meetPolicer s uid n f = joinLeaf (countCrossed s l f) uid n f := by
  unfold meetPolicer countCrossed
  simp only [hl, hopen, hpir]
  rfl

/-- The leaf counts a refusal of its policer, its function counts it too, and the request's credits are given back (R109). -/
def limited (s : State) (uid n : Nat) (l : Leaf) (f : Flight) : State :=
  freeCredits (modFlight (obsEvent
    (bumpi (setLeaf (countCrossed s l f) n { l with refusals := min (l.refusals + 1) satMax }) R.TRE_FUN_RATE_REFUSALS f.h.fn)
    unitTree 17 1) uid fun g => { g with leaf := n }) f

/-- A leaf whose policer holds less than one unit refuses the request with the time to wait. -/
theorem meetPolicer_limits {s : State} {uid n : Nat} {l : Leaf} {f : Flight} (hl : leafOf s n = some l) (hopen : l.d.closed = false)
    (hpir : l.d.pir ≠ 0) (hp : l.p < tokenUnit) :
    meetPolicer s uid n f = decide' (limited s uid n l f) uid (errRsp 1 (retryHint l)) 0 := by
  unfold meetPolicer limited countCrossed
  simp only [hl, hopen, hpir, hp, ne_eq, not_false_eq_true, decide_true, Bool.and_self, if_true, Bool.false_eq_true, if_false]

theorem limited_leaf (s : State) (uid n : Nat) (l : Leaf) (f : Flight) :
    leafOf (limited s uid n l f) n = some { l with refusals := min (l.refusals + 1) satMax } := by
  have htree : (limited s uid n l f).tree =
      (setLeaf (countCrossed s l f) n { l with refusals := min (l.refusals + 1) satMax }).tree :=
    (freeCredits_within _ _ .tree rfl).trans ((modFlight_within _ _ _ .tree rfl).trans (obsEvent_within _ _ _ _ .tree rfl))
  exact (leafOf_congr htree n).trans (leafOf_setLeaf_same ..)

theorem limited_flight {s : State} {uid n : Nat} {l : Leaf} {f g : Flight} (hg : flightOf s uid = some g) :
    flightOf (limited s uid n l f) uid = some { g with leaf := n } := by
  have hcounted : flightOf (countCrossed s l f) uid = some g := (congrArg (tget? · uid) (countCrossed_within s l f .flights rfl)).trans hg
  refine (congrArg (tget? · uid) (freeCredits_within _ _ .flights rfl)).trans (flightOf_modFlight_same _ ?_)
  exact (congrArg (tget? · uid) (obsEvent_within _ _ _ _ .flights rfl)).trans hcounted

/-- A request refused for want of a leaf: counted, and its credits given back (R103). -/
def unadmitted (s : State) (f : Flight) : State :=
  freeCredits (obsEvent (bumpi s R.TRE_FUN_ADMIT_REFUSALS f.h.fn) unitTree 18 1) f

theorem unadmitted_within (s : State) (f : Flight) : Within (onlyParts [.regs, .links, .obs]) s (unadmitted s f) :=
  have hcount : Within (onlyParts [.regs, .links, .obs]) s (bumpi s R.TRE_FUN_ADMIT_REFUSALS f.h.fn) :=
    fun p hp => by cases p <;> first | rfl | cases hp
  (hcount.trans ((obsEvent_within _ _ _ _).mono fun p => by cases p <;> decide)).trans
    ((freeCredits_within _ _).mono fun p => by cases p <;> decide)

/-! The replay queue (11 R300). -/

theorem accepted_replays {s : State} (hpast : s.sleep.pastE4 = true) (uid port : Nat) : accepted s uid port = joinReplay s uid port := by
  unfold accepted
  cases hentry : s.sleep.entry with
  | none => simp only [replaying, hpast, if_true]
  | some e => simp only [replaying, abortEntry, hentry, hpast, if_true, ite_self]

theorem latchWake_within (s : State) (who : Nat) : Within (onlyParts [.pins, .sleep]) s (latchWake s who) :=
  have := can_of (w := onlyParts [.pins, .sleep]) .pins rfl
  have := can_of (w := onlyParts [.pins, .sleep]) .sleep rfl
  (latchWake_kept _ _ (Kept.start (s := s))).2

theorem latchWake_queue (s : State) (who : Nat) : (latchWake s who).sleep.queue = s.sleep.queue := by
  unfold latchWake wakePin
  repeat' split
  all_goals rfl

/-- The queue holds the request, and its greatest length is kept. -/
def inReplay (s : State) (uid : Nat) : State :=
  let s := modSleep s fun z => { z with queue := z.queue ++ [uid] }
  wr s R.SLP_REPLAY_MAX (max (rd s R.SLP_REPLAY_MAX) s.sleep.queue.length)

theorem joinReplay_eq {s : State} (h : s.sleep.queue.length < 255) (uid port : Nat) :
    joinReplay s uid port =
      latchWake (modFlight (inReplay s uid) uid fun f => { f with stage := .replay, replayed := true }) (ident 2 port) := by
  have hlength : ¬(s.sleep.queue ++ [uid]).length = 256 := by simp; omega
  have hqueue : (modSleep s fun z => { z with queue := z.queue ++ [uid] }).sleep.queue = s.sleep.queue ++ [uid] := rfl
  unfold joinReplay inReplay
  simp only [hqueue, if_neg hlength]

/-- A request joins a queue with room: it is last there, and its record says so. -/
theorem joinReplay_joins {s : State} {uid : Nat} {g : Flight} (h : s.sleep.queue.length < 255)
    (hg : flightOf s uid = some g) (port : Nat) :
    Within (onlyParts [.regs, .pins, .flights, .sleep]) s (joinReplay s uid port) ∧
      (joinReplay s uid port).sleep.queue = s.sleep.queue ++ [uid] ∧
      flightOf (joinReplay s uid port) uid = some { g with stage := .replay, replayed := true } ∧
      rd s R.SLP_REPLAY_MAX ≤ rd (joinReplay s uid port) R.SLP_REPLAY_MAX := by
  have hwake := fun u => latchWake_within u (ident 2 port)
  have hmod := fun k => modFlight_within (inReplay s uid) uid k
  have hmax : rd s R.SLP_REPLAY_MAX ≤ rd (inReplay s uid) R.SLP_REPLAY_MAX := by
    rw [inReplay, rd_wr_same]
    exact Nat.le_max_left ..
  have hqueue : Within (onlyParts [.regs, .pins, .flights, .sleep]) s (inReplay s uid) :=
    fun p hp => by cases p <;> first | rfl | cases hp
  rw [joinReplay_eq h]
  refine ⟨?_, ?_, ?_, ?_⟩
  · exact (hqueue.trans ((hmod _).mono fun p => by cases p <;> decide)).trans ((hwake _).mono fun p => by cases p <;> decide)
  · exact (latchWake_queue ..).trans (congrArg Sleep.queue (hmod _ .sleep rfl))
  · exact (congrArg (tget? · uid) (hwake _ .flights rfl)).trans (flightOf_modFlight_same _ hg)
  · rw [rd_congr (hwake _ .regs rfl) (hwake _ .ply16 rfl), rd_congr (hmod _ .regs rfl) (hmod _ .ply16 rfl)]
    exact hmax

/-- Settles O16: `arrive_labelled`, `arrive_unruled` and `accepted_replays` say where a sound request goes, and the lemmas on the
leaf's queue, its policer and the replay queue what becomes of it there. -/
theorem requestsReachTheirLeaf : Obligations.RequestsReachTheirLeaf := by
  unfold Obligations.RequestsReachTheirLeaf
  intro c f s hc hp hup hsound
  obtain ⟨hexec, hledger, hdrop⟩ := exec_of_requestOf hc s
  have hflight := flightOf_atTree s f
  refine ⟨fun n l hawake hentry hlabel hl hopen hpir => ?_, fun n l hawake hentry hlabel hl hopen hpir hlow => ?_,
    fun hawake hentry hlabel hrule => ?_, fun hpast hroom => ?_⟩
  · have harrive := (arrive_labelled hp hup hsound hawake hentry hlabel).trans
      (meetPolicer_joins ((leafOf_atTree s f n).trans hl) hopen hpir)
    have hcounted := countCrossed_within (atTree s f) l (arrived s f)
    obtain ⟨hkept, hqueue, now, hrecord⟩ := joinLeaf_joins (uid := s.uid) (n := n) (f := arrived s f)
      ((leafOf_congr (hcounted .tree rfl) n).trans ((leafOf_atTree s f n).trans hl))
      ((congrArg (tget? · s.uid) (hcounted .flights rfl)).trans hflight)
    have hdecode : mapDecode (countCrossed (atTree s f) l (arrived s f)) (f.h.line * 64) f.h.fn = mapDecode s (f.h.line * 64) f.h.fn :=
      (mapDecode_countCrossed ..).trans (mapDecode_congr (atTree_within s f .regs rfl) (atTree_within s f .ply16 rfl) _ _)
    refine ⟨_, hexec.trans (congrArg _ harrive), ?_, ?_, ?_, ?_, ?_, ?_⟩
    · exact (hkept .uid rfl).trans ((hcounted .uid rfl).trans (atTree_uid s f))
    · rw [hqueue]; rfl
    · rw [hrecord]; rfl
    · rw [hrecord, ← hdecode]; rfl
    · exact (hkept .home rfl).trans ((hcounted .home rfl).trans (atTree_within s f .home rfl))
    · exact (hkept .array rfl).trans ((hcounted .array rfl).trans (atTree_within s f .array rfl))
  · have harrive := (arrive_labelled hp hup hsound hawake hentry hlabel).trans
      (meetPolicer_limits ((leafOf_atTree s f n).trans hl) hopen hpir hlow)
    obtain ⟨hrest, hrsp⟩ := decide'_ready (errRsp 1 (retryHint l)) 0
      (limited_flight (n := n) (l := l) (f := arrived s f) hflight) hledger hdrop
    have hleaf := (leafOf_congr (hrest .tree rfl) n).trans (limited_leaf ..)
    exact ⟨_, hexec.trans (congrArg _ harrive), hrsp, by rw [hleaf]; rfl, by rw [hleaf]; rfl⟩
  · have harrive := arrive_unruled hp hup hsound hawake hentry hlabel hrule
    have hkept := unadmitted_within (atTree s f) (arrived s f)
    obtain ⟨hrest, hrsp⟩ := decide'_ready (errRsp 2 0) 0
      ((congrArg (tget? · s.uid) (hkept .flights rfl)).trans hflight) hledger hdrop
    exact ⟨_, hexec.trans (congrArg _ harrive),
      (hrest .tree rfl).trans ((hkept .tree rfl).trans (atTree_within s f .tree rfl)), hrsp⟩
  · have hsleep : (admitted s f).sleep = { s.sleep with gated := putBit s.sleep.gated f.h.port false } := arriving_sleep s f
    have hqueue : (admitted s f).sleep.queue = s.sleep.queue := by rw [hsleep]
    have hadmitted := arriving_within s f
    have harrive := (arrive_sound hp hup (by simp [replaying, replayFull]; omega) hsound).trans
      (accepted_replays ((congrArg Sleep.pastE4 hsleep).trans hpast) _ _)
    obtain ⟨hkept, hlast, hrecord, hmax⟩ := joinReplay_joins (hqueue ▸ hroom) (flightOf_admitted s f) f.h.port
    refine ⟨_, hexec.trans (congrArg _ harrive), hlast.trans (by rw [hqueue]), (hkept .tree rfl).trans (hadmitted .tree rfl), ?_, ?_⟩
    · rw [hrecord]; rfl
    · rwa [rd_congr (t := admitted s f) (hadmitted .regs rfl) (hadmitted .ply16 rfl)] at hmax

end Sys2Proof.Machine
end

section
/-!
PROOFS. TRE_LEAF_CREATE where every leaf is held (05 R101, R107).
-/
namespace Sys2Proof.Machine

/-- With no free leaf, nothing is allocated. -/
theorem allocate_full {s : State} {d : LeafDesc} {fn : Nat} (fallback : Bool) (hfn : d.fn = fn) (hquota : quotaFull s fn = false)
    (hfull : leafCount ≤ freeLeaf s) : allocate s d fallback = (none, s) :=
  (if_neg (by simp [hfn, hquota])).trans (if_pos hfull)

section
variable {s : State}

/-- A pair without a leaf gets none while every leaf is held. -/
theorem actLeafCreate_full {m v : Nat} (hlabel : tget? s.tree.labels (pairNo (field v 14 4) (field v 0 14)) = none)
    (hvalid : brValid s (field v 26 12) = true) (hquota : quotaFull s (field v 14 4) = false) (hfull : leafCount ≤ freeLeaf s) :
    actLeafCreate m v s = (3, s) := by
  unfold actLeafCreate
  simp only [hlabel, hvalid, Bool.not_true, Bool.false_eq_true, if_false]
  rw [allocate_full _ (by rfl) hquota hfull]

theorem treLeafCreate_full {a : Access} (hp : Permitted s a 0x3900 0)
    (hlabel : tget? s.tree.labels (pairNo (field a.value 14 4) (field a.value 0 14)) = none)
    (hvalid : brValid s (field a.value 26 12) = true) (hquota : quotaFull s (field a.value 14 4) = false)
    (hfull : leafCount ≤ freeLeaf s) : RefusedWith (.treLeafCreate a) s a 3 :=
  refusedWith_of_body rfl hp (by decide) fun _ => actLeafCreate_full hlabel hvalid hquota hfull

end

/-- A table that lists the numbers from `a` on, `n` of them, has its first gap after them. -/
theorem firstGap_nums {α : Type} (x : α) (a n : Nat) : firstGap ((nums a n).map fun i => (i, x)) a = a + n := by
  induction n generalizing a with
  | zero => rfl
  | succ n ih =>
    calc firstGap ((nums a (n + 1)).map fun i => (i, x)) a
        = firstGap ((nums (a + 1) n).map fun i => (i, x)) (a + 1) := if_pos rfl
      _ = a + (n + 1) := by rw [ih]; omega

/-- A leaf of function 1. -/
def leafOfOne : Leaf :=
  freshLeaf { cir := 0, cbs := 1, eir := 1, ebs := 1, pir := 0, pbs := 1, tier := 0, olMax := 1, olMin := 1, olInit := 1
              branch := 0, fn := 1, label := 0, pinned := true, closed := false }

/-- A block in service whose 262,144 leaves are all function 1's, and whose branch 0 is valid; no label names a leaf. The statement
admits such a tree; were each leaf named by a pair of its own, as many pairs as leaves, a pair without a leaf would leave one free. -/
def leavesHeld : State :=
  { State.reset with
    time := { State.reset.time with run := true }
    start := { State.reset.start with phase := .service }
    regs := [(branchKey 0 0, 2 ^ 31)]
    tree := { ({} : Tree) with leaves := (nums 0 leafCount).map fun i => (i, leafOfOne) } }

/-- Umpire 0 asks for a leaf for label 0 of function 0, under branch 0, from profile 0. -/
def creation : Access := ⟨.umpire 0x30, 1, 0⟩

theorem leavesHeld_permits : Permitted leavesHeld creation 0x3900 0 := by
  unfold Permitted
  decide +kernel

theorem leavesHeld_no_free_leaf : freeLeaf leavesHeld = leafCount := (firstGap_nums leafOfOne 0 leafCount).trans (Nat.zero_add _)

/-- Function 0 holds none of the leaves, so its quota is not full. -/
theorem leavesHeld_quota : quotaFull leavesHeld 0 = false := by
  have hnone : funLeaves leavesHeld 0 = 0 := by
    refine List.length_eq_zero_iff.2 (List.filter_eq_nil_iff.2 fun p hp => ?_)
    obtain ⟨i, -, rfl⟩ := List.mem_map.1 hp
    exact Bool.false_ne_true
  rw [quotaFull, hnone]
  decide +kernel

/-- Refutes O27: the clause that a pair without a leaf gets the lowest free one fails where its function's quota has room and all
262,144 leaves are held: the command is refused with status 3. -/
theorem not_leafWritesMeetAdmission : ¬ Obligations.LeafWritesMeetAdmission := by
  unfold Obligations.LeafWritesMeetAdmission
  rintro ⟨-, -, hcreate⟩
  have hlabel : tget? leavesHeld.tree.labels (pairNo (field creation.value 14 4) (field creation.value 0 14)) = none := rfl
  have hvalid : brValid leavesHeld (field creation.value 26 12) = true := by decide +kernel
  have hprofile : profileField leavesHeld (field creation.value 18 8) 0 = 0 := by decide +kernel
  obtain ⟨t, ht, hrefused, -⟩ :=
    treLeafCreate_full leavesHeld_permits hlabel hvalid leavesHeld_quota (Nat.le_of_eq leavesHeld_no_free_leaf.symm)
  obtain ⟨u, hu, -, hnamed, -⟩ := (hcreate leavesHeld creation leavesHeld_permits hlabel).2 hvalid leavesHeld_quota hprofile
  obtain rfl := Host.Outcome.next.inj (ht.symm.trans hu)
  have htree : t.tree = leavesHeld.tree := hrefused .tree rfl
  rw [htree, hlabel] at hnamed
  cases hnamed

end Sys2Proof.Machine
end
